-- ==== Sys2Proof/Word.lean ====
section
/-! DEFINITION. The word types of the engine: a byte, a 16-bit, a 32-bit and a 64-bit word. Little-endian
order (R9) and every bit-field helper live in `Sys2Proof/Machine/Bits.lean`. -/

namespace Sys2Proof

/-- One byte of memory, of a frame or of a ring entry. -/
abbrev Byte := BitVec 8

/-- A 16-bit identifier or epoch. -/
abbrev Half := BitVec 16

/-- A 32-bit register, scalar register or scratchpad word. -/
abbrev Word := BitVec 32

/-- A 64-bit instruction, parameter or wide register. -/
abbrev DWord := BitVec 64

end Sys2Proof
end

