-- ==== Sys2Proof/Syntax.lean ====
section
/-! DEFINITION. The commands of the block: one constructor of `Instr` per row of spec/opcode_table.json, with the
row's operands. Rows NOP to ASUB are instructions a tile's sequencer issues (R64): they carry the tile and the 54
class-field bits of R73. The other rows are ring commands, frames, timer expiries, pin events and register accesses. -/

namespace Sys2Proof

/-- A tile (x, y) by its index 1,024y + x (R6, R437). -/
abbrev TileId := Fin 786432

/-- The class-field bits [53:0] of an instruction (R73). -/
abbrev Fields := BitVec 54

/-- The three units of a tile that take commands from a queue (R65). -/
inductive UnitSel where
  | tensor
  | vector
  | function
  deriving DecidableEq, Repr

/-- A physical core: region, row of the region, physical column 0 to 129 (R21). Used only below the interfaces
software sees: in the votes of the neighbour self-test and in the fret map (R370, R460). -/
structure Core where
  region : Fin 48
  row : Fin 128
  pcol : Fin 130
  deriving DecidableEq, Repr

/-- A neighbour that casts a vote: the core to the north, east, south or west (R460). -/
inductive Dir where
  | north
  | east
  | south
  | west
  deriving DecidableEq, Repr

/-- What the neighbour self-test found of the cores that are not perfect (R460, R461). `fails` lists the FAIL votes as
(core voted on, neighbour voting); `silent` the cores whose control port does not answer, which every tester votes
FAIL; `builtin` the cores whose own built-in check fails. -/
structure Votes where
  fails : List (Core × Dir)
  silent : List Core
  builtin : List Core
  deriving DecidableEq, Repr

/-- A string module as the engine reads it on insertion (R312, R313): serial number, its own counters in hours and
insertions, certificate chain bytes, its signature over the challenge, and what pages 01h, 02h and 11h hold: advertised
capabilities, alarm thresholds, lane status. -/
structure ModuleId where
  serial : Nat
  hours : Nat
  insertions : Nat
  overTemp : Nat
  chain : List Byte
  signature : List Byte
  capabilities : List Byte := []
  thresholds : List Byte := []
  laneStatus : List Byte := []
  deriving DecidableEq, Repr

/-- What bring-up meets (R455 to R464): votes of the first test and of the retest, regulators that do not answer at
order 5, regions whose rail does not reach 0.48 V, stacks that fail training (bit n: stack n), failed PUF reads,
the factory fret map and trim records with their signatures, ports whose first training attempt fails (bit p: port p), the
string modules present, and the field records, of cores and of lost regions, that fail their CRC-32C (R370, R463). `tornFw`: the flash write of the last FW_UPDATE failed, or a power loss
met it (R458, R466). -/
structure BringUp where
  first : Votes
  retest : Votes
  silentRegulators : List (Fin 48)
  railFails : List (Fin 48)
  stackFail : BitVec 12
  pufFailedReads : Nat
  factory : List (List Byte × List Byte) := []
  portFail : DWord
  modules : List (Fin 16 × ModuleId)
  tornCores : List Core := []
  tornRegions : List (Fin 48) := []
  tornFw : Bool := false
  deriving DecidableEq, Repr

/-- What the chiplets counted in a window of 1 s (log 43): as (context, channel, bytes), what each context moved through
each channel, where pairs not listed moved nothing (R240; where a chunk lies is not architectural, R219); errors that stacks
corrected (R236); and by port, symbols that FEC corrected and codewords that it could not (R300). -/
structure WindowCounts where
  bytes : List (Fin 8 × Fin 384 × Nat)
  corrected : Nat := 0
  fec : List (Fin 64 × Nat × Nat) := []
  deriving DecidableEq, Repr

/-- What a recovery reset meets (R436 to R439): the targeted test's votes, tiles with a parity event during the sample,
and the ports whose retraining fails. -/
structure ResetSeen where
  votes : Votes
  sampleParity : List TileId
  portFail : DWord
  deriving DecidableEq, Repr

/-- The common part of a ring entry (R327): FLAGS, COOKIE, COUNTER and TAG (32 bytes). -/
structure EntryHead where
  flags : Byte
  cookie : Word
  counter : DWord
  tag : List Byte
  deriving DecidableEq, Repr

/-- A ring entry as it stands in host memory (R327): 128 bytes. `host` gives the host memory its parameters point at
(the key blob of KEY_CHANGE, the membership command of FENCE and READMIT). -/
structure RawEntry where
  bytes : List Byte
  host : List Byte
  deriving DecidableEq, Repr

/-- The parameters of CREATE (R333). -/
structure CreateParams where
  ctx : Byte
  fx0 : Byte
  fy0 : Byte
  fx1 : Byte
  fy1 : Byte
  hquota : Byte
  tentries : Byte
  stacked : Word
  remote : Word
  transit : BitVec 48
  deriving DecidableEq, Repr

/-- A Henulo frame (R303). LENGTH is the payload's length. -/
structure Frame where
  type : Byte
  flags : Byte
  epoch : Half
  source : Half
  dest : Half
  context : Byte
  generation : Byte
  stream : BitVec 24
  cls : Byte
  seq : Word
  offset : DWord
  payload : List Byte
  deriving DecidableEq, Repr

/-- The kinds of IEEE 1588-2019 message the engine carries (R316). -/
inductive PtpKind where
  | sync
  | followUp
  | delayReq
  | delayResp
  | announce
  deriving DecidableEq, Repr

/-- A PTP message: its kind, sequence identifier and the origin or receive timestamp it carries, in nanoseconds. -/
structure PtpMsg where
  kind : PtpKind
  seqId : Half
  stamp : Nat
  deriving DecidableEq, Repr

/-- The two ends a transfer completes at: a local string of a tile, or a member of an edge stream (R145). -/
inductive XferEnd where
  | str (t : TileId) (n : Fin 32)
  | mem (side : Fin 4) (stream : Fin 16384) (m : Nat)
  deriving DecidableEq, Repr

/-- The transports of SPDM (R471). -/
inductive Transport where
  | doe
  | sideband
  deriving DecidableEq, Repr

/-- The two paths to the registers (R321, R487). -/
inductive RegPath where
  | bar0
  | sideband
  deriving DecidableEq, Repr

/-- The rails the host chiplet monitors (R502). -/
inductive AuxRail where
  | vedge
  | vser
  | vmem
  | vpp
  deriving DecidableEq, Repr

/-- The CXL protocols IDE protects (R477). -/
inductive IdeProtocol where
  | io
  | cacheMem
  deriving DecidableEq, Repr

/-- A CXL IDE key-management message (R476): keys programmed or refreshed, in skid mode or in containment mode, or the stream
stopped. -/
inductive IdeMsg where
  | keys (keys : List Byte) (skid : Bool)
  | stop
  deriving DecidableEq, Repr

/-- The commands of the block, in the order of spec/opcode_table.json. -/
inductive Instr where
  | nop (t : TileId) (f : Fields)
  | br (t : TileId) (f : Fields)
  | bz (t : TileId) (f : Fields)
  | bnz (t : TileId) (f : Fields)
  | yield (t : TileId) (f : Fields)
  | sig (t : TileId) (f : Fields)
  | wait (t : TileId) (f : Fields)
  | halt (t : TileId) (f : Fields)
  | li (t : TileId) (f : Fields)
  | add (t : TileId) (f : Fields)
  | sub (t : TileId) (f : Fields)
  | mul (t : TileId) (f : Fields)
  | and (t : TileId) (f : Fields)
  | or (t : TileId) (f : Fields)
  | xor (t : TileId) (f : Fields)
  | shl (t : TileId) (f : Fields)
  | shr (t : TileId) (f : Fields)
  | cmp (t : TileId) (f : Fields)
  | ld (t : TileId) (f : Fields)
  | st (t : TileId) (f : Fields)
  | recv (t : TileId) (f : Fields)
  | send (t : TileId) (f : Fields)
  | arm (t : TileId) (f : Fields)
  | fin (t : TileId) (f : Fields)
  | sendChain (t : TileId) (f : Fields)
  | finChain (t : TileId) (f : Fields)
  | mma (t : TileId) (f : Fields)
  | vadd (t : TileId) (f : Fields)
  | vsub (t : TileId) (f : Fields)
  | vmul (t : TileId) (f : Fields)
  | vfma (t : TileId) (f : Fields)
  | vmin (t : TileId) (f : Fields)
  | vmax (t : TileId) (f : Fields)
  | vabs (t : TileId) (f : Fields)
  | vneg (t : TileId) (f : Fields)
  | vcmp (t : TileId) (f : Fields)
  | vsel (t : TileId) (f : Fields)
  | vscl (t : TileId) (f : Fields)
  | vand (t : TileId) (f : Fields)
  | vor (t : TileId) (f : Fields)
  | vxor (t : TileId) (f : Fields)
  | vshl (t : TileId) (f : Fields)
  | vshr (t : TileId) (f : Fields)
  | vcvt (t : TileId) (f : Fields)
  | vred (t : TileId) (f : Fields)
  | fn (t : TileId) (f : Fields)
  | fnd (t : TileId) (f : Fields)
  | fnb (t : TileId) (f : Fields)
  | xsub (t : TileId) (f : Fields)
  | asub (t : TileId) (f : Fields)
  /-- The command at the head of unit `u`'s queue of tile `t` finishes executing (R65). -/
  | unitCommandComplete (t : TileId) (u : UnitSel)
  | rerunRestart (c : Fin 8)
  /-- The first packet waiting at input port `port`, lane `lane`, of tile `t`'s router arrives (R132). -/
  | packetHeaderArrive (t : TileId) (port : Fin 7) (lane : Fin 2)
  | transferComplete (e : XferEnd)
  | memberTransferStart (side : Fin 4) (stream : Fin 16384) (m : Nat)
  | chainStageIssue (t : TileId) (chain : Fin 4) (stage : Fin 6)
  | routerBatchDecide (r : Fin 48) (tab : Fin 16)
  | routerResultsWritten (r : Fin 48) (tab : Fin 16)
  | selectionQueryDecide (r : Fin 48) (tab : Fin 16) (q : Fin 4096)
  | remoteFetchDeadline (c : Fin 8) (page : Nat)
  | imbalanceWindow (seen : WindowCounts)
  | rekeyPageMove (c : Fin 8) (page : Nat)
  | wideGranuleCleared (c : Fin 8) (wbuf : Fin 8) (granule : Nat)
  | shardSourceTimeout (c : Fin 8) (tensor shard : Nat)
  | shardRetry (c : Fin 8) (tensor shard : Nat)
  | pushDiscard (c : Fin 8) (tensor shard : Nat)
  | shardDigestCheck (c : Fin 8) (version : Word) (tensor shard : Nat)
  | reductionHop (c : Fin 8) (level : Fin 2) (entry block : Nat)
  | bypass (c : Fin 8) (level : Fin 2) (entry : Nat) (prepass : Bool)
  | portTrained (p : Fin 64) (partner : Half)
  | portRetrainTimer (p : Fin 64)
  | linkAck (p : Fin 64) (seq : Word)
  | linkNak (p : Fin 64) (seq : Word)
  /-- Cumulative link credit for classes 0 to 6, in units of 256 bytes (R305). -/
  | linkCredit (p : Fin 64) (credits : List Word)
  | linkQuiet (p : Fin 64)
  | linkWake (p : Fin 64)
  | linkResume (p : Fin 64) (seq : Word)
  | ackTimer (p : Fin 64)
  | data (p : Fin 64) (f : Frame)
  | credit (p : Fin 64) (f : Frame)
  | settled (p : Fin 64) (f : Frame)
  | shardReq (p : Fin 64) (f : Frame)
  | shardData (p : Fin 64) (f : Frame)
  | shardAbsent (p : Fin 64) (f : Frame)
  | shardPush (p : Fin 64) (f : Frame)
  | manifestData (p : Fin 64) (f : Frame)
  | pageData (p : Fin 64) (f : Frame)
  | pageErr (p : Fin 64) (f : Frame)
  | wbAck (p : Fin 64) (f : Frame)
  | wbNak (p : Fin 64) (f : Frame)
  | redBlock (p : Fin 64) (f : Frame)
  | redPrepass (p : Fin 64) (f : Frame)
  | bypassNotice (p : Fin 64) (f : Frame)
  | ckptPage (p : Fin 64) (f : Frame)
  | ckptPageAck (p : Fin 64) (f : Frame)
  | ckptRecord (p : Fin 64) (f : Frame)
  | ckptManifest (p : Fin 64) (f : Frame)
  | ckptManifestAck (p : Fin 64) (f : Frame)
  | ckptSealAck (p : Fin 64) (f : Frame)
  | ckptFetch (p : Fin 64) (f : Frame)
  | ckptFetchData (p : Fin 64) (f : Frame)
  | ckptAbsent (p : Fin 64) (f : Frame)
  | ckptDurable (p : Fin 64) (f : Frame)
  /-- `m` is the PTP message in the frame's payload and `stamp` the engine time at which its first header byte crossed
  the lane (R316). -/
  | time (p : Fin 64) (f : Frame) (m : PtpMsg) (stamp : Nat)
  | mgmt (p : Fin 64) (f : Frame)
  | mgmtAssemblyTimeout (source : Half)
  | reject (p : Fin 64) (f : Frame)
  | serialCeilingWritten
  | moduleInsert (slot : Fin 16) (m : ModuleId)
  | moduleRemove (slot : Fin 16)
  /-- The module's case temperature in degrees Celsius over the minute (R314). -/
  | lifeCounterMinute (slot : Fin 16) (temp : Int)
  | lifeCounterFlash
  | syncSend
  | timeModuleWrite
  | timeSourceSilent
  | ppsInEdge
  | ppsSecond
  | cxlLinkUp
  | cxlPerstAssert
  | cxlPerstRelease
  /-- The host writes TAIL; `entries` are the ring entries that stand from HEAD to TAIL - 1 (R326); `none` for an entry
  or, with `poisoned`, a tail line whose read returns poisoned data (CMD_CAUSE.RING_ERR). -/
  | tailLineWrite (ring : Fin 9) (tail : Word) (entries : List (Option RawEntry)) (poisoned : Bool)
  | ringEnable (ring : Fin 9)
  | ringDisable (ring : Fin 9)
  | counterCeilingWritten (ring : Fin 9)
  | hdmRead (line : Fin 1073741824)
  | hdmWrite (line : Fin 1073741824) (bytes : List Byte)
  | loadScroll (ring : Fin 9) (h : EntryHead) (slot : Byte) (length : DWord)
  | loadScrollCommit (c : Fin 8)
  | loadScrollComplete (c : Fin 8)
  | startReduction (ring : Fin 9) (h : EntryHead) (step : DWord)
  | stepStart (ring : Fin 9) (h : EntryHead) (steps : Word) (pos seed : DWord)
  | hold (ring : Fin 9) (h : EntryHead)
  | holdEnd (ring : Fin 9) (h : EntryHead)
  | resume (ring : Fin 9) (h : EntryHead)
  | switchVersion (ring : Fin 9) (h : EntryHead) (version : Word) (digest : List Byte)
  | capo (ring : Fin 9) (h : EntryHead) (time : DWord)
  | restoreMemory (ring : Fin 9) (h : EntryHead) (digest : List Byte)
  | restoreBuddy (ring : Fin 9) (h : EntryHead) (digest : List Byte)
  | restoreDurable (ring : Fin 9) (h : EntryHead) (slot : Byte) (digest : List Byte)
  | teardown (ring : Fin 9) (h : EntryHead)
  | teardownCtx (ring : Fin 9) (h : EntryHead) (ctx : Byte)
  | teardownDrainTimeout (c : Fin 8)
  /-- Edge 0 to 3 is the edge ring of that side, 4 the host chiplet (R341). -/
  | edgeDrainAck (c : Fin 8) (edge : Fin 5)
  | quarantineEnd (c : Fin 8)
  | teardownZeroDone (c : Fin 8)
  | readStatus (ring : Fin 9) (h : EntryHead) (addr : DWord)
  | keyChange (ring : Fin 9) (h : EntryHead) (addr : DWord) (length : Word) (blob : List Byte)
  | create (ring : Fin 9) (h : EntryHead) (p : CreateParams)
  | fence (ring : Fin 9) (h : EntryHead) (addr : DWord) (length : Word) (command : List Byte)
  | readmit (ring : Fin 9) (h : EntryHead) (addr : DWord) (length : Word) (command : List Byte)
  | fwUpdate (ring : Fin 9) (h : EntryHead) (slot : Byte) (length : DWord)
  | timeRole (ring : Fin 9) (h : EntryHead) (grandmaster : Bool)
  | recoveryReset (ring : Fin 9) (h : EntryHead)
  | powerLimit (ring : Fin 9) (h : EntryHead) (watts : Word)
  | mapWindow (ring : Fin 9) (h : EntryHead) (slot kind ctx : Byte) (base : DWord)
  | powerStateActive (ring : Fin 9) (h : EntryHead)
  | powerStateRest (ring : Fin 9) (h : EntryHead)
  | powerStatePark (ring : Fin 9) (h : EntryHead)
  | tileStepFinish (t : TileId)
  | contextStepBegin (c : Fin 8)
  | cutTimeReached (c : Fin 8)
  | drainStep (c : Fin 8)
  | drainStall (c : Fin 8)
  | healthScore
  | regulatorPoll (r : Fin 48)
  /-- Rail voltage in mV, current in A and regulator temperature (R378). -/
  | regulatorTelemetry (r : Fin 48) (mv amps : Nat) (temp : Int)
  | regulatorSilent (r : Fin 48)
  /-- Power in W of the rails that are not region rails, over the last millisecond (R377, R383), and per region its four
  rate monitors in M/s (R382; 0 for regions not listed). -/
  | budgetLoop (otherWatts : Nat) (rates : List (Fin 48 × Vector Nat 4))
  /-- Readings of the unit's sensors in degrees Celsius: four for a region (units 0 to 47), two for a stack (48 to 59). -/
  | sensorSample (unit : Fin 60) (readings : List Int)
  | sensorDisagree (unit : Fin 60) (spot : Fin 2)
  | sensorSuspect (unit : Fin 60) (spot : Fin 2)
  /-- The rail of the region at its sense point, in mV (R394). -/
  | railCheck (r : Fin 48) (mv : Nat)
  | railRaiseTimeout (r : Fin 48)
  | wearSample (unit : Fin 60)
  | wearFlashWrite
  /-- Inlet and outlet temperature in degrees Celsius, flow in units of 0.1 L/min (R510). -/
  | coolantSample (inlet outlet : Int) (flow : Nat)
  | thermtrip
  | supplyFault (rail : AuxRail)
  | pllLockLost (d : Fin 40)
  | pllLockRegained (d : Fin 40)
  /-- `stuck` lists the units that completed no handshake of a command during the window (R431, R434). -/
  | hangWindow (stuck : List (TileId × UnitSel))
  /-- The physical core that left a control-tree read unanswered (R28, R434). -/
  | controlTreeTimeout (k : Core)
  | recoveryResetStart (seen : ResetSeen)
  | recoveryResetEnd
  | watchdogExpiry
  | probationTimer
  | coldResetAssert
  | coldResetRelease (b : BringUp)
  | bringupWatchdog
  | fwWaitImage (image : List Byte)
  | engIdentWrite (v : Word)
  | irqMaskWrite (path : RegPath) (v : Word)
  | msixUnmask
  | causeClear (off : Nat) (v : Word)
  | regReadLatch (path : RegPath) (off : Nat)
  | regWriteLowHalf (off : Nat) (v : Word)
  | regWriteHighHalf (off : Nat) (v : Word)
  | grdCtrlWrite (c : Fin 8) (v : Word)
  | rplCtrlWrite (v : Word)
  | registerWrite (path : RegPath) (off : Nat) (v : Word)
  | getVersion (via : Transport)
  | getCapabilities (via : Transport)
  | negotiateAlgorithms (via : Transport) (sha3 mldsa : Bool)
  | getDigests (via : Transport)
  | getCertificate (via : Transport) (slot : Byte) (offset length : Nat)
  | challenge (via : Transport) (slot : Byte) (nonce : List Byte)
  | getMeasurements (via : Transport) (index : Byte) (nonce : List Byte)
  | chunkSend (via : Transport) (last : Bool) (seqNo : Nat) (chunk : List Byte)
  | chunkGet (via : Transport) (seqNo : Nat)
  | keyExchange (via : Transport) (ciphertext : List Byte)
  | finish (via : Transport) (session : Nat) (mac : List Byte)
  | endSession (via : Transport) (session : Nat)
  | heartbeat (via : Transport) (session : Nat)
  | keyUpdate (via : Transport) (session : Nat)
  | getOwner (via : Transport)
  | setOwner (via : Transport) (record : List Byte)
  | setCmdKey (via : Transport) (ring : Byte) (blob : List Byte)
  /-- A key-management message in a session: keys for the protocol, and whether IDE is then active on it (R476). -/
  | ideKeyMgmt (session : Nat) (protocol : IdeProtocol) (msg : IdeMsg)
  | ideIntegrityFail (protocol : IdeProtocol)
  | ideLoss (protocol : IdeProtocol)
  | powerLoss
  | sendSourceRead (t : TileId) (n : Fin 32)
  | peerServiceEnd (c : Fin 8) (version : Word)
  | keySerialWritten (ring : Fin 9)
  | ownerRecordWritten
  | restoreBuddySilent (c : Fin 8)
  /-- The bytes received on the port (R303, R304). -/
  | badFrame (p : Fin 64) (bytes : List Byte)
  deriving DecidableEq, Repr

end Sys2Proof
end

