-- ==== Sys2Proof/Decode.lean ====
section
/-! DEFINITION. Decoding. The opcode table gives no row any bits, so a word of the table spells no command; the word of a
tile's instruction spells the command that issues it (R73, R74, R513). -/

namespace Sys2Proof

/-- The command that a word of the opcode table spells: none, since no row of the table has bits. -/
def decodeTableWord (_nbits _w : Nat) : Option Instr := none

/-- The instructions of a class, from opcode 0 up (R513); `chain` is the CHAIN bit of a string instruction (R137), with
which `send` and `fin` are the rows SEND_CHAIN and FIN_CHAIN. -/
def classRows (cls : Nat) (chain : Bool) : List (TileId → Fields → Instr) :=
  match cls with
  | 0 => [.nop, .br, .bz, .bnz, .yield, .sig, .wait, .halt]
  | 1 => [.li, .add, .sub, .mul, .and, .or, .xor, .shl, .shr, .cmp]
  | 2 => [.ld, .st]
  | 3 => [.recv, if chain then .sendChain else .send, .arm, if chain then .finChain else .fin]
  | 4 => [.mma]
  | 5 => [.vadd, .vsub, .vmul, .vfma, .vmin, .vmax, .vabs, .vneg, .vcmp, .vsel, .vscl, .vand, .vor, .vxor, .vshl, .vshr,
          .vcvt, .vred]
  | 6 => [.fn, .fnd, .fnb]
  | 7 => [.xsub, .asub]
  | _ => []

/-- The command that issues the instruction word `w` on tile `t`: class in bits [63:60], opcode in [59:54], class fields
in [53:0] (R73). None where R513 assigns no instruction (R74). -/
def decodeTileWord (t : TileId) (w : DWord) : Option Instr :=
  let row := (classRows (w.extractLsb' 60 4).toNat (w.getLsbD 48))[(w.extractLsb' 54 6).toNat]?
  row.map fun i => i t (w.extractLsb' 0 54)

end Sys2Proof
end

