-- ==== Sys2Proof/Config.lean ====
section
/-! DEFINITION. What an implementation fixes and what the spec leaves open. A constant here has no body: no proof can
know its value. -/

namespace Sys2Proof.Config

/-- A free value of the model, by its number (log 4). -/
opaque freeWord : Nat → Word

/-- A free byte string, by its number (log 4). -/
opaque freeBytes : Nat → List Byte

/-- ENG_ID.STEPPING, "Fixed" (R488). -/
opaque stepping : Byte

/-- ML-DSA-87 verification: public key, message, context string, signature (R457, R475, R479; log 7). -/
opaque mlDsaVerify : List Byte → List Byte → String → List Byte → Bool

/-- The seed that the SRAM PUF gives (R459, R468; log 7). -/
opaque pufSeed : List Byte

/-- An ML-DSA-87 signature under the key pair of a seed, of a message, with the signer's random bytes (R468, R471; log 7). -/
opaque mlDsaSign : List Byte → List Byte → List Byte → List Byte

/-- ML-KEM-1024 decapsulation under the encapsulation key of a seed: ciphertext to shared secret (R468, R472, R479; log 7). -/
opaque mlKemDecap : List Byte → List Byte → List Byte

/-- SHA3-512 of the identity public key, 64 bytes, from the PUF (R459, R484; log 7). -/
opaque identityHash : List Byte

/-- The signing key of the firmware, whose hash the mask ROM holds (R457; log 7). -/
opaque firmwareKey : List Byte

/-- The Flethar key of the factory fret map and trim records, named in firmware (R459, R482; log 7). -/
opaque factoryKey : List Byte

/-- The Flethar ownership key whose SHA3-512 the firmware holds (R475; log 7). -/
opaque ownershipKey : List Byte

/-- The public key of an image's own header that R457 checks against the mask ROM, and the parts of an image (log 7). -/
opaque firmwareSigner : List Byte → List Byte

/-- Version, security version, and signature of a firmware image's header, whose layout R457 does not give (log 8). -/
opaque firmwareVersion : List Byte → Word
opaque firmwareSvn : List Byte → Byte
opaque firmwareSignature : List Byte → List Byte
opaque firmwareBody : List Byte → List Byte
opaque firmwareDigest : List Byte → List Byte

/-- A string module's certificate chain verifies to the Flethar root (R313), and its public key (log 7). -/
opaque chainVerifies : List Byte → Bool
opaque chainKey : List Byte → List Byte

/-- The X.509 chain of SPDM slot 0 for a given measurement 2 (R469; log 7). -/
opaque certChain : List Byte → List Byte

/-- SHA3-512 of the mask ROM, and of the signed factory fret map and trim records (R470; log 7). -/
opaque bootRomHash : List Byte
opaque factoryHash : List Byte

/-- The base-to-top offset of each stack in the factory trim (R389). -/
opaque topOffset : Nat → Int

/-- The keyed hash of R218: a key's candidate for a page, and its rotation for a page's row. Not architectural (R219). -/
opaque placeHash : List Byte → Nat → Nat
opaque rowHash : List Byte → Nat → Nat → Nat

/-- FAB_SLOTn_LIFE.REMAIN_10D of a module with no minute counted in the last 24 h, by serial number (R314; log 22). -/
opaque remainUnstated : Nat → Nat

/-- The thermal model of R392: unit, reading, coolant register, energy and duration of each phase that is released or ready,
horizon. -/
opaque forecast : Nat → Int → Word → List (Nat × Nat) → Nat → Int

/-- The SHA3-512 of an SPDM transcript, from those of its bytes that the rows show (R471, R472; log 40). -/
opaque transcript : List Byte → List Byte

/-- The engine's PCI-SIG vendor identifier, and the Flethar registry's entry for ML-DSA-87 (R471; log 40). -/
opaque vendorId : Nat
opaque signatureEntry : Nat × Nat

/-- Bytes of the largest SPDM message a transport carries, DOE or sideband (R471; log 40). -/
opaque transportSize : Bool → Nat

/-- The clock identity of IEEE 1588-2019 messages, 8 bytes, which the spec does not give (log 38). -/
opaque clockIdentity : List Byte

end Sys2Proof.Config
end

