-- ==== Sys2Proof/Machine/Bits.lean ====
section
/-! DEFINITION. Bit fields, little-endian byte strings (R9), keyed tables and byte memories in canonical form.
A table or memory lists its keys strictly rising; a memory lists no byte equal to what an unlisted address reads as. -/

namespace Sys2Proof.Machine

/-- Bits [lo + w - 1 : lo] of `v`. -/
def fld (v lo w : Nat) : Nat := (v >>> lo) % 2 ^ w

/-- Bit `i` of `v`. -/
def bitAt (v i : Nat) : Bool := (v >>> i) % 2 == 1

/-- `v` with bits [lo + w - 1 : lo] replaced by `x`. -/
def putFld (v lo w x : Nat) : Nat :=
  v % 2 ^ lo + (x % 2 ^ w) * 2 ^ lo + (v >>> (lo + w)) * 2 ^ (lo + w)

/-- 1 for true. -/
def bit (b : Bool) : Nat := if b then 1 else 0

/-- A counter that holds at its largest value (the "holds at" of the register tables). -/
def satAdd (v n width : Nat) : Nat := min (v + n) (2 ^ width - 1)

/-- The two's-complement value of the low `w` bits of `v`. -/
def signed (w v : Nat) : Int :=
  let u := v % 2 ^ w
  if u < 2 ^ (w - 1) then (u : Int) else (u : Int) - (2 ^ w : Nat)

/-- The `w`-bit two's-complement pattern of an integer. -/
def unsigned (w : Nat) (x : Int) : Nat := (x % (2 ^ w : Nat)).toNat

/-- The number a little-endian byte string stands for (R9). -/
def leNat : List Byte → Nat
  | [] => 0
  | b :: bs => b.toNat + 256 * leNat bs

/-- `n` bytes of `v`, least significant first (R9). -/
def leBytes : Nat → Nat → List Byte
  | 0, _ => []
  | n + 1, v => BitVec.ofNat 8 v :: leBytes n (v / 256)

/-- `n` bytes of a byte string from `at_`, zero beyond its end. -/
def slice (bs : List Byte) (at_ n : Nat) : List Byte :=
  let r := (bs.drop at_).take n
  r ++ List.replicate (n - r.length) 0

/-- The little-endian field of `n` bytes at byte `at_`. -/
def leAt (bs : List Byte) (at_ n : Nat) : Nat := leNat ((bs.drop at_).take n)

/-- `l` with element `i` replaced by `f` of it. -/
def modNth {α : Type} (l : List α) (i : Nat) (f : α → α) : List α :=
  match l, i with
  | [], _ => []
  | x :: xs, 0 => f x :: xs
  | x :: xs, i + 1 => x :: modNth xs i f

/-- A table: keys strictly rising. -/
abbrev Tab (α : Type) := List (Nat × α)

namespace Tab

/-- The entry of a key. -/
def get? {α : Type} : Tab α → Nat → Option α
  | [], _ => none
  | (k, v) :: t, q => if q = k then some v else get? t q

/-- The entry of a key, `d` when it has none. -/
def getD {α : Type} (t : Tab α) (q : Nat) (d : α) : α := (get? t q).getD d

/-- The table with the key's entry set. -/
def set {α : Type} : Tab α → Nat → α → Tab α
  | [], q, x => [(q, x)]
  | (k, v) :: t, q, x =>
    if q < k then (q, x) :: (k, v) :: t
    else if q = k then (q, x) :: t
    else (k, v) :: set t q x

/-- The table without the key. -/
def erase {α : Type} : Tab α → Nat → Tab α
  | [], _ => []
  | (k, v) :: t, q => if q = k then t else (k, v) :: erase t q

/-- Every entry mapped. -/
def mapVals {α β : Type} (t : Tab α) (f : Nat → α → β) : Tab β := t.map fun e => (e.1, f e.1 e.2)

/-- The entries that satisfy `p`. -/
def keep {α : Type} (t : Tab α) (p : Nat → α → Bool) : Tab α := t.filter fun e => p e.1 e.2

/-- Keys strictly rise. -/
def wf {α : Type} : Tab α → Bool
  | [] => true
  | [_] => true
  | (k, _) :: (k', v') :: t => decide (k < k') && wf ((k', v') :: t)

end Tab

/-- A byte memory in canonical form (`Memory.wf`). An unlisted address reads as zero. -/
abbrev Mem := List Host.Cell

namespace Memory

/-- One byte. -/
def read : Mem → Nat → Byte
  | [], _ => 0
  | (k, b) :: m, a => if a = k then b else read m a

/-- A byte other than zero put in its place. -/
def put : Mem → Nat → Byte → Mem
  | [], a, b => [(a, b)]
  | (k, c) :: m, a, b =>
    if a < k then (a, b) :: (k, c) :: m else if a = k then (a, b) :: m else (k, c) :: put m a b

/-- One byte written. Writing zero removes the entry. -/
def write (m : Mem) (a : Nat) (b : Byte) : Mem := if b = 0 then m.filter (fun c => c.1 != a) else put m a b

/-- Addresses strictly rise and no listed byte is zero. -/
def wf : Mem → Bool
  | [] => true
  | [(_, b)] => b != 0
  | (k, b) :: (k', b') :: m => decide (k < k') && (b != 0) && wf ((k', b') :: m)

/-- `n` bytes from `a`, lowest address first. -/
def readBytes (m : Mem) : Nat → Nat → List Byte
  | _, 0 => []
  | a, n + 1 => read m a :: readBytes m (a + 1) n

/-- Bytes written from `a`, lowest address first. -/
def writeBytes (m : Mem) : Nat → List Byte → Mem
  | _, [] => m
  | a, b :: bs => writeBytes (write m a b) (a + 1) bs

/-- The little-endian number in `n` bytes from `a`. -/
def readLE (m : Mem) (a n : Nat) : Nat := leNat (readBytes m a n)

/-- `n` little-endian bytes of `v` written from `a`. -/
def writeLE (m : Mem) (a n v : Nat) : Mem := writeBytes m a (leBytes n v)

/-- `n` bytes from `a` cleared to zero. -/
def clear (m : Mem) (a n : Nat) : Mem := m.filter fun c => !(decide (a ≤ c.1) && decide (c.1 < a + n))

/-- `n` bytes of `src` from `b` copied to `a`. -/
def copy (dst src : Mem) (a b n : Nat) : Mem :=
  (src.filter fun c => decide (b ≤ c.1) && decide (c.1 < b + n)).foldl
    (fun m c => write m (a + (c.1 - b)) c.2) (clear dst a n)

end Memory

/-- A set of numbers: strictly rising. -/
abbrev NatSet := List Nat

namespace NatSet

/-- The set with `x`. -/
def add : NatSet → Nat → NatSet
  | [], x => [x]
  | y :: s, x => if x < y then x :: y :: s else if x = y then y :: s else y :: add s x

/-- The set without `x`. -/
def del (s : NatSet) (x : Nat) : NatSet := s.filter fun y => y != x

/-- Membership. -/
def has (s : NatSet) (x : Nat) : Bool := s.contains x

/-- The set without the numbers from `a`, `n` of them. -/
def delRange (s : NatSet) (a n : Nat) : NatSet := s.filter fun y => !(decide (a ≤ y) && decide (y < a + n))

end NatSet

end Sys2Proof.Machine
end

