-- ==== Sys2Proof/Machine/Crypto.lean ====
section
/-! DEFINITION. The check codes and hashes the spec names by standard: CRC-64 (ECMA-182), CRC-32C, SHA3-512 and
KMAC256. Their definitions are those of the standards (PRESUMED, safe only if the standards are meant: log 6). -/

namespace Sys2Proof.Machine

/-- One bit step of CRC-64 (ECMA-182), most significant bit first, polynomial 0x42F0E1EBA9EA3693. -/
def crc64Bit (c : Nat) : Nat :=
  if c / 2 ^ 63 % 2 = 1 then ((c * 2) % 2 ^ 64) ^^^ 0x42F0E1EBA9EA3693 else (c * 2) % 2 ^ 64

/-- CRC-64 (ECMA-182) of a byte string (R223, R254, R296, R416), initial value and final xor zero. PRESUMED, log 6. -/
def crc64 (bs : List Byte) : DWord :=
  BitVec.ofNat 64 <| bs.foldl (fun c b =>
    let c := c ^^^ (b.toNat * 2 ^ 56)
    crc64Bit (crc64Bit (crc64Bit (crc64Bit (crc64Bit (crc64Bit (crc64Bit (crc64Bit c)))))))) 0

/-- One bit step of CRC-32C, least significant bit first, reflected polynomial 0x82F63B78. -/
def crc32cBit (c : Nat) : Nat := if c % 2 = 1 then (c / 2) ^^^ 0x82F63B78 else c / 2

/-- CRC-32C of a byte string (R303, R463, R475). PRESUMED, log 6. -/
def crc32c (bs : List Byte) : Word :=
  BitVec.ofNat 32 <| 0xFFFFFFFF ^^^ bs.foldl (fun c b =>
    let c := c ^^^ b.toNat
    crc32cBit (crc32cBit (crc32cBit (crc32cBit (crc32cBit (crc32cBit (crc32cBit (crc32cBit c)))))))) 0xFFFFFFFF

/-- A 64-bit lane rotated left. -/
def rotl64 (x n : Nat) : Nat := ((x * 2 ^ n) % 2 ^ 64) ||| (x / 2 ^ (64 - n))

/-- Steps rho and pi of Keccak-p together: for each lane of the result, lane x + 5y being the y-th of column x, the lane
it comes from and the rotation. -/
def rhoPi : List (Nat × Nat) :=
  [(0, 0), (6, 44), (12, 43), (18, 21), (24, 14),
   (3, 28), (9, 20), (10, 3), (16, 45), (22, 61),
   (1, 1), (7, 6), (13, 25), (19, 8), (20, 18),
   (4, 27), (5, 36), (11, 10), (17, 15), (23, 56),
   (2, 62), (8, 55), (14, 39), (15, 41), (21, 2)]

/-- Step iota: a round's constant has bits only at places 2^j - 1; bit j of a round's code says whether it has that one. The
codes of the 24 rounds are the 7-bit digits of one number, the first round's lowest. -/
def iotaCodes : Nat := 0xe886c79cc5a452a7767bf4cd460eabe509fe178d01

/-- The constant of round `r`. -/
def iotaOf (r : Nat) : Nat :=
  ((List.range 7).map fun j => bit (bitAt (iotaCodes / 128 ^ r) j) * 2 ^ (2 ^ j - 1)).sum

/-- Step theta: what the lanes of column `x` are changed by, from the parities of the two columns beside it. -/
def thetaOf (a : List Nat) (x : Nat) : Nat :=
  let parity := fun (c : Nat) => (List.range 5).foldl (fun p y => p ^^^ a.getD (c % 5 + 5 * y) 0) 0
  parity (x + 4) ^^^ rotl64 (parity (x + 1)) 1

/-- Round `r` of Keccak-f[1600]: theta, rho and pi, then chi along each row of five lanes, and iota on lane 0. -/
def keccakRound (a : List Nat) (r : Nat) : List Nat :=
  let cols := (List.range 5).map (thetaOf a)
  let b := rhoPi.map fun e => rotl64 (a.getD e.1 0 ^^^ cols.getD (e.1 % 5) 0) e.2
  (List.range 25).map fun i =>
    let beside := fun (n : Nat) => b.getD (i / 5 * 5 + (i + n) % 5) 0
    let chi := beside 0 ^^^ (beside 2 - (beside 2 &&& beside 1))
    if i = 0 then chi ^^^ iotaOf r else chi

/-- Keccak-f[1600]. -/
def keccakF (a : List Nat) : List Nat := (List.range 24).foldl keccakRound a

/-- Whole 64-bit lanes of a byte string whose length is a multiple of 8. -/
def lanesOf (n : Nat) (bs : List Byte) : List Nat := (List.range n).map fun i => leAt bs (8 * i) 8

/-- Absorbs padded input in blocks of `rate` bytes; `n` bounds the number of blocks. -/
def absorb (rate : Nat) : Nat → List Byte → List Nat → List Nat
  | 0, _, st => st
  | n + 1, bs, st =>
    if bs.isEmpty then st
    else
      let blk := lanesOf (rate / 8) (bs.take rate)
      let st' := (List.range 25).map fun i => st.getD i 0 ^^^ blk.getD i 0
      absorb rate n (bs.drop rate) (keccakF st')

/-- The sponge's padding: the domain suffix byte, zeros, and the final bit. -/
def padSponge (rate : Nat) (suffix : Nat) (bs : List Byte) : List Byte :=
  let n := rate - bs.length % rate
  if n = 1 then bs ++ [BitVec.ofNat 8 (suffix + 128)]
  else bs ++ [BitVec.ofNat 8 suffix] ++ List.replicate (n - 2) 0 ++ [128]

/-- The first `out` bytes (at most one block) of the sponge. -/
def sponge (rate suffix out : Nat) (bs : List Byte) : List Byte :=
  let p := padSponge rate suffix bs
  let st := absorb rate (p.length / rate) p (List.replicate 25 0)
  (st.flatMap (leBytes 8)).take out

/-- SHA3-512 (FIPS 202) of a byte string. PRESUMED, log 6. -/
def sha3_512 (bs : List Byte) : List Byte := sponge 72 0x06 64 bs

/-- Bytes of a number, most significant first, without leading zeros and at least one. -/
def beBytes : Nat → Nat → List Byte
  | 0, _ => []
  | f + 1, v => if v < 256 then [BitVec.ofNat 8 v] else beBytes f (v / 256) ++ [BitVec.ofNat 8 v]

/-- left_encode of SP 800-185. -/
def leftEncode (v : Nat) : List Byte := let b := beBytes 9 v; BitVec.ofNat 8 b.length :: b

/-- right_encode of SP 800-185. -/
def rightEncode (v : Nat) : List Byte := let b := beBytes 9 v; b ++ [BitVec.ofNat 8 b.length]

/-- encode_string of SP 800-185. -/
def encodeString (bs : List Byte) : List Byte := leftEncode (8 * bs.length) ++ bs

/-- bytepad of SP 800-185. -/
def bytepad (bs : List Byte) (w : Nat) : List Byte :=
  let x := leftEncode w ++ bs
  x ++ List.replicate ((w - x.length % w) % w) 0

/-- The bytes of an ASCII string. -/
def ascii (s : String) : List Byte := s.toList.map fun c => BitVec.ofNat 8 c.toNat

/-- KMAC256 (SP 800-185) with key `k`, input `x`, 256-bit output and customisation `s` (R329, R478, R479).
PRESUMED, log 6. -/
def kmac256 (k x : List Byte) (s : String) : List Byte :=
  let pre := bytepad (encodeString (ascii "KMAC") ++ encodeString (ascii s)) 136
  sponge 136 0x04 32 (pre ++ bytepad (encodeString k) 136 ++ x ++ rightEncode 256)

/-- HMAC (FIPS 198-1) with SHA3-512, whose block is 72 bytes, for keys of at most a block (R472). PRESUMED, log 6. -/
def hmac3 (k x : List Byte) : List Byte :=
  let pad := fun (b : Byte) => (List.range 72).map fun i => k.getD i 0 ^^^ b
  sha3_512 (pad 0x5C ++ sha3_512 (pad 0x36 ++ x))

/-- HKDF-Expand of SPDM 1.3's key schedule (R472): `n` bytes, at most 64, for a label and a transcript hash. PRESUMED, log 6. -/
def spdmExpand (secret : List Byte) (label : String) (context : List Byte) (n : Nat) : List Byte :=
  (hmac3 secret (leBytes 2 n ++ ascii "spdm1.3 " ++ ascii label ++ context ++ [1])).take n

end Sys2Proof.Machine
end

