-- ==== Sys2Proof/Machine/Formats.lean ====
section
/-! DEFINITION. Number formats and arithmetic (03_number_formats.md, R79 to R102, R512): values, the one rounding rule,
encodings and conversions, microscaling blocks and BSI16 blocks. Values are exact: sign, magnitude and power of two. -/

namespace Sys2Proof.Machine

/-- The fifteen formats (R44, R84). -/
inductive Fmt where
  | fp32 | fp16 | bf16 | e4m3 | e5m2 | mxfp8 | mxe3m2 | mxe2m3 | mxfp4 | mxint8 | int32 | int16 | int8 | int4 | bsi16
  deriving DecidableEq, Repr

/-- The format a code names (R44); code 0 is not a format. -/
def fmtOf : Nat → Option Fmt
  | 1 => some .fp32 | 2 => some .fp16 | 3 => some .bf16 | 4 => some .e4m3 | 5 => some .e5m2
  | 6 => some .mxfp8 | 7 => some .mxe3m2 | 8 => some .mxe2m3 | 9 => some .mxfp4 | 10 => some .mxint8
  | 11 => some .int32 | 12 => some .int16 | 13 => some .int8 | 14 => some .int4 | 15 => some .bsi16
  | _ => none

namespace Fmt

/-- Codes 6 to 10 (R86). -/
def isMX : Fmt → Bool
  | mxfp8 | mxe3m2 | mxe2m3 | mxfp4 | mxint8 => true
  | _ => false

/-- Codes 11 to 14, the integer formats (R517). -/
def isInt : Fmt → Bool
  | int32 | int16 | int8 | int4 => true
  | _ => false

/-- Codes 1 to 10, the tensor unit's float group (R45). -/
def tensorFloat : Fmt → Bool
  | fp32 | fp16 | bf16 | e4m3 | e5m2 | mxfp8 | mxe3m2 | mxe2m3 | mxfp4 | mxint8 => true
  | _ => false

/-- Codes 13 and 14, the tensor unit's integer group (R45). -/
def tensorInt : Fmt → Bool
  | int8 | int4 => true
  | _ => false

/-- Width of one element in bits (R46, R84, R86); a BSI16 mantissa has 16. -/
def width : Fmt → Nat
  | fp32 | int32 => 32
  | fp16 | bf16 | int16 | bsi16 => 16
  | e4m3 | e5m2 | mxfp8 | mxint8 | int8 => 8
  | mxe3m2 | mxe2m3 => 6
  | mxfp4 | int4 => 4

/-- The rate class C1 to C4 of a tensor operand (R44), 0 for a format that is none. -/
def rateClass : Fmt → Nat
  | fp32 => 1
  | fp16 | bf16 => 2
  | e4m3 | e5m2 | mxfp8 | mxint8 | int8 => 3
  | mxe3m2 | mxe2m3 | mxfp4 | int4 => 4
  | int32 | int16 | bsi16 => 0

/-- Lines of elements in a 32 x 32 block, without the scale line (R46). -/
def elementLines (f : Fmt) : Nat := 2 * f.width

/-- Lines of a 32 x 32 block (R46). -/
def blockLines (f : Fmt) : Nat := f.elementLines + bit f.isMX

/-- Lines of a 2:4 block of B (R156): values, two metadata lines, the scale line. -/
def blockLines24 (f : Fmt) : Nat := f.width + 2 + bit f.isMX

/-- Lines of a present 16 x 16 sub-block (R159). -/
def subBlockLines (f : Fmt) : Nat := f.width / 2

end Fmt

/-- A value: NaN, a signed infinity, or exactly (-1)^neg x m x 2^e. -/
inductive Val where
  | nan
  | inf (neg : Bool)
  | fin (neg : Bool) (m : Nat) (e : Int)
  deriving DecidableEq, Repr

namespace Val

/-- Plus zero. -/
def zero : Val := .fin false 0 0

/-- The value of an integer. -/
def ofInt (x : Int) : Val := .fin (decide (x < 0)) x.natAbs 0

/-- Negation. -/
def neg : Val → Val
  | .nan => .nan
  | .inf s => .inf (!s)
  | .fin s m e => .fin (!s) m e

/-- Magnitude. -/
def abs : Val → Val
  | .nan => .nan
  | .inf _ => .inf false
  | .fin _ m e => .fin false m e

/-- The exact product (R93: infinity times zero is NaN; signs multiply). -/
def mul : Val → Val → Val
  | .nan, _ => .nan
  | _, .nan => .nan
  | .inf s, .inf t => .inf (s != t)
  | .inf s, .fin t m _ => if m = 0 then .nan else .inf (s != t)
  | .fin s m _, .inf t => if m = 0 then .nan else .inf (s != t)
  | .fin s m e, .fin t n f => .fin (s != t) (m * n) (e + f)

/-- The value times 2^k. -/
def scale (k : Int) : Val → Val
  | .fin s m e => .fin s m (e + k)
  | v => v

/-- The signed magnitude of a finite value in units of 2^q, for q at most its exponent. -/
def units (q : Int) : Val → Int
  | .fin s m e => let x : Int := (m * 2 ^ (e - q).toNat : Nat); if s then -x else x
  | _ => 0

/-- The exponent of a finite value, if it is not zero. -/
def expo : Val → Option Int
  | .fin _ m e => if m = 0 then none else some e
  | _ => none

/-- The exact sum of a list of values (R93). -/
def sum (vs : List Val) : Val :=
  if vs.any (· == .nan) then .nan
  else if vs.contains (.inf true) && vs.contains (.inf false) then .nan
  else if vs.contains (.inf true) then .inf true
  else if vs.contains (.inf false) then .inf false
  else
    match vs.filterMap expo with
    | [] => .fin (!vs.isEmpty && vs.all fun v => match v with | .fin s _ _ => s | _ => false) 0 0
    | e :: es =>
      let q := es.foldl min e
      let x := (vs.map (units q)).foldl (· + ·) 0
      .fin (decide (x < 0)) x.natAbs q

/-- Exact addition. -/
def add (a b : Val) : Val := sum [a, b]

/-- Numeric order of two values that are not NaN: a < b. Plus and minus zero are equal. -/
def lt : Val → Val → Bool
  | .nan, _ => false
  | _, .nan => false
  | .inf s, .inf t => s && !t
  | .inf s, .fin .. => s
  | .fin .., .inf t => !t
  | .fin s m e, .fin t n f =>
    let q := min e f
    decide (units q (.fin s m e) < units q (.fin t n f))

/-- Numeric equality of two values that are not NaN. -/
def eqv (a b : Val) : Bool := a != .nan && b != .nan && !lt a b && !lt b a

end Val

/-- floor(log2 m) for m > 0. -/
def log2 (m : Nat) : Nat := Nat.log2 m

/-- m x 2^s rounded to the nearest integer, ties to even (R79). -/
def rneShift (m : Nat) (s : Int) : Nat :=
  if 0 ≤ s then m * 2 ^ s.toNat
  else
    let k := (-s).toNat
    if log2 m + 1 < k then 0
    else
      let d := 2 ^ k
      let q := m / d
      let r := m % d
      if 2 * r < d then q else if d < 2 * r then q + 1 else q + q % 2

/-- A binary floating format without its special encodings: fraction bits and exponent of the smallest normal. -/
structure FloatShape where
  frac : Nat
  emin : Int
  /-- The pattern, without sign, of the largest finite value. -/
  top : Nat
  deriving DecidableEq, Repr

/-- The magnitude pattern of m x 2^e rounded to the shape with unbounded exponent, or `none` beyond `top` (R79, R81). -/
def roundMag (sh : FloatShape) (m : Nat) (e : Int) : Option Nat :=
  if m = 0 then some 0
  else
    let k : Int := (log2 m : Int) + e
    let q : Int := max (k - sh.frac) (sh.emin - sh.frac)
    if k < sh.emin - sh.frac - 2 then some 0
    else if 2 ^ 12 < k then none
    else
      let p := ((q - (sh.emin - sh.frac)).toNat) * 2 ^ sh.frac + rneShift m (e - q)
      if p ≤ sh.top then some p else none

/-- The value of a magnitude pattern of the shape. -/
def magVal (sh : FloatShape) (neg : Bool) (p : Nat) : Val :=
  let x := p >>> sh.frac
  let f := p % 2 ^ sh.frac
  if x = 0 then .fin neg f (sh.emin - sh.frac)
  else .fin neg (2 ^ sh.frac + f) (sh.emin - sh.frac + ((x : Int) - 1))

/-- Binary32 (R84). -/
def shFP32 : FloatShape := ⟨23, -126, 0x7F7FFFFF⟩
/-- Binary16 (R84). -/
def shFP16 : FloatShape := ⟨10, -14, 0x7BFF⟩
/-- BF16 (R84). -/
def shBF16 : FloatShape := ⟨7, -126, 0x7F7F⟩
/-- FP8-E4M3 (R84). -/
def shE4M3 : FloatShape := ⟨3, -6, 0x7E⟩
/-- FP8-E5M2 (R84). -/
def shE5M2 : FloatShape := ⟨2, -14, 0x7B⟩
/-- E3M2 element (R86). -/
def shE3M2 : FloatShape := ⟨2, -2, 0x1F⟩
/-- E2M3 element (R86). -/
def shE2M3 : FloatShape := ⟨3, 0, 0x1F⟩
/-- E2M1 element (R86). -/
def shE2M1 : FloatShape := ⟨1, 0, 0x7⟩

/-- The canonical NaN of binary32 (R84). -/
def nan32 : Nat := 0x7FC00000

/-- The value of a binary32 pattern (R84). -/
def val32 (p : Nat) : Val :=
  let neg := bitAt p 31
  let x := fld p 0 31
  if 0x7F800000 < x then .nan else if x = 0x7F800000 then .inf neg else magVal shFP32 neg x

/-- A value rounded to binary32 (R79 to R82, R89). -/
def round32 : Val → Nat
  | .nan => nan32
  | .inf s => bit s * 2 ^ 31 + 0x7F800000
  | .fin s m e => bit s * 2 ^ 31 + (roundMag shFP32 m e).getD 0x7F800000

/-- Binary32 addition. -/
def add32 (a b : Nat) : Nat := round32 ((val32 a).add (val32 b))
/-- Binary32 subtraction. -/
def sub32 (a b : Nat) : Nat := round32 ((val32 a).add (val32 b).neg)
/-- Binary32 multiplication. -/
def mul32 (a b : Nat) : Nat := round32 ((val32 a).mul (val32 b))
/-- Binary32 fused multiply-add (R52). -/
def fma32 (a b d : Nat) : Nat := round32 (((val32 a).mul (val32 b)).add (val32 d))

/-- The quotient of two naturals, `d` not zero, as a value exact enough that any rounding of it is the rounding of the
quotient: at least 66 bits and a sticky bit. -/
def quotVal (neg : Bool) (n d : Nat) (e : Int) : Val :=
  let s := 66 + log2 d
  let x := n * 2 ^ s
  .fin neg (2 * (x / d) + bit (decide (x % d ≠ 0))) (e - s - 1)

/-- Binary32 division, one rounding (R79, R93). -/
def div32 (a b : Nat) : Nat :=
  match val32 a, val32 b with
  | .nan, _ => nan32
  | _, .nan => nan32
  | .inf _, .inf _ => nan32
  | .inf s, .fin t _ _ => round32 (.inf (s != t))
  | .fin s _ _, .inf t => round32 (.fin (s != t) 0 0)
  | .fin s m e, .fin t n f =>
    if n = 0 then (if m = 0 then nan32 else round32 (.inf (s != t)))
    else round32 (quotVal (s != t) m n (e - f))

/-- Saturation to INT32 (R92). -/
def sat32 (x : Int) : Int := max (-2147483648) (min 2147483647 x)

/-- A value rounded to an integer and saturated to `w` bits; NaN gives 0 (R89). The result is the integer. -/
def roundInt (w : Nat) : Val → Int
  | .nan => 0
  | .inf s => if s then -(2 ^ (w - 1) : Nat) else (2 ^ (w - 1) - 1 : Nat)
  | .fin s m e =>
    if m = 0 then 0
    else
      let big := decide (64 < (log2 m : Int) + e)
      let n : Nat := if big then 2 ^ 65 else rneShift m e
      let x : Int := if s then -(n : Int) else n
      max (-(2 ^ (w - 1) : Nat)) (min ((2 ^ (w - 1) - 1 : Nat) : Int) x)

/-- The value of an element pattern of a format that is neither MX nor BSI16, or of the element inside an MX block
(R84, R86). -/
def elemVal (f : Fmt) (p : Nat) : Val :=
  match f with
  | .fp32 => val32 p
  | .fp16 =>
    let x := fld p 0 15
    if 0x7C00 < x then .nan else if x = 0x7C00 then .inf (bitAt p 15) else magVal shFP16 (bitAt p 15) x
  | .bf16 => val32 (fld p 0 16 * 65536)
  | .e4m3 | .mxfp8 => let x := fld p 0 7; if x = 0x7F then .nan else magVal shE4M3 (bitAt p 7) x
  | .e5m2 =>
    let x := fld p 0 7
    if 0x7C < x then .nan else if x = 0x7C then .inf (bitAt p 7) else magVal shE5M2 (bitAt p 7) x
  | .mxe3m2 => magVal shE3M2 (bitAt p 5) (fld p 0 5)
  | .mxe2m3 => magVal shE2M3 (bitAt p 5) (fld p 0 5)
  | .mxfp4 => magVal shE2M1 (bitAt p 3) (fld p 0 3)
  | .mxint8 => (Val.ofInt (signed 8 p)).scale (-6)
  | .int32 => .ofInt (signed 32 p)
  | .int16 => .ofInt (signed 16 p)
  | .int8 => .ofInt (signed 8 p)
  | .int4 => .ofInt (signed 4 p)
  | .bsi16 => .nan

/-- A finite magnitude rounded to an 8-bit float that saturates (R89), with its sign bit at 7. -/
def satFloat (sh : FloatShape) (signBit : Nat) (s : Bool) (m : Nat) (e : Int) : Nat :=
  bit s * 2 ^ signBit + (roundMag sh m e).getD sh.top

/-- A value rounded once to a format that is neither MX nor BSI16 (R80, R89). -/
def encodeElem (f : Fmt) (v : Val) : Nat :=
  match f with
  | .fp32 => round32 v
  | .fp16 =>
    match v with
    | .nan => 0x7E00
    | .inf s => bit s * 2 ^ 15 + 0x7C00
    | .fin s m e => bit s * 2 ^ 15 + (roundMag shFP16 m e).getD 0x7C00
  | .bf16 =>
    match v with
    | .nan => 0x7FC0
    | .inf s => bit s * 2 ^ 15 + 0x7F80
    | .fin s m e => bit s * 2 ^ 15 + (roundMag shBF16 m e).getD 0x7F80
  | .e4m3 =>
    match v with
    | .nan | .inf _ => 0x7F
    | .fin s m e => satFloat shE4M3 7 s m e
  | .e5m2 =>
    match v with
    | .nan => 0x7E
    | .inf s => bit s * 2 ^ 7 + 0x7C
    | .fin s m e => satFloat shE5M2 7 s m e
  | .int32 => unsigned 32 (roundInt 32 v)
  | .int16 => unsigned 16 (roundInt 16 v)
  | .int8 => unsigned 8 (roundInt 8 v)
  | .int4 => unsigned 4 (roundInt 4 v)
  | _ => 0

/-- A finite value rounded to an MX element, saturating symmetrically (R88). -/
def encodeMxElem (f : Fmt) (s : Bool) (m : Nat) (e : Int) : Nat :=
  match f with
  | .mxfp8 => satFloat shE4M3 7 s m e
  | .mxe3m2 => satFloat shE3M2 5 s m e
  | .mxe2m3 => satFloat shE2M3 5 s m e
  | .mxfp4 => satFloat shE2M1 3 s m e
  | .mxint8 =>
    let n := min 127 (if 2 ^ 12 < (log2 m : Int) + e then 127 else rneShift m (e + 6))
    unsigned 8 (if s then -(n : Int) else n)
  | _ => 0

/-- emax of an MX element format (R86). -/
def mxEmax : Fmt → Int
  | .mxfp8 => 8
  | .mxe3m2 => 4
  | .mxe2m3 => 2
  | .mxfp4 => 2
  | _ => 0

/-- floor(log2) of the largest finite magnitude among values, or `none` when it is zero. -/
def maxLog2 (vs : List Val) : Option Int :=
  vs.foldl (fun a v => match v with
    | .fin _ m e => if m = 0 then a else
        let k := (log2 m : Int) + e
        some (match a with | none => k | some b => max b k)
    | _ => a) none

/-- Is the value NaN or infinite? -/
def nonFinite : Val → Bool
  | .fin .. => false
  | _ => true

/-- One MX block: scale byte and element patterns of up to 32 values (R88). -/
def mxBlock (f : Fmt) (xs : List Val) : Nat × List Nat :=
  if xs.any nonFinite then (255, xs.map fun _ => 0)
  else
    match maxLog2 xs with
    | none => (127, xs.map fun _ => 0)
    | some k =>
      let e := max (-127) (min 127 (k - mxEmax f))
      ((e + 127).toNat, xs.map fun x => match x with
        | .fin s m x => encodeMxElem f s m (x - e)
        | _ => 0)

/-- The exact value of an MX element under its scale byte (R87). -/
def mxVal (f : Fmt) (scale p : Nat) : Val :=
  if scale = 255 then .nan else (elemVal f p).scale ((scale : Int) - 127)

/-- A BSI16 block (R94): exponent, bump, flags, count, and 32 mantissas as 16-bit patterns. -/
structure Bsi where
  e : Nat
  bump : Nat
  zero : Bool
  skip : Bool
  last : Bool
  count : Nat
  m : List Nat
  deriving DecidableEq, Repr

namespace Bsi

/-- The 32-bit header (R94). -/
def header (b : Bsi) : Nat :=
  b.e % 256 + (b.bump % 16) * 2 ^ 8 + bit b.zero * 2 ^ 12 + bit b.skip * 2 ^ 13 + bit b.last * 2 ^ 14
    + (b.count % 65536) * 2 ^ 16

/-- The block as 68 bytes, as it lies in scratchpad and stacked memory (R102). -/
def bytes68 (b : Bsi) : List Byte := leBytes 4 b.header ++ b.m.flatMap (leBytes 2)

/-- The block on the wire: 4 bytes when ZERO is set (R94). -/
def wire (b : Bsi) : List Byte := if b.zero then leBytes 4 b.header else b.bytes68

/-- A block read from bytes; with ZERO set the mantissas read as zero (R94, R96). -/
def ofBytes (bs : List Byte) : Bsi :=
  let h := leAt bs 0 4
  let z := bitAt h 12
  { e := fld h 0 8, bump := fld h 8 4, zero := z, skip := bitAt h 13, last := bitAt h 14, count := fld h 16 16,
    m := (List.range 32).map fun i => if z then 0 else leAt bs (4 + 2 * i) 2 }

/-- The widened value of mantissa `j` (R95, R96); the marker -32,768 is invalid and widens to NaN. -/
def widen (b : Bsi) (j : Nat) : Val :=
  if b.zero then .zero
  else
    let x := b.m.getD j 0 % 65536
    if x = 0x8000 then .nan else
      let i := signed 16 x
      if i = 0 then .zero else (Val.ofInt i).scale ((b.e : Int) - 142)

/-- Is mantissa `j` the invalid marker? -/
def invalidAt (b : Bsi) (j : Nat) : Bool := !b.zero && b.m.getD j 0 % 65536 == 0x8000

/-- Is every mantissa invalid (R99)? -/
def allInvalid (b : Bsi) : Bool := !b.zero && b.m.all fun x => x % 65536 == 0x8000

end Bsi

/-- The natural exponent of FP32 values (R97); 0 for a set without a finite value, whose a is undefined. DESIGN CHOICE,
log 15. -/
def naturalExp (xs : List Val) : Nat :=
  match maxLog2 xs with
  | none => 0
  | some k => (max 0 (min 255 (k + 128))).toNat

/-- q / 2 rounded to nearest, ties to even, on integers (R98). -/
def rneHalf (q : Int) : Int :=
  let n := rneShift q.natAbs (-1)
  if q < 0 then -(n : Int) else n

/-- The bump loop of R98: halves the valid mantissas until they fit, or gives up at BUMP 15 or E 255. `fuel` is at least
the bumps possible. Answers E, BUMP and the mantissas, `none` when the block is invalid. -/
def bumpLoop : Nat → Nat → Nat → List (Option Int) → Nat × Nat × Option (List (Option Int))
  | 0, e, b, qs => (e, b, if qs.any (fun q => match q with | some x => decide (32767 < x.natAbs) | none => false)
      then none else some qs)
  | n + 1, e, b, qs =>
    if qs.any (fun q => match q with | some x => decide (32767 < x.natAbs) | none => false) then
      if b = 15 ∨ e = 255 then (e, b, none)
      else bumpLoop n (e + 1) (b + 1) (qs.map (Option.map rneHalf))
    else (e, b, some qs)

/-- Quantising values at exponent `e` from `bump` (R98). A value that is NaN or infinite, or `bad`, is invalid. -/
def bsiQuantise (e bump count : Nat) (skip last : Bool) (xs : List Val) (bad : List Bool) : Bsi :=
  let qs : List (Option Int) := xs.zipIdx.map fun (x, j) =>
    if bad.getD j false then none else
    match x with
    | .fin s m y =>
      let n := rneShift m (y + 142 - e)
      some (if s then -(n : Int) else n)
    | _ => none
  match bumpLoop 16 e bump qs with
  | (e', b', none) => ⟨e', b', false, skip, last, count, qs.map fun _ => 0x8000⟩
  | (e', b', some ms) =>
    let m := ms.map fun q => match q with | some x => unsigned 16 x | none => 0x8000
    ⟨e', b', m.all (· == 0), skip, last, count, m⟩

end Sys2Proof.Machine
end

