-- ==== Sys2Proof/Machine/StateTile.lean ====
section
/-! DEFINITION. The state of a tile (02, 04, 05, 06): scratchpad, instruction store, function unit, task slots,
sequencer, events, unit queues, local strings, chains and route table; and the packets in flight on the mesh. -/

namespace Sys2Proof.Machine

/-- The states of a task slot (R63). -/
inductive SlotState where
  | free | ready | running | blocked | done | faulted
  deriving DecidableEq, Repr

/-- Why a slot is BLOCKED (R63). -/
inductive BlockReason where
  | inp | out | unit | wait
  deriving DecidableEq, Repr

/-- The causes of a tile fault, in the order of the bits of TILE_ERR (R72). -/
inductive TileCause where
  | parity | illegal | handle | format | string | sync
  deriving DecidableEq, Repr

/-- A task slot (R62, R63, R71). `held` is the instruction a BLOCKED slot waits to issue; `readyWhole` says that the
slot has stood READY since the last detection window ended (R434). -/
structure Slot where
  state : SlotState := .free
  reason : BlockReason := .inp
  object : BitVec 6 := 0
  pc : BitVec 11 := 0
  progress : Byte := 0
  regs : Vector Word 16 := Vector.replicate 16 0
  held : Option DWord := none
  readyWhole : Bool := false
  deriving DecidableEq, Repr

/-- An entry of the task table (R62, R351): registers s1 to s15 in places 1 to 15. -/
structure TaskEntry where
  enable : Bool := false
  entry : BitVec 11 := 0
  inject : Byte := 0
  regs : Vector Word 16 := Vector.replicate 16 0
  deriving DecidableEq, Repr

/-- A run of lines: the first byte in the scratchpad and the number of lines. -/
structure Span where
  at_ : Nat
  lines : Nat
  deriving DecidableEq, Repr

/-- A stage command of a chain (R150): chain, stage and iteration. -/
structure ChainTag where
  chain : Fin 4
  stage : Nat
  iter : Nat
  deriving DecidableEq, Repr

/-- A command in the queue of the tensor, vector or function unit (R65), with the resolution it obtained at issue
(R111): byte addresses of A, B and the destination, and the register values it uses. The head of a queue executes. -/
structure UnitCmd where
  slot : Fin 8
  pc : BitVec 11
  word : DWord
  a : Nat
  b : Nat
  d : Nat
  count : Nat
  scalar : Word
  reads : List Span
  writes : List Span
  chain : Option ChainTag
  deriving DecidableEq, Repr

/-- A posted destination (R138): transfer `seq` fills it; `got` are the lines written so far; `done` once every line has
been written; `status` is the transfer's status word (R233). -/
structure Post where
  slot : Fin 8
  seq : Nat
  at_ : Nat
  got : NatSet
  done : Bool
  status : Word
  chain : Option ChainTag
  deriving DecidableEq, Repr

/-- An issued `send` (R139); `read` once every source line has been read (R140). -/
structure SendOp where
  slot : Fin 8
  pc : BitVec 11
  seq : Nat
  at_ : Nat
  read : Bool
  chain : Option ChainTag
  deriving DecidableEq, Repr

/-- A local string (R134 to R143): descriptor, posts and sends that `fin` has not completed, oldest first, the number
of the next post or send, and, on an outbound string, the credits held. -/
structure Str where
  desc : DWord := 0
  posts : List Post := []
  sends : List SendOp := []
  next : Nat := 0
  credits : Nat := 0
  deriving DecidableEq, Repr

/-- A ring of a running chain (R149): first byte, slot size in bytes, slots. -/
structure ChainRing where
  at_ : Nat
  size : Nat
  slots : Nat
  deriving DecidableEq, Repr

/-- A running chain (R149, R150): the issuing slot, its registers at `send`, the iterations, the resolved rings, what its
operands outside the rings read and write, per stage the iterations issued and completed, and the handle table with its
bad words as `send` found it, by which the other operands resolve (R111). -/
structure ChainRun where
  slot : Fin 8
  pc : BitVec 11
  regs : Vector Word 16
  iters : Nat
  rings : List ChainRing
  reads : List Span
  writes : List Span
  issued : List Nat
  completed : List Nat
  table : Mem
  badTable : NatSet
  deriving DecidableEq, Repr

/-- A tile. `clearTags` lists the quarters of lines whose zero tag is clear (R162); `badWords`, `badInstr` and `badTags`
list the scratchpad words, instruction-store words and lines whose parity is bad (R119, R163). Unlisted instructions
are `nop`. -/
structure Tile where
  pad : Mem := []
  clearTags : NatSet := []
  badWords : NatSet := []
  badInstr : NatSet := []
  badTags : NatSet := []
  imem : Tab DWord := []
  headers : Vector (BitVec 128) 16 := Vector.replicate 16 0
  tables : Mem := []
  loaded : BitVec 16 := 0
  tasks : Vector TaskEntry 8 := Vector.replicate 8 {}
  waiters : Vector (Fin 8) 16 := Vector.replicate 16 0
  slots : Vector Slot 8 := Vector.replicate 8 {}
  last : Fin 8 := 0
  runLen : Nat := 0
  eligible : Bool := false
  events : Vector Byte 16 := Vector.replicate 16 0
  tensorQ : List UnitCmd := []
  vectorQ : List UnitCmd := []
  functionQ : List UnitCmd := []
  strs : Vector Str 32 := Vector.replicate 32 {}
  chains : Vector (BitVec 512) 4 := Vector.replicate 4 0
  runs : Vector (Option ChainRun) 4 := Vector.replicate 4 none
  /-- Per chain, the issues that have completed and that `fin` has not (R151). -/
  chainsDone : Vector Nat 4 := Vector.replicate 4 0
  routes : Vector Word 32 := Vector.replicate 32 0
  err : BitVec 6 := 0
  fault : Word := 0
  steps : Word := 0
  /-- The tile takes no further issue in this step (R121, R340, R436). -/
  stopped : Bool := true
  /-- The tile has finished the context's current step (R118). -/
  finished : Bool := false
  /-- A step-level event advanced a queue of this tile since the last window (R431). -/
  advanced : Bool := false
  deriving DecidableEq, Repr

/-- A packet (R128): header fields and the payload lines with omitted flits as zero (R129). -/
structure Packet where
  ch : BitVec 5
  ctx : Fin 8
  gen : Byte
  str : Fin 32
  lines : Fin 4
  last : Bool
  seq : Half
  loff : Byte
  zmask : Half
  srcX : BitVec 10
  srcY : BitVec 10
  payload : List Byte
  deriving DecidableEq, Repr

/-- A packet whose header stands before an input port of a router (R132). On a tile that faces an edge, port codes 0 to
3 for that side are the edge port (R131). -/
structure InFlight where
  tile : TileId
  port : Fin 7
  lane : Fin 2
  pkt : Packet
  deriving DecidableEq, Repr

/-- A submission to the expert router (R171). -/
structure RouterSub where
  tile : TileId
  slot : Fin 8
  pc : BitVec 11
  token : Nat
  home : Bool
  dest : Word
  recs : List (Nat × Nat)
  deriving DecidableEq, Repr

/-- Bytes a service unit writes at an address word of a tile (R169), and the slot and instruction that gave the address;
none for an expert list, whose address the scroll gives. -/
structure ServiceWrite where
  tile : TileId
  task : Option (Fin 8 × BitVec 11)
  dest : Word
  extent : Nat
  bytes : List Byte
  deriving DecidableEq, Repr

/-- One table of a region's expert router (R170 to R177): the current batch, its submissions, whether it is decided,
and the results that wait to be written. -/
structure RouterTab where
  batch : Nat := 0
  subs : List RouterSub := []
  decided : Bool := false
  failed : Bool := false
  writes : List ServiceWrite := []
  signals : List (TileId × Fin 16) := []
  deriving DecidableEq, Repr

/-- Who submitted HOME of a query block: tile, slot, instruction, address word, and V (R179). -/
structure SelHome where
  tile : TileId
  slot : Fin 8
  pc : BitVec 11
  dest : Word
  v : Nat
  deriving DecidableEq, Repr

/-- An open query block of a region's attention selection unit (R179). -/
structure SelQuery where
  query : Nat
  home : Option SelHome
  scores : List (Nat × Nat)
  failed : Bool
  deriving DecidableEq, Repr

end Sys2Proof.Machine
end

