-- ==== Sys2Proof/Machine/StateMem.lean ====
section
/-! DEFINITION. The state of a context beyond its tiles: edge-stream members (05, 08, 11), the deep range (08), weights
(09), reduction (10), checkpoints (15) and the context's own record (12, 13, 16). -/

namespace Sys2Proof.Machine

/-- Why an edge-stream member is stopped (R146, R222, R249, R431). -/
inductive MemberStop where
  | none
  | waitMark (side : Fin 4) (stream : Nat)
  | phaseMark (phase : Nat)
  | unarmed
  | ahead
  | noSend
  | fetch (page : Nat)
  | alloc (page : Nat)
  | clearing (wbuf granule : Nat)
  | homeArea (page : Nat)
  | cacheSpace
  | source (tensor shard : Nat)
  | fabric
  deriving DecidableEq, Repr

/-- A transfer that a member reads, stages or writes: its bytes by offset, the next piece, the pieces already handed to
the mesh or the deep range and whether the transfer holds its tile's credit, the status so far (R233), and the lines
present. -/
structure Xfer where
  seq : Nat
  bytes : Mem := []
  piece : Nat := 0
  sent : Nat := 0
  credited : Bool := false
  code : Nat := 0
  failPiece : Nat := 0
  got : NatSet := []
  /-- Lines of a fabric transfer with a missing byte (R308). -/
  bad : NatSet := []
  deriving DecidableEq, Repr

/-- A member of an edge stream (R136, R143 to R148, R230). `next` numbers the next transfer to start and `done` counts
those completed (R145); `base` and `span` are the descriptor's until an arm sets them. Inbound: `cur` is being read,
`arrived` came from the fabric or from reduction, `asm` is being put together (R308), `expected` is the next byte of the
series, `staged` waits for the tile's credits, `sentDown` counts what has entered the mesh. Outbound: `staged` came from
the tile, `cur` is being written, `queuedEnd` is the end offset of the frames given to ports, `sentEnd` that of R123. -/
structure Member where
  next : Nat := 0
  done : Nat := 0
  base : Option Nat := none
  span : Option Nat := none
  spanStart : Nat := 0
  arm : Option (Nat × Nat) := none
  passed : NatSet := []
  stop : MemberStop := .none
  cur : Option Xfer := none
  arrived : List Xfer := []
  asm : Option Xfer := none
  staged : List Xfer := []
  sentDown : Nat := 0
  credits : Nat := 0
  expected : Nat := 0
  queuedEnd : Nat := 0
  sentEnd : Nat := 0
  advanced : Bool := false
  deriving DecidableEq, Repr

/-- The states of a deep-range page (R216). -/
inductive PageState where
  | unbacked | resident | remote | moving
  deriving DecidableEq, Repr

/-- Why a page is MOVING (R216). -/
inductive MoveKind where
  | fetch | evict | rekey
  deriving DecidableEq, Repr

/-- A page-map entry (R216): with the stack that holds the frame and the frame's number there (R218), the checkpoint marks
of R411, the granules dirty at the cut and those whose write-back is in flight (R226), and the order of the last access
(R225). -/
structure Page where
  state : PageState := .unbacked
  move : MoveKind := .fetch
  poison : Bool := false
  snap : Bool := false
  key : Bool := false
  stack : Fin 12 := 0
  frame : Nat := 0
  dirty : BitVec 32 := 0
  cutDirty : BitVec 32 := 0
  flying : BitVec 32 := 0
  /-- In flight to the alternate server; written again since their write-back began (R226, R227). -/
  flying1 : BitVec 32 := 0
  fresh : BitVec 32 := 0
  /-- Written since the cut; cut write-back in flight (R226, R412). -/
  newer : BitVec 32 := 0
  cutSent : BitVec 32 := 0
  copied : Bool := false
  written : Bool := false
  used : Nat := 0
  deriving DecidableEq, Repr

/-- A page fetch in progress (R223): source in use, bytes so far, and the next byte expected. -/
structure Fetch where
  source : Fin 2 := 0
  bytes : Mem := []
  next : Nat := 0
  deriving DecidableEq, Repr

/-- The states of a version (R267); `absent` is a bank that holds none. -/
inductive VerState where
  | absent | building | ready | current | retiring | bad
  deriving DecidableEq, Repr

/-- A bank and the version it holds (R251, R267): manifest bytes, whether verified, the digest it must have, the STORE
shards in transmitted form, the shards whose SHA3-512 has been taken (R265), the copies that wait for it, and the peer
services in progress (R268). Shards are keyed 2^16 x shard + tensor. -/
structure Bank where
  state : VerState := .absent
  version : Word := 0
  manifest : List Byte := []
  verified : Bool := false
  digest : List Byte := []
  stored : Tab (List Byte) := []
  checked : NatSet := []
  toCheck : Tab (List Byte) := []
  /-- Stored shards with an uncorrectable stack error (R252). -/
  eccShards : NatSet := []
  services : Nat := 0
  stepPin : Bool := false
  deriving DecidableEq, Repr

/-- A shard being obtained, or the manifest of a version, which stands as tensor 65,536 (R254, R265; log 16): version, tensor,
shard, index into the source list, time of the first failure, whether a
hold was reported, bytes so far, whether the loop waits its 1 ms. -/
structure Obtain where
  version : Word
  tensor : Nat
  shard : Nat
  idx : Nat := 0
  firstFail : Option Nat := none
  reported : Bool := false
  bytes : List Byte := []
  retry : Bool := false
  deriving DecidableEq, Repr

/-- A chain push held before its demand (R255). -/
structure Push where
  version : Word
  tensor : Nat
  shard : Nat
  source : Half
  bytes : List Byte := []
  complete : Bool := false
  deriving DecidableEq, Repr

/-- A weight cache unit (R248 to R250): tensor, view, unit number, version, the member transfers that have touched it, the
shards it still needs, those obtained for it, and its 65,536 bytes once present; `parity` is set while one of them has bad
parity (R252). -/
structure CacheUnit where
  tensor : Nat
  view : Bool
  unit : Nat
  version : Word
  touches : List (Nat × Nat × Nat) := []
  needs : List Nat := []
  got : Tab (List Byte) := []
  parity : Bool := false
  bytes : Option Mem := none
  deriving DecidableEq, Repr

/-- A retained copy of deadline mode (R288): block, whether it is a pre-pass byte, wire bytes, and the engine it went to. -/
structure Retained where
  block : Nat
  prepass : Bool
  wire : List Byte
  dest : Half
  deriving DecidableEq, Repr

/-- One level of one gradient target entry in the current step (R282 to R296): own values by block (32 FP32 patterns)
with their count, bytes and blocks arrived from upstream and by bypass, the next block to process, the pre-pass
progress, the upstream switched away from, notices, bypasses, retained copies and the digests. A bypass copy is kept with
its sender. `sentTo` and `preSentTo` bound the blocks and pre-pass bytes that left before the step's rerun (R297). -/
structure RedLevel where
  own : Tab (List Nat) := []
  cnt : Tab Nat := []
  pre : Tab Nat := []
  preByp : Tab (Half × Nat) := []
  preNext : Nat := 0
  agreed : Tab Nat := []
  inReg : Tab (List Byte) := []
  inByp : Tab (Half × List Byte) := []
  next : Nat := 0
  switched : Option Nat := none
  preSwitched : Option Nat := none
  notice : Option (Half × Nat) := none
  preNotice : Option (Half × Nat) := none
  bypassed : List Half := []
  preBypassed : List Half := []
  retained : List Retained := []
  digests : Vector DWord 4 := Vector.replicate 4 0
  ownDigest : DWord := 0
  delivered : Nat := 0
  sentTo : Nat := 0
  preSentTo : Nat := 0
  sums : Tab (List Nat × Nat × Bool) := []
  deriving DecidableEq, Repr

/-- A skip record (R291). -/
structure SkipRec where
  step : DWord
  entry : Nat
  level : Fin 2
  prepass : Bool
  skipped : Half
  recorder : Half
  block : Nat
  deriving DecidableEq, Repr

/-- An error entry of a replay record (R238, R424). -/
structure ErrRec where
  side : Fin 4
  code : Nat
  stream : Nat
  mem : Nat
  seq : Nat
  piece : Nat
  deriving DecidableEq, Repr

/-- The step series of a context (R337, R422): command seed, data position of index 0, index of the next step. -/
structure Series where
  seed : DWord
  pos : DWord
  index : Nat
  deriving DecidableEq, Repr

/-- A cut record (R406, R417, R519). -/
structure CutRecord where
  number : Nat := 0
  time : Nat := 0
  step : DWord := 0
  series : Option Series := none
  armed : Bool := false
  current : Option Word := none
  pending : Option Word := none
  vmode : Bool := false
  redMode : Bool := false
  headroom : Nat := 2
  /-- RPL_HEAD at the hold of the previous cut and at its own (R425). -/
  recFrom : Nat := 0
  recTo : Nat := 0
  replayComplete : Bool := true
  /-- The manifest as it was sent, or as the cut was restored from; empty before (R417, R420). -/
  manifest : List Byte := []
  deriving DecidableEq, Repr

/-- Progress of the drain of a cut (R412): seals awaited, local copies done, the next page toward the buddy, pages
acknowledged, records and manifest sent, and the physical time of its last progress. `onlyHomes`: the drain is abandoned but for
its cut write-backs and seals, which a restore to its cut finishes (R419). -/
structure Drain where
  sealed : Bool := false
  sealWait : List Half := []
  nextPage : Nat := 0
  unacked : NatSet := []
  recordsSent : Bool := false
  manifestSent : Bool := false
  manifestAcked : Bool := false
  progressAt : Nat := 0
  onlyHomes : Bool := false
  deriving DecidableEq, Repr

/-- The states of the buddy area and of a durable slot (R414, R429). -/
inductive AreaState where
  | empty | filling | valid | invalid
  deriving DecidableEq, Repr

/-- The area a context keeps for its partner (R414, R415). -/
structure BuddyArea where
  state : AreaState := .empty
  cut : Nat := 0
  bytes : Mem := []
  pagesGot : NatSet := []
  /-- Pages whose bytes arrive, with the number of bytes that have. -/
  asm : Tab Nat := []
  crcBad : Bool := false
  records : List Byte := []
  manifest : List Byte := []
  /-- A manifest that arrives, before its END. -/
  incoming : List Byte := []
  forwarding : Bool := false
  forwardSlot : Fin 2 := 0
  lastDurable : Option (Fin 2) := none
  /-- The context of the partner whose cut the area holds (R416). -/
  owner : Nat := 0
  update : DWord := 0
  deriving DecidableEq, Repr

/-- A RESTORE in progress (R420). -/
structure Restore where
  source : Fin 3
  digest : List Byte
  manifest : List Byte := []
  manifestOk : Bool := false
  bytes : Mem := []
  got : NatSet := []
  /-- Pages whose bytes arrive, with the number of bytes that have. -/
  asm : Tab Nat := []
  wrote : Bool := false
  rollbacks : List Half := []
  deriving DecidableEq, Repr

/-- The checkpoint state of a context (R404 to R422). -/
structure Ckpt where
  cut : CutRecord := {}
  phase : Fin 5 := 0
  slots : Vector AreaState 2 := Vector.replicate 2 .empty
  /-- T of a scheduled CAPO; T of the cut that is pending; the latest durable slot (R408, R409, R415). -/
  pendingAt : Option Nat := none
  due : Option Nat := none
  durableSlot : Option (Fin 2) := none
  /-- An undrained record of the context was overwritten (R425). -/
  replayLost : Bool := false
  holding : Bool := false
  holdSince : Nat := 0
  /-- SEALs sent and not yet answered: server and cut number. -/
  sealsOut : List (Half × Nat) := []
  /-- The same instant in physical time, for the bound of the hold (R409). -/
  holdPhys : Nat := 0
  snapshot : Mem := []
  homeCopies : Tab Mem := []
  drain : Option Drain := none
  area : BuddyArea := {}
  restore : Option Restore := none
  lastPeriodic : Nat := 0
  /-- The cut that is pending is, or includes, a periodic one (R408). -/
  periodicDue : Bool := false
  /-- Every SEAL_ACK of the in-memory cut has arrived (R418). -/
  sealedCut : Bool := true
  /-- A ROLLBACK of a recovery reset or RESTORE waits for the cut's write-backs and seals; the homes that have not answered the
  ROLLBACK of a recovery reset (R419). -/
  rollDue : Bool := false
  rollWait : List Half := []
  deriving DecidableEq, Repr

/-- A scroll as the engine keeps it (R345, R368): bytes, LENGTH and digest (R353). Every table of the scroll is read
from these bytes. -/
structure Scroll where
  bytes : Mem
  length : Nat
  digest : List Byte
  deriving DecidableEq, Repr

/-- The record a replayed step follows (R426): its switches and ended requests. -/
structure ReplayPlan where
  skips : List SkipRec
  errs : List ErrRec
  deriving DecidableEq, Repr

/-- The states of a context (R335). -/
inductive CtxState where
  | free | created | loaded | running | held | tearing
  deriving DecidableEq, Repr

/-- A rectangle of regions (R333). -/
structure Rect where
  fx0 : Fin 8 := 0
  fy0 : Fin 6 := 0
  fx1 : Fin 8 := 0
  fy1 : Fin 6 := 0
  deriving DecidableEq, Repr

/-- A retirement of a context's structures under way: teardown (R340) or the commit of a load (R366). `acks` are the
edges' acknowledgements, `start` the engine time of order 3, `charged` the pages that stay charged to the quota. -/
structure Retire where
  forLoad : Bool
  order : Nat
  acks : BitVec 5
  start : Nat
  charged : Nat
  deriving DecidableEq, Repr

/-- A LOAD_SCROLL in progress (R366): the order reached and the checked scroll. -/
structure Load where
  order : Nat
  scroll : Scroll
  deriving DecidableEq, Repr

/-- A context (R333 to R343, 13, 15, 16). -/
structure Ctx where
  state : CtxState := .free
  gen : Byte := 0
  rect : Rect := {}
  hquota : Nat := 0
  tentries : Nat := 0
  stacked : Nat := 0
  remote : Nat := 0
  transit : BitVec 48 := 0
  /-- Transit grants by region: lowest index and count (R334, R518). -/
  grants : Tab (Nat × Nat) := []
  scroll : Option Scroll := none
  load : Option Load := none
  retire : Option Retire := none
  stale : Bool := false
  needRestore : Bool := false
  /-- Arming and the number of the next step (R336). -/
  armed : Bool := false
  stepNo : DWord := 0
  hostHold : Bool := false
  capoHold : Bool := false
  faultHold : Bool := false
  series : Option Series := none
  /-- The series of the cut governs the next STEP_START (R422). -/
  seriesKept : Bool := false
  /-- A STEP_START is in progress; steps left (none: unbounded) and steps run. -/
  starting : Bool := false
  stepsLeft : Option Nat := none
  stepsRun : Nat := 0
  stepsDone : DWord := 0
  /-- A step is in progress: its number, position, seed and start time. -/
  inStep : Bool := false
  curStep : DWord := 0
  curPos : DWord := 0
  curSeed : DWord := 0
  curIndex : Nat := 0
  stepTime : Nat := 0
  /-- Reruns of the current step, the commit point (R121, R122), and a rerun under way. -/
  reruns : Nat := 0
  committed : Bool := false
  rerunning : Bool := false
  refetchTiles : NatSet := []
  reload : Bool := false
  restored : Bool := false
  released : NatSet := []
  waitVersion : Bool := false
  /-- A restored step waits for the version that its cut records (R273). -/
  mustPend : Bool := false
  /-- Edge-stream members keyed 16,384 x side + stream, then by member. -/
  members : Tab (Tab Member) := []
  /-- Deep range: page map, contents, poisoned lines, lines with an uncorrectable stack error, fetches. -/
  pages : Tab Page := []
  mem : Mem := []
  badLines : NatSet := []
  eccLines : NatSet := []
  fetches : Tab Fetch := []
  /-- Next page of the background fetches of R216; accesses counted, for R225. -/
  bg : Option Nat := none
  accesses : Nat := 0
  sealing : Bool := false
  /-- Wide-buffer granules cleared in this step, 2^24 x wide buffer + granule (R206). -/
  cleared : NatSet := []
  /-- Imbalance (R240) and re-key (R241): counted windows above the ratio, key selector of new frames and the key of each
  selector value (R219), progress. -/
  imbRun : Nat := 0
  rekeyReq : Bool := false
  rekeying : Bool := false
  keySel : Bool := false
  placeKeys : Vector (List Byte) 2 := Vector.replicate 2 []
  /-- Weights (09). -/
  banks : Vector Bank 2 := Vector.replicate 2 {}
  current : Option (Fin 2) := none
  pending : Option Word := none
  pendDigest : List Byte := []
  /-- The target waits unbuilt for a bank (R269); the target that a restored cut records beside the version to run (R273). -/
  pendUnbuilt : Bool := false
  thenPend : Option Word := none
  vmode : Bool := false
  obtains : List Obtain := []
  pushes : List Push := []
  /-- Shards whose push is outstanding though they have come from another entry (R255): version, tensor, shard. -/
  late : List (Word × Nat × Nat) := []
  units : List CacheUnit := []
  /-- Reduction (10), keyed 65,536 x level + entry; records of the step; digests of the last completed step. -/
  reds : Tab RedLevel := []
  redMode : Bool := false
  redHeadroom : Nat := 2
  skips : List SkipRec := []
  errs : List ErrRec := []
  replay : Option ReplayPlan := none
  strDigests : Tab DWord := []
  lastDigests : Tab (Vector DWord 4) := []
  lastStep : DWord := 0
  ckpt : Ckpt := {}
  /-- Hang detection (R432, R433). -/
  silentRun : Nat := 0
  hung : Bool := false
  starved : Bool := false
  advanced : Bool := false
  skipWindow : Bool := false
  deriving DecidableEq, Repr

end Sys2Proof.Machine
end

