-- ==== Sys2Proof/Machine/StateEng.lean ====
section
/-! DEFINITION. The state of the engine outside its contexts: fabric ports, string modules and time (11), rings and
window (12), fret map and flash (13, 16, 17, 18), power and heat (14), health (15), recovery and membership (16),
bring-up (17), security (18), interrupts (19), pins (20); and what the block has put on its interfaces. -/

namespace Sys2Proof.Machine

/-- The states of a fabric port (R319). -/
inductive PortState where
  | down | training | up | quiet
  deriving DecidableEq, Repr

/-- A frame in a port's replay buffer (R305): its sequence number, the frame, times resent. -/
structure Replay where
  seq : Word
  frame : Frame
  resent : Nat
  ctx : Option (Fin 8)
  deriving DecidableEq, Repr

/-- A frame waiting to leave a port: the credit account it spends (stream, class, member), if it is credited (R306), and
the context of ours on whose behalf it goes; `fwd`: it forwards a partner's cut (R415). -/
structure QFrame where
  frame : Frame
  key : Option (Nat × Nat × Nat)
  ctx : Option (Fin 8)
  fwd : Bool := false
  deriving DecidableEq, Repr

/-- A fabric port (R300 to R306): state, lanes trained, partner, next sequence to send and expected, replay buffer,
frames waiting to leave (oldest first), link credit of the partner and spent per class in units of 256 bytes, link
credit granted, frames accepted since the last ACK, and the partner's quiet state. -/
structure Port where
  state : PortState := .down
  lanes : Byte := 0
  partner : Half := 0
  tx : Word := 0
  rx : Word := 0
  replay : List Replay := []
  queue : List QFrame := []
  credit : Vector Word 7 := Vector.replicate 7 0
  spent : Vector Word 7 := Vector.replicate 7 0
  granted : Vector Word 7 := Vector.replicate 7 0
  toAck : Nat := 0
  partnerQuiet : Bool := false
  tried : Bool := false
  fenceSeq : Option Word := none
  /-- The port has trained and the partner's first RESUME is awaited (R305). -/
  resync : Bool := false
  deriving DecidableEq, Repr

/-- An end-to-end credit account (R306): with an engine, of a stream, class and member, on behalf of a context of ours:
frames granted and spent, and the CONTEXT and GENERATION of the grant. -/
structure Account where
  peer : Half
  stream : Nat
  cls : Nat
  mem : Nat
  granted : Nat
  spent : Nat
  ctx : Byte
  gen : Byte
  deriving DecidableEq, Repr

/-- The states of a string-module slot (R319). -/
inductive SlotModule where
  | empty | refused | enabled
  deriving DecidableEq, Repr

/-- The life counters kept for a serial number (R314): laser-on minutes, insertions, minutes above 70 degrees, and
equivalent hours in units of 2^-20 of a minute. -/
structure Life where
  minutes : Nat := 0
  insertions : Nat := 0
  hotMinutes : Nat := 0
  equiv : Nat := 0
  deriving DecidableEq, Repr

/-- A string-module slot (R312 to R314): the factors of the last 24 h, oldest first, in units of 2^-20. -/
structure ModSlot where
  state : SlotModule := .empty
  serial : Nat := 0
  chain : List Byte := []
  life : Life := {}
  factors : List Nat := []
  eol : Bool := false
  hot : Bool := false
  /-- Pages 01h, 02h and 11h as last read (R312). -/
  capabilities : List Byte := []
  thresholds : List Byte := []
  laneStatus : List Byte := []
  deriving DecidableEq, Repr

/-- The states of the time base (R315). -/
inductive TimeState where
  | free | locked | holdover
  deriving DecidableEq, Repr

/-- The time base (R315 to R318): time in units of 2^-32 ns, rate correction per cycle in the same units, whether the
first lock has been taken, the last offset, the last Sync (sequence and our stamp), the Delay_Req outstanding (sequence,
t1, t2, t3), and the PPS input: last edge, whether it is ignored, edges that agree. -/
structure TimeBase where
  now : Nat := 0
  rate : Int := 0
  state : TimeState := .free
  everLocked : Bool := false
  offset : Int := 0
  sync : Option (Half × Nat) := none
  req : Option (Half × Nat × Nat × Nat) := none
  seqId : Half := 0
  ppsLast : Option Nat := none
  ppsIgnore : Bool := false
  ppsGood : Nat := 0
  grandmaster : Bool := false
  deriving DecidableEq, Repr

/-- How far a started command is (R331, R481, R448). -/
inductive CmdPhase where
  | waiting | ceiling | started | keySerial | memberSerial
  deriving DecidableEq, Repr

/-- A command a ring has consumed and not completed. -/
structure Cmd where
  entry : RawEntry
  phase : CmdPhase := .waiting
  /-- It starts ahead of its ring's order (R332, R339, R436). -/
  early : Bool := false
  deriving DecidableEq, Repr

/-- A command ring (R325 to R331). -/
structure Ring where
  head : Word := 0
  en : Bool := false
  cmds : List Cmd := []
  completions : Nat := 0
  key : Option (List Byte) := none
  counter : DWord := 0
  /-- A ceiling being written to flash (R331). -/
  ceilingTo : Option DWord := none
  deriving DecidableEq, Repr

/-- A window slot (R322): kind, context, base, and the staged bytes. -/
structure Window where
  kind : Fin 4 := 0
  ctx : Fin 8 := 0
  base : Nat := 0
  staging : Mem := []
  deriving DecidableEq, Repr

/-- The condemned columns of one row segment, in the order of condemnation (R371). -/
abbrev SegRec := List Nat

/-- The fret map (R370 to R375): condemned columns by segment 128f + r from the factory map and from field records in
order, lost regions, and the placement in force: condemned lists and dead tiles as of the last computation. -/
structure Fret where
  factory : Tab SegRec := []
  fieldCores : List (Nat × Nat) := []
  lost : BitVec 48 := 0
  revision : Word := 0
  /-- The placement in force, by segment (R370). -/
  placed : Tab SegRec := []
  dead : NatSet := []
  /-- A record of a DEAD tile or a lost region has not been followed by a commit (R446). -/
  openRecord : Bool := false
  deriving DecidableEq, Repr

/-- A firmware copy (R457): version, security version, image bytes with header, and whether it is valid. -/
structure FwCopy where
  version : Word := 0
  svn : Byte := 0
  image : List Byte := []
  valid : Bool := false
  deriving DecidableEq, Repr

/-- The serial flash (R331, R448, R457, R459, R474, R481, R314, R395). -/
structure Flash where
  fw : Vector FwCopy 2 := ⟨#[{ valid := true }, {}], rfl⟩
  pendingCopy : Option (Fin 2) := none
  tried : Bool := false
  active : Fin 2 := 0
  minSvn : Byte := 0
  ceilings : Vector DWord 9 := Vector.replicate 9 0
  keySerials : Vector DWord 9 := Vector.replicate 9 0
  memberCeiling : DWord := 0
  owner : Vector (List Byte) 2 := Vector.replicate 2 []
  /-- The CRC-32C trailers of the owner record's copies (R475). -/
  ownerCrc : Vector Word 2 := Vector.replicate 2 0
  lives : Tab Life := []
  cyc10 : Vector Nat 60 := Vector.replicate 60 0
  cyc40 : Vector Nat 60 := Vector.replicate 60 0
  wear : Vector Nat 60 := Vector.replicate 60 0
  deriving DecidableEq, Repr

/-- A record in the replay ring (R424, R425): context, ring offset, length, RPL_HEAD before it, and whether it drained. -/
structure RecPlace where
  ctx : Fin 8
  pos : Nat
  len : Nat
  start : Nat
  drained : Bool
  deriving DecidableEq, Repr

/-- The states of a region (R380), in the order of PWRn_PEG.STATE. -/
inductive RegionState where
  | off | transit | active | stall | rest | park | lost | test
  deriving DecidableEq, Repr

/-- A region's supply (R378 to R382, R394). -/
structure Region where
  state : RegionState := .off
  peg : Nat := 0
  noLink : Bool := false
  polled : Bool := false
  mv : Nat := 0
  amps : Nat := 0
  regTemp : Int := 0
  rate : Nat := 0
  dips : Nat := 0
  armed : Bool := false
  inDip : Bool := false
  /-- Its rail falls to that of REST, until its regulator has answered (R394). -/
  entering : Bool := false
  floorTime : Nat := 0
  highTime : Nat := 0
  silentAtBoot : Bool := false
  deriving DecidableEq, Repr

/-- The sensors of a region or stack (R389 to R393, R395): readings, sensors excluded and marked suspect, hot spots in
disagreement, blind, stalled, near, the highest forecast, and the rainflow stack of turning points. -/
structure Thermal where
  temps : List Int := []
  suspect : BitVec 4 := 0
  disagree : BitVec 2 := 0
  blind : BitVec 2 := 0
  stall : BitVec 2 := 0
  near : BitVec 2 := 0
  forecast : Int := 0
  turns : List Int := []
  cyc10 : Nat := 0
  cyc40 : Nat := 0
  wear : Nat := 0
  deriving DecidableEq, Repr

/-- The budget loop (R383 to R385): power limit, module power now and the last 1 s, the last 10 s of over-limit marks,
whether the burst allowance is spent, a POWER_LIMIT that waits, and the phases whose release was deferred in the step. -/
structure Budget where
  limit : Nat := 42000
  now : Nat := 0
  history : List Nat := []
  burst : List Bool := []
  spent : Bool := false
  pendingLimit : Option Nat := none
  deferred : List (Fin 8 × Nat) := []
  /-- A limit of R383 binds (R387). -/
  binding : Bool := false
  /-- The headroom in W that released phases have left since the last iteration (R385, R387). -/
  room : Int := 0
  /-- Contexts whose deferrable phases the loop holds back, their pegs being as low as they go (R383). -/
  held : List (Fin 8) := []
  /-- The array has lost its state in PARK and has not been reloaded (R397). -/
  arrayLost : Bool := false
  deriving DecidableEq, Repr

/-- The health score (R401 to R403): inputs counted in each 10 s interval, newest first, the score and its timers. -/
structure Health where
  history : List (Vector Nat 5) := []
  last : Vector Nat 5 := Vector.replicate 5 0
  excursions : Nat := 0
  corrected : Nat := 0
  score : Nat := 1000
  raw : Nat := 1000
  top : Nat := 0
  pens : Vector Nat 6 := Vector.replicate 6 0
  rise : List Nat := []
  scores : List Nat := [1000]
  sinceRequest : Option (Nat × Nat) := none
  deriving DecidableEq, Repr

/-- The power states (R396, R397). -/
inductive PowerState where
  | active | rest | park
  deriving DecidableEq, Repr

/-- A suspect core (R434): tile and sign (1 READY without issue, 2 unit without progress, 3 silent, 0 parity). -/
structure Suspect where
  tile : TileId
  reason : Nat
  deriving DecidableEq, Repr

/-- A membership command being reassembled (R447). -/
structure Assembly where
  source : Half
  total : Nat
  bytes : List Byte
  kind : BitVec 24
  deriving DecidableEq, Repr

/-- A membership command accepted but for its serial's ceiling (R448). -/
structure MemberCmd where
  body : List Byte
  ring : Bool
  source : Half
  deriving DecidableEq, Repr

/-- Faults and membership (16): a requested recovery reset (trigger code of R437), the reset in progress, suspects, the
counts, the watchdog, epoch, serial, fence, probation. -/
structure Recovery where
  request : Option Nat := none
  running : Bool := false
  /-- The test of order 5 has begun (R435). -/
  tested : Bool := false
  trigger : Nat := 0
  startTime : Nat := 0
  suspects : List Suspect := []
  /-- Silent cores that hold no tile (R28, R434). -/
  spares : List Core := []
  repeats : Nat := 0
  stepSince : Bool := false
  sample : Mem := []
  epoch : Half := 0
  epochSet : Bool := false
  serial : DWord := 0
  fenced : Bool := false
  probation : Bool := false
  assemblies : List Assembly := []
  memberWait : List MemberCmd := []
  rejects : List (Half × Nat) := []
  rejectSent : List (Half × Nat) := []
  failed : Bool := false
  deriving DecidableEq, Repr

/-- Bring-up (17): order reached, whether the luthier waits in FW_WAIT, ENG_BOOT.FAIL, running copy, whether it is on trial,
nanoseconds since order 1, results of the self-test, ports whose first training attempt is under way, and what a bring-up
that waits in FW_WAIT is to meet. -/
structure Boot where
  order : Nat := 0
  fwWait : Bool := false
  fail : Nat := 0
  copy : Fin 2 := 0
  trial : Bool := false
  fallback : Bool := false
  elapsed : Nat := 0
  new : Nat := 0
  single : Nat := 0
  stackFail : BitVec 12 := 0
  portsLeft : BitVec 64 := 0
  input : Option BringUp := none
  deriving DecidableEq, Repr

/-- An SPDM connection on one transport (R471, R472): version, capabilities and algorithms agreed, the session with its shared
secret, transcript hash and the secrets of either direction, chunks of a large request, the response that leaves in chunks. -/
structure SpdmConn where
  version : Bool := false
  caps : Bool := false
  algs : Bool := false
  session : Option Nat := none
  established : Bool := false
  secret : List Byte := []
  transcript : List Byte := []
  reqSecret : List Byte := []
  rspSecret : List Byte := []
  chunks : List Byte := []
  chunkNext : Nat := 0
  large : List Byte := []
  largeNext : Nat := 0
  deriving DecidableEq, Repr

/-- The security engine (18): the SPDM connections, IDE per protocol with the session that keyed it, its keys and the mode of
CXL.cachemem, an owner record and command keys that wait for their flash writes. -/
structure Security where
  conns : Vector SpdmConn 2 := Vector.replicate 2 {}
  ideIo : Bool := false
  ideCm : Bool := false
  ideIoKey : Option Transport := none
  ideCmKey : Option Transport := none
  ideIoKeys : List Byte := []
  ideCmKeys : List Byte := []
  ideSkid : Bool := false
  ownerWait : Option (List Byte × Transport) := none
  /-- Keys that wait: ring, KEY_SERIAL, key, and the transport of a SET_CMD_KEY. -/
  keyWait : List (Fin 9 × DWord × List Byte × Option Transport) := []
  lastCause : Nat := 0
  deriving DecidableEq, Repr

/-- An entry of the action log (R490). -/
structure Action where
  time : Nat
  kind : Nat
  unit : Nat
  cause : Nat
  arg : Nat
  deriving DecidableEq, Repr

/-- Pins and the host link (R495, R497, R504, R505): levels as driven, `true` for high. -/
structure Pins where
  coldResetN : Bool := false
  regOffN : Bool := false
  thermtripN : Bool := true
  perstN : Bool := true
  /-- CXL_PERST_N was asserted during the recovery reset in progress (R511). -/
  perstInReset : Bool := false
  linkUp : Bool := false
  vectorMasked : Bool := true
  /-- The function mask of MSI-X (R500). -/
  functionMasked : Bool := false
  pendingBit : Bool := false
  deriving DecidableEq, Repr

/-- What an SPDM responder answers (R471): signatures, where the standard calls for one, as the key of R468 makes them; an
`error` carries the code of the SPDM standard. -/
inductive SpdmAnswer where
  | version (versions : List Nat)
  | capabilities (flags size : Nat)
  | algorithms (baseAsym baseHash : Nat) (extAsym : List (Nat × Nat))
  | digests (d : List Byte)
  | certificate (portion : List Byte) (remainder : Nat)
  | challengeAuth (chain nonce signature : List Byte)
  | measurements (blocks : List (Nat × List Byte)) (nonce signature : List Byte)
  | measurementCount (n : Nat)
  | chunkAck (seqNo : Nat)
  | chunk (seqNo : Nat) (last : Bool) (bytes : List Byte)
  | keyExchange (session : Nat)
  | finish | endSession | heartbeat | keyUpdate
  | vendor (code status : Nat) (bytes : List Byte)
  | error (code : Nat)
  deriving DecidableEq, Repr

/-- What the block puts on its interfaces, in order. -/
inductive Output where
  /-- A frame leaves a port with this sequence number and RETX (R303, R305). -/
  | frame (port : Fin 64) (seq : Word) (retx : Bool) (f : Frame)
  /-- A LINK frame (R305). -/
  | link (port : Fin 64) (op : Nat) (seq : Word) (credits : List Word)
  /-- A write to host memory through CXL.cache (R328, R343). -/
  | hostWrite (addr : Nat) (bytes : List Byte)
  | readTailLine (ring : Fin 9)
  | releaseTailLine (ring : Fin 9)
  | backInvalidate (line : Nat)
  | hdmData (line : Nat) (bytes : List Byte) (poisoned : Bool)
  | msix
  | registerData (path : RegPath) (v : Word)
  | spdm (via : Transport) (a : SpdmAnswer)
  | moduleLaser (slot : Fin 16) (on : Bool)
  | moduleChallenge (slot : Fin 16) (bytes : List Byte)
  /-- A read of a module's page over I3C: its 128-byte piece at the given index (R312). -/
  | moduleRead (slot : Fin 16) (page piece : Nat)
  | moduleTime (slot : Fin 16) (now : Nat)
  | regulatorTime (region : Fin 48) (now : Nat)
  | regulatorTarget (region : Fin 48) (mv : Nat)
  | regulatorPoll (region : Fin 48)
  | serdesOff
  /-- PPS_OUT rises (R318). -/
  | pps
  deriving DecidableEq, Repr

end Sys2Proof.Machine
end

