-- ==== Sys2Proof/Machine/State.lean ====
section
/-! DEFINITION. The state of the block, the reasons a step can stop, and the state after reset (R3, R455, R503): the
module as it leaves the factory, COLD_RESET_N low, engine OFF (log 2); every other field at the value the spec gives,
or empty and zero where it gives none (log 3). -/

namespace Sys2Proof.Machine

/-- Why the machine stops with a fault. -/
inductive Fault where
  /-- Raised by a command whose operand byte string has a length that the interface cannot carry (`Instr.wf`): such a
  command cannot be given. Safe. -/
  | malformed
  deriving DecidableEq, Repr

/-- Why a command has no meaning here. -/
inductive Refusal where
  /-- Raised by `exec` for a command not modelled, named as the opcode table names it. Safe. -/
  | notModelled (mnemonic : String)
  deriving DecidableEq, Repr

/-- The state of the block. `pending` is the queue of waiting commands and `out` what the block has put on its
interfaces, both oldest first; `freeCtr` numbers the next free value; `regs` holds the plain registers of BAR0 by
offset, unlisted at their reset value (R12); `latch` and `lowHalf` are the latches of R321, BAR0 and sideband. -/
structure State where
  pending : List Instr
  out : List Output
  /-- Completion records, status blocks that wait for the host link (R477, R505). -/
  hostWait : List Output
  freeCtr : Nat
  regs : Tab Word
  latch : Tab Word
  sideLatch : Tab Word
  lowHalf : Tab Word
  tiles : Tab Tile
  mesh : List InFlight
  /-- Expert-router and selection tables in use, keyed 16 x region + table. -/
  routers : Tab RouterTab
  selections : Tab (List SelQuery)
  ctxs : Vector Ctx 8
  ports : Vector Port 64
  /-- Credits held from other engines and granted to them (R306). -/
  held : List Account
  given : List Account
  /-- Roles of the port plan, by SerDes chiplet; none before the first scroll (R301). -/
  plan : Option (Vector (Fin 4) 16)
  slots : Vector ModSlot 16
  time : TimeBase
  rings : Vector Ring 9
  windows : Vector Window 32
  fret : Fret
  flash : Flash
  regions : Vector Region 48
  thermal : Vector Thermal 60
  budget : Budget
  coolant : Word
  health : Health
  replayRing : Mem
  replayHead : Nat
  /-- Next offset in the replay ring, and the records that stand in it (R424, R425). -/
  replayPos : Nat
  replayLog : List RecPlace
  hng : Recovery
  power : PowerState
  boot : Boot
  sec : Security
  actions : List Action
  actionCount : Nat
  pins : Pins
  /-- Clock domains out of lock (R30, R32). -/
  clkLost : BitVec 40
  deriving DecidableEq, Repr

/-- The machine right after reset: cold reset is held (R503), nothing has been commanded. -/
def State.reset : State where
  pending := []
  out := []
  hostWait := []
  freeCtr := 0
  regs := []
  latch := []
  sideLatch := []
  lowHalf := []
  tiles := []
  mesh := []
  routers := []
  selections := []
  ctxs := Vector.replicate 8 {}
  ports := Vector.replicate 64 {}
  held := []
  given := []
  plan := none
  slots := Vector.replicate 16 {}
  time := {}
  rings := Vector.replicate 9 {}
  windows := Vector.replicate 32 {}
  fret := {}
  flash := {}
  regions := Vector.replicate 48 {}
  thermal := Vector.replicate 60 {}
  budget := {}
  coolant := 0
  health := {}
  replayRing := []
  replayHead := 0
  replayPos := 0
  replayLog := []
  hng := {}
  power := .active
  boot := {}
  sec := {}
  actions := []
  actionCount := 0
  pins := {}
  clkLost := 0

end Sys2Proof.Machine
end

