-- ==== Sys2Proof/Machine/Ops.lean ====
section
/-! DEFINITION. Named operations over the state: registers and causes, tiles and contexts, the interrupt tree (R493 to
R495), the engine state (R3, R4), host writes, and the frame in which every command acts. -/

namespace Sys2Proof.Machine

/-- `v` with element `i` replaced. -/
def vset {α : Type} {n : Nat} (v : Vector α n) (i : Fin n) (x : α) : Vector α n := v.set i.1 x i.2

/-- `v` with element `i` changed. -/
def vmod {α : Type} {n : Nat} (v : Vector α n) (i : Fin n) (f : α → α) : Vector α n := vset v i (f v[i])

/-- The indices 0 to n - 1. -/
def fins (n : Nat) : List (Fin n) := List.finRange n

/-- Index `i` of `n`, 0 when it is out of range. -/
def finOf (n i : Nat) (h : 0 < n := by decide) : Fin n := if g : i < n then ⟨i, g⟩ else ⟨0, h⟩

/-! ### Registers -/

namespace Reg
def engCause := 0x20
def engFaultAt := 0x24
def engIdent := 0x8
def actSel := 0x104
def irqMask := 0x10004
def irqLoc (k : Nat) := 0x10010 + 8 * k
def cmdCause := 0x20000
def cmdLast := 0x20004
def secCause := 0x30000
def scrCause := 0x40000
def scrCtrl := 0x40004
def scrCount := 0x40008
def scrTile := 0x4000C
def scrWord := 0x40010
def scrReruns := 0x40014
def strCause := 0x80000
def strDrops := 0x80004
def strDropAt := 0x80008
def svcCause := 0x80100
def svcAt := 0x80104
def rtrDrops := 0x80108
def rtrNan := 0x8010C
def memCause := 0x100000
def memCtrl := 0x100004
def memErrAt := 0x100008
def memErrPage := 0x10000C
def memErrCount := 0x100010
def memImb := 0x100014
def memMigIn := 0x100018
def memMigOut := 0x10001C
def wstCause := 0x180000
def wstCtrl := 0x180004
def wstHoldAt := 0x180008
def wstHoldShard := 0x18000C
def wstFails := 0x180010
def wstPeer := 0x180014
def grdCause := 0x200000
def grdSkipAt := 0x200004
def grdSkipEntry := 0x200008
def grdSkipBlock := 0x20000C
def grdCounts := 0x200010
def grdInvAt := 0x200014
def grdInvSlice := 0x200018
def grdDigSel := 0x200020
def grdCtl (n : Nat) := 0x200100 + 16 * n
def bwdCause := 0x200F00
def bwdAt := 0x200F04
def accLines := 0x200F08
def fabFec (n : Nat) := 0x280004 + 0x1000 * n
def fabErr (n : Nat) := 0x280008 + 0x1000 * n
def fabCause := 0x2C0000
def fabCtrl := 0x2C0004
def fabDrops := 0x2C000C
def timCause := 0x300000
def timCtrl := 0x300004
def timSrc := 0x300008
def pwrCause := 0x38C000
def pwrCtrl := 0x38C004
def thmCause := 0x400000
def thmCtrl := 0x400004
def thmSel := 0x400008
def ckpCause := 0x480000
def ckpCtrl := 0x480004
def ckpWait := 0x480008
def ckpCounts := 0x480018
def hngCause := 0x500000
def hngCtrl := 0x500004
def hngStat := 0x500008
def hngLast := 0x50000C
def hngCounts := 0x500010
def hngMember := 0x500014
def samplePage := 0x500020
def rplCause := 0x580000
def rplCtrl := 0x580004
end Reg

/-- The Reset column of the plain registers whose reset value is not zero (R12): each from its table in the chapter of
its block. -/
def resetOf (off : Nat) : Nat :=
  if off = 0x8 then 0xFFFF
  else if off = Reg.irqMask then 0x5FFE
  else if off = Reg.scrCtrl then 3
  else if off = Reg.memCtrl then 100 + 24 * 2 ^ 14 + 10 * 2 ^ 21
  else if off = Reg.wstCtrl then 20 + 50 * 2 ^ 10 + 20 * 2 ^ 20
  else if 0x200100 ≤ off ∧ off < 0x200180 ∧ off % 16 = 0 then 2 * 2 + 50 * 2 ^ 5
  else if off = Reg.fabCtrl then 2 + 20 * 2 ^ 5
  else if off = Reg.timCtrl then 4 * 2 ^ 4
  else if off = Reg.timSrc then 0xFFFF
  else if off = Reg.pwrCtrl then 850
  else if off = Reg.thmCtrl then 5 + 20 * 2 ^ 4
  else if off = Reg.ckpCtrl then 700 + 150 * 2 ^ 10 + 100 * 2 ^ 20
  else if off = Reg.ckpWait then 20
  else if off = Reg.hngCtrl then 2 + 2 ^ 7 + 3 * 2 ^ 8 + 60 * 2 ^ 11
  else 0

namespace State

/-- The word stored at a register offset, its reset value when nothing is stored (R12). -/
def reg (s : State) (off : Nat) : Nat := (s.regs.getD off (BitVec.ofNat 32 (resetOf off))).toNat

/-- A register field. -/
def rfld (s : State) (off lo w : Nat) : Nat := fld (s.reg off) lo w

/-- The state with a register stored. -/
def setReg (s : State) (off v : Nat) : State := { s with regs := s.regs.set off (BitVec.ofNat 32 v) }

/-- The state with a register field stored. -/
def setFld (s : State) (off lo w v : Nat) : State := s.setReg off (putFld (s.reg off) lo w v)

/-- A cause or locator bit set by an event (R493, R496). -/
def cause (s : State) (off b : Nat) : State := s.setReg off (s.reg off ||| 2 ^ b)

/-- A cause bit set when a condition holds. -/
def causeIf (s : State) (c : Bool) (off b : Nat) : State := if c then s.cause off b else s

/-- A counter field that holds at its largest value. -/
def count (s : State) (off lo w n : Nat) : State := s.setFld off lo w (satAdd (s.rfld off lo w) n w)

/-- A counter register modulo 2^32. -/
def countMod (s : State) (off n : Nat) : State := s.setReg off (s.reg off + n)

/-- Locator bit `n` of IRQ_LOCk set (R496). -/
def locate (s : State) (k n : Nat) : State :=
  if n < 32 then s.cause (Reg.irqLoc k) n else s.cause (Reg.irqLoc k + 4) (n - 32)

/-- A cause bit and the locator bit that goes with it (R496). -/
def causeAt (s : State) (off b k n : Nat) : State := (s.cause off b).locate k n

/-- The engine time in nanoseconds (R315). -/
def ns (s : State) : Nat := s.time.now / 2 ^ 32

/-- Something put on an interface. -/
def emit (s : State) (o : Output) : State := { s with out := s.out ++ [o] }

/-- The next free value (log 4). -/
def freeWord (s : State) : Word × State := (Config.freeWord s.freeCtr, { s with freeCtr := s.freeCtr + 1 })

/-- The next free byte string (log 4). -/
def freeBytes (s : State) : List Byte × State := (Config.freeBytes s.freeCtr, { s with freeCtr := s.freeCtr + 1 })

/-- The action log, which keeps the most recent 65,536 entries, with one more (R490). -/
def addAction (l : List Action) (a : Action) : List Action :=
  if l.length < 65536 then l ++ [a] else l.tail ++ [a]

/-- A luthier action recorded in the action log (R38, R490). -/
def action (s : State) (kind unit cause arg : Nat) : State :=
  { s with actions := addAction s.actions ⟨s.ns, kind, unit, cause, arg⟩, actionCount := s.actionCount + 1 }

/-! ### Tiles and contexts -/

/-- A tile; unlisted tiles are as after reset. -/
def tile (s : State) (t : TileId) : Tile := s.tiles.getD t.1 {}

/-- The state with a tile replaced. -/
def setTile (s : State) (t : TileId) (x : Tile) : State := { s with tiles := s.tiles.set t.1 x }

/-- The state with a tile changed. -/
def modTile (s : State) (t : TileId) (f : Tile → Tile) : State := s.setTile t (f (s.tile t))

/-- A context. -/
def ctx (s : State) (c : Fin 8) : Ctx := s.ctxs[c]

/-- The state with a context replaced. -/
def setCtx (s : State) (c : Fin 8) (x : Ctx) : State := { s with ctxs := vset s.ctxs c x }

/-- The state with a context changed. -/
def modCtx (s : State) (c : Fin 8) (f : Ctx → Ctx) : State := s.setCtx c (f (s.ctx c))

/-- The state with a port changed. -/
def modPort (s : State) (p : Fin 64) (f : Port → Port) : State := { s with ports := vmod s.ports p f }

/-- The state with a ring changed. -/
def modRing (s : State) (r : Fin 9) (f : Ring → Ring) : State := { s with rings := vmod s.rings r f }

/-- The state with a region changed. -/
def modRegion (s : State) (r : Fin 48) (f : Region → Region) : State := { s with regions := vmod s.regions r f }

/-- The state with a thermal unit changed. -/
def modThermal (s : State) (u : Fin 60) (f : Thermal → Thermal) : State := { s with thermal := vmod s.thermal u f }

end State

/-- Column of a tile (R6). -/
def tileX (t : TileId) : Nat := t.1 % 1024

/-- Row of a tile (R6). -/
def tileY (t : TileId) : Nat := t.1 / 1024

/-- The tile (x, y), if there is one. -/
def tileAt (x y : Nat) : Option TileId :=
  if h : x < 1024 ∧ y < 768 then some ⟨1024 * y + x, by omega⟩ else none

/-- The region of a tile (R6). -/
def regionOf (t : TileId) : Fin 48 :=
  ⟨(tileY t / 128) * 8 + tileX t / 128, by
    have h := t.2; simp only [tileX, tileY]; omega⟩

/-- Local index of a tile within its region (R115). -/
def localIndex (t : TileId) : Nat := 128 * (tileY t % 128) + tileX t % 128

/-- The tile with a local index in a region. -/
def tileIn (r : Fin 48) (i : Nat) : TileId :=
  finOf 786432 (1024 * (128 * (r.1 / 8) + (i / 128) % 128) + 128 * (r.1 % 8) + i % 128)

/-- Is a region inside a rectangle (R333)? -/
def Rect.has (q : Rect) (r : Fin 48) : Bool :=
  decide (q.fx0.1 ≤ r.1 % 8) && decide (r.1 % 8 ≤ q.fx1.1) && decide (q.fy0.1 ≤ r.1 / 8) && decide (r.1 / 8 ≤ q.fy1.1)

/-- The regions of a rectangle, ascending. -/
def Rect.regions (q : Rect) : List (Fin 48) := (fins 48).filter q.has

/-- Columns of tiles in a rectangle. -/
def Rect.width (q : Rect) : Nat := 128 * (q.fx1.1 - q.fx0.1 + 1)

/-- Tiles in a rectangle. -/
def Rect.tiles (q : Rect) : Nat := q.width * (128 * (q.fy1.1 - q.fy0.1 + 1))

/-- Tile `i` of a rectangle in tile index order (R348). -/
def Rect.tile (q : Rect) (i : Nat) : TileId :=
  finOf 786432 (1024 * (128 * q.fy0.1 + i / q.width) + 128 * q.fx0.1 + i % q.width)

/-- Index of a tile in the tile order of a rectangle (R348). -/
def Rect.index (q : Rect) (t : TileId) : Nat := q.width * (tileY t - 128 * q.fy0.1) + (tileX t - 128 * q.fx0.1)

/-- Does the context hold the region? -/
def Ctx.holds (x : Ctx) (r : Fin 48) : Bool := x.state != .free && x.rect.has r

/-- The context that holds a region (R20). -/
def State.ctxOfRegion (s : State) (r : Fin 48) : Option (Fin 8) := (fins 8).find? fun c => (s.ctx c).holds r

/-- The context that holds a tile. -/
def State.ctxOf (s : State) (t : TileId) : Option (Fin 8) := s.ctxOfRegion (regionOf t)

/-- The tiles of a context. -/
def Ctx.tileList (x : Ctx) : List TileId := (List.range x.rect.tiles).map x.rect.tile

/-- Every tile of a context that is listed changed; for changes that leave a tile after reset as it is. -/
def State.modListed (s : State) (c : Fin 8) (f : Tile → Tile) : State :=
  { s with tiles := s.tiles.mapVals fun k t => if (s.ctx c).holds (regionOf (finOf 786432 k)) then f t else t }

/-! ### The engine state and the interrupt tree -/

/-- The conditions of DEGRADED (R446). -/
def State.degraded (s : State) : Bool := (fins 8).any (fun c => (s.ctx c).stale) || s.fret.openRecord

/-- The engine state code, by R3, R4, R335 and R455. -/
def State.engine (s : State) : Nat :=
  if s.hng.failed then 10
  else if s.boot.order < 2 then 0
  else if s.hng.fenced then 9
  else if s.hng.running then 7
  else if s.degraded then 8
  else if s.power = .park then 12
  else if s.power = .rest then 11
  else if s.boot.order < 9 then 1
  else if s.boot.order < 10 then 2
  else if (fins 8).any (fun c => (s.ctx c).state = .running) then 5
  else if (fins 8).any (fun c => (s.ctx c).state = .held) then 6
  else if (fins 8).any (fun c => (s.ctx c).state = .loaded) then 4
  else 3

/-- The leaf registers of each summary bit (R493). -/
def leaves : List (List Nat) :=
  [[Reg.engCause], [Reg.cmdCause], [Reg.secCause], [Reg.scrCause], [Reg.strCause, Reg.svcCause], [Reg.memCause],
   [Reg.wstCause], [Reg.grdCause, Reg.bwdCause], [Reg.fabCause], [Reg.timCause], [Reg.pwrCause], [Reg.thmCause],
   [Reg.ckpCause], [Reg.hngCause], [Reg.rplCause]]

/-- IRQ_SUMMARY (R493): each bit the OR of its leaf registers. -/
def State.summary (s : State) : Nat :=
  (leaves.zipIdx.map fun (l, b) => if l.any (fun o => s.reg o != 0) then 2 ^ b else 0).foldl (· + ·) 0

/-- The summary bits that are not masked. -/
def State.unmasked (s : State) : Nat := s.summary &&& (0x7FFF - s.rfld Reg.irqMask 0 15)

/-- ALERT_N is asserted (R495, R443). -/
def State.alert (s : State) : Bool := s.hng.failed || s.unmasked != 0

/-- The vector is masked, in its table entry or by the function mask (R495, R500). -/
def State.vectorHeld (s : State) : Bool := s.pins.vectorMasked || s.pins.functionMasked

/-- The MSI-X message, or the pending bit while the vector is masked or the link is down (R495). -/
def State.message (s : State) : State :=
  if s.pins.linkUp && !s.vectorHeld then s.emit .msix
  else { s with pins := { s.pins with pendingBit := true } }

/-- A pending message is sent once the vector is unmasked and the link is up, if a cause is still set (R495, R443). -/
def State.release (s : State) : State :=
  if s.pins.linkUp && !s.vectorHeld && s.pins.pendingBit then
    let s := { s with pins := { s.pins with pendingBit := false } }
    if s.alert then s.emit .msix else s
  else s

/-- The SERIAL of an owner record (R474). -/
def ownerSerial (r : List Byte) : Nat := leAt r 4 4

/-- The owner record in force: the valid copy of the higher SERIAL (R475); empty when none was ever accepted. -/
def State.owner (s : State) : List Byte :=
  let a := s.flash.owner[(0 : Fin 2)]
  let b := s.flash.owner[(1 : Fin 2)]
  if ownerSerial a < ownerSerial b then b else a

/-- A record that is not a release is in force (R474). -/
def State.owned (s : State) : Bool :=
  let r := s.owner
  !r.isEmpty && (slice r 128 2592).any (· != 0)

/-- Flag `b` of the owner record (R474, byte 11). -/
def State.ownerFlag (s : State) (b : Nat) : Bool := s.owned && bitAt (leAt s.owner 11 1) b

/-- The engine may read rings and write host memory: link up, and IDE active where the owner requires it (R477). -/
def State.hostReady (s : State) : Bool :=
  s.pins.linkUp && (!s.ownerFlag 1 || (s.sec.ideIo && s.sec.ideCm))

/-- A write to host memory, which waits while the host cannot be reached (R477, R505). -/
def State.hostWrite (s : State) (addr : Nat) (bytes : List Byte) : State :=
  if s.hostReady then s.emit (.hostWrite addr bytes) else { s with hostWait := s.hostWait ++ [.hostWrite addr bytes] }

/-- The writes that waited leave once the host can be reached. -/
def State.flushHost (s : State) : State :=
  if s.hostReady then { s with out := s.out ++ s.hostWait, hostWait := [] } else s

/-! ### The fret map's registers (R375, R376) -/

/-- The condemned columns of segment 128f + r, in order, from a factory list and field records. -/
def Fret.cores (f : Fret) (seg : Nat) : SegRec :=
  f.factory.getD seg [] ++ (f.fieldCores.filter fun r => r.1 == seg).map (·.2)

/-- ENG_FRET_STAT (R376): spare positions of the placement in force that are occupied or condemned, DEAD tiles, FULL. -/
def Fret.stat (f : Fret) : Nat :=
  let used := (f.placed.map fun e => min 2 e.2.length).foldl (· + ·) 0
  used % 2 ^ 14 + (f.dead.length % 2 ^ 13) * 2 ^ 14 + bit (decide (4096 ≤ f.dead.length)) * 2 ^ 27

/-- ENG_SCROLL_STALE (R376). -/
def State.staleMask (s : State) : Nat :=
  ((fins 8).map fun c => if (s.ctx c).stale then 2 ^ c.1 else 0).foldl (· + ·) 0

/-! ### The frame of a command -/

/-- Is the engine FAILED, FENCED, RECOVERING, DEGRADED: what ENG_CAUSE.STATE watches, whichever of them R4 reports (R492). -/
def State.standing (s : State) : Bool × Bool × Bool × Bool := (s.hng.failed, s.hng.fenced, s.hng.running, s.degraded)

/-- What follows a command's own effect, from the state before it: ENG_CAUSE.STATE and FRET (R492), HNG_CAUSE.DEGRADED
on entry (R446), and the message of R495 and R443. -/
def settle (s t : State) : State :=
  if t.boot.order = 0 then t
  else
    let t := t.causeIf (s.standing != t.standing) Reg.engCause 0
    let t := t.causeIf (s.fret.revision != t.fret.revision || s.fret.stat != t.fret.stat || s.fret.lost != t.fret.lost
      || s.staleMask != t.staleMask) Reg.engCause 2
    let t := t.causeIf (!s.degraded && t.degraded) Reg.hngCause 6
    if t.hng.failed then
      if s.hng.failed then t else t.message
    else if (t.unmasked &&& (0x7FFF - s.unmasked)) != 0 then t.message
    else t

/-- The engine serves nothing but reads: OFF (R3) or FAILED (R443). -/
def State.dead (s : State) : Bool := s.hng.failed || s.boot.order == 0

/-- Physical time in ns since order 1 of bring-up, on which the durations not marked as engine time are measured (R11). -/
def State.phys (s : State) : Nat := s.boot.elapsed

/-- A command acts, and in OFF and FAILED, where the engine serves nothing, leaves what `dead` says: its effect on pins and
the host link (R3, R443, R503). -/
def actOr (dead f : State → State) (s : State) : Host.Outcome State Fault Refusal :=
  .next (if s.dead then dead s else settle s (f s))

/-- A command acts: in OFF and FAILED it has no effect (R3, R443). -/
def act (f : State → State) (s : State) : Host.Outcome State Fault Refusal := actOr id f s

/-- A command acts when its byte strings have the lengths its interface carries (`Instr.wf`). -/
def actIf (ok : Bool) (f : State → State) (s : State) : Host.Outcome State Fault Refusal :=
  if ok then act f s else .fault .malformed

/-- The order bring-up stands at once its ports are looked at: order 9 is reached when every port that has a module has
come UP or failed its first attempt (R456). -/
def Boot.orderAfterPorts (b : Boot) : Nat := if b.order = 8 ∧ b.portsLeft = 0 then 9 else b.order

/-- The end of an attempt to train at bring-up: order 9 is reached once every port that has a module has come UP or
failed its first attempt (R456). -/
def State.bootPorts (s : State) : State :=
  { s with boot := { s.boot with order := s.boot.orderAfterPorts } }

/-- One 50 MHz cycle of the module oscillator with no command waiting: the time base advances by 20 ns and the rate
correction (R27, R315), and bring-up goes on. DESIGN CHOICE, log 1. Held in reset nothing happens (R503), and in FAILED the
ENG registers stand (R443). -/
def idle (s : State) : State :=
  if s.boot.order = 0 then s
  else
    { s with
      time := { s.time with now := ((s.time.now : Int) + 20 * 2 ^ 32 + s.time.rate).toNat % 2 ^ 96 }
      boot := (if s.hng.failed then s.boot
        else { s.boot with elapsed := s.boot.elapsed + 20, order := s.boot.orderAfterPorts }) }

end Sys2Proof.Machine
end

