-- ==== Sys2Proof/Machine/Flags.lean ====
section
/-! DEFINITION. Faults of tiles and what they start: TILE_ERR and TILE_FAULT (R69, R72), the parity actions (R120 to
R125), fault holds (R338) and requests for a recovery reset (R435). -/

namespace Sys2Proof.Machine

/-- Bit of a cause in TILE_ERR (R72). -/
def TileCause.bit : TileCause → Nat
  | .parity => 0
  | .illegal => 1
  | .handle => 2
  | .format => 3
  | .string => 4
  | .sync => 5

/-- A recovery reset requested with a trigger code of R437 and suspects (R435). During RECOVERING the trigger joins the
reset in progress, and its suspects join the test of R439 if that test has not begun. -/
def State.requestReset (s : State) (trigger : Nat) (sus : List Suspect) : State :=
  let h := s.hng
  let new := sus.filter fun x => !(h.suspects.any fun y => y.tile == x.tile)
  if h.running then
    if h.tested then s else { s with hng := { h with suspects := h.suspects ++ new } }
  else { s with hng := { h with request := some (h.request.getD trigger), suspects := h.suspects ++ new } }

/-- The task slot of a fault, its record with the index of the faulting instruction, and the discard of its queued
commands (R69, R64): unit commands behind the head of a queue, and sends not yet read. The command at the head of a unit's
queue executes already, and completes; a post has given its credit, and stays. DEDUCED, log 14. -/
def Tile.faultSlot (x : Tile) (k : Fin 8) (c : TileCause) (pc : BitVec 11) : Tile :=
  let drop := fun q : List UnitCmd => q.take 1 ++ (q.drop 1).filter fun u => u.slot != k
  { x with
    slots := vmod x.slots k fun z => { z with state := .faulted, held := none }
    tensorQ := drop x.tensorQ
    vectorQ := drop x.vectorQ
    functionQ := drop x.functionQ
    strs := x.strs.map fun (z : Str) => { z with sends := z.sends.filter fun q => q.slot != k || q.read }
    runs := x.runs.map fun r => match r with
      | some r => if r.slot = k then none else some r
      | none => none
    err := x.err ||| BitVec.ofNat 6 (2 ^ c.bit)
    fault := if bitAt x.fault.toNat 3 then x.fault
      else BitVec.ofNat 32 (k.1 + 8 + pc.toNat * 2 ^ 4 + c.bit * 2 ^ 15)
    eligible := x.eligible && x.last != k }

/-- A tile without the commands, string contents and chains of the step (R121, R339). -/
def Tile.discard (x : Tile) : Tile :=
  { x with
    stopped := true
    tensorQ := []
    vectorQ := []
    functionQ := []
    strs := x.strs.map fun t => { t with posts := [], sends := [], credits := 0 }
    runs := Vector.replicate 4 none
    chainsDone := Vector.replicate 4 0 }

/-- Every tile of a context stops issuing (R121, R340). -/
def State.stopTiles (s : State) (c : Fin 8) : State := s.modListed c fun t => { t with stopped := true }

/-- A member of an edge stream without its staging; `sentEnd` and what completed stay (R121, R123). -/
def Member.discard (m : Member) : Member :=
  { m with cur := none, arrived := [], asm := none, staged := [], credits := 0, stop := .none }

/-- Queued commands, string contents, edge staging, packets and open service requests of a context discarded (R121,
R181, R339). -/
def State.discardWork (s : State) (c : Fin 8) : State :=
  let s := s.modListed c Tile.discard
  let mine := fun k (_ : Nat) => (s.ctx c).holds (finOf 48 (k / 16))
  let s := { s with
    mesh := s.mesh.filter fun p => p.pkt.ctx != c
    routers := s.routers.keep fun k _ => !mine k 0
    selections := s.selections.keep fun k _ => !mine k 0 }
  s.modCtx c fun x => { x with members := x.members.mapVals fun _ ms => ms.mapVals fun _ m => m.discard }

/-- A context put under a fault hold: a RUNNING context is HELD at once, a LOADED one keeps the hold (R338). -/
def State.faultHold (s : State) (c : Fin 8) : State :=
  let s := s.modCtx c fun x =>
    { x with faultHold := true, state := if x.state = .running then .held else x.state }
  s.stopTiles c

/-- Escalation (R124), with its suspects. -/
def State.escalate (s : State) (sus : List Suspect) : State :=
  ((s.cause Reg.scrCause 3).count Reg.scrReruns 16 16 1).requestReset 1 sus

/-- The suspect of a parity escalation (R434): the tile named in SCR_PAR_TILE. -/
def State.paritySuspect (s : State) : List Suspect :=
  ((tileAt (s.rfld Reg.scrTile 0 10) (s.rfld Reg.scrTile 10 10)).map fun t => (⟨t, 0⟩ : Suspect)).toList

/-- A parity event of a context recorded and acted upon by its source code (R120, R121, R124, R125). -/
def State.parityEvent (s : State) (t : TileId) (c : Fin 8) (src slot word : Nat) : State :=
  let first := s.rfld Reg.scrCause 0 3 == 0
  let s := s.cause Reg.scrCause (if src < 2 then 0 else src - 1)
  let s := s.count Reg.scrCount 0 32 1
  let s := if first then
      (s.setReg Reg.scrTile (tileX t + tileY t * 2 ^ 10 + src * 2 ^ 20 + slot * 2 ^ 24 + 2 ^ 27)).setReg Reg.scrWord word
    else s
  let x := s.ctx c
  if src = 3 then s.escalate s.paritySuspect
  else
    let s := if src = 2 then s.modCtx c fun x => { x with refetchTiles := x.refetchTiles.add t.1 } else s
    if x.rerunning || x.state != .running then s
    else if x.committed || decide (s.rfld Reg.scrCtrl 0 3 < x.reruns + 1) then s.escalate s.paritySuspect
    else
      let s := (s.count Reg.scrReruns 0 16 1).discardWork c
      s.modCtx c fun x => { x with reruns := x.reruns + 1, rerunning := true }

/-- A task faults at instruction `pc` (R69): a parity cause by its source code and word, any other holds the context. -/
def State.taskFault (s : State) (t : TileId) (k : Fin 8) (pc : BitVec 11) (cause : TileCause) (src word : Nat) : State :=
  let s := s.modTile t fun x => x.faultSlot k cause pc
  match s.ctxOf t with
  | none => s
  | some c =>
    if cause = .parity then s.parityEvent t c src k.1 word
    else
      let first := s.rfld Reg.engCause 3 1 == 0
      let s := s.cause Reg.engCause 3
      let s := if first then
          s.setReg Reg.engFaultAt (tileX t + tileY t * 2 ^ 10 + c.1 * 2 ^ 20 + cause.bit * 2 ^ 23 + 2 ^ 26)
        else s
      s.faultHold c

/-- May the tile advance a handshake? Its context runs and its region is supplied and not in stall (R380, R393). -/
def State.tileRuns (s : State) (t : TileId) : Bool :=
  !(s.tile t).stopped && s.regions[regionOf t].state == .active && !s.hng.running && s.power == .active

end Sys2Proof.Machine
end

