-- ==== Sys2Proof/Machine/Operands.lean ====
section
/-! DEFINITION. Operand forms of tile instructions: class fields (R73 to R76, R137, R167, R513 to R517), scalar
registers (R62), address words and handles (R108 to R111), scratchpad reads and writes with parity and zero tags (R107,
R119, R162), the interlock (R66) and element layouts (R46, R102, R512). -/

namespace Sys2Proof.Machine

/-- The 64-bit word of an instruction (R73). -/
def word (cls op : Nat) (f : Fields) : DWord := BitVec.ofNat 64 (cls * 2 ^ 60 + op * 2 ^ 54 + f.toNat)

/-- A scalar register; `s0` reads as zero (R62). -/
def Slot.reg (z : Slot) (i : Nat) : Word := if i % 16 = 0 then 0 else z.regs[finOf 16 (i % 16)]

/-- A scalar register written; a write to `s0` is ignored (R62). -/
def Slot.setReg (z : Slot) (i : Nat) (v : Word) : Slot :=
  if i % 16 = 0 then z else { z with regs := vset z.regs (finOf 16 (i % 16)) v }

/-! ### Scratchpad access -/

/-- The handle-table entry `h` (R108); bits [23:0] of entry 0 always read as 0x00B0_0C00 (R109). -/
def Tile.entry (x : Tile) (h : Nat) : Nat :=
  let e := Memory.readLE x.pad (4 * h) 4
  if h = 0 then 0xB00C00 + (e / 2 ^ 24) * 2 ^ 24 else e

/-- Is a word's parity bad (R119)? -/
def Tile.badWord (x : Tile) (w : Nat) : Bool := x.badWords.has w

/-- The first word of bad parity among the words of a span of lines (R119). -/
def Tile.badIn (x : Tile) (sp : List Span) : Option Nat :=
  x.badWords.find? fun w => sp.any fun l => decide (l.at_ / 64 ≤ w / 16) && decide (w / 16 < l.at_ / 64 + l.lines)

/-- The first line among spans whose tags have bad parity, by its first word (R163). -/
def Tile.badTagIn (x : Tile) (sp : List Span) : Option Nat :=
  (x.badTags.find? fun l => sp.any fun p => decide (p.at_ / 64 ≤ l) && decide (l < p.at_ / 64 + p.lines)).map (16 * ·)

/-- A quarter's zero tag after a wide write: set when the quarter is all zero (R162). -/
def Tile.retag (x : Tile) (q : Nat) : Tile :=
  if (Memory.readBytes x.pad (16 * q) 16).all (· == 0) then { x with clearTags := x.clearTags.del q }
  else { x with clearTags := x.clearTags.add q }

/-- A wide write of bytes at `a`: fresh parity for every word it touches, tags of every quarter of its lines set by
content, and the tag cleared where it merges part of a word (R107, R119, R162). -/
def Tile.wideWrite (x : Tile) (a : Nat) (bs : List Byte) : Tile :=
  if bs.isEmpty then x
  else
    let e := a + bs.length
    let x := { x with
      pad := Memory.writeBytes x.pad a bs
      badWords := x.badWords.delRange (a / 4) ((e + 3) / 4 - a / 4)
      badTags := x.badTags.delRange (a / 64) ((e + 63) / 64 - a / 64) }
    let x := (List.range (4 * ((e + 63) / 64 - a / 64))).foldl (fun x i => x.retag (4 * (a / 64) + i)) x
    let x := if a % 4 = 0 then x else { x with clearTags := x.clearTags.add (a / 16) }
    if e % 4 = 0 then x else { x with clearTags := x.clearTags.add (e / 16) }

/-- The tag of the quarter of word `w` cleared, of which a write merged a part (R162). -/
def Tile.merged (x : Tile) (w : Nat) : Tile := { x with clearTags := x.clearTags.add (w / 4) }

/-- The words a byte write merges in part (R107). -/
def mergedWords (a n : Nat) : List Nat :=
  if n = 0 then []
  else
    (if a % 4 = 0 then [] else [a / 4]) ++ (if (a + n) % 4 = 0 then [] else [(a + n) / 4])

/-- A narrow write of a word: fresh parity, and the tag of its quarter cleared (R162). -/
def Tile.narrowWrite (x : Tile) (a : Nat) (v : Word) : Tile :=
  { x with
    pad := Memory.writeLE x.pad a 4 v.toNat
    badWords := x.badWords.del (a / 4)
    badTags := x.badTags.del (a / 64)
    clearTags := x.clearTags.add (a / 16) }

/-- The 32-bit word at byte `a` of the narrow view. -/
def Tile.narrowRead (x : Tile) (a : Nat) : Word :=
  if a = 0 then BitVec.ofNat 32 (x.entry 0) else BitVec.ofNat 32 (Memory.readLE x.pad a 4)

/-! ### Handles -/

/-- Why a resolution fails: a cause HANDLE, or a parity event on the entry's word (R110). -/
inductive Resolve where
  | ok (at_ : Nat)
  | handle
  | parity (word : Nat)
  deriving DecidableEq, Repr

/-- The kind of access a resolution serves: a read, a write by a slot, or a result write of a service unit (R169). -/
inductive Access where
  | read
  | write (k : Fin 8)
  | result
  deriving DecidableEq, Repr

/-- Resolution of an address word under R110: the first byte of the access. -/
def Tile.resolve (x : Tile) (quota : Nat) (addr : Word) (wide : Bool) (extent : Nat) (acc : Access) : Resolve :=
  let w := addr.toNat
  let h := w / 2 ^ 26
  let off := w % 2 ^ 16
  let e := x.entry h
  let base := fld e 0 10
  let size := fld e 10 10
  let hint := fld e 21 2
  let base := if h = 0 then 0 else base
  if x.badWord h then .parity h
  else if !bitAt e 23 then .handle
  else if fld w 16 10 ≠ 0 then .handle
  else if quota ≤ h then .handle
  else if h ≠ 0 ∧ (base < 4 ∨ 1023 < base + size) then .handle
  else if hint = 3 then .handle
  else if wide = bitAt e 20 then .handle
  else if off % (if wide then 64 else 4) ≠ 0 then .handle
  else if extent ≠ 0 ∧ (size + 1) * 64 < off + extent then .handle
  else
    let bad := match acc with
      | .read => false
      | .write k => !bitAt e (24 + k.1) || hint == 2
      | .result => hint == 2
    if bad then .handle else .ok (64 * base + off)

/-- Lines of a byte extent. -/
def linesOf (bytes : Nat) : Nat := (bytes + 63) / 64

/-! ### The interlock of R66 -/

/-- Do two spans share a line? -/
def Span.meets (p q : Span) : Bool :=
  decide (p.at_ / 64 < q.at_ / 64 + q.lines) && decide (q.at_ / 64 < p.at_ / 64 + p.lines)

/-- Do two lists of spans share a line? -/
def meetAny (ps qs : List Span) : Bool := ps.any fun p => qs.any p.meets

/-- Lines of a string's transfer (R135). -/
def Str.lines (t : Str) : Nat := fld t.desc.toNat 4 8 + 1

/-- The lines that unfinished commands of slot `k` read, and those they write: unit commands, posts not yet filled,
sends not yet read, and what its chains read and write, rings and other operands (R66, R141, R149). Stage commands of a
chain are ordered among themselves by R150 (`ChainRun.held`). -/
def Tile.busy (x : Tile) (k : Fin 8) (chain : Bool) : List Span × List Span :=
  let us := (x.tensorQ ++ x.vectorQ ++ x.functionQ).filter fun u => u.slot == k && (!chain || u.chain.isNone)
  let posts := x.strs.toList.flatMap fun t =>
    (t.posts.filter fun p => p.slot == k && !p.done && (!chain || p.chain.isNone)).map fun p => Span.mk p.at_ t.lines
  let sends := x.strs.toList.flatMap fun t =>
    (t.sends.filter fun p => p.slot == k && !p.read && (!chain || p.chain.isNone)).map fun p => Span.mk p.at_ t.lines
  let runs := if chain then [] else (x.runs.toList.filterMap id).filter fun r => r.slot == k
  let rings := runs.flatMap fun r => r.rings.map fun g => Span.mk g.at_ (linesOf (g.size * g.slots))
  (us.flatMap (·.reads) ++ sends ++ rings ++ runs.flatMap (·.reads),
    us.flatMap (·.writes) ++ posts ++ rings ++ runs.flatMap (·.writes))

/-- Must an access of slot `k` wait under R66? -/
def Tile.interlocked (x : Tile) (k : Fin 8) (chain : Bool) (reads writes : List Span) : Bool :=
  let b := x.busy k chain
  meetAny reads b.2 || meetAny writes b.2 || meetAny writes b.1

/-! ### Elements in memory -/

/-- Bytes a run of `n` elements takes from a line boundary, to the end of the last MX or BSI16 block (R110, R512). -/
def extentOf (f : Fmt) (n : Nat) : Nat :=
  if n = 0 then 0
  else if f.isMX then ((n + 1023) / 1024) * f.blockLines * 64
  else if f = .bsi16 then ((n + 31) / 32) * 68
  else (n * f.width + 7) / 8

/-- The lines of a run of `n` elements at byte `a` that a command reads or writes: of a last MX block that it does not
fill, the element lines of its own rows and the scale line (R512). -/
def runSpans (f : Fmt) (a n : Nat) : List Span :=
  if n = 0 then []
  else if f.isMX ∧ n % 1024 ≠ 0 then
    let whole := n / 1024 * f.blockLines
    let last := a + 64 * whole
    (if whole = 0 then [] else [⟨a, whole⟩]) ++
      [⟨last, linesOf (n % 1024 * f.width / 8)⟩, ⟨last + 64 * f.elementLines, 1⟩]
  else [⟨a, linesOf (extentOf f n)⟩]

/-- The word in which a run of `n` elements ends within a byte, which its write merges (R107). -/
def nibbleWord (f : Fmt) (a n : Nat) : Option Nat :=
  if f.isMX || f == .bsi16 || n * f.width % 8 == 0 then none else some ((a + n * f.width / 8) / 4)

/-- Bit address of element `i` of a run at byte `a` in a format that is not BSI16 (R46, R85, R512). -/
def elemBit (f : Fmt) (a i : Nat) : Nat :=
  if f.isMX then 8 * (a + (i / 1024) * f.blockLines * 64) + (i % 1024) * f.width else 8 * a + i * f.width

/-- Byte address of the scale of row `r` (32 elements each) of an MX run (R512). -/
def scaleByte (f : Fmt) (a r : Nat) : Nat := a + (r / 32) * f.blockLines * 64 + f.elementLines * 64 + r % 32

/-- `w` bits at a bit address. -/
def readBits (m : Mem) (bitAddr w : Nat) : Nat :=
  fld (Memory.readLE m (bitAddr / 8) ((bitAddr % 8 + w + 7) / 8)) (bitAddr % 8) w

/-- The element's bit pattern. -/
def elemPat (m : Mem) (f : Fmt) (a i : Nat) : Nat := readBits m (elemBit f a i) f.width

/-- The exact value of element `i` of a run, before any narrowing (R87, R96). -/
def elemAt (m : Mem) (f : Fmt) (a i : Nat) : Val :=
  if f = .bsi16 then (Bsi.ofBytes (Memory.readBytes m (a + 68 * (i / 32)) 68)).widen (i % 32)
  else if f.isMX then mxVal f (Memory.read m (scaleByte f a (i / 32))).toNat (elemPat m f a i)
  else elemVal f (elemPat m f a i)

/-- The 32-bit lane of an element (R51): a binary32 pattern, or the two's-complement pattern for the integer formats. An
FP32 element keeps its pattern. DEDUCED, log 10. -/
def laneAt (m : Mem) (f : Fmt) (a i : Nat) : Nat :=
  if f = .fp32 then elemPat m f a i
  else if f.isInt then unsigned 32 (signed f.width (elemPat m f a i))
  else round32 (elemAt m f a i)

/-- The value of a lane: an integer in the integer group, otherwise binary32. -/
def laneVal (int : Bool) (p : Nat) : Val := if int then .ofInt (signed 32 p) else val32 p

/-- The bit string of element patterns of one width, as a number. -/
def packPats (w : Nat) (ps : List Nat) : Nat := ps.foldr (fun p acc => p % 2 ^ w + 2 ^ w * acc) 0

/-- What writes `n` results at byte `a` in a format: runs of bytes at addresses (R46, R76, R88, R101, R512). `exp` gives
the exponent source of a BSI16 destination: headroom, or the exponent taken from a register. -/
def encodeRun (m : Mem) (f : Fmt) (a : Nat) (exp : Nat ⊕ Nat) (vs : List Val) : List (Nat × List Byte) :=
  let n := vs.length
  if n = 0 then []
  else if f = .bsi16 then
    (List.range (n / 32)).map fun b =>
      let xs := (vs.drop (32 * b)).take 32
      let e := match exp with
        | .inl h => min 255 (naturalExp xs + h)
        | .inr e => e
      (a + 68 * b, (bsiQuantise e 0 1 false false xs []).bytes68)
  else if f.isMX then
    let rows := (List.range (n / 32)).map fun r => mxBlock f ((vs.drop (32 * r)).take 32)
    (List.range ((n + 1023) / 1024)).flatMap fun b =>
      let own := (rows.drop (32 * b)).take 32
      let scales := own.flatMap fun row => leBytes 1 row.1
      let at_ := scaleByte f a (32 * b)
      (a + b * f.blockLines * 64, own.flatMap fun row => leBytes (f.width * 4) (packPats f.width row.2)) ::
        (if own.length = 32 then [(at_, scales ++ List.replicate 32 0)] else [(at_ + 32, List.replicate 32 0), (at_, scales)])
  else
    let bits := n * f.width
    let v := packPats f.width (vs.map (encodeElem f))
    let full := bits / 8
    if bits % 8 = 0 then [(a, leBytes full v)]
    else
      let last := putFld (Memory.read m (a + full)).toNat 0 (bits % 8) (v / 2 ^ (8 * full))
      [(a, leBytes (full + 1) (v % 2 ^ (8 * full) + last * 2 ^ (8 * full)))]

/-- The outcome of the attempt to issue an instruction: a task fault with a parity source and word, a block with reason
and object (R71), or the state after the instruction's effect and the slot's next index, with the tiles whose BLOCKED
slots may now be able to issue. -/
inductive Issue where
  | fault (c : TileCause) (src word : Nat)
  | block (r : BlockReason) (obj : Nat)
  | go (s : State) (next : Nat) (wakes : List TileId)
  deriving DecidableEq, Repr

/-- The fault of a failed resolution: HANDLE, or PARITY of source code 1. -/
def Resolve.issue (r : Resolve) (f : Nat → Issue) : Issue :=
  match r with
  | .ok a => f a
  | .handle => .fault .handle 0 0
  | .parity w => .fault .parity 1 w

/-- The handle quota of the tile's context (R110, R333). -/
def State.hquotaOf (s : State) (t : TileId) : Nat :=
  match s.ctxOf t with
  | some c => (s.ctx c).hquota
  | none => 0

/-- The slot of a tile. -/
def State.slotOf (s : State) (t : TileId) (k : Fin 8) : Slot := (s.tile t).slots[k]

/-- A slot of a tile changed. -/
def State.modSlot (s : State) (t : TileId) (k : Fin 8) (f : Slot → Slot) : State :=
  s.modTile t fun x => { x with slots := vmod x.slots k f }

end Sys2Proof.Machine
end

