-- ==== Sys2Proof/Machine/Scroll.lean ====
section
/-! DEFINITION. Reading a scroll (13_scroll_and_fret_map.md): header, directory and the tables of every section, each
read from the scroll's bytes by the layout of its rule. -/

namespace Sys2Proof.Machine

namespace Scroll

/-- The little-endian field of `n` bytes at byte `a`. -/
def u (q : Scroll) (a n : Nat) : Nat := Memory.readLE q.bytes a n

/-- `n` bytes at byte `a`. -/
def bytesAt (q : Scroll) (a n : Nat) : List Byte := Memory.readBytes q.bytes a n

/-- Directory entries (R346). -/
def sections (q : Scroll) : Nat := q.u 16 4

/-- The directory: type, count, offset, length (R347). -/
def dir (q : Scroll) : List (Nat × Nat × Nat × Nat) :=
  (List.range (min 32 q.sections)).map fun i =>
    let a := 64 + 32 * i
    (q.u a 2, q.u (a + 4) 4, q.u (a + 8) 8, q.u (a + 16) 8)

/-- The entry of a section type: count, offset, length; `none` when the section is absent. -/
def sec? (q : Scroll) (ty : Nat) : Option (Nat × Nat × Nat) := (q.dir.find? fun e => e.1 == ty).map (·.2)

/-- First byte of a section, if present. -/
def at? (q : Scroll) (ty : Nat) : Option Nat := (q.sec? ty).map fun e => e.2.1

/-- Field of a section at byte `a`, 0 when the section is absent. -/
def su (q : Scroll) (ty a n : Nat) : Nat :=
  match q.at? ty with
  | some o => q.u (o + a) n
  | none => 0

/-- The rectangle the scroll was compiled for: FX0, FX1, FY0, FY1 (R346). -/
def rect (q : Scroll) : Nat × Nat × Nat × Nat := (q.u 20 1, q.u 21 1, q.u 22 1, q.u 23 1)

/-- TRANSIT mask (R346). -/
def transit (q : Scroll) : Nat := q.u 24 6

/-- POS_ADVANCE (R346). -/
def posAdvance (q : Scroll) : Nat := q.u 32 8

/-- VMODE is FOLLOW (R346). -/
def follow (q : Scroll) : Bool := q.u 40 1 == 1

/-- MB (R346, R204). -/
def mb (q : Scroll) : Nat := q.u 41 1

/-- NCACHE of a side, in units of 64 MiB (R346). -/
def ncache (q : Scroll) (side : Nat) : Nat := q.u (44 + side) 1

/-- WSTORE in bytes (R346). -/
def wstore (q : Scroll) : Nat := q.u 48 4 * 2 ^ 31

/-! ### Tiles -/

/-- PROG and FSET of tile `i` of the rectangle (R349). -/
def tileMap (q : Scroll) (i : Nat) : Nat × Nat := (q.su 3 (16 * i) 2, q.su 3 (16 * i + 2) 2)

/-- The program `p`: instructions from index 0 (R350). -/
def program (q : Scroll) (p : Nat) : List DWord :=
  match q.sec? 4 with
  | none => []
  | some (n, o, _) =>
    let start := q.u (o + 8 * p) 4
    let len := q.u (o + 8 * p + 4) 2
    (List.range len).map fun i => BitVec.ofNat 64 (q.u (o + 8 * n + 8 * (start + i)) 8)

/-- Task-table entry `j` of tile `i`: enable, entry, inject, initial s1 to s15 (R351). -/
def task (q : Scroll) (i : Nat) (j : Fin 8) : TaskEntry :=
  let a := 512 * i + 64 * j.1
  let e := q.su 5 a 2
  { enable := bitAt e 15, entry := BitVec.ofNat 11 e, inject := BitVec.ofNat 8 (q.su 5 (a + 2) 1)
    regs := Vector.ofFn fun r : Fin 16 => if r.1 = 0 then 0 else BitVec.ofNat 32 (q.su 5 (a + 4 * r.1) 4) }

/-- Waiter slot of event `e` of tile `i` (R351). -/
def waiter (q : Scroll) (i : Nat) (e : Fin 16) : Fin 8 :=
  let b := q.su 5 (512 * i + 64 * (e.1 / 2) + 3) 1
  finOf 8 (fld b (4 * (e.1 % 2)) 3)

/-- Route-table entry `n` of tile record `i`: tiles of the rectangle, then of the transit regions (R348, R131). -/
def route (q : Scroll) (i : Nat) (n : Fin 32) : Word := BitVec.ofNat 32 (q.su 6 (128 * i + 4 * n.1) 4)

/-- First byte of function set `k` in the scroll (R350). -/
def funSet (q : Scroll) (k : Nat) : Nat := (q.at? 7).getD 0 + 24896 * k

/-- Offset and length of the image block of tile `i` (R356). -/
def handleBlock (q : Scroll) (i : Nat) : Nat × Nat := (q.su 8 (16 * i) 8, q.su 8 (16 * i + 8) 4)

/-- Local string descriptor (R357). -/
def strDesc (q : Scroll) (i : Nat) (n : Fin 32) : DWord := BitVec.ofNat 64 (q.su 9 (512 * i + 8 * n.1) 8)

/-- Chain descriptor (R357). -/
def chainDesc (q : Scroll) (i : Nat) (n : Fin 4) : BitVec 512 := BitVec.ofNat 512 (q.su 9 (512 * i + 256 + 64 * n.1) 64)

/-! ### Edge streams -/

/-- The number of descriptors of a side (R358). -/
def edgeCount (q : Scroll) (side : Nat) : Nat := q.su 0xA (16 * side + 8) 4

/-- An edge-stream descriptor (R136, R358); 0 when there is none. -/
def edge (q : Scroll) (side n : Nat) : Nat :=
  if n < q.edgeCount side then
    let a := q.su 0xA (16 * side) 8
    if a = 0 then 0 else q.su 0xA (a + 64 * n) 64
  else 0

/-- The mark-list offset of a stream in the EDGE section, if it has a directory entry (R358). -/
def markDir (q : Scroll) (side n : Nat) : Option Nat :=
  let a := q.su 0xA 64 8
  let e := (List.range (q.su 0xA 72 4)).find? fun i => q.su 0xA (a + 16 * i) 2 == side + 4 * n
  e.map fun i => q.su 0xA (a + 16 * i + 8) 8

/-- The fabric-stream entries: side, stream, role, peer (R307, R358). -/
def fabric (q : Scroll) : List (Nat × Nat × Nat × Nat) :=
  let a := q.su 0xA 80 8
  (List.range (q.su 0xA 88 4)).map fun i =>
    let e := q.su 0xA (a + 16 * i) 2
    (e % 4, e / 4, q.su 0xA (a + 16 * i + 2) 1, q.su 0xA (a + 16 * i + 4) 2)

/-! ### Service tables -/

/-- Offset in the scroll of expert-router table `t` of region `f` (R359), if present. -/
def router? (q : Scroll) (f : Fin 48) (t : Fin 16) : Option Nat :=
  let o := q.su 0xB (128 * f.1 + 4 * t.1) 4
  if o = 0 then none else (q.at? 0xB).map (· + o)

/-- Offset in the scroll of selection table `t` of region `f` (R359), if present. -/
def select? (q : Scroll) (f : Fin 48) (t : Fin 16) : Option Nat :=
  let o := q.su 0xB (128 * f.1 + 64 + 4 * t.1) 4
  if o = 0 then none else (q.at? 0xB).map (· + o)

end Scroll

/-- A segment (R213, R360). -/
structure Segment where
  base : Nat
  pages : Nat
  cls : Nat
  shared : Bool
  init : Nat
  sides : Nat
  regions : Nat
  src0 : Nat
  src1 : Nat
  home : Nat
  deriving DecidableEq, Repr

/-- A version-layout entry (R243, R361). -/
structure Layout where
  tensor : Nat
  sfmt : Nat
  tfmt : Nat
  sp : Nat
  timg : Bool
  pack : Nat
  side : Nat
  stream : Bool
  srclist : Nat
  srows : Nat
  scols : Nat
  shardRows : Nat
  reads : Nat
  treads : Nat
  perm : Nat
  deriving DecidableEq, Repr

/-- A gradient target entry (R196, R362). -/
structure Target where
  tensor : Nat
  bi0 : Nat
  bj0 : Nat
  nbi : Nat
  nbj : Nat
  side : Nat
  wide : Bool
  stream : Nat
  mask : Nat
  ostream : Nat
  wbuf : Nat
  woff : Nat
  deriving DecidableEq, Repr

/-- A mask entry (R199, R362). -/
structure MaskEntry where
  kind : Nat
  tensor : Nat
  rows : Nat
  cols : Nat
  map : Nat
  deriving DecidableEq, Repr

/-- A phase record (R386). -/
structure Phase where
  num : Nat
  preds : List Nat
  side : Nat
  stream : Nat
  count : Nat
  duration : Nat
  /-- Energy per region, in units of 10 mJ. -/
  energy : List Nat
  deriving DecidableEq, Repr

namespace Scroll

/-- The segments (R360). -/
def segments (q : Scroll) : List Segment :=
  let a := q.su 0xC 8 8
  (List.range (min 256 (q.su 0xC 0 4))).map fun i =>
    let e := a + 64 * i
    { base := q.su 0xC e 8, pages := q.su 0xC (e + 8) 4, cls := q.su 0xC (e + 12) 1
      shared := q.su 0xC (e + 13) 1 == 1, init := q.su 0xC (e + 14) 1, sides := q.su 0xC (e + 15) 1
      regions := q.su 0xC (e + 16) 8, src0 := q.su 0xC (e + 24) 2, src1 := q.su 0xC (e + 26) 2
      home := q.su 0xC (e + 32) 8 }

/-- The spill base of a region (R115, R360); 0 for none. -/
def spillBase (q : Scroll) (f : Fin 48) : Nat :=
  let a := q.su 0xC 16 8
  if a = 0 then 0 else q.su 0xC (a + 8 * f.1) 8

/-- The wide buffers: base and length (R204, R360). -/
def wides (q : Scroll) : List (Nat × Nat) :=
  let a := q.su 0xC 24 8
  (List.range (min 8 (q.su 0xC 4 4))).map fun i => (q.su 0xC (a + 16 * i) 8, q.su 0xC (a + 16 * i + 8) 8)

/-- The image directory: segment index, offset in the section, length (R360). -/
def images (q : Scroll) : List (Nat × Nat × Nat) :=
  let a := q.su 0xC 32 8
  (List.range (q.su 0xC 40 4)).map fun i =>
    (q.su 0xC (a + 32 * i) 2, q.su 0xC (a + 32 * i + 8) 8, q.su 0xC (a + 32 * i + 16) 8)

/-- The version layout (R361). -/
def layouts (q : Scroll) : List Layout :=
  let a := q.su 0xD 8 8
  (List.range (q.su 0xD 0 4)).map fun i =>
    let e := a + 64 * i
    { tensor := q.su 0xD e 2, sfmt := q.su 0xD (e + 2) 1, tfmt := q.su 0xD (e + 3) 1, sp := q.su 0xD (e + 4) 1
      timg := q.su 0xD (e + 5) 1 == 1, pack := q.su 0xD (e + 6) 1, side := q.su 0xD (e + 7) 1
      stream := q.su 0xD (e + 8) 1 == 1, srclist := q.su 0xD (e + 9) 1, srows := q.su 0xD (e + 12) 4
      scols := q.su 0xD (e + 16) 4, shardRows := q.su 0xD (e + 20) 4, reads := q.su 0xD (e + 24) 4
      treads := q.su 0xD (e + 28) 4, perm := q.su 0xD (e + 32) 8 }

/-- The layout entry of a tensor. -/
def layout? (q : Scroll) (tensor : Nat) : Option Layout := q.layouts.find? fun l => l.tensor == tensor

/-- A source list: role and engine of each used entry, and DOWN (R253, R361). -/
def sources (q : Scroll) (l : Nat) : List (Nat × Half) × Half :=
  let a := q.su 0xD 16 8 + 32 * l
  (((List.range 4).map fun i => (q.su 0xD (a + 4 * i) 1, BitVec.ofNat 16 (q.su 0xD (a + 4 * i + 2) 2))).filter
    fun e => e.1 != 0xFF, BitVec.ofNat 16 (q.su 0xD (a + 16) 2))

/-- Has the scroll a reduction section (R336)? -/
def reduces (q : Scroll) : Bool := (q.sec? 0xE).isSome

/-- The gradient target entries (R362). -/
def targets (q : Scroll) : List Target :=
  let a := q.su 0xE 32 8
  (List.range (q.su 0xE 24 4)).map fun i =>
    let e := a + 32 * i
    { tensor := q.su 0xE e 2, bi0 := q.su 0xE (e + 2) 2, bj0 := q.su 0xE (e + 4) 2, nbi := q.su 0xE (e + 6) 2
      nbj := q.su 0xE (e + 8) 2, side := q.su 0xE (e + 10) 1, wide := q.su 0xE (e + 11) 1 == 1
      stream := q.su 0xE (e + 12) 2, mask := q.su 0xE (e + 14) 2, ostream := q.su 0xE (e + 16) 2
      wbuf := q.su 0xE (e + 18) 1, woff := q.su 0xE (e + 24) 8 }

/-- The mask entries (R362). -/
def masks (q : Scroll) : List MaskEntry :=
  let a := q.su 0xE 40 8
  (List.range (min 1024 (q.su 0xE 28 4))).map fun i =>
    let e := a + 32 * i
    { kind := q.su 0xE e 1, tensor := q.su 0xE (e + 2) 2, rows := q.su 0xE (e + 4) 4, cols := q.su 0xE (e + 8) 4
      map := q.su 0xE (e + 16) 8 }

/-- The mask entry of a target, if it has one (R196). -/
def maskOf (q : Scroll) (t : Target) : Option MaskEntry := if t.mask = 0xFFFF then none else q.masks[t.mask]?

/-- First byte of the map bits that a target's slices use, and their number of bytes (R199). -/
def maskSpan (m : MaskEntry) (t : Target) : Nat × Nat :=
  if m.kind = 2 then (m.map + m.cols / 16 * (2 * t.bi0) / 8, (m.cols / 16 * (2 * t.nbi) + 7) / 8 + 1)
  else (m.map + 4 * t.bi0, 4 * t.nbi)

/-- The pages that hold those bits. -/
def maskPages (q : Scroll) (t : Target) : List Nat :=
  match q.maskOf t with
  | none => []
  | some m =>
    let (a, n) := maskSpan m t
    (List.range ((a % 2 ^ 21 + n + 2 ^ 21 - 1) / 2 ^ 21)).map (a / 2 ^ 21 + ·)

/-- The ring of a level, its members in order (R277, R362). -/
def ring (q : Scroll) (level : Fin 2) : List Half :=
  (List.range (min 64 (q.su 0xE level.1 1))).map fun k => BitVec.ofNat 16 (q.su 0xE (128 + 128 * level.1 + 2 * k) 2)

/-- UPD0, UPD1 and BUDDY, those that are not 0xFFFF (R277). -/
def updates (q : Scroll) : List Half :=
  ([16, 18, 20].map fun a => (BitVec.ofNat 16 (q.su 0xE a 2) : Half)).filter (· != 0xFFFF)

/-- The phases (R386). -/
def phases (q : Scroll) : List Phase :=
  match q.sec? 0xF with
  | none => []
  | some (n, o, _) => (List.range n).map fun i =>
    let a := o + 128 * i
    { num := q.u a 2, preds := (List.range (min 8 (q.u (a + 2) 1))).map fun j => q.u (a + 4 + 2 * j) 2
      side := q.u (a + 20) 2 % 4, stream := q.u (a + 20) 2 / 4, count := q.u (a + 24) 4, duration := q.u (a + 28) 4
      energy := (List.range 48).map fun f => q.u (a + 32 + 2 * f) 2 }

/-- PARTNER, DSERVER (R363); 0xFFFF when the section is absent. -/
def partner (q : Scroll) : Half := if (q.sec? 0x10).isSome then BitVec.ofNat 16 (q.su 0x10 2 2) else 0xFFFF
def dserver (q : Scroll) : Half := if (q.sec? 0x10).isSome then BitVec.ofNat 16 (q.su 0x10 4 2) else 0xFFFF

/-- HOMEAREA and BUDDYAREA in bytes, and PERIOD in seconds (R363). -/
def homeArea (q : Scroll) : Nat := q.su 0x10 8 1 * 2 ^ 31
def buddyArea (q : Scroll) : Nat := q.su 0x10 10 2 * 2 ^ 31
def period (q : Scroll) : Nat := q.su 0x10 12 4

/-- The state ranges: base, pages, writer (R363, R404). -/
def ranges (q : Scroll) : List (Nat × Nat × Half) :=
  (List.range (min 64 (q.su 0x10 0 2))).map fun i =>
    (q.su 0x10 (64 + 16 * i) 8, q.su 0x10 (72 + 16 * i) 4, BitVec.ofNat 16 (q.su 0x10 (76 + 16 * i) 2))

/-- The lost-region mask and the DEAD tiles that DEFECTS lists, as the entries' words (R348, R375). -/
def defectsLost (q : Scroll) : Nat := q.su 1 0 6

end Scroll

/-! ### Fields of descriptors -/

/-- An edge-stream descriptor (R136). -/
structure EdgeDesc where
  raw : Nat
  deriving DecidableEq, Repr

namespace EdgeDesc
def valid (e : EdgeDesc) : Bool := bitAt e.raw 0
def outbound (e : EdgeDesc) : Bool := bitAt e.raw 1
def kind (e : EdgeDesc) : Nat := fld e.raw 2 2
def persist (e : EdgeDesc) : Bool := bitAt e.raw 4
def inplace (e : EdgeDesc) : Bool := bitAt e.raw 5
def zskip (e : EdgeDesc) : Bool := bitAt e.raw 6
def lines (e : EdgeDesc) : Nat := fld e.raw 8 8 + 1
def prefetch (e : EdgeDesc) : Nat := fld e.raw 16 7
def str (e : EdgeDesc) : Nat := fld e.raw 24 5
def ctx (e : EdgeDesc) : Nat := fld e.raw 29 3
def x0 (e : EdgeDesc) : Nat := fld e.raw 32 10
def y0 (e : EdgeDesc) : Nat := fld e.raw 42 10
def x1 (e : EdgeDesc) : Nat := fld e.raw 52 10
def y1 (e : EdgeDesc) : Nat := fld e.raw 62 10
def base (e : EdgeDesc) : Nat := fld e.raw 72 52
def mstride (e : EdgeDesc) : Nat := fld e.raw 128 32
def span (e : EdgeDesc) : Nat := fld e.raw 160 32
def markCount (e : EdgeDesc) : Nat := fld e.raw 192 32
def markBase (e : EdgeDesc) : Nat := fld e.raw 224 52
def fstream (e : EdgeDesc) : Nat := fld e.raw 280 24
/-- Lines per row of the pattern (R228). -/
def rowl (e : EdgeDesc) : Nat := fld e.raw 304 8 + 1
/-- Extent and stride of dimension `d` of the pattern (R228). -/
def count (e : EdgeDesc) (d : Nat) : Nat := fld e.raw (304 + 8 + 40 * d) 16
def stride (e : EdgeDesc) (d : Nat) : Int := signed 24 (fld e.raw (304 + 8 + 40 * d + 16) 24)
/-- Members of the stream (R136). -/
def width (e : EdgeDesc) : Nat := e.x1 + 1 - e.x0
def members (e : EdgeDesc) : Nat := e.width * (e.y1 + 1 - e.y0)
/-- The tile of member `i` (R136). -/
def memberTile (e : EdgeDesc) (i : Nat) : Option TileId := tileAt (e.x0 + i % e.width) (e.y0 + i / e.width)
/-- The member index of a tile, if it is a member (R136). -/
def memberOf (e : EdgeDesc) (t : TileId) : Option Nat :=
  let x := tileX t
  let y := tileY t
  if e.valid && decide (e.x0 ≤ x) && decide (x ≤ e.x1) && decide (e.y0 ≤ y) && decide (y ≤ e.y1) then
    some ((y - e.y0) * e.width + (x - e.x0))
  else none
/-- The base of member `i` (R136). -/
def memberBase (e : EdgeDesc) (i : Nat) : Nat := (e.base + i * e.mstride) % 2 ^ 52
end EdgeDesc

namespace Str
def valid (t : Str) : Bool := bitAt t.desc.toNat 0
def outbound (t : Str) : Bool := bitAt t.desc.toNat 1
def kind (t : Str) : Nat := fld t.desc.toNat 2 2
def outst (t : Str) : Nat := fld t.desc.toNat 12 6 + 1
def ch (t : Str) : Nat := fld t.desc.toNat 18 5
def peerX (t : Str) : Nat := fld t.desc.toNat 23 10
def peerY (t : Str) : Nat := fld t.desc.toNat 33 10
def side (t : Str) : Fin 4 := finOf 4 (fld t.desc.toNat 23 2)
def stream (t : Str) : Nat := fld t.desc.toNat 25 14
def pstr (t : Str) : Fin 32 := finOf 32 (fld t.desc.toNat 43 5)
def inplace (t : Str) : Bool := bitAt t.desc.toNat 48
def zskip (t : Str) : Bool := bitAt t.desc.toNat 49
end Str

/-- A context's scroll. -/
def State.scroll? (s : State) (c : Fin 8) : Option Scroll := (s.ctx c).scroll

/-- An edge stream of a context; invalid when it has none. -/
def State.edgeOf (s : State) (c : Fin 8) (side n : Nat) : EdgeDesc :=
  ⟨match s.scroll? c with | some q => q.edge side n | none => 0⟩

/-- The context that owns edge stream `n` of a side: the one whose scroll describes it (R136), of several the lowest-numbered.
DESIGN CHOICE, log 9. -/
def State.edgeCtx (s : State) (side n : Nat) : Option (Fin 8) :=
  (fins 8).find? fun c => let e := s.edgeOf c side n; e.valid && e.ctx == c.1

/-- A member of a context's edge stream. -/
def Ctx.member (x : Ctx) (side n m : Nat) : Member := (x.members.getD (16384 * side + n) []).getD m {}

/-- A context with a member changed. -/
def Ctx.modMember (x : Ctx) (side n m : Nat) (f : Member → Member) : Ctx :=
  { x with members := x.members.set (16384 * side + n) ((x.members.getD (16384 * side + n) []).set m (f (x.member side n m))) }

/-- The state with a member changed. -/
def State.modMember (s : State) (c : Fin 8) (side n m : Nat) (f : Member → Member) : State :=
  s.modCtx c fun x => x.modMember side n m f

end Sys2Proof.Machine
end

