-- ==== Sys2Proof/Machine/TileControl.lean ====
section
/-! DEFINITION. Control, scalar and narrow-memory instructions (R514, R515, R516): what each does when a slot issues it.
`w` is the 64-bit instruction (R73), `k` the slot, and `pc` its index. -/

namespace Sys2Proof.Machine

/-- The reserved bits [34:0] of the control class (R514). -/
def controlReserved (w : Nat) : Bool := fld w 0 35 != 0

/-- The slot continues at the next index. -/
def goNext (s : State) (pc : Nat) : Issue := .go s (pc + 1) []

/-- `nop` (R514). -/
def doNop (s : State) (_t : TileId) (_k : Fin 8) (pc w : Nat) : Issue :=
  if controlReserved w then .fault .illegal 0 0 else goNext s pc

/-- A branch that is taken when `taken` holds; a target above 1,535 faults whether taken or not (R514). -/
def doBranch (taken : Word → Bool) (s : State) (t : TileId) (k : Fin 8) (pc w : Nat) : Issue :=
  let target := fld w 43 11
  if controlReserved w then .fault .illegal 0 0
  else if 1535 < target then .fault .illegal 0 0
  else if taken ((s.slotOf t k).reg (fld w 39 4)) then .go s target []
  else goNext s pc

/-- `br` (R514). -/
def doBr : State → TileId → Fin 8 → Nat → Nat → Issue := doBranch fun _ => true

/-- `bz` (R514). -/
def doBz : State → TileId → Fin 8 → Nat → Nat → Issue := doBranch fun v => v == 0

/-- `bnz` (R514). -/
def doBnz : State → TileId → Fin 8 → Nat → Nat → Issue := doBranch fun v => v != 0

/-- `yield` (R514); the sequencer is given up by `State.issueAs`. -/
def doYield (s : State) (_t : TileId) (_k : Fin 8) (pc w : Nat) : Issue :=
  if controlReserved w then .fault .illegal 0 0 else goNext s pc

/-- `sig` (R68): a count of 255 faults with SYNC. -/
def doSig (s : State) (t : TileId) (_k : Fin 8) (pc w : Nat) : Issue :=
  let e := finOf 16 (fld w 35 4)
  if controlReserved w then .fault .illegal 0 0
  else if (s.tile t).events[e] = 255 then .fault .sync 0 0
  else .go (s.modTile t fun x => { x with events := vmod x.events e (· + 1) }) (pc + 1) [t]

/-- `wait` (R68): another slot than the event's waiter faults with SYNC; a count of zero blocks. -/
def doWait (s : State) (t : TileId) (k : Fin 8) (pc w : Nat) : Issue :=
  let e := finOf 16 (fld w 35 4)
  if controlReserved w then .fault .illegal 0 0
  else if (s.tile t).waiters[e] ≠ k then .fault .sync 0 0
  else if (s.tile t).events[e] = 0 then .block .wait e.1
  else goNext (s.modTile t fun x => { x with events := vmod x.events e (· - 1) }) pc

/-- `halt` (R62): the slot is DONE. -/
def doHalt (s : State) (t : TileId) (k : Fin 8) (pc w : Nat) : Issue :=
  if controlReserved w then .fault .illegal 0 0
  else goNext (s.modSlot t k fun z => { z with state := .done }) pc

/-- The reserved bits [37:32] of the scalar class (R515). -/
def scalarReserved (w : Nat) : Bool := fld w 32 6 != 0

/-- A scalar operation on RA and the second operand: RB, or IMM32 with IMM set (R515). -/
def doScalar (op : Word → Word → Word) (s : State) (t : TileId) (k : Fin 8) (pc w : Nat) : Issue :=
  if scalarReserved w then .fault .illegal 0 0
  else
    let z := s.slotOf t k
    let b := if bitAt w 41 then BitVec.ofNat 32 w else z.reg (fld w 42 4)
    goNext (s.modSlot t k fun z => z.setReg (fld w 50 4) (op (z.reg (fld w 46 4)) b)) pc

/-- `li` writes IMM32 (R515). -/
def doLi (s : State) (t : TileId) (k : Fin 8) (pc w : Nat) : Issue :=
  if scalarReserved w then .fault .illegal 0 0
  else goNext (s.modSlot t k fun z => z.setReg (fld w 50 4) (BitVec.ofNat 32 w)) pc

/-- `add` (R515, R92: wraps). -/
def doAdd : State → TileId → Fin 8 → Nat → Nat → Issue := doScalar fun a b => a + b

/-- `sub` (R515). -/
def doSub : State → TileId → Fin 8 → Nat → Nat → Issue := doScalar fun a b => a - b

/-- `mul` (R515). -/
def doMul : State → TileId → Fin 8 → Nat → Nat → Issue := doScalar fun a b => a * b

/-- `and` (R515). -/
def doAnd : State → TileId → Fin 8 → Nat → Nat → Issue := doScalar fun a b => a &&& b

/-- `or` (R515). -/
def doOr : State → TileId → Fin 8 → Nat → Nat → Issue := doScalar fun a b => a ||| b

/-- `xor` (R515). -/
def doXor : State → TileId → Fin 8 → Nat → Nat → Issue := doScalar fun a b => a ^^^ b

/-- `shl` by bits [4:0] of the second operand (R515). -/
def doShl : State → TileId → Fin 8 → Nat → Nat → Issue := doScalar fun a b => a <<< (b.toNat % 32)

/-- `shr`, logical (R515). -/
def doShr : State → TileId → Fin 8 → Nat → Nat → Issue := doScalar fun a b => a >>> (b.toNat % 32)

/-- The condition COND of `cmp` (R515); `none` for the reserved codes 6 and 7. -/
def scalarCond : Nat → Option (Word → Word → Bool)
  | 0 => some fun a b => a == b
  | 1 => some fun a b => a != b
  | 2 => some fun a b => a.slt b
  | 3 => some fun a b => !a.slt b
  | 4 => some fun a b => a.ult b
  | 5 => some fun a b => !a.ult b
  | _ => none

/-- `cmp` (R515). -/
def doCmp (s : State) (t : TileId) (k : Fin 8) (pc w : Nat) : Issue :=
  match scalarCond (fld w 38 3) with
  | none => .fault .illegal 0 0
  | some c => doScalar (fun a b => if c a b then 1 else 0) s t k pc w

/-- The reserved bits [45:0] of the narrow memory class (R516). -/
def narrowReserved (w : Nat) : Bool := fld w 0 46 != 0

/-- `ld` (R516): the word at the address word in RA through the narrow view, into RT. -/
def doLd (s : State) (t : TileId) (k : Fin 8) (pc w : Nat) : Issue :=
  if narrowReserved w then .fault .illegal 0 0
  else
    let x := s.tile t
    let z := x.slots[k]
    (x.resolve (s.hquotaOf t) (z.reg (fld w 46 4)) false 4 .read).issue fun a =>
      if x.interlocked k false [⟨a, 1⟩] [] then .block .unit 3
      else if x.badWord (a / 4) then .fault .parity 1 (a / 4)
      else goNext (s.modSlot t k fun z => z.setReg (fld w 50 4) (x.narrowRead a)) pc

/-- `st` (R516): RT to the word at the address word in RA; bytes 0 to 3 refuse it (R109). -/
def doSt (s : State) (t : TileId) (k : Fin 8) (pc w : Nat) : Issue :=
  if narrowReserved w then .fault .illegal 0 0
  else
    let x := s.tile t
    let z := x.slots[k]
    (x.resolve (s.hquotaOf t) (z.reg (fld w 46 4)) false 4 (.write k)).issue fun a =>
      if a = 0 then .fault .handle 0 0
      else if x.interlocked k false [] [⟨a, 1⟩] then .block .unit 3
      else goNext (s.modTile t fun x => x.narrowWrite a (z.reg (fld w 50 4))) pc

end Sys2Proof.Machine
end

