-- ==== Sys2Proof/Machine/TileString.lean ====
section
/-! DEFINITION. String instructions and fused chains (R134 to R142, R148 to R151): what each does when a slot issues it. -/

namespace Sys2Proof.Machine

/-- The reserved bits [39:0] of the string class (R137). -/
def stringReserved (w : Nat) : Bool := fld w 0 40 != 0

/-- A field of a chain descriptor (R357). -/
def chainByte (d : BitVec 512) (i : Nat) : Nat := fld d.toNat (8 * i) 8

/-- Does the chain exist, and has it an IN and an OUT stage (R357)? -/
def chainValid (d : BitVec 512) : Bool := bitAt (chainByte d 0) 0
def chainIn (d : BitVec 512) : Bool := bitAt (chainByte d 0) 1
def chainOut (d : BitVec 512) : Bool := bitAt (chainByte d 0) 2

/-- Stages of a chain in all (R357). -/
def chainStages (d : BitVec 512) : Nat := chainByte d 1 + bit (chainIn d) + bit (chainOut d)

/-- Does a running chain of the tile use string `n` (R142)? -/
def Tile.chainUses (x : Tile) (n : Nat) : Bool :=
  (fins 4).any fun c => x.runs[c].isSome && ((chainIn x.chains[c] && chainByte x.chains[c] 2 == n)
    || (chainOut x.chains[c] && chainByte x.chains[c] 3 == n))

/-- The state with a local string changed. -/
def State.modStr (s : State) (t : TileId) (n : Fin 32) (f : Str → Str) : State :=
  s.modTile t fun x => { x with strs := vmod x.strs n f }

/-- A post gives the producer one credit (R138): the peer tile's string, or the member of the edge stream. -/
def State.giveCredit (s : State) (t : TileId) (z : Str) : State :=
  if z.kind = 0 then
    match tileAt z.peerX z.peerY with
    | some p => s.modStr p z.pstr fun y => { y with credits := y.credits + 1 }
    | none => s
  else
    match s.ctxOf t with
    | none => s
    | some c =>
      let e := s.edgeOf c z.side.1 z.stream
      match e.memberOf t with
      | some m => s.modMember c z.side.1 z.stream m fun y => { y with credits := y.credits + 1 }
      | none => s

/-- The tile whose BLOCKED slots a credit may release. -/
def Str.peerTile (z : Str) : List TileId :=
  if z.kind = 0 then (tileAt z.peerX z.peerY).toList else []

/-- One destination posted on an inbound string (R138). -/
def State.post (s : State) (t : TileId) (n : Fin 32) (k : Fin 8) (at_ : Nat) (ch : Option ChainTag) : State :=
  let s := s.modStr t n fun z =>
    { z with posts := z.posts ++ [⟨k, z.next, at_, [], false, 0, ch⟩], next := z.next + 1 }
  s.giveCredit t (s.tile t).strs[n]

/-- One transfer issued on an outbound string (R139). -/
def State.issueSend (s : State) (t : TileId) (n : Fin 32) (k : Fin 8) (pc : BitVec 11) (at_ : Nat)
    (ch : Option ChainTag) : State :=
  s.modStr t n fun z =>
    { z with sends := z.sends ++ [⟨k, pc, z.next, at_, false, ch⟩], next := z.next + 1, credits := z.credits - 1 }

/-- `recv` (R138, R141, R142). A `recv` with CHAIN set names no string command: STRING. DESIGN CHOICE, log 11. -/
def doRecv (s : State) (t : TileId) (k : Fin 8) (pc w : Nat) : Issue :=
  let n := finOf 32 (fld w 49 5)
  let x := s.tile t
  let z := x.strs[n]
  if stringReserved w then .fault .illegal 0 0
  else if bitAt w 48 || !z.valid || z.outbound || x.chainUses n.1 || decide (z.outst < z.posts.length + 1) then
    .fault .string 0 0
  else
    (x.resolve (s.hquotaOf t) (x.slots[k].reg (fld w 44 4)) true (64 * z.lines) (.write k)).issue fun a =>
      if x.interlocked k false [] [⟨a, z.lines⟩] then .block .unit 3
      else .go (s.post t n k a none) (pc + 1) z.peerTile

/-- `send` without CHAIN (R139, R142). -/
def doSend (s : State) (t : TileId) (k : Fin 8) (pc w : Nat) : Issue :=
  let n := finOf 32 (fld w 49 5)
  let x := s.tile t
  let z := x.strs[n]
  if stringReserved w then .fault .illegal 0 0
  else if !z.valid || !z.outbound || x.chainUses n.1 then .fault .string 0 0
  else if z.credits = 0 then .block .out n.1
  else
    (x.resolve (s.hquotaOf t) (x.slots[k].reg (fld w 44 4)) true (64 * z.lines) .read).issue fun a =>
      if x.interlocked k false [⟨a, z.lines⟩] [] then .block .unit 3
      else .go (s.issueSend t n k (BitVec.ofNat 11 pc) a none) (pc + 1) []

/-- The span and base of a member in force (R148). -/
def Member.spanOf (m : Member) (e : EdgeDesc) : Nat := m.span.getD e.span
def Member.baseOf (m : Member) (e : EdgeDesc) (i : Nat) : Nat := m.base.getD (e.memberBase i)

/-- A member of a persistent stream stands at the end of its span (R148). -/
def Member.atEnd (m : Member) (e : EdgeDesc) : Bool :=
  e.persist && m.spanOf e != 0 && m.next == m.spanStart + m.spanOf e

/-- An arm takes effect on a member that stands at a span boundary (R148). -/
def Member.takeArm (m : Member) (e : EdgeDesc) : Member :=
  match m.arm with
  | some (b, sp) =>
    if m.atEnd e then
      { m with
        base := some b, span := some (if sp = 0 then m.spanOf e else sp), spanStart := m.next, arm := none
        stop := if m.stop = .unarmed then .none else m.stop }
    else m
  | none => m

/-- `arm` (R148, R142). -/
def doArm (s : State) (t : TileId) (k : Fin 8) (pc w : Nat) : Issue :=
  let n := finOf 32 (fld w 49 5)
  let x := s.tile t
  let z := x.strs[n]
  if stringReserved w then .fault .illegal 0 0
  else if bitAt w 48 || !z.valid || z.kind = 0 then .fault .string 0 0
  else
    match s.ctxOf t with
    | none => .fault .string 0 0
    | some c =>
      let e := s.edgeOf c z.side.1 z.stream
      match e.memberOf t with
      | none => .fault .string 0 0
      | some m =>
        if !e.persist || ((s.ctx c).member z.side.1 z.stream m).arm.isSome then .fault .string 0 0
        else
          (x.resolve (s.hquotaOf t) (x.slots[k].reg (fld w 44 4)) true 64 .read).issue fun a =>
            if x.interlocked k false [⟨a, 1⟩] [] then .block .unit 3
            else
              match x.badIn [⟨a, 1⟩] with
              | some b => .fault .parity 0 b
              | none =>
                let r := Memory.readLE x.pad a 64
                let base := fld r 0 52
                if base % 64 ≠ 0 ∨ fld r 52 12 ≠ 0 ∨ fld r 96 416 ≠ 0 then .fault .string 0 0
                else
                  .go (s.modMember c z.side.1 z.stream m fun y =>
                    Member.takeArm { y with arm := some (base, fld r 64 32) } e) (pc + 1) []

/-- `fin` without CHAIN (R140, R233): completes the oldest unfinished command, and on an inbound string writes its
status word to RN. -/
def doFin (s : State) (t : TileId) (k : Fin 8) (pc w : Nat) : Issue :=
  let n := finOf 32 (fld w 49 5)
  let x := s.tile t
  let z := x.strs[n]
  if stringReserved w then .fault .illegal 0 0
  else if !z.valid || x.chainUses n.1 then .fault .string 0 0
  else if z.outbound then
    match z.sends with
    | [] => .fault .string 0 0
    | q :: qs =>
      if q.read then goNext (s.modStr t n fun y => { y with sends := qs }) pc else .block .out n.1
  else
    match z.posts with
    | [] => .fault .string 0 0
    | p :: ps =>
      if p.done then
        goNext ((s.modStr t n fun y => { y with posts := ps }).modSlot t k fun z => z.setReg (fld w 40 4) p.status) pc
      else .block .inp n.1

/-- The handles of a chain's rings resolved for slot `k` at `send` (R149, R111). -/
def Tile.resolveRings (x : Tile) (quota : Nat) (k : Fin 8) (d : BitVec 512) : Nat → Resolve ⊕ List ChainRing
  | 0 => .inr []
  | n + 1 =>
    match x.resolveRings quota k d n with
    | .inl r => .inl r
    | .inr rs =>
      let h := chainByte d (4 + 2 * n)
      let slots := chainByte d (5 + 2 * n)
      let bytes := 64 * (fld (x.entry (h % 64)) 10 10 + 1)
      match x.resolve quota (BitVec.ofNat 32 ((h % 64) * 2 ^ 26)) true bytes (.write k) with
      | .ok a => .inr (rs ++ [⟨a, bytes / slots, slots⟩])
      | r => .inl r

/-- `fin` with CHAIN (R151). -/
def doFinChain (s : State) (t : TileId) (_k : Fin 8) (pc w : Nat) : Issue :=
  let c := finOf 4 (fld w 49 5)
  let x := s.tile t
  if stringReserved w then .fault .illegal 0 0
  else if decide (3 < fld w 49 5) || !chainValid x.chains[c] then .fault .string 0 0
  else if x.chainsDone[c] ≠ 0 then
    goNext (s.modTile t fun x => { x with chainsDone := vmod x.chainsDone c (· - 1) }) pc
  else if x.runs[c].isSome then .block .inp (32 + c.1)
  else .fault .string 0 0

/-- A stage of a chain has completed one iteration; the last stage's last iteration ends the chain (R150, R151). -/
def Tile.chainStep (x : Tile) (tag : ChainTag) : Tile :=
  match x.runs[tag.chain] with
  | none => x
  | some r =>
    let r := { r with completed := modNth r.completed tag.stage (· + 1) }
    if r.completed.getLast? = some r.iters then
      { x with runs := vset x.runs tag.chain none, chainsDone := vmod x.chainsDone tag.chain (· + 1) }
    else { x with runs := vset x.runs tag.chain (some r) }

end Sys2Proof.Machine
end

