-- ==== Sys2Proof/Machine/TileUnit.lean ====
section
/-! DEFINITION. Tensor, vector and function instructions (R44 to R60, R75, R76, R155 to R165, R517): the checks and
resolutions a command obtains at issue (R110, R111). What the units compute is in `UnitExec.lean`. -/

namespace Sys2Proof

/-- Number of a unit in OBJECT (R71). -/
def UnitSel.num : UnitSel → Nat
  | .tensor => 0
  | .vector => 1
  | .function => 2

/-- Depth of a unit's queue (R65). The command that executes has left the queue. DEDUCED, log 12. -/
def UnitSel.depth : UnitSel → Nat
  | .tensor => 4
  | _ => 8

end Sys2Proof

namespace Sys2Proof.Machine

/-- The outcome of planning a unit command: a fault, a wait under R66 before the presence map can be read (R160), or the
command. -/
inductive Plan where
  | fault (c : TileCause) (src word : Nat)
  | wait
  | ok (u : UnitCmd)
  deriving DecidableEq, Repr

/-- The unit of a class (R74). -/
def unitOf (cls : Nat) : UnitSel := if cls = 4 then .tensor else if cls = 5 then .vector else .function

/-- The queue of a unit. -/
def Tile.queue (x : Tile) : UnitSel → List UnitCmd
  | .tensor => x.tensorQ
  | .vector => x.vectorQ
  | .function => x.functionQ

/-- The tile with a unit's queue replaced. -/
def Tile.setQueue (x : Tile) (u : UnitSel) (q : List UnitCmd) : Tile :=
  match u with
  | .tensor => { x with tensorQ := q }
  | .vector => { x with vectorQ := q }
  | .function => { x with functionQ := q }

/-- Is the queue full beside the command that executes? -/
def Tile.full (x : Tile) (u : UnitSel) : Bool := decide (u.depth + 1 ≤ (x.queue u).length)

/-- A slot of a chain's ring: first byte and size (R149). -/
structure RingSlot where
  at_ : Nat
  size : Nat
  deriving DecidableEq, Repr

/-- How the address words of a command resolve in the wide view: address word, extent in bytes, access (R110). -/
abbrev Resolver := Word → Nat → Access → Resolve

/-- Resolution by the tile's handle table as it stands. -/
def Tile.resolver (x : Tile) (quota : Nat) : Resolver := fun addr extent acc => x.resolve quota addr true extent acc

/-- Resolution by the handle table as the chain's `send` found it (R111). -/
def ChainRun.resolver (r : ChainRun) (quota : Nat) : Resolver :=
  ({ pad := r.table, badWords := r.badTable } : Tile).resolver quota

/-- An operand address: a slot of a chain's ring, or resolved from a register's address word. A slot is resolved already
(R111); an extent beyond it faults as one beyond a buffer does (R110). DESIGN CHOICE, log 13. -/
def operand (res : Resolver) (ring : Option RingSlot) (addr : Word) (extent : Nat) (acc : Access) : Resolve :=
  match ring with
  | some g => if g.size < extent then .handle else .ok g.at_
  | none => res addr extent acc

/-- Continue with a resolved address, or fault. -/
def Resolve.plan (r : Resolve) (f : Nat → Plan) : Plan :=
  match r with
  | .ok a => f a
  | .handle => .fault .handle 0 0
  | .parity w => .fault .parity 1 w

/-- A span of `bytes` bytes from a line boundary; none for no bytes. -/
def spanOf (a bytes : Nat) : List Span := if bytes = 0 then [] else [⟨a, linesOf bytes⟩]

/-! ### Tensor class -/

/-- Lines of the presence map of `n` block-sparse blocks (R159). -/
def mapLines (n : Nat) : Nat := (n + 127) / 128

/-- The presence nibble of block `j` (R159). -/
def nibble (m : Mem) (b j : Nat) : Nat := readBits m (8 * b + 4 * j) 4

/-- Present sub-blocks of a nibble. -/
def popNibble (n : Nat) : Nat := fld n 0 1 + fld n 1 1 + fld n 2 1 + fld n 3 1

/-- Lines of block `j` of a block-sparse operand (R159). -/
def sparseLines (m : Mem) (f : Fmt) (b j : Nat) : Nat :=
  let n := nibble m b j
  if n = 0 then 0 else popNibble n * f.subBlockLines + bit f.isMX

/-- Extent in bytes of operand B (R110, R158, R160). -/
def extentB (m : Mem) (f : Fmt) (sp b n : Nat) : Nat :=
  64 * (if sp = 0 then n * f.blockLines
    else if sp = 1 then n * f.blockLines24
    else mapLines n + ((List.range n).map (sparseLines m f b)).foldl (· + ·) 0)

/-- The pairing of R45: both in the float group or both in the integer group. -/
def paired (a b : Fmt) : Bool := (a.tensorFloat && b.tensorFloat) || (a.tensorInt && b.tensorInt)

/-- The checks and resolutions of `mma` (R45, R47, R50, R75, R110, R155, R160). Of several rules that one instruction breaks
at once the first is recorded, here and in every class: reserved bits, then formats, then the operands in the order of
their register fields. DESIGN CHOICE, log 13. -/
def planMma (x : Tile) (res : Resolver) (k : Fin 8) (pc : BitVec 11) (regs : Nat → Word) (w : Nat)
    (ringA ringD : Option RingSlot) (tag : Option ChainTag) : Plan :=
  let n := fld w 21 8
  let sp := fld w 42 2
  let ta := bitAt w 45
  let tb := bitAt w 44
  if fld w 0 21 ≠ 0 ∨ n = 0 then .fault .illegal 0 0
  else
    match fmtOf (fld w 50 4), fmtOf (fld w 46 4) with
    | some fa, some fb =>
      if !paired fa fb || (ta && fa.isMX) || (tb && fb.isMX) || sp == 3 || (sp == 1 && tb) then .fault .format 0 0
      else
        let bytesA := 64 * n * fa.blockLines
        (operand res ringA (regs (fld w 37 4)) bytesA .read).plan fun a =>
        (res (regs (fld w 33 4)) (if sp = 2 then 64 * mapLines n else extentB x.pad fb sp 0 n)
          .read).plan fun b =>
          if sp = 2 ∧ x.interlocked k tag.isSome [⟨b, mapLines n⟩] [] then .wait else
          match if sp = 2 then x.badIn [⟨b, mapLines n⟩] else none with
          | some v => .fault .parity 0 v
          | none =>
            let bytesB := extentB x.pad fb sp b n
            (res (regs (fld w 33 4)) bytesB .read).plan fun b =>
            (operand res ringD (regs (fld w 29 4)) (64 * 64) (.write k)).plan fun c =>
              let reads := spanOf a bytesA ++ spanOf b bytesB ++ (if bitAt w 41 then [] else spanOf c 4096)
              .ok { slot := k, pc := pc, word := BitVec.ofNat 64 w, a := a, b := b, d := c, count := n, scalar := 0
                    reads := reads, writes := spanOf c 4096, chain := tag }
    | _, _ => .fault .format 0 0

/-! ### Vector class -/

/-- The operations of the vector class, by opcode (R517). -/
inductive VOp where
  | add | sub | mul | fma | min | max | abs | neg | cmp | sel | scl | and | or | xor | shl | shr | cvt | red
  deriving DecidableEq, Repr

/-- Opcode to operation (R513, R517). -/
def VOp.ofCode : Nat → Option VOp
  | 0 => some .add | 1 => some .sub | 2 => some .mul | 3 => some .fma | 4 => some .min | 5 => some .max
  | 6 => some .abs | 7 => some .neg | 8 => some .cmp | 9 => some .sel | 10 => some .scl | 11 => some .and
  | 12 => some .or | 13 => some .xor | 14 => some .shl | 15 => some .shr | 16 => some .cvt | 17 => some .red
  | _ => none

/-- Does the operation read b (R517)? These are also the operations that allow SCALAR. -/
def VOp.two : VOp → Bool
  | .add | .sub | .mul | .fma | .min | .max | .cmp | .sel | .and | .or | .xor => true
  | _ => false

/-- Does it read the destination (R517)? -/
def VOp.readsD : VOp → Bool
  | .fma | .sel => true
  | _ => false

/-- Works on whole blocks of 32 (R90). -/
def Fmt.blocky (f : Fmt) : Bool := f.isMX || f == .bsi16

/-- The FORMAT faults of a vector command (R76, R90, R101, R517). A headroom above 8 faults whatever MOD[4] is.
DEDUCED, log 13. -/
def vectorBad (op : VOp) (fi fo : Fmt) (n m : Nat) : Bool :=
  let scalar := bitAt m 5
  fld m 10 16 != 0 || (scalar && !op.two) || (fld m 6 3 != 0 && op != .cmp) || decide (5 < fld m 6 3)
    || (bitAt m 9 && op != .red)
    || (fld m 0 5 != 0 && fo != .bsi16) || decide (8 < fld m 0 4) || (bitAt m 4 && scalar)
    || (op.readsD && fi.isInt != fo.isInt)
    || (op == .red && fo.blocky)
    || ((fi.blocky || fo.blocky) && n % 32 != 0)

/-- The checks and resolutions of a vector command (R76, R110, R517). -/
def planVector (op : VOp) (_x : Tile) (res : Resolver) (k : Fin 8) (pc : BitVec 11) (regs : Nat → Word) (w : Nat)
    (ringA ringD : Option RingSlot) (tag : Option ChainTag) : Plan :=
  let n := (regs (fld w 30 4)).toNat
  let m := fld w 0 26
  match fmtOf (fld w 50 4), fmtOf (fld w 46 4) with
  | some fi, some fo =>
    if vectorBad op fi fo n m then .fault .format 0 0
    else
      let useB := op.two && !bitAt m 5
      let bytesD := extentOf fo (if op = .red then 1 else n)
      (operand res ringA (regs (fld w 42 4)) (extentOf fi n) .read).plan fun a =>
      (if useB then res (regs (fld w 38 4)) (extentOf fi n) .read else .ok 0).plan fun b =>
      (operand res ringD (regs (fld w 34 4)) bytesD (.write k)).plan fun d =>
        let reads := runSpans fi a n ++ (if useB then runSpans fi b n else []) ++ (if op.readsD then runSpans fo d n else [])
        .ok { slot := k, pc := pc, word := BitVec.ofNat 64 w, a := a, b := b, d := d, count := n
              scalar := regs (fld w 26 4), reads := reads, writes := runSpans fo d (if op = .red then 1 else n)
              chain := tag }
  | _, _ => .fault .format 0 0

/-! ### Function class -/

/-- The formats of the function class (R60). -/
def Fmt.function (f : Fmt) : Bool := f == .fp32 || f == .fp16 || f == .bf16

/-- The checks and resolutions of a function command: `deriv` takes the derivative table of the pair, `grad` reads g
(R60, R76, R110, R193). -/
def planFunction (deriv grad : Bool) (x : Tile) (res : Resolver) (k : Fin 8) (pc : BitVec 11) (regs : Nat → Word) (w : Nat)
    (ringA ringD : Option RingSlot) (tag : Option ChainTag) : Plan :=
  let n := (regs (fld w 30 4)).toNat
  let table := 2 * fld w 23 3 + bit deriv
  match fmtOf (fld w 50 4), fmtOf (fld w 46 4) with
  | some fi, some fo =>
    if !fi.function || !fo.function || fld w 0 23 != 0 || !bitAt x.loaded.toNat table then .fault .format 0 0
    else
      (operand res ringA (regs (fld w 42 4)) (extentOf fi n) .read).plan fun a =>
      (if grad then res (regs (fld w 38 4)) (extentOf fi n) .read else .ok 0).plan fun b =>
      (operand res ringD (regs (fld w 34 4)) (extentOf fo n) (.write k)).plan fun d =>
        .ok { slot := k, pc := pc, word := BitVec.ofNat 64 w, a := a, b := b, d := d, count := n, scalar := 0
              reads := spanOf a (extentOf fi n) ++ (if grad then spanOf b (extentOf fi n) else [])
              writes := spanOf d (extentOf fo n), chain := tag }
  | _, _ => .fault .format 0 0

/-- The plan of a unit instruction by class and opcode; `none` for an opcode R513 does not assign. -/
def planUnit (w : Nat) : Option (Tile → Resolver → Fin 8 → BitVec 11 → (Nat → Word) → Nat → Option RingSlot →
    Option RingSlot → Option ChainTag → Plan) :=
  let op := fld w 54 6
  match fld w 60 4 with
  | 4 => if op = 0 then some planMma else none
  | 5 => (VOp.ofCode op).map planVector
  | 6 => if op = 0 then some (planFunction false false) else if op = 1 then some (planFunction true false)
    else if op = 2 then some (planFunction true true) else none
  | _ => none

/-- A command of element count 0 other than `vred` (R517). -/
def UnitCmd.empty (u : UnitCmd) : Bool :=
  let w := u.word.toNat
  decide (fld w 60 4 ≠ 4) && u.count == 0 && !(fld w 60 4 == 5 && fld w 54 6 == 17)

/-- Commands of element count 0 at the head of a queue complete there (R517). -/
def Tile.dropEmpty (u : UnitSel) : Nat → Tile → Tile
  | 0, x => x
  | n + 1, x =>
    match x.queue u with
    | c :: q =>
      if c.empty then
        let x := x.setQueue u q
        (match c.chain with | some g => x.chainStep g | none => x).dropEmpty u n
      else x
    | [] => x

/-- A command enters a unit's queue; one of element count 0 at its head completes there (R517). -/
def Tile.enqueue (x : Tile) (u : UnitSel) (cmd : UnitCmd) : Tile :=
  let x := x.setQueue u (x.queue u ++ [cmd])
  x.dropEmpty u (x.queue u).length

/-- A unit command waits while its queue is full, then while R66 holds it; otherwise it enters the queue (R65). -/
def doUnit (plan : Tile → Resolver → Fin 8 → BitVec 11 → (Nat → Word) → Nat → Option RingSlot → Option RingSlot → Option ChainTag → Plan)
    (u : UnitSel) (s : State) (t : TileId) (k : Fin 8) (pc w : Nat) : Issue :=
  let x := s.tile t
  if x.full u then .block .unit u.num
  else
    match plan x (x.resolver (s.hquotaOf t)) k (BitVec.ofNat 11 pc) x.slots[k].reg w none none none with
    | .fault c src v => .fault c src v
    | .wait => .block .unit 3
    | .ok cmd =>
      if x.interlocked k false cmd.reads cmd.writes then .block .unit 3
      else goNext (s.modTile t fun x => x.enqueue u cmd) pc

/-- `mma` (R50, R75). -/
def doMma : State → TileId → Fin 8 → Nat → Nat → Issue := doUnit planMma .tensor

/-- A vector operation (R51, R76, R517). -/
def doVector (op : VOp) : State → TileId → Fin 8 → Nat → Nat → Issue := doUnit (planVector op) .vector

/-- `fn`, `fnd` and `fnb` (R60, R76). -/
def doFunction (deriv grad : Bool) : State → TileId → Fin 8 → Nat → Nat → Issue :=
  doUnit (planFunction deriv grad) .function

/-! ### Fused chains (R149, R150) -/

/-- What a stage of a chain is (R357). -/
inductive Stage where
  | inp (n : Fin 32)
  | unit (w : Nat)
  | out (n : Fin 32)
  deriving DecidableEq, Repr

/-- Stage `i` of a chain descriptor. -/
def chainStage (d : BitVec 512) (i : Nat) : Option Stage :=
  let first := bit (chainIn d)
  if chainIn d ∧ i = 0 then some (.inp (finOf 32 (chainByte d 2)))
  else if i < first + chainByte d 1 then some (.unit (fld d.toNat (128 + 64 * (i - first)) 64))
  else if chainOut d ∧ i = first + chainByte d 1 then some (.out (finOf 32 (chainByte d 3)))
  else none

/-- The slot of a ring that iteration `j` uses. -/
def ChainRing.slot (g : ChainRing) (j : Nat) : RingSlot := ⟨g.at_ + (j % g.slots) * g.size, g.size⟩

/-- The plan of a UNIT stage's command in iteration `j`: the ring slots take the place of its first input and its
destination (R149), and the other operands keep the resolution they have at `send` (R111). -/
def ChainRun.plan (r : ChainRun) (x : Tile) (quota : Nat) (w i j : Nat) (tag : ChainTag) : Option Plan :=
  let inp := if i = 0 then none else (r.rings[i - 1]?).map fun g => g.slot j
  let out := (r.rings[i]?).map fun g => g.slot j
  (planUnit w).map fun plan => plan x (r.resolver quota) r.slot r.pc (fun n => Slot.reg { regs := r.regs } n) w inp out (some tag)

/-- The lines stage `i` of iteration `j` reads, and those it writes. -/
def ChainRun.spans (r : ChainRun) (x : Tile) (quota : Nat) (d : BitVec 512) (c : Fin 4) (i j : Nat) :
    List Span × List Span :=
  let ring := fun (k : Nat) => match r.rings[k]? with
    | some g => [⟨(g.slot j).at_, linesOf g.size⟩]
    | none => []
  match chainStage d i with
  | some (.inp _) => ([], ring i)
  | some (.out _) => (ring (i - 1), [])
  | some (.unit w) =>
    match r.plan x quota w i j ⟨c, i, j⟩ with
    | some (.ok cmd) => (cmd.reads, cmd.writes)
    | _ => ([], [])
  | none => ([], [])

/-- The lines of operand B that a block-sparse product may read, whatever its presence map comes to hold (R159). -/
def UnitCmd.reach (u : UnitCmd) : List Span :=
  let w := u.word.toNat
  match fmtOf (fld w 46 4) with
  | some f => if fld w 60 4 = 4 ∧ fld w 42 2 = 2 then
      [⟨u.b, mapLines u.count + u.count * (4 * f.subBlockLines + bit f.isMX)⟩] else []
  | none => []

/-- What stage `i` of iteration `j` may read beyond its spans while its presence map may change. -/
def ChainRun.reach (r : ChainRun) (x : Tile) (quota : Nat) (d : BitVec 512) (c : Fin 4) (i j : Nat) : List Span :=
  match chainStage d i with
  | some (.unit w) =>
    match r.plan x quota w i j ⟨c, i, j⟩ with
    | some (.ok cmd) => cmd.reach
    | _ => []
  | _ => []

/-- Must the chain's `send` wait before a stage's presence map can be read (R66, R160)? -/
def ChainRun.waits (r : ChainRun) (x : Tile) (quota : Nat) (d : BitVec 512) (c : Fin 4) : Bool :=
  (List.range (chainStages d)).any fun i =>
    match chainStage d i with
    | some (.unit w) => r.plan x quota w i 0 ⟨c, i, 0⟩ == some .wait
    | _ => false

/-- Results equal those of one command at a time, in order of iteration and then of stage (R150): stage `i` of iteration
`j` waits while a command before it in that order has not completed and shares a line that either writes; of a presence
map that may yet change, every line it may come to name counts as read. -/
def ChainRun.held (r : ChainRun) (x : Tile) (quota : Nat) (d : BitVec 512) (c : Fin 4) (i j : Nat) : Bool :=
  let own := r.spans x quota d c i j
  (List.range (chainStages d)).any fun i' =>
    let done := r.completed.getD i' 0
    (List.range ((if i' < i then j + 1 else j) - done)).any fun k =>
      let other := r.spans x quota d c i' (done + k)
      meetAny own.1 other.2 || meetAny own.2 other.2 || meetAny own.2 (other.1 ++ r.reach x quota d c i' (done + k))

/-- What the operands of a chain outside its rings read and write, over all its stages. -/
def ChainRun.outside (r : ChainRun) (x : Tile) (quota : Nat) (d : BitVec 512) (c : Fin 4) : List Span × List Span :=
  let all := (List.range (chainStages d)).map fun i => r.spans x quota d c i 0
  (all.flatMap (·.1), all.flatMap (·.2))

/-- `send` with CHAIN (R150, R142). An iteration count above 65,535 is outside the range of R150: STRING. DEDUCED,
log 11. -/
def doSendChain (s : State) (t : TileId) (k : Fin 8) (pc w : Nat) : Issue :=
  let c := finOf 4 (fld w 49 5)
  let x := s.tile t
  let d := x.chains[c]
  let z := x.slots[k]
  let n := (z.reg (fld w 40 4)).toNat
  if stringReserved w then .fault .illegal 0 0
  else if decide (3 < fld w 49 5) || !chainValid d || n == 0 || decide (65535 < n) || x.runs[c].isSome then
    .fault .string 0 0
  else
    match x.resolveRings (s.hquotaOf t) k d (chainStages d - 1) with
    | .inl r => r.issue fun _ => .fault .handle 0 0
    | .inr rings =>
      let none_ := List.replicate (chainStages d) 0
      let run : ChainRun := ⟨k, BitVec.ofNat 11 pc, z.regs, n, rings, [], [], none_, none_, Memory.copy [] x.pad 0 0 256,
        x.badWords.filter fun b => decide (b < 64)⟩
      let (reads, writes) := run.outside x (s.hquotaOf t) d c
      let sp := rings.map fun g => Span.mk g.at_ (linesOf (g.size * g.slots))
      if run.waits x (s.hquotaOf t) d c || x.interlocked k false (sp ++ reads) (sp ++ writes) then .block .unit 3
      else
        goNext (s.modTile t fun x =>
          { x with runs := vset x.runs c (some { run with reads := reads, writes := writes }) }) pc

end Sys2Proof.Machine
end

