-- ==== Sys2Proof/Machine/Service.lean ====
section
/-! DEFINITION. The region service units (R167 to R181): what `xsub` and `asub` submit, how a batch and a query block are
decided, and the results. -/

namespace Sys2Proof.Machine

/-- The reserved bits [33:0] of the service class (R167). -/
def serviceReserved (w : Nat) : Bool := fld w 0 34 != 0

/-- A failure of a service unit recorded (R183) and its context held (R176). `unit_` is 0 for the router. -/
def State.serviceFail (s : State) (r : Fin 48) (tab unit_ reason : Nat) : State :=
  let first := s.rfld Reg.svcCause 0 2 == 0
  let s := s.cause Reg.svcCause unit_
  let s := if first then
      s.setReg Reg.svcAt (r.1 + tab * 2 ^ 6 + unit_ * 2 ^ 10 + reason * 2 ^ 11 + 2 ^ 14)
    else s
  match s.ctxOfRegion r with
  | some c => s.faultHold c
  | none => s

/-! ### Router tables (R170, R359) -/

/-- The fields of an expert-router table (R170). -/
structure RouterDesc where
  gate : Bool
  norm : Bool
  k : Nat
  tevent : Nat
  e : Nat
  cap : Nat
  n : Nat
  p : Nat
  thresh : Nat
  deriving DecidableEq, Repr

/-- The header of the router table at byte `o` of the scroll (R359). -/
def Scroll.routerDesc (q : Scroll) (o : Nat) : RouterDesc :=
  { gate := q.u o 1 == 1, norm := q.u (o + 1) 1 == 1, k := q.u (o + 2) 1, tevent := q.u (o + 3) 1, e := q.u (o + 4) 2
    cap := q.u (o + 6) 2, n := q.u (o + 8) 2, p := q.u (o + 10) 1, thresh := q.u (o + 12) 4 }

/-- Expert entry `e`: local x and y, event, address word (R359). -/
def Scroll.expert (q : Scroll) (o e : Nat) : Nat × Nat × Nat × Nat :=
  let a := o + 64 + 8 * e
  (q.u a 1, q.u (a + 1) 1, q.u (a + 2) 1, q.u (a + 4) 4)

/-- The table of the region's router, with its offset in the scroll. -/
def State.routerTable (s : State) (r : Fin 48) (tab : Fin 16) : Option (Scroll × Nat) :=
  match s.ctxOfRegion r with
  | none => none
  | some c =>
    match s.scroll? c with
    | none => none
    | some q => (q.router? r tab).map fun o => (q, o)

/-- The table of the region's selection unit: SEL, SINK, LOCAL, EVENT (R178, R359). -/
def State.selectTable (s : State) (r : Fin 48) (tab : Fin 16) : Option (Nat × Nat × Nat × Nat) :=
  match s.ctxOfRegion r with
  | none => none
  | some c =>
    match s.scroll? c with
    | none => none
    | some q => (q.select? r tab).map fun o => (q.u o 1, q.u (o + 1) 1, q.u (o + 2) 1, q.u (o + 3) 1)

/-- The records an `xsub` submits: expert and FP32 score (R171). Reserved bits of a record or of the submission word that
are not zero have no effect. DESIGN CHOICE, log 14. -/
def readRecs (m : Mem) (a n : Nat) : List (Nat × Nat) :=
  (List.range n).map fun i =>
    let v := Memory.readLE m (a + 8 * i) 8
    (fld v 0 16, fld v 32 32)

/-- Does a list of numbers repeat one? -/
def repeats (l : List Nat) : Bool := l.length != l.eraseDups.length

/-- The reason for which a batch with these submissions has failed, if it has (R176). A token number of N or more is an
index out of range. DEDUCED, log 14. Of several conditions broken at once the one with the least REASON is recorded.
DESIGN CHOICE, log 14. -/
def batchBad (d : RouterDesc) (sub : RouterSub) (subs : List RouterSub) : Option Nat :=
  let mine := subs.filter fun u => u.token == sub.token
  let homes := (mine.filter (·.home)).length
  if d.n ≤ sub.token ∨ sub.recs.any fun r => decide (d.e ≤ r.1) then some 0
  else if repeats (mine.flatMap fun u => u.recs.map (·.1)) then some 1
  else if d.p < mine.length ∨ 1 < homes ∨ (mine.length = d.p ∧ homes = 0) then some 2
  else none

/-- Key of a service table in the state. -/
def svcKey (r : Fin 48) (tab : Fin 16) : Nat := 16 * r.1 + tab.1

/-- `xsub` (R167, R168, R171, R176). -/
def doXsub (s : State) (t : TileId) (k : Fin 8) (pc w : Nat) : Issue :=
  let x := s.tile t
  let z := x.slots[k]
  let tab := finOf 16 (fld w 50 4)
  let n := (z.reg (fld w 38 4)).toNat
  let sw := (z.reg (fld w 42 4)).toNat
  let r := regionOf t
  if serviceReserved w then .fault .illegal 0 0
  else
    match s.routerTable r tab with
    | none => .fault .format 0 0
    | some (q, o) =>
      if n = 0 ∨ 16 < n then .fault .format 0 0
      else
        (x.resolve (s.hquotaOf t) (z.reg (fld w 46 4)) true (8 * n) .read).issue fun a =>
          let rt := s.routers.getD (svcKey r tab) {}
          let batch := fld sw 16 12
          if x.interlocked k false (spanOf a (8 * n)) [] then .block .unit 3
          else if batch = (rt.batch + 1) % 4096 then .block .unit 4
          else
            match x.badIn (spanOf a (8 * n)) with
            | some v => .fault .parity 0 v
            | none =>
              if batch ≠ rt.batch % 4096 then
                if rt.failed then goNext s pc
                else
                  let s := { s with routers := s.routers.set (svcKey r tab) { rt with failed := true } }
                  goNext (s.serviceFail r tab.1 0 3) pc
              else
                let sub : RouterSub := { tile := t, slot := k, pc := BitVec.ofNat 11 pc, token := fld sw 0 14, home := bitAt sw 15
                                         dest := z.reg (fld w 34 4), recs := readRecs x.pad a n }
                let subs := rt.subs ++ [sub]
                let bad := if rt.failed then none else batchBad (q.routerDesc o) sub subs
                let rt := { rt with subs := subs, failed := rt.failed || bad.isSome }
                let s := { s with routers := s.routers.set (svcKey r tab) rt }
                match bad with
                | some reason => goNext (s.serviceFail r tab.1 0 reason) pc
                | none => goNext s pc

/-- Is a query block complete (R179)? -/
def SelQuery.complete (q : SelQuery) : Bool :=
  match q.home with
  | some h => q.scores.length == h.v
  | none => false

/-- The reason for which a query block has failed, if it has (R179, R176). -/
def SelQuery.bad (q : SelQuery) (homes : Nat) : Option Nat :=
  if (match q.home with | some h => q.scores.any (fun e => decide (h.v ≤ e.1)) | none => false) then some 0
  else if repeats (q.scores.map (·.1)) then some 1
  else if 1 < homes then some 2
  else none

/-- Listed tiles of a region. -/
def State.regionTiles (s : State) (r : Fin 48) : List TileId :=
  (s.tiles.map fun e => finOf 786432 e.1).filter fun t => regionOf t == r

/-- `asub` (R167, R168, R179). A block that completes makes room for one that waits (R179). Reserved bits of a record or of
the submission word that are not zero have no effect. DESIGN CHOICE, log 14. -/
def doAsub (s : State) (t : TileId) (k : Fin 8) (pc w : Nat) : Issue :=
  let x := s.tile t
  let z := x.slots[k]
  let tab := finOf 16 (fld w 50 4)
  let n := (z.reg (fld w 38 4)).toNat
  let sw := (z.reg (fld w 42 4)).toNat
  let r := regionOf t
  if serviceReserved w then .fault .illegal 0 0
  else
    match s.selectTable r tab with
    | none => .fault .format 0 0
    | some _ =>
      if n = 0 ∨ 256 < n then .fault .format 0 0
      else
        (x.resolve (s.hquotaOf t) (z.reg (fld w 46 4)) true (8 * n) .read).issue fun a =>
          let qs := s.selections.getD (svcKey r tab) []
          let num := fld sw 0 12
          let old := qs.find? fun q => q.query == num
          if x.interlocked k false (spanOf a (8 * n)) [] then .block .unit 3
          else if old.isNone ∧ 64 ≤ (qs.filter fun q => !q.complete).length then .block .unit 4
          else
            match x.badIn (spanOf a (8 * n)) with
            | some v => .fault .parity 0 v
            | none =>
              let home : Option SelHome :=
                if bitAt sw 15 then some ⟨t, k, BitVec.ofNat 11 pc, z.reg (fld w 34 4), fld sw 16 12 + 1⟩ else none
              let scores := (List.range n).map fun i =>
                let v := Memory.readLE x.pad (a + 8 * i) 8
                (fld v 0 12, fld v 32 32)
              let q := old.getD ⟨num, none, [], false⟩
              let homes := bit q.home.isSome + bit home.isSome
              let q' : SelQuery := { q with home := q.home.or home, scores := q.scores ++ scores }
              let bad := if q.failed then none else q'.bad homes
              let q' := { q' with failed := q.failed || bad.isSome }
              let qs := qs.filter (fun y => y.query != num) ++ [q']
              let s := { s with selections := s.selections.set (svcKey r tab) qs }
              match bad with
              | some reason => goNext (s.serviceFail r tab.1 1 reason) pc
              | none => .go s (pc + 1) (if q'.complete then s.regionTiles r else [])

/-! ### Deciding a batch (R172, R177) -/

/-- A record `a` ranks before `b`: higher score, then lower expert (R172). -/
def ranksBefore (a b : Nat × Nat) : Bool :=
  (val32 b.2).lt (val32 a.2) || ((val32 a.2).eqv (val32 b.2) && decide (a.1 < b.1))

/-- A list sorted by a strict order, stably. -/
def sortBy {α : Type} (before : α → α → Bool) : List α → List α
  | [] => []
  | x :: xs => ins x (sortBy before xs)
where
  ins (x : α) : List α → List α
    | [] => [x]
    | y :: ys => if before y x then y :: ins x ys else x :: y :: ys

/-- An assignment: expert, slot in its list or 0xFFFF, weight. -/
structure Assign where
  expert : Nat
  slot : Nat
  weight : Nat
  deriving DecidableEq, Repr

/-- The weights of the selected records (R172). -/
def gateWeights (norm : Bool) (sel : List (Nat × Nat)) : List Nat :=
  if norm then
    let z := sel.foldl (fun z r => add32 z r.2) 0
    let bad := (val32 z).eqv .zero || (match val32 z with | .inf _ => true | _ => false)
    sel.map fun r => if bad then div32 0x3F800000 (round32 (Val.ofInt sel.length)) else div32 r.2 z
  else sel.map (·.2)

/-- The selections of one token: none when a score is NaN (R172). -/
def selectToken (d : RouterDesc) (recs : List (Nat × Nat)) : List (Nat × Nat) :=
  if recs.any fun r => val32 r.2 == .nan then [] else (sortBy ranksBefore recs).take d.k

/-- The capacity pass over one token's selections: assignments and the tokens each expert has used (R172). -/
def capToken (cap : Nat) (used : Tab Nat) : List (Nat × Nat) → List Assign × Tab Nat
  | [] => ([], used)
  | (e, w) :: rest =>
    let u := used.getD e 0
    if u < cap then
      let r := capToken cap (used.set e (u + 1)) rest
      (⟨e, u, w⟩ :: r.1, r.2)
    else
      let r := capToken cap used rest
      (⟨e, 0xFFFF, 0⟩ :: r.1, r.2)

/-- The capacity pass over all tokens in ascending index. -/
def capAll (cap : Nat) : Tab Nat → List (List (Nat × Nat)) → List (List Assign)
  | _, [] => []
  | used, t :: ts =>
    let r := capToken cap used t
    r.1 :: capAll cap r.2 ts

/-- The decision of a GATE table: per token its score and whether it is computed (R177). The spec gives a passed token's
record only its slot, 0xFFFF: its expert is 0 and its weight +0, and a token whose score is NaN is recorded as R173 has one
that is routed nowhere. DESIGN CHOICE, log 14. -/
def gateDecide (d : RouterDesc) (scores : List Nat) : List (List Assign) :=
  let all := scores.zipIdx.map fun (v, i) => (i, v)
  let ok := fun (p : Nat × Nat) =>
    ((val32 d.thresh).lt (val32 p.2) || (val32 d.thresh).eqv (val32 p.2)) &&
      decide ((all.filter fun r => ranksBefore r p).length < d.cap)
  (all.foldl (fun (acc : List (List Assign) × Nat) p =>
    if ok p then (acc.1 ++ [[⟨0, acc.2, p.2⟩]], acc.2 + 1)
    else if val32 p.2 == .nan then (acc.1 ++ [[]], acc.2)
    else (acc.1 ++ [[⟨0, 0xFFFF, 0⟩]], acc.2)) ([], 0)).1

/-- The records of a token of a batch. -/
def tokenRecs (subs : List RouterSub) (t : Nat) : List (Nat × Nat) :=
  (subs.filter fun u => u.token == t).flatMap (·.recs)

/-- The home of a token. -/
def tokenHome (subs : List RouterSub) (t : Nat) : Option RouterSub := subs.find? fun u => u.token == t && u.home

/-- The assignments of every token (R172, R177). -/
def batchAssign (d : RouterDesc) (subs : List RouterSub) : List (List Assign) :=
  let toks := (List.range d.n).map (tokenRecs subs)
  if d.gate then gateDecide d (toks.map fun r => (r.head?.getD (0, nan32)).2)
  else
    capAll d.cap [] (toks.map fun r =>
      let sel := selectToken d r
      (sel.map (·.1)).zip (gateWeights d.norm sel))

/-- A token record of K ranks (R173). -/
def tokenRecord (k : Nat) (as : List Assign) : List Byte :=
  (List.range k).flatMap fun i =>
    match as[i]? with
    | some a => leBytes 8 (a.expert + a.slot * 2 ^ 16 + a.weight * 2 ^ 32)
    | none => leBytes 8 0xFFFFFFFF

/-- The list of expert `e`: header and entries (R174). A gate drops no assignment: it passes tokens. DEDUCED, log 14. -/
def expertList (d : RouterDesc) (subs : List RouterSub) (as : List (List Assign)) (e : Nat) : List Byte :=
  let all := as.zipIdx.flatMap fun (l, t) => (l.filter fun a => a.expert == e).map fun a => (t, a)
  let kept := all.filter fun p => p.2.slot != 0xFFFF
  let dropped := if d.gate then 0 else all.length - kept.length
  leBytes 8 (kept.length % 65536 + (dropped % 65536) * 65536) ++ kept.flatMap fun (t, a) =>
    let h := match tokenHome subs t with
      | some u => (tileX u.tile % 128) * 2 ^ 16 + (tileY u.tile % 128) * 2 ^ 23
      | none => 0
    leBytes 8 (t + h + a.weight * 2 ^ 32)

/-- Everything a decided batch writes and signals (R173 to R175). -/
def batchResults (q : Scroll) (o : Nat) (r : Fin 48) (subs : List RouterSub) (as : List (List Assign)) :
    List ServiceWrite × List (TileId × Fin 16) :=
  let d := q.routerDesc o
  let recs := as.zipIdx.filterMap fun (l, t) => (tokenHome subs t).map fun u =>
    ServiceWrite.mk u.tile (some (u.slot, u.pc)) u.dest (8 * d.k) (tokenRecord d.k l)
  let exs := (List.range d.e).map fun e =>
    let (lx, ly, ev, aw) := q.expert o e
    (ServiceWrite.mk (tileIn r (128 * ly + lx)) none (BitVec.ofNat 32 aw) (8 + 8 * d.cap) (expertList d subs as e),
      (tileIn r (128 * ly + lx), finOf 16 ev))
  let homes := as.zipIdx.filterMap fun (_, t) => (tokenHome subs t).map fun u => (u.tile, finOf 16 d.tevent)
  (recs ++ exs.map (·.1), (homes ++ exs.map (·.2)).eraseDups)

/-- The reason for which results cannot be delivered, if any: an address that fails to resolve, an event count that
would exceed 255 (R169, R176); an address before a count. They are tested when a batch is decided and again when its results
are written. DESIGN CHOICE, log 14. -/
def State.deliverBad (s : State) (ws : List ServiceWrite) (sg : List (TileId × Fin 16)) : Option Nat :=
  let bad := ws.any fun w =>
    match (s.tile w.tile).resolve (s.hquotaOf w.tile) w.dest true w.extent .result with
    | .handle => true
    | _ => false
  if bad then some 4
  else if sg.any fun (t, e) => (s.tile t).events[e] == 255 then some 5
  else none

/-- The first parity event that writing results meets: on the word of the entry an address resolves through (R110, source
code 1), or on a word a result merges in part (R107, source code 0). -/
def State.deliverParity (s : State) (ws : List ServiceWrite) : Option (ServiceWrite × Nat × Nat) :=
  ws.findSome? fun w =>
    match (s.tile w.tile).resolve (s.hquotaOf w.tile) w.dest true w.extent .result with
    | .parity v => some (w, 1, v)
    | .ok a => ((mergedWords a w.bytes.length).find? (s.tile w.tile).badWord).map fun v => (w, 0, v)
    | .handle => none

/-- A parity event of a result write: it faults the task that gave the address (R107, R110, R120). An expert list has no
such task: the event is recorded for its tile with slot 0. DESIGN CHOICE, log 14. -/
def State.serviceParity (s : State) (e : ServiceWrite × Nat × Nat) : State :=
  match e.1.task with
  | some (k, pc) => s.taskFault e.1.tile k pc .parity e.2.1 e.2.2
  | none =>
    match s.ctxOf e.1.tile with
    | some c => s.parityEvent e.1.tile c e.2.1 0 e.2.2
    | none => s

/-- The results written and the events signalled (R169, R175). -/
def State.deliver (s : State) (ws : List ServiceWrite) (sg : List (TileId × Fin 16)) : State :=
  let s := ws.foldl (fun s w =>
    match (s.tile w.tile).resolve (s.hquotaOf w.tile) w.dest true w.extent .result with
    | .ok a => s.modTile w.tile fun x => x.wideWrite a w.bytes
    | _ => s) s
  sg.foldl (fun s (t, e) => s.modTile t fun x => { x with events := vmod x.events e (· + 1) }) s

/-- The key blocks chosen for a query (R180), ascending. -/
def chooseKeys (sel sink loc v : Nat) (scores : List (Nat × Nat)) : List Nat :=
  if v ≤ sel then List.range v
  else
    let base := (List.range v).filter fun i => decide (i < min sink v) || decide (v - loc ≤ i)
    let key := fun (a b : Nat × Nat) =>
      let na := val32 a.2 == .nan
      let nb := val32 b.2 == .nan
      if na != nb then nb
      else if na then decide (a.1 < b.1)
      else ranksBefore a b
    let rest := sortBy key (scores.filter fun e => !base.contains e.1)
    let more := (rest.take (sel - base.length)).map (·.1)
    (List.range v).filter fun i => base.contains i || more.contains i

end Sys2Proof.Machine
end

