-- ==== Sys2Proof/Machine/Issue.lean ====
section
/-! DEFINITION. The scalar sequencer (R61 to R69): which slot issues, what an attempt to issue leaves, and when a
BLOCKED slot becomes READY; and the commands that are instructions of a tile, rows NOP to ASUB. -/

namespace Sys2Proof.Machine

/-- Does R513 assign the opcode of an instruction word within its class (R74)? -/
def assigned (w : Nat) : Bool :=
  let op := fld w 54 6
  match fld w 60 4 with
  | 0 => decide (op < 8)
  | 1 => decide (op < 10)
  | 2 => decide (op < 2)
  | 3 => decide (op < 4)
  | 4 => decide (op < 1)
  | 5 => decide (op < 18)
  | 6 => decide (op < 3)
  | 7 => decide (op < 2)
  | _ => false

/-- What issuing an instruction does, by class and opcode (R74, R513); an unassigned code faults with ILLEGAL. -/
def doInstr (w : Nat) : State → TileId → Fin 8 → Nat → Nat → Issue :=
  let op := fld w 54 6
  let bad := fun (_ : State) (_ : TileId) (_ : Fin 8) (_ _ : Nat) => Issue.fault .illegal 0 0
  let chain := bitAt w 48
  match fld w 60 4 with
  | 0 => ([doNop, doBr, doBz, doBnz, doYield, doSig, doWait, doHalt][op]?).getD bad
  | 1 => ([doLi, doAdd, doSub, doMul, doAnd, doOr, doXor, doShl, doShr, doCmp][op]?).getD bad
  | 2 => ([doLd, doSt][op]?).getD bad
  | 3 => ([doRecv, if chain then doSendChain else doSend, doArm, if chain then doFinChain else doFin][op]?).getD bad
  | 4 => if op = 0 then doMma else bad
  | 5 => match VOp.ofCode op with
    | some v => doVector v
    | none => bad
  | 6 => ([doFunction false false, doFunction true false, doFunction true true][op]?).getD bad
  | 7 => ([doXsub, doAsub][op]?).getD bad
  | _ => bad

/-- BLOCKED slots of a tile whose condition has cleared become READY (R63). -/
def State.wake (s : State) (t : TileId) : State :=
  s.modTile t fun x => { x with slots := Vector.ofFn fun k =>
    let z := x.slots[k]
    match z.state, z.held with
    | .blocked, some w =>
      match doInstr w.toNat s t k z.pc.toNat w.toNat with
      | .block r obj => { z with reason := r, object := BitVec.ofNat 6 obj }
      | _ => { z with state := .ready, held := none }
    | _, _ => z }

/-- BLOCKED slots of several tiles. -/
def State.wakeAll (s : State) (ts : List TileId) : State := ts.foldl State.wake s

/-- The slot that issues in this handshake (R64), from the READY slots; slots that issued in the previous handshake are
READY again. -/
def Tile.pick (x : Tile) : Option (Fin 8 × Nat) :=
  let ready := fun k : Fin 8 => x.slots[k].state == .ready || x.slots[k].state == .running
  if x.eligible && ready x.last && decide (x.runLen < 64) then some (x.last, x.runLen + 1)
  else ((List.range 8).map fun i => finOf 8 ((x.last.1 + i + 1) % 8)).find? ready |>.map fun k => (k, 1)

/-- RUNNING slots are READY in the next handshake (R63). -/
def Tile.settleRunning (x : Tile) : Tile :=
  { x with slots := x.slots.map fun z => if z.state = .running then { z with state := .ready } else z }

/-- The words of an instruction whose parity is bad, if any (R119). -/
def Tile.badFetch (x : Tile) (pc : Nat) : Option Nat := x.badInstr.find? fun w => w / 2 == pc

/-- One handshake of a tile in which the picked slot issues the instruction `w`, if a slot is READY (R64). The command
gives the word at the slot's index; where the instruction store holds a word there whose class or opcode is not assigned,
for which no command stands (`decodeTileWord`), that word faults the task with ILLEGAL (R74). DESIGN CHOICE, log 5. -/
def State.issueAs (s : State) (t : TileId) (w : DWord)
    (body : State → TileId → Fin 8 → Nat → Nat → Issue) (yields : Bool) : State :=
  if !s.tileRuns t then s
  else
    let s := s.modTile t Tile.settleRunning
    match (s.tile t).pick with
    | none => s.modTile t fun x => { x with eligible := false }
    | some (k, run) =>
      let z := s.slotOf t k
      let pc := z.pc.toNat
      let s := s.modTile t fun x => { x with last := k, runLen := run }
      match (s.tile t).badFetch pc with
      | some b => (s.taskFault t k z.pc .parity 2 b).wake t
      | none =>
        match if 1535 < pc ∨ !assigned ((s.tile t).imem.getD pc 0).toNat then .fault .illegal 0 0
          else body s t k pc w.toNat with
        | .fault c src v => (s.taskFault t k z.pc c src v).wake t
        | .block r obj =>
          s.modTile t fun x => { x with
            eligible := false
            slots := vmod x.slots k fun z =>
              { z with state := .blocked, reason := r, object := BitVec.ofNat 6 obj, held := some w
                       readyWhole := false } }
        | .go s next wakes =>
          let s := s.modTile t fun x => { x with
            eligible := !yields && x.slots[k].state == .ready
            advanced := true
            slots := vmod x.slots k fun z =>
              { z with pc := BitVec.ofNat 11 next, progress := z.progress + 1, readyWhole := false
                       state := if z.state = .ready then .running else z.state } }
          (s.wake t).wakeAll wakes

/-- `nop` of tile `t` (R514). -/
def execNop (t : TileId) (f : Fields) (s : State) : Host.Outcome State Fault Refusal :=
  act (fun s => s.issueAs t (word 0 0 f) doNop false) s

/-- `br` of tile `t` (R514). -/
def execBr (t : TileId) (f : Fields) (s : State) : Host.Outcome State Fault Refusal :=
  act (fun s => s.issueAs t (word 0 1 f) doBr false) s

/-- `bz` of tile `t` (R514). -/
def execBz (t : TileId) (f : Fields) (s : State) : Host.Outcome State Fault Refusal :=
  act (fun s => s.issueAs t (word 0 2 f) doBz false) s

/-- `bnz` of tile `t` (R514). -/
def execBnz (t : TileId) (f : Fields) (s : State) : Host.Outcome State Fault Refusal :=
  act (fun s => s.issueAs t (word 0 3 f) doBnz false) s

/-- `yield` of tile `t` (R514, R64). -/
def execYield (t : TileId) (f : Fields) (s : State) : Host.Outcome State Fault Refusal :=
  act (fun s => s.issueAs t (word 0 4 f) doYield true) s

/-- `sig` of tile `t` (R514, R68). -/
def execSig (t : TileId) (f : Fields) (s : State) : Host.Outcome State Fault Refusal :=
  act (fun s => s.issueAs t (word 0 5 f) doSig false) s

/-- `wait` of tile `t` (R514, R68). -/
def execWait (t : TileId) (f : Fields) (s : State) : Host.Outcome State Fault Refusal :=
  act (fun s => s.issueAs t (word 0 6 f) doWait false) s

/-- `halt` of tile `t` (R514, R62). -/
def execHalt (t : TileId) (f : Fields) (s : State) : Host.Outcome State Fault Refusal :=
  act (fun s => s.issueAs t (word 0 7 f) doHalt false) s

/-- `li` of tile `t` (R515). -/
def execLi (t : TileId) (f : Fields) (s : State) : Host.Outcome State Fault Refusal :=
  act (fun s => s.issueAs t (word 1 0 f) doLi false) s

/-- `add` of tile `t` (R515). -/
def execAdd (t : TileId) (f : Fields) (s : State) : Host.Outcome State Fault Refusal :=
  act (fun s => s.issueAs t (word 1 1 f) doAdd false) s

/-- `sub` of tile `t` (R515). -/
def execSub (t : TileId) (f : Fields) (s : State) : Host.Outcome State Fault Refusal :=
  act (fun s => s.issueAs t (word 1 2 f) doSub false) s

/-- `mul` of tile `t` (R515). -/
def execMul (t : TileId) (f : Fields) (s : State) : Host.Outcome State Fault Refusal :=
  act (fun s => s.issueAs t (word 1 3 f) doMul false) s

/-- `and` of tile `t` (R515). -/
def execAnd (t : TileId) (f : Fields) (s : State) : Host.Outcome State Fault Refusal :=
  act (fun s => s.issueAs t (word 1 4 f) doAnd false) s

/-- `or` of tile `t` (R515). -/
def execOr (t : TileId) (f : Fields) (s : State) : Host.Outcome State Fault Refusal :=
  act (fun s => s.issueAs t (word 1 5 f) doOr false) s

/-- `xor` of tile `t` (R515). -/
def execXor (t : TileId) (f : Fields) (s : State) : Host.Outcome State Fault Refusal :=
  act (fun s => s.issueAs t (word 1 6 f) doXor false) s

/-- `shl` of tile `t` (R515). -/
def execShl (t : TileId) (f : Fields) (s : State) : Host.Outcome State Fault Refusal :=
  act (fun s => s.issueAs t (word 1 7 f) doShl false) s

/-- `shr` of tile `t` (R515). -/
def execShr (t : TileId) (f : Fields) (s : State) : Host.Outcome State Fault Refusal :=
  act (fun s => s.issueAs t (word 1 8 f) doShr false) s

/-- `cmp` of tile `t` (R515). -/
def execCmp (t : TileId) (f : Fields) (s : State) : Host.Outcome State Fault Refusal :=
  act (fun s => s.issueAs t (word 1 9 f) doCmp false) s

/-- `ld` of tile `t` (R516). -/
def execLd (t : TileId) (f : Fields) (s : State) : Host.Outcome State Fault Refusal :=
  act (fun s => s.issueAs t (word 2 0 f) doLd false) s

/-- `st` of tile `t` (R516). -/
def execSt (t : TileId) (f : Fields) (s : State) : Host.Outcome State Fault Refusal :=
  act (fun s => s.issueAs t (word 2 1 f) doSt false) s

/-- `recv` of tile `t` (R138). -/
def execRecv (t : TileId) (f : Fields) (s : State) : Host.Outcome State Fault Refusal :=
  act (fun s => s.issueAs t (word 3 0 f) doRecv false) s

/-- `send` of tile `t` (R139). -/
def execSend (t : TileId) (f : Fields) (s : State) : Host.Outcome State Fault Refusal :=
  act (fun s => s.issueAs t (word 3 1 (f &&& ~~~(1#54 <<< 48))) doSend false) s

/-- `arm` of tile `t` (R148). -/
def execArm (t : TileId) (f : Fields) (s : State) : Host.Outcome State Fault Refusal :=
  act (fun s => s.issueAs t (word 3 2 f) doArm false) s

/-- `fin` of tile `t` (R140). -/
def execFin (t : TileId) (f : Fields) (s : State) : Host.Outcome State Fault Refusal :=
  act (fun s => s.issueAs t (word 3 3 (f &&& ~~~(1#54 <<< 48))) doFin false) s

/-- `send` with CHAIN set, of tile `t` (R150). -/
def execSendChain (t : TileId) (f : Fields) (s : State) : Host.Outcome State Fault Refusal :=
  act (fun s => s.issueAs t (word 3 1 (f ||| (1#54 <<< 48))) doSendChain false) s

/-- `fin` with CHAIN set, of tile `t` (R151). -/
def execFinChain (t : TileId) (f : Fields) (s : State) : Host.Outcome State Fault Refusal :=
  act (fun s => s.issueAs t (word 3 3 (f ||| (1#54 <<< 48))) doFinChain false) s

/-- `mma` of tile `t` (R50). -/
def execMma (t : TileId) (f : Fields) (s : State) : Host.Outcome State Fault Refusal :=
  act (fun s => s.issueAs t (word 4 0 f) doMma false) s

/-- `vadd` of tile `t` (R517). -/
def execVadd (t : TileId) (f : Fields) (s : State) : Host.Outcome State Fault Refusal :=
  act (fun s => s.issueAs t (word 5 0 f) (doVector .add) false) s

/-- `vsub` of tile `t` (R517). -/
def execVsub (t : TileId) (f : Fields) (s : State) : Host.Outcome State Fault Refusal :=
  act (fun s => s.issueAs t (word 5 1 f) (doVector .sub) false) s

/-- `vmul` of tile `t` (R517). -/
def execVmul (t : TileId) (f : Fields) (s : State) : Host.Outcome State Fault Refusal :=
  act (fun s => s.issueAs t (word 5 2 f) (doVector .mul) false) s

/-- `vfma` of tile `t` (R517). -/
def execVfma (t : TileId) (f : Fields) (s : State) : Host.Outcome State Fault Refusal :=
  act (fun s => s.issueAs t (word 5 3 f) (doVector .fma) false) s

/-- `vmin` of tile `t` (R517). -/
def execVmin (t : TileId) (f : Fields) (s : State) : Host.Outcome State Fault Refusal :=
  act (fun s => s.issueAs t (word 5 4 f) (doVector .min) false) s

/-- `vmax` of tile `t` (R517). -/
def execVmax (t : TileId) (f : Fields) (s : State) : Host.Outcome State Fault Refusal :=
  act (fun s => s.issueAs t (word 5 5 f) (doVector .max) false) s

/-- `vabs` of tile `t` (R517). -/
def execVabs (t : TileId) (f : Fields) (s : State) : Host.Outcome State Fault Refusal :=
  act (fun s => s.issueAs t (word 5 6 f) (doVector .abs) false) s

/-- `vneg` of tile `t` (R517). -/
def execVneg (t : TileId) (f : Fields) (s : State) : Host.Outcome State Fault Refusal :=
  act (fun s => s.issueAs t (word 5 7 f) (doVector .neg) false) s

/-- `vcmp` of tile `t` (R517). -/
def execVcmp (t : TileId) (f : Fields) (s : State) : Host.Outcome State Fault Refusal :=
  act (fun s => s.issueAs t (word 5 8 f) (doVector .cmp) false) s

/-- `vsel` of tile `t` (R517). -/
def execVsel (t : TileId) (f : Fields) (s : State) : Host.Outcome State Fault Refusal :=
  act (fun s => s.issueAs t (word 5 9 f) (doVector .sel) false) s

/-- `vscl` of tile `t` (R517). -/
def execVscl (t : TileId) (f : Fields) (s : State) : Host.Outcome State Fault Refusal :=
  act (fun s => s.issueAs t (word 5 10 f) (doVector .scl) false) s

/-- `vand` of tile `t` (R517). -/
def execVand (t : TileId) (f : Fields) (s : State) : Host.Outcome State Fault Refusal :=
  act (fun s => s.issueAs t (word 5 11 f) (doVector .and) false) s

/-- `vor` of tile `t` (R517). -/
def execVor (t : TileId) (f : Fields) (s : State) : Host.Outcome State Fault Refusal :=
  act (fun s => s.issueAs t (word 5 12 f) (doVector .or) false) s

/-- `vxor` of tile `t` (R517). -/
def execVxor (t : TileId) (f : Fields) (s : State) : Host.Outcome State Fault Refusal :=
  act (fun s => s.issueAs t (word 5 13 f) (doVector .xor) false) s

/-- `vshl` of tile `t` (R517). -/
def execVshl (t : TileId) (f : Fields) (s : State) : Host.Outcome State Fault Refusal :=
  act (fun s => s.issueAs t (word 5 14 f) (doVector .shl) false) s

/-- `vshr` of tile `t` (R517). -/
def execVshr (t : TileId) (f : Fields) (s : State) : Host.Outcome State Fault Refusal :=
  act (fun s => s.issueAs t (word 5 15 f) (doVector .shr) false) s

/-- `vcvt` of tile `t` (R517). -/
def execVcvt (t : TileId) (f : Fields) (s : State) : Host.Outcome State Fault Refusal :=
  act (fun s => s.issueAs t (word 5 16 f) (doVector .cvt) false) s

/-- `vred` of tile `t` (R517). -/
def execVred (t : TileId) (f : Fields) (s : State) : Host.Outcome State Fault Refusal :=
  act (fun s => s.issueAs t (word 5 17 f) (doVector .red) false) s

/-- `fn` of tile `t` (R60). -/
def execFn (t : TileId) (f : Fields) (s : State) : Host.Outcome State Fault Refusal :=
  act (fun s => s.issueAs t (word 6 0 f) (doFunction false false) false) s

/-- `fnd` of tile `t` (R60). -/
def execFnd (t : TileId) (f : Fields) (s : State) : Host.Outcome State Fault Refusal :=
  act (fun s => s.issueAs t (word 6 1 f) (doFunction true false) false) s

/-- `fnb` of tile `t` (R60). -/
def execFnb (t : TileId) (f : Fields) (s : State) : Host.Outcome State Fault Refusal :=
  act (fun s => s.issueAs t (word 6 2 f) (doFunction true true) false) s

/-- `xsub` of tile `t` (R171). -/
def execXsub (t : TileId) (f : Fields) (s : State) : Host.Outcome State Fault Refusal :=
  act (fun s => s.issueAs t (word 7 0 f) doXsub false) s

/-- `asub` of tile `t` (R179). -/
def execAsub (t : TileId) (f : Fields) (s : State) : Host.Outcome State Fault Refusal :=
  act (fun s => s.issueAs t (word 7 1 f) doAsub false) s

end Sys2Proof.Machine
end

