-- ==== Sys2Proof/Machine/UnitExec.lean ====
section
/-! DEFINITION. What the tensor, vector and function units compute (R44 to R60, R155 to R165, R517), and the commands
UNIT_COMMAND_COMPLETE and CHAIN_STAGE_ISSUE (R65, R150). -/

namespace Sys2Proof.Machine

/-! ### Tensor unit -/

/-- An operand of a product as the unit reads it: row and reduction index to a value. -/
structure OperandView where
  fmt : Fmt
  at_ : Nat
  sp : Nat
  tr : Bool
  blocks : Nat
  deriving DecidableEq, Repr

/-- Element (r, c) of a dense block at byte `a` (R46). -/
def denseElem (m : Mem) (f : Fmt) (a r c : Nat) : Val :=
  let p := readBits m (8 * a + (r * 32 + c) * f.width) f.width
  if f.isMX then mxVal f (Memory.read m (a + 64 * f.elementLines + r)).toNat p else elemVal f p

/-- The metadata word of row `n` of a 2:4 block (R156). -/
def meta24 (m : Mem) (f : Fmt) (a n : Nat) : Nat := Memory.readLE m (a + 64 * f.width + 4 * n) 4

/-- Element (n, k) of a 2:4 block; an absent element is +0 (R49, R156). -/
def elem24 (m : Mem) (f : Fmt) (a n k : Nat) : Val :=
  let md := meta24 m f a n
  let g := k / 4
  let v := fun i => readBits m (8 * a + (n * 16 + i) * f.width) f.width
  let p := if fld md (4 * g) 2 = k % 4 then some (v (2 * g))
    else if fld md (4 * g + 2) 2 = k % 4 then some (v (2 * g + 1)) else none
  if f.isMX then mxVal f (Memory.read m (a + 64 * (f.width + 2) + n)).toNat (p.getD 0)
  else match p with | some p => elemVal f p | none => .zero

/-- Byte address of block `j` of a block-sparse operand of `n` blocks (R159). -/
def sparseBlock (m : Mem) (f : Fmt) (b n j : Nat) : Nat :=
  b + 64 * (mapLines n + ((List.range j).map (sparseLines m f b)).foldl (· + ·) 0)

/-- Element (r, c) of block `j` of a block-sparse operand; an absent element is +0 (R49, R159). -/
def sparseElem (m : Mem) (f : Fmt) (b n j r c : Nat) : Val :=
  let nb := nibble m b j
  let q := 2 * (r / 16) + c / 16
  let a := sparseBlock m f b n j
  let here := bitAt nb q
  let idx := popNibble (nb % 2 ^ q)
  let p := if here then readBits m (8 * (a + 64 * idx * f.subBlockLines) + ((r % 16) * 16 + c % 16) * f.width) f.width
    else 0
  if f.isMX then
    if nb = 0 then .zero
    else mxVal f (Memory.read m (a + 64 * popNibble nb * f.subBlockLines + r)).toNat p
  else if here then elemVal f p else .zero

/-- Element at row `r` and reduction index `k` of block `j` of an operand; a transposed operand is read as rows k and
columns r (R47). -/
def OperandView.elem (v : OperandView) (m : Mem) (j r k : Nat) : Val :=
  let (r, c) := if v.tr then (k, r) else (r, k)
  if v.sp = 2 then sparseElem m v.fmt v.at_ v.blocks j r c
  else if v.sp = 1 then elem24 m v.fmt (v.at_ + 64 * j * v.fmt.blockLines24) r c
  else denseElem m v.fmt (v.at_ + 64 * j * v.fmt.blockLines) r c

/-- Reduction indices per group, by the slower class (R44, R48). -/
def groupSize (a b : Fmt) : Nat :=
  let c := min a.rateClass b.rateClass
  if c ≤ 2 then 1 else if c = 3 then 2 else 4

/-- One accumulation: the exact group sum added with one rounding in FP32, or saturating in INT32 (R48, R91, R92). -/
def accumulate (int : Bool) (acc : Nat) (ps : List Val) : Nat :=
  if int then
    let g := (ps.map fun v => v.units 0).foldl (· + ·) 0
    unsigned 32 (sat32 (signed 32 acc + g))
  else round32 ((val32 acc).add (Val.sum ps))

/-- One output element: reduction indices ascending over `n` blocks, in groups of `g` (R48). -/
def dotProduct (int : Bool) (m : Mem) (va vb : OperandView) (g acc r n : Nat) : Nat :=
  (List.range (va.blocks * (32 / g))).foldl (fun acc i =>
    let j := i / (32 / g)
    let k0 := (i % (32 / g)) * g
    accumulate int acc ((List.range g).map fun d => (va.elem m j r (k0 + d)).mul (vb.elem m j n (k0 + d)))) acc

/-- The two operand views of an `mma` command. -/
def mmaViews (u : UnitCmd) : Option (OperandView × OperandView) :=
  let w := u.word.toNat
  match fmtOf (fld w 50 4), fmtOf (fld w 46 4) with
  | some fa, some fb => some (⟨fa, u.a, 0, bitAt w 45, u.count⟩, ⟨fb, u.b, fld w 42 2, bitAt w 44, u.count⟩)
  | _, _ => none

/-- The accumulator block after an `mma` (R50). -/
def mmaResult (m : Mem) (u : UnitCmd) : List Byte :=
  match mmaViews u with
  | none => []
  | some (va, vb) =>
    let int := va.fmt.isInt
    let g := groupSize va.fmt vb.fmt
    (List.range 1024).flatMap fun e =>
      let acc := if bitAt u.word.toNat 41 then 0 else Memory.readLE m (u.d + 4 * e) 4
      leBytes 4 (dotProduct int m va vb g acc (e / 32) (e % 32))

/-- A 2:4 metadata pair whose first position is not less than its second (R157). -/
def badMeta (m : Mem) (u : UnitCmd) : Bool :=
  match mmaViews u with
  | some (_, vb) =>
    vb.sp == 1 && (List.range vb.blocks).any fun j => (List.range 32).any fun n =>
      let md := meta24 m vb.fmt (u.b + 64 * j * vb.fmt.blockLines24) n
      (List.range 8).any fun g => decide (fld md (4 * g + 2) 2 ≤ fld md (4 * g) 2)
  | none => false

/-! ### Vector unit -/

/-- Minimum or maximum of two lanes (R51): NaN if either is NaN; -0 below +0. -/
def minMax (int isMax : Bool) (a b : Nat) : Nat :=
  if int then
    let x := signed 32 a
    let y := signed 32 b
    unsigned 32 (if isMax then max x y else min x y)
  else
    let x := val32 a
    let y := val32 b
    if x == .nan || y == .nan then nan32
    else if x.lt y then (if isMax then b else a)
    else if y.lt x then (if isMax then a else b)
    else if isMax then (if bitAt a 31 then b else a) else (if bitAt a 31 then a else b)

/-- The condition COND of `vcmp` (R517). -/
def laneCond (c : Nat) (int : Bool) (a b : Nat) : Bool :=
  let x := laneVal int a
  let y := laneVal int b
  let nan := x == .nan || y == .nan
  match c with
  | 0 => x.eqv y
  | 1 => !x.eqv y
  | 2 => x.lt y
  | 3 => !nan && !y.lt x
  | 4 => y.lt x
  | _ => !nan && !x.lt y

/-- a x 2^k in the arithmetic width (R51). -/
def scaleLane (int : Bool) (a : Nat) (k : Int) : Nat :=
  if int then
    let x := signed 32 a
    if x = 0 then 0
    else if 32 ≤ k then unsigned 32 (if x < 0 then -(2 ^ 31) else 2 ^ 31 - 1)
    else
      let n : Int := rneShift x.natAbs k
      unsigned 32 (sat32 (if x < 0 then -n else n))
  else round32 ((val32 a).scale k)

/-- Exact integer results saturate (R92); float results round once (R52). -/
def arith (int : Bool) (fi : Int → Int → Int) (ff : Nat → Nat → Nat) (a b : Nat) : Nat :=
  if int then unsigned 32 (sat32 (fi (signed 32 a) (signed 32 b))) else ff a b

/-- The result of one element in the arithmetic width (R517): lanes a, b and d, the scalar register, COND. -/
def laneOp (op : VOp) (int : Bool) (cond : Nat) (sc : Word) (a b d : Nat) : Nat :=
  let one := if int then 1 else 0x3F800000
  match op with
  | .add => arith int (· + ·) add32 a b
  | .sub => arith int (· - ·) sub32 a b
  | .mul => arith int (· * ·) mul32 a b
  | .fma => if int then unsigned 32 (sat32 (signed 32 a * signed 32 b + signed 32 d)) else fma32 a b d
  | .min => minMax int false a b
  | .max => minMax int true a b
  | .abs => if int then unsigned 32 (sat32 (signed 32 a).natAbs) else round32 (val32 a).abs
  | .neg => if int then unsigned 32 (sat32 (-(signed 32 a))) else round32 (val32 a).neg
  | .cmp => if laneCond cond int a b then one else 0
  | .sel => if (laneVal int d).eqv .zero then b else a
  | .scl => scaleLane int a (signed 32 sc.toNat)
  | .and => a &&& b
  | .or => a ||| b
  | .xor => a ^^^ b
  | .shl => (a * 2 ^ (sc.toNat % 32)) % 2 ^ 32
  | .shr => unsigned 32 (signed 32 a / 2 ^ (sc.toNat % 32))
  | .cvt => a
  | .red => a

/-- A fold over a list whose first element starts it; `e` for an empty list. -/
def foldFrom (f : Nat → Nat → Nat) (e : Nat) : List Nat → Nat
  | [] => e
  | x :: xs => xs.foldl f x

/-- Pairs combined in order. -/
def pairUp (f : Nat → Nat → Nat) : List Nat → List Nat
  | a :: b :: r => f a b :: pairUp f r
  | l => l

/-- The reduction of R53: 16 lanes in ascending order, then pairwise over four levels. A lane that receives elements
starts from its first. DEDUCED, log 15. -/
def reduce (int isMax : Bool) (xs : List Nat) : Nat :=
  let e := if isMax then (if int then 0x80000000 else 0xFF800000) else 0
  let f := if isMax then minMax int true else arith int (· + ·) add32
  let lanes := (List.range 16).map fun j =>
    foldFrom f e ((xs.zipIdx.filter fun p => p.2 % 16 == j).map (·.1))
  (pairUp f (pairUp f (pairUp f (pairUp f lanes)))).headD e

/-- What a vector command writes. -/
def vectorWrites (m : Mem) (op : VOp) (u : UnitCmd) : List (Nat × List Byte) :=
  let w := u.word.toNat
  let md := fld w 0 26
  match fmtOf (fld w 50 4), fmtOf (fld w 46 4) with
  | some fi, some fo =>
    let int := fi.isInt
    let a := (List.range u.count).map (laneAt m fi u.a)
    let exp := if bitAt md 4 then Sum.inr (u.scalar.toNat % 256) else Sum.inl (fld md 0 4)
    let rs :=
      if op = .red then [reduce int (bitAt md 9) a]
      else a.zipIdx.map fun (x, i) =>
        let b := if !op.two then 0 else if bitAt md 5 then u.scalar.toNat else laneAt m fi u.b i
        let d := if op.readsD then laneAt m fo u.d i else 0
        laneOp op int (fld md 6 3) u.scalar x b d
    encodeRun m fo u.d exp (rs.map (laneVal int))
  | _, _ => []

/-! ### Function unit -/

/-- Coefficients c0, c1, c2 of segment `i` of a table at byte `o`, as binary32 patterns (R56). -/
def coeffs (tb : Mem) (o i : Nat) : Nat × Nat × Nat :=
  let v := Memory.readLE tb (o + 6 * i) 6
  (fld v 0 16 * 65536, fld v 16 16 * 65536, fld v 32 16 * 65536)

/-- One segment at t (R57). -/
def segment (tb : Mem) (o i t : Nat) : Nat :=
  let (c0, c1, c2) := coeffs tb o i
  add32 c0 (mul32 t (add32 c1 (mul32 c2 t)))

/-- The rule outside the domain (R58). -/
def outside (tb : Mem) (o code value x : Nat) (above : Bool) : Nat :=
  if code = 1 then value * 65536
  else if code = 2 then x
  else if above then segment tb o 255 0x3F800000 else segment tb o 0 0

/-- The table at byte `o` with header `h` evaluated at the binary32 pattern `x` (R57, R58). Where the spec states no value:
t is +0 when s is -0, and a finite x with a NaN for LO gives the canonical NaN. DESIGN CHOICE, log 15. -/
def evalTable (tb : Mem) (h o x : Nat) : Nat :=
  let below := outside tb o (fld h 41 2) (fld h 48 16) x false
  let above := outside tb o (fld h 43 2) (fld h 64 16) x true
  if val32 x == .nan then nan32
  else if val32 x == .inf true then below
  else if val32 x == .inf false then above
  else if !bitAt h 40 then
    let s := round32 ((val32 (sub32 x (fld h 0 32))).scale (-(signed 8 (fld h 32 8))))
    match val32 s with
    | .nan => nan32
    | .inf neg => if neg then below else above
    | v =>
      if v.lt .zero then below
      else if !v.lt (Val.ofInt 256) then above
      else
        let i := (v.units (-149)).toNat / 2 ^ 149
        segment tb o i (round32 (v.add (Val.ofInt (-(i : Int)))))
  else
    let e8 := fld x 23 8
    if bitAt x 31 || e8 == 0 then below
    else if e8 = 255 then above
    else
      let e : Int := (e8 : Int) - 127
      let q := e / 2
      let p := (e - 2 * q).toNat
      let f := fld x 0 23
      let y := segment tb o (p * 128 + f / 2 ^ 16) (round32 (.fin false (f % 2 ^ 16) (-16)))
      let y := round32 ((val32 y).scale (signed 8 (fld h 80 8) * q))
      add32 y (mul32 (fld h 96 32) (round32 (Val.ofInt q)))

/-- What a function command writes (R60). -/
def functionWrites (x : Tile) (op : Nat) (u : UnitCmd) : List (Nat × List Byte) :=
  let w := u.word.toNat
  let table := 2 * fld w 23 3 + (if op = 0 then 0 else 1)
  let h := (x.headers[finOf 16 table]).toNat
  match fmtOf (fld w 50 4), fmtOf (fld w 46 4) with
  | some fi, some fo =>
    let rs := (List.range u.count).map fun i =>
      let y := evalTable x.tables h (1536 * table) (laneAt x.pad fi u.a i)
      val32 (if op = 2 then mul32 (laneAt x.pad fi u.b i) y else y)
    encodeRun x.pad fo u.d (.inl 0) rs
  | _, _ => []

/-! ### Completion -/

/-- Everything a unit command writes, as runs of bytes. -/
def UnitCmd.results (x : Tile) (u : UnitCmd) : List (Nat × List Byte) :=
  let w := u.word.toNat
  let op := fld w 54 6
  match fld w 60 4 with
  | 4 => [(u.d, mmaResult x.pad u)]
  | 5 => match VOp.ofCode op with
    | some v => vectorWrites x.pad v u
    | none => []
  | _ => functionWrites x op u

/-- The word in which a vector or function command's results end within a byte, which it merges (R107). -/
def UnitCmd.nibble (u : UnitCmd) : Option Nat :=
  match fld u.word.toNat 60 4, fmtOf (fld u.word.toNat 46 4) with
  | 4, _ => none
  | _, some fo => nibbleWord fo u.d (if fld u.word.toNat 54 6 = 17 ∧ fld u.word.toNat 60 4 = 5 then 1 else u.count)
  | _, none => none

/-- The first parity event a unit command meets: a word it reads, a tag of A, or a word it merges (R107, R120, R163). -/
def UnitCmd.parity (x : Tile) (u : UnitCmd) (ws : List (Nat × List Byte)) : Option Nat :=
  let tags := if fld u.word.toNat 60 4 = 4 then x.badTagIn (u.reads.take 1) else none
  let merged := ((ws.flatMap fun (a, bs) => mergedWords a bs.length) ++ u.nibble.toList).find? x.badWord
  (x.badIn u.reads).or (tags.or merged)

/-- The command at the head of a unit's queue finishes: a fault of its task, or its writes land (R65, R69, R157). -/
def State.unitComplete (s : State) (t : TileId) (u : UnitSel) : State :=
  let x := s.tile t
  match x.queue u with
  | [] => s
  | c :: q =>
    let ws := c.results x
    let fault := fun (cause : TileCause) (v : Nat) =>
      -- the faulting command stands at the head while the commands behind it are discarded (R69)
      ((s.setTile t { x with advanced := true }).taskFault t c.slot c.pc cause 0 v).modTile t fun y =>
        (y.setQueue u (y.queue u).tail).dropEmpty u (y.queue u).length
    let s := match c.parity x ws with
      | some v => fault .parity v
      | none =>
        if fld c.word.toNat 60 4 = 4 ∧ badMeta x.pad c then fault .format 0
        else
          (s.setTile t { x.setQueue u q with advanced := true }).modTile t fun x =>
            let x := ws.foldl (fun (x : Tile) (a, bs) => x.wideWrite a bs) x
            let x := c.nibble.elim x x.merged
            let x := match c.chain with
              | some g => x.chainStep g
              | none => x
            x.dropEmpty u (x.queue u).length
    s.wake t

/-- Do the tile's units advance? Its region is supplied and not in stall (R380, R393), and no recovery reset runs. -/
def State.unitsRun (s : State) (t : TileId) : Bool :=
  s.regions[regionOf t].state == .active && !s.hng.running

/-- UNIT_COMMAND_COMPLETE (R65). -/
def execUnitCommandComplete (t : TileId) (u : UnitSel) (s : State) : Host.Outcome State Fault Refusal :=
  act (fun s => if s.unitsRun t then s.unitComplete t u else s) s

/-! ### Chain stages (R150) -/

/-- The next iteration of stage `i` when the chain engine may issue it (R150). -/
def ChainRun.ready (r : ChainRun) (i : Nat) : Option Nat :=
  let j := r.issued.getD i 0
  let prev := decide (i = 0) || decide (j < r.completed.getD (i - 1) 0)
  let room := match r.rings[i]? with
    | some g => decide (j < r.completed.getD (i + 1) 0 + g.slots)
    | none => true
  if decide (j < r.iters) && prev && room then some j else none

/-- One stage command issued (R150). -/
def State.chainIssue (s : State) (t : TileId) (c : Fin 4) (i : Nat) : State :=
  let x := s.tile t
  match x.runs[c] with
  | none => s
  | some r =>
    match r.ready i, chainStage x.chains[c] i with
    | some j, some st =>
      let inAddr := if i = 0 then none else (r.rings[i - 1]?).map fun g => (g.slot j).at_
      let outAddr := (r.rings[i]?).map fun g => (g.slot j).at_
      let held := r.held x (s.hquotaOf t) x.chains[c] c i j
      let tag : ChainTag := ⟨c, i, j⟩
      let mark := fun (s : State) => s.modTile t fun x => { x with
        advanced := true
        runs := vmod x.runs c fun r => r.map fun r => { r with issued := modNth r.issued i (· + 1) } }
      match st with
      | .inp n =>
        let z := x.strs[n]
        if z.posts.length < z.outst ∧ !held then
          let s := (mark s).post t n r.slot (outAddr.getD 0) (some tag)
          s.wakeAll z.peerTile
        else s
      | .out n =>
        if 0 < x.strs[n].credits ∧ !held then (mark s).issueSend t n r.slot r.pc (inAddr.getD 0) (some tag) else s
      | .unit w =>
        let u := unitOf (fld w 60 4)
        if x.full u then s
        else
          match r.plan x (s.hquotaOf t) w i j tag with
          | none => (s.taskFault t r.slot r.pc .illegal 0 0).wake t
          | some (.fault cause src v) => (s.taskFault t r.slot r.pc cause src v).wake t
          | some .wait => s
          | some (.ok cmd) =>
            if held || x.interlocked r.slot true cmd.reads cmd.writes then s
            else ((mark s).modTile t fun x => x.enqueue u cmd).wake t
    | _, _ => s

/-- CHAIN_STAGE_ISSUE (R150). -/
def execChainStageIssue (t : TileId) (chain : Fin 4) (stage : Fin 6) (s : State) : Host.Outcome State Fault Refusal :=
  act (fun s => if s.tileRuns t then s.chainIssue t chain stage.1 else s) s

end Sys2Proof.Machine
end

