-- ==== Sys2Proof/Machine/Mesh.lean ====
section
/-! DEFINITION. The mesh (R126 to R133, R152, R153): packets, route tables, drops, delivery; and the commands of the
region service units that follow a submission (R172 to R180). -/

namespace Sys2Proof.Machine

/-- Bit i set for every payload flit i that is all zero (R128, R129). -/
def zeroMask (bs : List Byte) : Nat :=
  ((List.range (bs.length / 16)).map fun i =>
    if (slice bs (16 * i) 16).all (· == 0) then 2 ^ i else 0).foldl (· + ·) 0

/-- The packets of a transfer (R128): at most four lines each, in line order. `hdr` gives the fields that all share. -/
def packets (hdr : Packet) (lines : Nat) (zskip : Bool) (bs : List Byte) : List Packet :=
  (List.range ((lines + 3) / 4)).map fun i =>
    let n := min 4 (lines - 4 * i)
    let pay := slice bs (256 * i) (64 * n)
    { hdr with
      lines := finOf 4 (n - 1)
      last := decide (4 * (i + 1) ≥ lines)
      loff := BitVec.ofNat 8 (4 * i)
      zmask := BitVec.ofNat 16 (if zskip then zeroMask pay else 0)
      payload := pay }

/-- The header that a tile's string engine fills in (R128). For a peer at the edge STR carries the sender's own string
number. DESIGN CHOICE, log 9. -/
def State.header (s : State) (t : TileId) (n : Fin 32) (seq : Nat) : Packet :=
  let z := (s.tile t).strs[n]
  let c := (s.ctxOf t).getD 0
  { ch := BitVec.ofNat 5 z.ch, ctx := c, gen := (s.ctx c).gen, str := if z.kind = 0 then z.pstr else n
    lines := 0, last := false, seq := BitVec.ofNat 16 seq, loff := 0, zmask := 0
    srcX := BitVec.ofNat 10 (tileX t), srcY := BitVec.ofNat 10 (tileY t), payload := [] }

/-- The string engine reads the source lines of the oldest unread `send` of string `n` and injects its packets (R139,
R140, R166); a parity event on a line faults the task (R120). They stand at the local inject port on lane 0, since R130 gives
lanes to output links only. DESIGN CHOICE, log 9. -/
def State.sourceRead (s : State) (t : TileId) (n : Fin 32) : State :=
  let x := s.tile t
  let z := x.strs[n]
  match z.sends.find? fun q => !q.read with
  | none => s
  | some q =>
    match x.badIn [⟨q.at_, z.lines⟩] with
    | some v =>
      ((s.modStr t n fun z => { z with
        sends := z.sends.filter fun p => p.seq != q.seq }).taskFault t q.slot q.pc .parity 0 v).wake t
    | none =>
      let bs := Memory.readBytes x.pad q.at_ (64 * z.lines)
      let ps := packets (s.header t n q.seq) z.lines z.zskip bs
      let s := { s with mesh := s.mesh ++ ps.map (InFlight.mk t 6 0) }
      let s := s.modTile t fun x =>
        let upd := fun sends : List SendOp =>
          match q.chain with
          | some _ => sends.filter fun p => p.seq != q.seq
          | none => sends.map fun p => if p.seq = q.seq then { p with read := true } else p
        let x := { x with advanced := true, strs := vmod x.strs n fun z => { z with sends := upd z.sends } }
        match q.chain with
        | some g => x.chainStep g
        | none => x
      s.wake t

/-- SEND_SOURCE_READ (R139, R140). -/
def execSendSourceRead (t : TileId) (n : Fin 32) (s : State) : Host.Outcome State Fault Refusal :=
  act (fun s => if s.unitsRun t then s.sourceRead t n else s) s

/-- A drop recorded (R132, R153, R154): STR_CAUSE, STR_DROPS and STR_DROP_AT. -/
def State.dropPacket (s : State) (t : TileId) (p : Packet) (route : Bool) : State :=
  let first := s.rfld Reg.strCause 0 2 == 0
  let s := (s.cause Reg.strCause (bit route)).count Reg.strDrops 0 32 1
  if first then
    s.setReg Reg.strDropAt (tileX t + tileY t * 2 ^ 10 + p.ctx.1 * 2 ^ 20 + bit route * 2 ^ 23 + 2 ^ 24)
  else s

/-- Does the packet's context and generation stand (R153)? -/
def State.current (s : State) (p : Packet) : Bool := (s.ctx p.ctx).state != .free && (s.ctx p.ctx).gen == p.gen

/-- A packet's lines written into the post they fill (R129, R138). -/
def State.fillPost (s : State) (t : TileId) (p : Packet) : State :=
  let z := (s.tile t).strs[p.str]
  match z.posts.find? fun q => !q.done && BitVec.ofNat 16 q.seq == p.seq with
  | none => s
  | some q =>
    s.modTile t fun x =>
      let x := x.wideWrite (q.at_ + 64 * p.loff.toNat) p.payload
      { x with strs := vmod x.strs p.str fun z => { z with posts := z.posts.map fun r =>
          if r.seq = q.seq then
            { r with got := (List.range (p.lines.1 + 1)).foldl (fun g i => g.add (p.loff.toNat + i)) r.got }
          else r } }

/-- A packet ejected at a tile (R153). -/
def State.eject (s : State) (t : TileId) (p : Packet) : State :=
  if s.ctxOf t == some p.ctx && s.current p then s.fillPost t p else s.dropPacket t p false

/-- A packet that leaves the mesh at the edge port of a side, into that side's edge ring (R25): the ring checks it as an
eject port does and stages its lines for the member that its sender's string names (R146, R153); a packet of a string of
another side has no member there, and is dropped. DESIGN CHOICE, log 9. -/
def State.toEdge (s : State) (t : TileId) (out : Nat) (p : Packet) : State :=
  if !s.current p then s.dropPacket t p false
  else
    match tileAt p.srcX.toNat p.srcY.toNat with
    | none => s.dropPacket t p false
    | some src =>
      let z := (s.tile src).strs[p.str]
      let e := s.edgeOf p.ctx z.side.1 z.stream
      match if z.side.1 = out then e.memberOf src else none with
      | none => s.dropPacket t p false
      | some m =>
        s.modMember p.ctx z.side.1 z.stream m fun y =>
          let old := y.staged.find? fun q => BitVec.ofNat 16 q.seq == p.seq
          let seq := y.next + ((p.seq.toNat + 65536 - y.next % 65536) % 65536)
          let q := old.getD { seq := seq }
          let q := { q with
            bytes := Memory.writeBytes q.bytes (64 * p.loff.toNat) p.payload
            got := (List.range (p.lines.1 + 1)).foldl (fun g i => g.add (p.loff.toNat + i)) q.got }
          { y with staged := (y.staged.filter fun r => r.seq != q.seq) ++ [q] }

/-- The neighbour that an output port reaches and the input port it arrives at there (R77, R127, R131); row 0 lies north
(R19). -/
def hop (t : TileId) (out : Nat) : Option (TileId × Fin 7) :=
  let x := tileX t
  let y := tileY t
  match out with
  | 0 => if y = 0 then none else (tileAt x (y - 1)).map fun q => (q, 2)
  | 1 => (tileAt (x + 1) y).map fun q => (q, 3)
  | 2 => (tileAt x (y + 1)).map fun q => (q, 0)
  | 3 => if x = 0 then none else (tileAt (x - 1) y).map fun q => (q, 1)
  | 4 => (tileAt (x + 32) y).map fun q => (q, 5)
  | 5 => if x < 32 then none else (tileAt (x - 32) y).map fun q => (q, 4)
  | _ => none

/-- Follows a channel of context `ctx` from entry `n` of a tile, entered by `port`, with the checks of R132 at each
router: the tile it ejects to, `none` for an edge port; the outer option is `none` when the channel ends nowhere (R133). -/
def follow? (look : TileId → Nat → Option Nat) (ctx : Nat) : Nat → TileId → Nat → Nat → Option (Option TileId)
  | 0, _, _, _ => none
  | fuel + 1, t, n, port =>
    match look t n with
    | none => none
    | some e =>
      if fld e 0 3 ≠ port ∨ fld e 12 3 ≠ ctx then none
      else if fld e 3 3 = 6 then some (some t)
      else
        match hop t (fld e 3 3) with
        | some (u, p) => follow? look ctx fuel u (fld e 6 5) p.1
        | none => if fld e 3 3 ≤ 3 then some none else none

/-- The valid entry `n` of a tile's route table (R131). -/
def State.routeEntry (s : State) (t : TileId) (n : Nat) : Option Nat :=
  let e := ((s.tile t).routes[finOf 32 n]).toNat
  if bitAt e 16 then some e else none

/-- Does the tile face the side (R24)? -/
def faces (side : Nat) (t : TileId) : Bool :=
  match side with
  | 0 => tileY t == 0
  | 1 => tileX t == 1023
  | 2 => tileY t == 767
  | _ => tileX t == 0

/-- Where an edge ring injects packets for a tile: the edge-port tile of its side and the entry there of a channel of
the context that enters by that edge port and ends at the tile's local eject (R25, R131, R132). Of several the first by
tile, then by entry. DESIGN CHOICE, log 9. -/
def State.edgeEntry (s : State) (c : Fin 8) (side : Fin 4) (t : TileId) : Option (TileId × Nat) :=
  (s.tiles.filter fun e => faces side.1 (finOf 786432 e.1)).findSome? fun e =>
    ((List.range 32).find? fun n =>
      follow? s.routeEntry c.1 (32 * 786432) (finOf 786432 e.1) n side.1 == some (some t)).map fun n => (finOf 786432 e.1, n)

/-- Do the region's routers advance (R78, R380, R393)? -/
def State.routerRuns (s : State) (t : TileId) : Bool :=
  let r := s.regions[regionOf t].state
  (r == .active || r == .transit) && !s.hng.running

/-- A header arrives on an input port and lane (R132): checked, then forwarded, ejected or dropped. One whose OUT leads
nowhere, a skip link without a partner or the code 7, is dropped as one without a matching entry. DESIGN CHOICE, log 9. -/
def State.headerArrive (s : State) (f : InFlight) : State :=
  let p := f.pkt
  let e := ((s.tile f.tile).routes[finOf 32 p.ch.toNat]).toNat
  let out := fld e 3 3
  if !(bitAt e 16 && fld e 0 3 == f.port.1 && fld e 12 3 == p.ctx.1) then s.dropPacket f.tile p true
  else if out = 6 then s.eject f.tile p
  else
    match hop f.tile out with
    | some (q, port) =>
      if s.regions[regionOf q].state = .lost then s
      else
        let p := { p with ch := BitVec.ofNat 5 (fld e 6 5) }
        { s with mesh := s.mesh ++ [⟨q, port, finOf 2 (fld e 11 1), p⟩] }
    | none => if out < 4 then s.toEdge f.tile out p else s.dropPacket f.tile p true

/-- PACKET_HEADER_ARRIVE (R132): the first packet that waits at the port and lane. -/
def execPacketHeaderArrive (t : TileId) (port : Fin 7) (lane : Fin 2) (s : State) : Host.Outcome State Fault Refusal :=
  act (fun s =>
    if !s.routerRuns t then s
    else
      match s.mesh.findIdx? fun f => f.tile == t && f.port == port && f.lane == lane with
      | none => s
      | some i =>
        match s.mesh[i]? with
        | none => s
        | some f => ({ s with mesh := s.mesh.eraseIdx i }).headerArrive f) s

/-! ### Region service units -/

/-- Has the batch received exactly P submissions for each token, one of them with HOME (R172)? -/
def batchClosed (d : RouterDesc) (subs : List RouterSub) : Bool :=
  (List.range d.n).all fun t =>
    let mine := subs.filter fun u => u.token == t
    mine.length == d.p && (mine.filter (·.home)).length == 1

/-- A service unit's queue advances for the context that holds the region (R431). -/
def State.serviced (s : State) (r : Fin 48) : State :=
  match s.ctxOfRegion r with
  | some c => s.modCtx c fun x => { x with advanced := true }
  | none => s

/-- A closed batch decided (R172, R176, R177). A gate's tokens with a NaN score count in STR_RTR_NAN as an expert table's
do. DESIGN CHOICE, log 14. -/
def State.batchDecide (s : State) (r : Fin 48) (tab : Fin 16) : State :=
  match s.routerTable r tab with
  | none => s
  | some (q, o) =>
    let rt := s.routers.getD (svcKey r tab) {}
    let d := q.routerDesc o
    if rt.decided || rt.failed || !batchClosed d rt.subs then s
    else
      let as := batchAssign d rt.subs
      let res := batchResults q o r rt.subs as
      match s.deliverBad res.1 res.2 with
      | some reason =>
        let s := { s with routers := s.routers.set (svcKey r tab) { rt with failed := true } }
        s.serviceFail r tab.1 0 reason
      | none =>
        let dropped := if d.gate then 0 else ((as.flatMap id).filter fun a => a.slot == 0xFFFF).length
        let nans := ((List.range d.n).filter fun t => (tokenRecs rt.subs t).any fun e => val32 e.2 == .nan).length
        let rt := { rt with decided := true, writes := res.1, signals := res.2 }
        let s := { s with routers := s.routers.set (svcKey r tab) rt }
        ((s.count Reg.rtrDrops 0 32 dropped).count Reg.rtrNan 0 32 nans).serviced r

/-- ROUTER_BATCH_DECIDE (R172). -/
def execRouterBatchDecide (r : Fin 48) (tab : Fin 16) (s : State) : Host.Outcome State Fault Refusal :=
  act (fun s => if s.regions[r].state = .active then s.batchDecide r tab else s) s

/-- The results of a decided batch written and signalled; the next batch is current (R171, R175). -/
def State.resultsWritten (s : State) (r : Fin 48) (tab : Fin 16) : State :=
  let rt := s.routers.getD (svcKey r tab) {}
  let fails := { s with routers := s.routers.set (svcKey r tab) { rt with decided := false, failed := true } }
  if !rt.decided || rt.failed then s
  else
    match s.deliverParity rt.writes, s.deliverBad rt.writes rt.signals with
    | some e, _ => (fails.serviceParity e).wake e.1.tile
    | none, some reason => fails.serviceFail r tab.1 0 reason
    | none, none =>
      let s := (s.deliver rt.writes rt.signals)
      let s := { s with routers := s.routers.set (svcKey r tab) { batch := rt.batch + 1 } }
      s.wakeAll (s.regionTiles r)

/-- ROUTER_RESULTS_WRITTEN (R175). -/
def execRouterResultsWritten (r : Fin 48) (tab : Fin 16) (s : State) : Host.Outcome State Fault Refusal :=
  act (fun s => if s.regions[r].state = .active then s.resultsWritten r tab else s) s

/-- A complete query block decided, its list written and its event signalled (R180). -/
def State.queryDecide (s : State) (r : Fin 48) (tab : Fin 16) (num : Nat) : State :=
  match s.selectTable r tab with
  | none => s
  | some (sel, sink, loc, ev) =>
    let qs := s.selections.getD (svcKey r tab) []
    match qs.find? fun q => q.query == num && q.complete && !q.failed with
    | none => s
    | some q =>
      match q.home with
      | none => s
      | some h =>
        let keys := chooseKeys sel sink loc h.v q.scores
        let w : ServiceWrite := ⟨h.tile, some (h.slot, h.pc), h.dest, 136, leBytes 8 keys.length ++ keys.flatMap (leBytes 2)⟩
        let failed := qs.map fun y => if y.query = num then { y with failed := true } else y
        let fails := { s with selections := s.selections.set (svcKey r tab) failed }
        match s.deliverParity [w], s.deliverBad [w] [(h.tile, finOf 16 ev)] with
        | some e, _ => (fails.serviceParity e).wake e.1.tile
        | none, some reason => fails.serviceFail r tab.1 1 reason
        | none, none =>
          let s := s.deliver [w] [(h.tile, finOf 16 ev)]
          let qs := qs.filter fun y => y.query != num
          let s := { s with selections := s.selections.set (svcKey r tab) qs }
          (s.wakeAll (s.regionTiles r)).serviced r

/-- SELECTION_QUERY_DECIDE (R180). -/
def execSelectionQueryDecide (r : Fin 48) (tab : Fin 16) (q : Fin 4096) (s : State) : Host.Outcome State Fault Refusal :=
  act (fun s => if s.regions[r].state = .active then s.queryDecide r tab q.1 else s) s

end Sys2Proof.Machine
end

