-- ==== Sys2Proof/WellFormed.lean ====
section
/-! DEFINITION. Well-formedness of a command: the lengths of its byte strings are those its interface carries. Every
other operand is checked by the command itself, with the status or cause the spec gives. -/

namespace Sys2Proof

/-- A ring entry has 128 bytes (R327). -/
def RawEntry.wf (e : RawEntry) : Bool := e.bytes.length == 128

/-- A tag has 32 bytes (R327). -/
def EntryHead.wf (h : EntryHead) : Bool := h.tag.length == 32

/-- A payload has at most 4,096 bytes (R303). -/
def Frame.wf (f : Frame) : Bool := decide (f.payload.length ≤ 4096)

/-- A command that its interface can carry. -/
def Instr.wf : Instr → Bool
  | .hdmWrite _ bytes => bytes.length == 64
  | .tailLineWrite _ _ entries _ => entries.all fun e => match e with | some e => e.wf | none => true
  | .linkCredit _ credits => credits.length == 7
  | .data _ f | .credit _ f | .settled _ f | .shardReq _ f | .shardData _ f | .shardAbsent _ f | .shardPush _ f
  | .manifestData _ f | .pageData _ f | .pageErr _ f | .wbAck _ f | .wbNak _ f | .redBlock _ f | .redPrepass _ f
  | .bypassNotice _ f | .ckptPage _ f | .ckptPageAck _ f | .ckptRecord _ f | .ckptManifest _ f
  | .ckptManifestAck _ f | .ckptSealAck _ f | .ckptFetch _ f | .ckptFetchData _ f | .ckptAbsent _ f
  | .ckptDurable _ f | .mgmt _ f | .reject _ f => f.wf
  | .time _ f _ _ => f.wf
  | .loadScroll _ h .. | .startReduction _ h _ | .stepStart _ h .. | .hold _ h | .holdEnd _ h | .resume _ h
  | .capo _ h _ | .teardown _ h | .teardownCtx _ h _ | .readStatus _ h _ | .create _ h _ | .fwUpdate _ h ..
  | .timeRole _ h _ | .recoveryReset _ h | .powerLimit _ h _ | .mapWindow _ h .. | .powerStateActive _ h
  | .powerStateRest _ h | .powerStatePark _ h | .keyChange _ h .. | .fence _ h .. | .readmit _ h .. => h.wf
  | .switchVersion _ h _ d | .restoreMemory _ h d | .restoreBuddy _ h d | .restoreDurable _ h _ d =>
    h.wf && d.length == 64
  | _ => true

end Sys2Proof
end

