-- ==== Sys2Proof/Machine/Fabric.lean ====
section
/-! DEFINITION. The Henulo link (R299 to R311): roles and ports, frames sent and received, link frames, credits,
training, and the receive checks. -/

namespace Sys2Proof

open Machine

/-! ### Frames and ports -/

/-- The 32-byte header without its CRC, and the payload, as bytes (R303). -/
def Frame.header (f : Frame) (seq : Word) : List Byte :=
  [f.type, f.flags] ++ leBytes 2 f.epoch.toNat ++ leBytes 2 f.source.toNat ++ leBytes 2 f.dest.toNat
    ++ [f.context, f.generation] ++ leBytes 3 f.stream.toNat ++ [f.cls] ++ leBytes 2 f.payload.length
    ++ leBytes 4 seq.toNat ++ leBytes 8 f.offset.toNat

/-- A CKPT response: PAGE_ACK, MANIFEST_ACK, SEAL_ACK, FETCH_DATA or ABSENT (R416). -/
def Frame.ckptResponse (f : Frame) : Bool :=
  f.type == 0x40 && [1, 4, 6, 8, 9].contains (f.stream.toNat % 16)

/-- Bytes of the frame on the link (R303). -/
def Frame.bytes (f : Frame) : Nat := 32 + f.payload.length + (if f.payload.isEmpty then 0 else 4)

/-- END flag (R303). -/
def Frame.isEnd (f : Frame) : Bool := bitAt f.flags.toNat 0

/-- Full length of the frame on the link in units of 256 bytes (R305). -/
def Frame.units (f : Frame) : Nat := (f.bytes + 255) / 256

/-- SEL flag (R303). -/
def Frame.sel (f : Frame) : Bool := bitAt f.flags.toNat 2

/-- The frame types of R303; the other codes are reserved. -/
def knownType (ty : Nat) : Bool :=
  [0x01, 0x02, 0x03, 0x10, 0x11, 0x12, 0x13, 0x14, 0x15, 0x20, 0x21, 0x22, 0x23, 0x24, 0x30, 0x31, 0x32, 0x40, 0x50, 0x60,
    0x61, 0x70].contains ty

/-- Is the frame free of what R303 and R416 reserve: FLAGS [7:3], the CLASS codes beyond 6, SEL but in WB_ACK, WB_NAK, SEAL
and ROLLBACK, and STREAM [23:7] of a CKPT frame (R304)? A reserved CLASS code counts as reserved bits. DEDUCED, log 17. -/
def Frame.clean (f : Frame) : Bool :=
  fld f.flags.toNat 3 5 == 0 && decide (f.cls.toNat < 7)
    && (!f.sel || f.type == 0x24 || (f.type == 0x40 && f.stream.toNat % 16 == 5))
    && (f.type != 0x40 || fld f.stream.toNat 7 17 == 0)

/-- A frame read from its bytes (R303). -/
def Frame.ofBytes (b : List Byte) : Frame :=
  { type := BitVec.ofNat 8 (leAt b 0 1), flags := BitVec.ofNat 8 (leAt b 1 1), epoch := BitVec.ofNat 16 (leAt b 2 2)
    source := BitVec.ofNat 16 (leAt b 4 2), dest := BitVec.ofNat 16 (leAt b 6 2), context := BitVec.ofNat 8 (leAt b 8 1)
    generation := BitVec.ofNat 8 (leAt b 9 1), stream := BitVec.ofNat 24 (leAt b 10 3), cls := BitVec.ofNat 8 (leAt b 13 1)
    seq := BitVec.ofNat 32 (leAt b 16 4), offset := BitVec.ofNat 64 (leAt b 20 8), payload := slice b 32 (leAt b 14 2) }

end Sys2Proof

namespace Sys2Proof.Machine

/-- The engine's identifier (R489). -/
def State.ident (s : State) : Half := BitVec.ofNat 16 (s.rfld Reg.engIdent 0 16)

/-- A frame of ours, before it is sent: the epoch and sequence are written as it leaves (R310). -/
def State.frame (s : State) (ty cls : Nat) (dest : Half) (ctx gen : Byte) (stream offset : Nat) (fin : Bool)
    (payload : List Byte) : Frame :=
  { type := BitVec.ofNat 8 ty, flags := BitVec.ofNat 8 (bit fin), epoch := 0, source := s.ident, dest := dest
    context := ctx, generation := gen, stream := BitVec.ofNat 24 stream, cls := BitVec.ofNat 8 cls, seq := 0
    offset := BitVec.ofNat 64 offset, payload := payload }

/-- The role of a port (R301), 0 before a plan is set. -/
def State.role (s : State) (p : Fin 64) : Nat :=
  match s.plan with
  | some pl => (pl[finOf 16 (p.1 / 4)]).1
  | none => 0

/-- The side of a port: four SerDes chiplets per side, in order (R26). -/
def portSide (p : Fin 64) : Nat := p.1 / 16

/-- The ports of a role on a side, in ascending number (R302). -/
def State.rolePorts (s : State) (role side : Nat) : List (Fin 64) :=
  (fins 64).filter fun p => portSide p == side && s.role p == role

/-- The port at index `i` mod p of a role on a side (R302). -/
def State.rolePort (s : State) (role side i : Nat) : Option (Fin 64) :=
  let ps := s.rolePorts role side
  if ps.isEmpty then none else ps[i % ps.length]?

/-- The lowest-numbered UP port whose partner is the destination, or else the lowest-numbered UP port (R302). What a
partner reaches is not stated. DESIGN CHOICE, log 16. -/
def State.anyPort (s : State) (dest : Half) : Option (Fin 64) :=
  let up := (fins 64).filter fun p => s.ports[p].state == .up
  (up.find? fun p => s.ports[p].partner == dest).or up.head?

/-- Frame types the engine may send now (R309, R311, R436, R489): only LINK while FENCED, RECOVERING or without an
identifier; only TIME and REJECT besides before the first membership command. -/
def State.maySend (s : State) (f : Frame) : Bool :=
  !s.hng.fenced && !s.hng.running && s.rfld Reg.engIdent 16 1 == 1 &&
    (s.hng.epochSet || f.type == 0x50 || f.type == 0x61)

/-! ### Credits (R306) -/

/-- The accounts held with an engine for a stream, class and member: one for each context that has granted credits. -/
def State.accounts (s : State) (peer : Half) (k : Nat × Nat × Nat) : List Account :=
  s.held.filter fun a => a.peer == peer && a.stream == k.1 && a.cls == k.2.1 && a.mem == k.2.2

/-- A credit held for the frame, unspent. CONTEXT names the destination's context that holds what is addressed (R416): of
several contexts' accounts it is that of the context with the sending context's number, or else the first opened.
DESIGN CHOICE, log 17. -/
def State.creditFor (s : State) (f : QFrame) : Option Account :=
  match f.key with
  | none => none
  | some k =>
    let as := s.accounts f.frame.dest k
    ((as.find? fun a => f.ctx.map (·.1) == some a.ctx.toNat).or as.head?).filter fun a => decide (a.spent < a.granted)

/-- One credit of an account spent. -/
def State.spend (s : State) (a : Account) : State :=
  { s with held := s.held.map fun b => if b = a then { b with spent := b.spent + 1 } else b }

/-! ### Sending (R302, R305, R310) -/

/-- Bytes of a replay buffer (R305). -/
def replayBuffer : Nat := 4 * 2 ^ 20

/-- The unspent link credit of its class and the room in the replay buffer cover a frame (R305). Credit is counted modulo
2^32. -/
def Port.covers (p : Port) (f : Frame) : Bool :=
  let c := finOf 7 (f.cls.toNat % 8)
  decide (f.units ≤ (p.credit[c] - p.spent[c]).toNat) && decide ((p.credit[c] - p.spent[c]).toNat < 2 ^ 31)
    && decide ((p.replay.map fun r => r.frame.bytes).sum + f.bytes ≤ replayBuffer)

/-- Big-endian bytes. -/
def be (n v : Nat) : List Byte := (leBytes n v).reverse

/-- messageType, controlField and logMessageInterval of a message kind (IEEE 1588-2019; log 6). -/
def PtpCode (k : PtpKind) (log : Nat) : Nat × Nat × Nat :=
  match k with
  | .sync => (0, 0, 256 - log)
  | .delayReq => (1, 1, 0x7F)
  | .followUp => (8, 2, 256 - log)
  | .delayResp => (9, 3, 0x7F)
  | .announce => (0xB, 5, 0)

/-- A message as it stands in a frame: header, timestamp, and the requester's identity in a Delay_Resp. -/
def ptpBytes (m : PtpMsg) (log : Nat) (requester : List Byte) : List Byte :=
  let c := PtpCode m.kind log
  let tail := if m.kind = .delayResp then slice requester 0 10 else []
  be 1 c.1 ++ be 1 0x12 ++ be 2 (44 + tail.length) ++ be 2 0 ++ be 2 (if m.kind = .sync then 0x200 else 0) ++ be 8 0 ++ be 4 0
    ++ slice Config.clockIdentity 0 8 ++ be 2 1 ++ be 2 m.seqId.toNat ++ be 1 c.2.1 ++ be 1 (c.2.2 % 256)
    ++ be 6 (m.stamp / 1000000000) ++ be 4 (m.stamp % 1000000000) ++ tail

/-- A TIME frame of ours (R316). -/
def State.ptpFrame (s : State) (dest : Half) (m : PtpMsg) (requester : List Byte) : Frame :=
  s.frame 0x50 6 dest 0xFF 0 0 0 false (ptpBytes m (s.rfld Reg.timCtrl 4 3) requester)

/-- The SerDes chiplet timestamps a TIME frame as it leaves (R316): the Follow_Up of a Sync carries that time, and the
Delay_Req that the engine waits on an answer to left then. -/
def State.stamped (s : State) (p : Fin 64) (f : Frame) : State :=
  if f.type ≠ 0x50 then s
  else
    let n := BitVec.ofNat 16 (256 * leAt f.payload 30 1 + leAt f.payload 31 1)
    match leAt f.payload 0 1 % 16 with
    | 0 => s.modPort p fun pt => { pt with
        queue := pt.queue ++ [⟨s.ptpFrame f.dest ⟨.followUp, n, s.ns⟩ [], none, none, false⟩] }
    | 1 => { s with time := { s.time with
        req := s.time.req.map fun (k, t1, t2, t3) => (k, t1, t2, if k = n then s.ns else t3) } }
    | _ => s

/-- A frame leaves the port: header completed (R310, R489), kept in the replay buffer until acknowledged. -/
def State.transmit (s : State) (p : Fin 64) (q : QFrame) : State :=
  let pt := s.ports[p]
  let f := { q.frame with epoch := s.hng.epoch, seq := pt.tx, source := s.ident }
  let c := finOf 7 (f.cls.toNat % 8)
  let s := s.modPort p fun pt => { pt with
    tx := pt.tx + 1
    spent := vmod pt.spent c (· + BitVec.ofNat 32 f.units)
    replay := pt.replay ++ [⟨pt.tx, f, 0, q.ctx⟩] }
  (s.emit (.frame p f.seq false f)).stamped p f

/-- May a port carry a frame of a type (R301)? A port in role NONE carries only LINK, TIME, MGMT and REJECT frames. -/
def State.carries (s : State) (p : Fin 64) (ty : Nat) : Bool := s.role p != 0 || [0x50, 0x60, 0x61, 0x70].contains ty

/-- The frames of a queue that may leave now do, in order; a frame that waits holds back those of its class,
destination and stream, and a class without link credit all of it (R305, R306). -/
def State.pumpList (p : Fin 64) : List QFrame → List (Nat × Half × Nat) → List Nat → State → State × List QFrame
  | [], _, _, s => (s, [])
  | q :: qs, held, full, s =>
    let f := q.frame
    let key := (f.cls.toNat, f.dest, f.stream.toNat)
    let keep := fun (held' : List (Nat × Half × Nat)) (full' : List Nat) =>
      let r := State.pumpList p qs held' full' s
      (r.1, q :: r.2)
    if !s.maySend f || !s.carries p f.type.toNat || held.contains key || full.contains f.cls.toNat then keep (key :: held) full
    else if !(s.ports[p]).covers f then keep held (f.cls.toNat :: full)
    else
      match q.key with
      | none => State.pumpList p qs held full (s.transmit p q)
      | some _ =>
        match s.creditFor q with
        | none => keep (key :: held) full
        | some a =>
          let f := { f with context := a.ctx, generation := a.gen }
          State.pumpList p qs held full ((s.spend a).transmit p { q with frame := f })

/-- One pass over a port's queue. -/
def State.pumpPass (s : State) (p : Fin 64) : State :=
  let r := State.pumpList p (s.ports[p]).queue [] [] (s.modPort p fun pt => { pt with queue := [] })
  r.1.modPort p fun pt => { pt with queue := r.2 ++ pt.queue }

/-- The port sends what it may: a frame for a DOWN port waits (R302), and after training every frame waits for the partner's
RESUME (R305). A second pass sends the Follow_Ups of what the first has sent. -/
def State.pump (s : State) (p : Fin 64) : State :=
  let pt := s.ports[p]
  if pt.state = .up ∧ !pt.resync then (s.pumpPass p).pumpPass p else s

/-- Every port sends what it may. -/
def State.pumpAll (s : State) : State := (fins 64).foldl State.pump s

/-- A frame queued for a port; `fwd`: it forwards a partner's cut. -/
def State.enqueue (s : State) (p : Option (Fin 64)) (f : Frame) (key : Option (Nat × Nat × Nat)) (c : Option (Fin 8))
    (fwd : Bool := false) : State :=
  match p with
  | none => s
  | some p => (s.modPort p fun pt => { pt with queue := pt.queue ++ [⟨f, key, c, fwd⟩] }).pump p

/-- A LINK frame (R305), which only a port that is UP can send, or the WAKE of a QUIET one: that sends nothing but FEC fill
before. -/
def State.linkFrame (s : State) (p : Fin 64) (op : Nat) (seq : Word) : State :=
  if (s.ports[p]).state = .up ∨ ((s.ports[p]).state = .quiet ∧ op = 5) then
    s.emit (.link p op seq (if op = 3 then (s.ports[p]).granted.toList else []))
  else s

/-- Credits granted to an engine for a stream, class and member on behalf of a context, in one CREDIT frame; the count
is cumulative (R306). -/
def State.grant (s : State) (p : Option (Fin 64)) (c : Fin 8) (peer : Half) (ks : List ((Nat × Nat × Nat) × Nat)) :
    State :=
  let find := fun (s : State) (k : Nat × Nat × Nat) =>
    s.given.find? fun a => a.peer == peer && a.stream == k.1 && a.cls == k.2.1 && a.mem == k.2.2 && a.ctx.toNat == c.1
  let s := ks.foldl (fun s (k, n) =>
    match find s k with
    | some _ => { s with given := s.given.map fun a =>
        if a.peer = peer ∧ a.stream = k.1 ∧ a.cls = k.2.1 ∧ a.mem = k.2.2 ∧ a.ctx.toNat = c.1 then
          { a with granted := a.granted + n } else a }
    | none => { s with given := s.given ++
        [⟨peer, k.1, k.2.1, k.2.2, n, 0, BitVec.ofNat 8 c.1, (s.ctx c).gen⟩] }) s
  let pay := ks.flatMap fun (k, _) =>
    let g := match find s k with | some a => a.granted | none => 0
    leBytes 3 k.1 ++ leBytes 1 k.2.1 ++ leBytes 4 k.2.2 ++ leBytes 4 g ++ leBytes 4 0
  if ks.isEmpty then s
  else
    s.enqueue p (s.frame 0x02 0 peer (BitVec.ofNat 8 c.1) (s.ctx c).gen 0 0 false pay) none (some c)

/-- An end-to-end credited frame of an account granted to its sender has come (R306). -/
def State.consumed (s : State) (c : Fin 8) (peer : Half) (k : Nat × Nat × Nat) : State :=
  { s with given := s.given.map fun a =>
      if a.peer = peer ∧ a.stream = k.1 ∧ a.cls = k.2.1 ∧ a.mem = k.2.2 ∧ a.ctx.toNat = c.1 then { a with spent := a.spent + 1 }
      else a }

/-- The credits of an account that its sender holds: granted, and not used by a frame that has come (R306). -/
def State.outstanding (s : State) (c : Fin 8) (peer : Half) (k : Nat × Nat × Nat) : Nat :=
  match s.given.find? fun a => a.peer == peer && a.stream == k.1 && a.cls == k.2.1 && a.mem == k.2.2 && a.ctx.toNat == c.1 with
  | some a => a.granted - a.spent
  | none => 0

/-! ### Link state -/

/-- A port leaves UP (R300): LINK_DOWN and its locator; queued and unacknowledged frames stay for the next training. An attempt
of order 9 that it cuts short counts as failed (R511). -/
def State.portDown (s : State) (p : Fin 64) : State :=
  let was := (s.ports[p]).state
  let s := { s.modPort p (fun pt => { pt with state := .down, lanes := 0 }) with
    boot := { s.boot with portsLeft := s.boot.portsLeft &&& ~~~(BitVec.ofNat 64 (2 ^ p.1)) } }
  if was = .up ∨ was = .quiet then s.causeAt Reg.fabCause 0 0 p.1 else s

/-- Clock domain of a port's SerDes chiplet: domains 12 to 27 (R30). -/
def serdesDomain (p : Fin 64) : Nat := 12 + p.1 / 4

/-- The clock domain of a port's SerDes chiplet is in lock (R30). -/
def State.serdesLocked (s : State) (p : Fin 64) : Bool := !s.clkLost.getLsbD (serdesDomain p)

/-- May the port train: its string module is enabled, its SerDes domain in lock, and bring-up has reached training
(R456, R313, R32)? -/
def State.mayTrain (s : State) (p : Fin 64) : Bool :=
  (s.slots[finOf 16 (p.1 / 4)]).state == .enabled && s.serdesLocked p && decide (8 ≤ s.boot.order)

/-- The link credit that a port grants from the start, in units of 256 bytes (R305): 64 KiB per class, 8 KiB for CTRL and
TIME. -/
def firstCredit : Vector Word 7 := ⟨#[32, 256, 256, 256, 256, 256, 32], rfl⟩

/-- All eight lanes have trained (R300): the port is UP, states the number it expects and the link credit it grants. -/
def State.trained (s : State) (p : Fin 64) (partner : Half) : State :=
  if !s.mayTrain p || (s.ports[p]).state == .up || (s.ports[p]).state == .quiet then s
  else
    let s := s.modPort p fun pt => { pt with
      state := .up, lanes := 0xFF, partner := partner, resync := true, tried := true, partnerQuiet := false
      granted := if pt.granted = Vector.replicate 7 0 then firstCredit else pt.granted }
    let s := s.causeAt Reg.fabCause 1 0 p.1
    (s.linkFrame p 6 (s.ports[p]).rx).linkFrame p 3 0

/-- PORT_TRAINED (R300, R305, R456). -/
def execPortTrained (p : Fin 64) (partner : Half) (s : State) : Host.Outcome State Fault Refusal :=
  act (fun s =>
    let s := s.trained p partner
    let s := if (s.ports[p]).state = .up then
        { s with boot := { s.boot with portsLeft := s.boot.portsLeft &&& ~~~(BitVec.ofNat 64 (2 ^ p.1)) } }
      else s
    s.bootPorts.pump p) s

/-- PORT_RETRAIN_TIMER (R300, R456): a DOWN port trains again; an attempt that has not succeeded counts as failed. -/
def execPortRetrainTimer (p : Fin 64) (s : State) : Host.Outcome State Fault Refusal :=
  act (fun s =>
    let pt := s.ports[p]
    let s := if pt.state = .down ∧ s.mayTrain p then s.modPort p fun pt => { pt with state := .training, tried := true }
      else if pt.state = .training then s.modPort p fun pt => { pt with tried := true }
      else s
    let s := { s with boot := { s.boot with portsLeft := s.boot.portsLeft &&& ~~~(BitVec.ofNat 64 (2 ^ p.1)) } }
    s.bootPorts) s

/-- Is sequence `a` at or before `b`, modulo 2^32? -/
def seqLe (a b : Word) : Bool := decide ((b - a).toNat < 2 ^ 31)

/-- LINK ACK (R305): every frame up to the named one is acknowledged. DEDUCED, log 17: ACK names the last accepted. -/
def execLinkAck (p : Fin 64) (seq : Word) (s : State) : Host.Outcome State Fault Refusal :=
  act (fun s => (s.modPort p fun pt => { pt with replay := pt.replay.filter fun r => !seqLe r.seq seq }).pump p) s

/-- The frames from `seq` on resent, in order, with RETX set (R305). -/
def State.resend (s : State) (p : Fin 64) (seq : Word) : State :=
  let again := (s.ports[p]).replay.filter fun r => seqLe seq r.seq
  let s := s.modPort p fun pt => { pt with
    replay := pt.replay.map fun r => if seqLe seq r.seq then { r with resent := r.resent + 1 } else r }
  let s := again.foldl (fun s r => s.emit (.frame p r.seq true { r.frame with flags := r.frame.flags ||| 2 })) s
  s.count (Reg.fabErr p.1) 16 16 again.length

/-- LINK NAK (R305, R311): resend from the named frame; a frame resent 16 times without acceptance takes the port DOWN;
a frame abandoned by a fence is answered with RESUME past it. -/
def execLinkNak (p : Fin 64) (seq : Word) (s : State) : Host.Outcome State Fault Refusal :=
  act (fun s =>
    let pt := s.ports[p]
    if pt.state ≠ .up then s
    else
      match pt.replay.find? fun r => r.seq == seq with
      | some r => if 16 ≤ r.resent then s.portDown p else s.resend p seq
      | none =>
        match pt.fenceSeq with
        | some q => if seqLe seq q && seq != q then s.linkFrame p 6 q else s
        | none => s) s

/-- LINK CREDIT (R305): cumulative link credit of classes 0 to 6. -/
def execLinkCredit (p : Fin 64) (credits : List Word) (s : State) : Host.Outcome State Fault Refusal :=
  actIf (Instr.wf (.linkCredit p credits)) (fun s =>
    (s.modPort p fun pt => { pt with credit := Vector.ofFn fun i : Fin 7 => credits.getD i.1 0 }).pump p) s

/-- LINK QUIET (R305): the partner sends nothing but FEC fill until it sends WAKE. -/
def execLinkQuiet (p : Fin 64) (s : State) : Host.Outcome State Fault Refusal :=
  act (fun s => s.modPort p fun pt => { pt with partnerQuiet := true }) s

/-- LINK WAKE (R305). -/
def execLinkWake (p : Fin 64) (s : State) : Host.Outcome State Fault Refusal :=
  act (fun s => s.modPort p fun pt => { pt with partnerQuiet := false }) s

/-- LINK RESUME (R305, R311): after training the partner states the number it expects, and the frames from there are
sent again; at any other time a fenced partner states the number it continues from. DEDUCED, log 17. -/
def execLinkResume (p : Fin 64) (seq : Word) (s : State) : Host.Outcome State Fault Refusal :=
  act (fun s =>
    if (s.ports[p]).resync then
      let s := s.modPort p fun pt => { pt with
        resync := false, replay := pt.replay.filter fun r => seqLe seq r.seq }
      (s.resend p seq).pump p
    else s.modPort p fun pt => { pt with rx := seq }) s

/-- An ACK of the last accepted frame with the link credit granted (R305); a port that is not UP waits until it is. -/
def State.ackNow (s : State) (p : Fin 64) : State :=
  if (s.ports[p]).state ≠ .up then s
  else
  let s := s.modPort p fun pt => { pt with toAck := 0 }
  (s.linkFrame p 1 ((s.ports[p]).rx - 1)).linkFrame p 3 0

/-- ACK_TIMER (R305): at least every 2 µs a receiver acknowledges what it has accepted. -/
def execAckTimer (p : Fin 64) (s : State) : Host.Outcome State Fault Refusal :=
  act (fun s => if (s.ports[p]).toAck ≠ 0 then s.ackNow p else s) s

/-! ### Receiving (R304, R305, R309) -/

/-- Epoch `a` is older than `b` (R309). -/
def older (a b : Half) : Bool :=
  let d := (b - a).toNat
  decide (1 ≤ d) && decide (d ≤ 32767)

/-- Types whose CONTEXT and GENERATION name the destination's context (R303). -/
def namesDest (ty : Nat) : Bool :=
  [0x01, 0x03, 0x11, 0x12, 0x13, 0x15, 0x21, 0x22, 0x24, 0x30, 0x31, 0x32, 0x40].contains ty

/-- A scroll is installed in the context (R309). -/
def Ctx.loaded (x : Ctx) : Bool := x.scroll.isSome && x.state != .free && x.state != .tearing

/-- FAB_DROPS counts (R319). -/
def State.countGen (s : State) : State := s.count Reg.fabDrops 16 16 1
def State.countStale (s : State) : State := s.count Reg.fabDrops 0 16 1

/-- A REJECT to an engine, at most once per source per millisecond (R309). -/
def State.sendReject (s : State) (dest rejected : Half) : State :=
  let recent := s.hng.rejectSent.any fun (e : Half × Nat) => e.1 == dest && decide (s.phys < e.2 + 1000000)
  if recent then s
  else
    let s := { s with hng := { s.hng with
      rejectSent := (s.hng.rejectSent.filter fun (e : Half × Nat) => e.1 != dest) ++ [(dest, s.phys)] } }
    s.enqueue (s.anyPort dest) (s.frame 0x61 0 dest 0xFF 0 0 0 false
      (leBytes 2 s.hng.epoch.toNat ++ leBytes 2 rejected.toNat ++ leBytes 4 0)) none none

/-- The receive checks of R309 on a frame that port `p` accepted, then its delivery. A reserved TYPE is dropped and counted as
GEN (R303), and so is a type that a port in role NONE does not carry (R301). In REST and PARK only TIME and MGMT frames pass
besides LINK (R396, R397); the others are dropped as in RECOVERING (R436). DEDUCED, log 17. -/
def State.receive (s : State) (p : Fin 64) (f : Frame) (deliver : State → State) : State :=
  let ty := f.type.toNat
  if s.hng.running && ty != 0x60 then s
  else if s.power != .active && ty != 0x50 && ty != 0x60 then s
  else if s.hng.fenced && ty != 0x60 then s
  else if !knownType ty then s.countGen
  else if f.dest ≠ s.ident ∧ f.dest ≠ 0xFFFF then s.countGen
  else
    let checked := ty ≠ 0x50 ∧ ty ≠ 0x60 ∧ ty ≠ 0x61
    if checked ∧ older f.epoch s.hng.epoch then ((s.countStale).cause Reg.fabCause 2).sendReject f.source f.epoch
    else if checked ∧ older s.hng.epoch f.epoch then s.countStale
    else if namesDest ty ∧ (7 < f.context.toNat ∨ !(s.ctx (finOf 8 f.context.toNat)).loaded
        ∨ f.generation ≠ (s.ctx (finOf 8 f.context.toNat)).gen) then (s.countGen).cause Reg.fabCause 3
    else if !s.carries p ty then s.countGen
    else deliver s

/-- A frame arrives on a port (R304, R305): accepted when it is the one expected and clean, otherwise NAKed. -/
def State.arrive (s : State) (p : Fin 64) (f : Frame) (deliver : State → State) : State :=
  let pt := s.ports[p]
  if pt.state ≠ .up ∧ pt.state ≠ .quiet then s
  else if f.seq ≠ pt.rx ∨ !f.clean then s.linkFrame p 2 pt.rx
  else
    let c := finOf 7 (f.cls.toNat % 8)
    let s := s.modPort p fun pt => { pt with
      rx := pt.rx + 1, toAck := pt.toAck + 1, granted := vmod pt.granted c (· + BitVec.ofNat 32 f.units) }
    let s := if 64 ≤ (s.ports[p]).toAck then s.ackNow p else s
    s.receive p f deliver

/-- BAD_FRAME (R303 to R305): bytes whose header or payload CRC fails, or whose reserved bits are not zero, are dropped
and answered with a NAK. A frame of a reserved TYPE with good CRCs is accepted by the link, dropped and counted. Bytes that
form a good frame of a known TYPE are none. -/
def execBadFrame (p : Fin 64) (bytes : List Byte) (s : State) : Host.Outcome State Fault Refusal :=
  act (fun s =>
    let len := leAt bytes 14 2
    let want := 32 + (if len = 0 then 0 else len + 4)
    let good := bytes.length == want && (crc32c (bytes.take 28)).toNat == leAt bytes 28 4
      && (len == 0 || (crc32c (slice bytes 32 len)).toNat == leAt bytes (32 + len) 4) && decide (len ≤ 4096)
    let f := Frame.ofBytes bytes
    let pt := s.ports[p]
    if pt.state ≠ .up ∧ pt.state ≠ .quiet then s
    else if !good then s.linkFrame p 2 pt.rx
    else if knownType f.type.toNat && f.clean then s
    else s.arrive p f id) s

/-- CREDIT entries applied to the accounts held with the sender (R306): counts are cumulative for each of its contexts, and
start again with a new generation. -/
def State.credits (s : State) (f : Frame) : State :=
  let entry := fun (s : State) (i : Nat) =>
    let e := slice f.payload (16 * i) 16
    let k := (leAt e 0 3, leAt e 3 1, leAt e 4 4)
    let g := leAt e 8 4
    match (s.accounts f.source k).find? fun a => a.ctx == f.context with
    | some a => { s with held := s.held.map fun b => if b = a then
        { b with granted := g, gen := f.generation, spent := if b.gen = f.generation then b.spent else 0 } else b }
    | none => { s with held := s.held ++ [⟨f.source, k.1, k.2.1, k.2.2, g, 0, f.context, f.generation⟩] }
  ((List.range (f.payload.length / 16)).foldl entry s).pumpAll

/-- CREDIT (R306). -/
def execCredit (p : Fin 64) (f : Frame) (s : State) : Host.Outcome State Fault Refusal :=
  actIf f.wf (fun s => s.arrive p { f with type := 0x02 } fun s => s.credits f) s

end Sys2Proof.Machine
end

