-- ==== Sys2Proof/Machine/Deep.lean ====
section
/-! DEFINITION. The deep range (R212 to R242): segments and pages, frames and quotas, fetches and evictions,
copy-before-write (R411), reads and writes of lines, errors, imbalance and re-keying. -/

namespace Sys2Proof.Machine

/-- Page of an address, and granule within the page (R212). -/
def pageOf (a : Nat) : Nat := (a % 2 ^ 52) / 2 ^ 21
def granuleOf (a : Nat) : Nat := a / 2 ^ 16 % 32

namespace Scroll

/-- The segment that holds a page, with its first page (R213). -/
def segOf (q : Scroll) (p : Nat) : Option Segment :=
  q.segments.find? fun g => decide (g.base / 2 ^ 21 ≤ p) && decide (p < g.base / 2 ^ 21 + g.pages)

/-- Pages of class PINNED; pages with a remote home (R220). -/
def pinnedPages (q : Scroll) : Nat := ((q.segments.filter fun g => g.cls == 0).map (·.pages)).sum
def remotePages (q : Scroll) : Nat := ((q.segments.filter fun g => g.cls != 0).map (·.pages)).sum

/-- Pages of the state ranges (R404). -/
def statePages (q : Scroll) : Nat := (q.ranges.map fun r => r.2.1).sum

/-- Index of a page among the state pages (R404): its snapshot place. -/
def statePage? (q : Scroll) (p : Nat) : Option Nat :=
  (q.ranges.foldl (fun (acc : Nat × Option Nat) r =>
    let b := r.1 / 2 ^ 21
    (acc.1 + r.2.1, match acc.2 with
      | some k => some k
      | none => if b ≤ p ∧ p < b + r.2.1 then some (acc.1 + (p - b)) else none)) (0, none)).2

/-- The page of state page `k`. -/
def stateAt (q : Scroll) (k : Nat) : Nat :=
  (q.ranges.foldl (fun (acc : Nat × Nat) r =>
    (acc.1 + r.2.1, if acc.1 ≤ k ∧ k < acc.1 + r.2.1 then r.1 / 2 ^ 21 + (k - acc.1) else acc.2)) (0, 0)).2

/-- Pages charged to the stacked quota outside the deep range (R251, R368, R405). -/
def fixedPages (q : Scroll) : Nat :=
  (q.length + 2 ^ 21 - 1) / 2 ^ 21 + q.wstore / 2 ^ 21 + q.statePages + q.homeArea / 2 ^ 21 + q.buddyArea / 2 ^ 21

/-- The wide buffer that holds an address: its index and base (R204). -/
def wideOf (q : Scroll) (a : Nat) : Option (Nat × Nat) :=
  (q.wides.zipIdx.find? fun e => decide (e.1.1 ≤ a) && decide (a < e.1.1 + e.1.2)).map fun e => (e.2, e.1.1)

end Scroll

/-- A page's entry; before anything reaches it, as scroll load leaves it (R216): a page of INIT HOME is REMOTE, but those of
class PINNED and STACKED, which the background fetches of R216 bring, are UNBACKED until then. DEDUCED, log 18. -/
def Ctx.page (x : Ctx) (q : Scroll) (p : Nat) : Page :=
  match x.pages.get? p with
  | some g => g
  | none =>
    match q.segOf p with
    | some g => { state := if g.init = 1 ∧ g.cls = 2 then .remote else .unbacked }
    | none => {}

/-- A page's entry replaced. -/
def Ctx.setPage (x : Ctx) (p : Nat) (g : Page) : Ctx := { x with pages := x.pages.set p g }

/-- A page's entry changed. -/
def Ctx.modPage (x : Ctx) (q : Scroll) (p : Nat) (f : Page → Page) : Ctx := x.setPage p (f (x.page q p))

/-- The page holds a frame of its own besides those that PINNED segments reserve. -/
def Page.framed (g : Page) : Bool := g.state == .resident || g.state == .moving

/-- Deep-range frames in use (R221): every PINNED page, and other pages while RESIDENT or MOVING. -/
def Ctx.frames (x : Ctx) (q : Scroll) : Nat :=
  q.pinnedPages + (x.pages.filter fun e =>
    e.2.framed && (match q.segOf e.1 with | some g => g.cls != 0 | none => false)).length

/-- Stacked memory charged to the context's quota, in pages (R221, MEM_CTXn_STK); what a scroll under retirement holds
stays charged until its frames are zeroed and released (R340). -/
def Ctx.charged (x : Ctx) : Nat :=
  (match x.scroll with
  | some q => x.frames q + q.fixedPages
  | none => 0) + ((x.retire.map fun r => r.charged).getD 0)

/-- The frame numbers in use in a stack. -/
def State.framesUsed (s : State) (k : Fin 12) : List Nat :=
  (fins 8).flatMap fun d => ((s.ctx d).pages.filter fun e => e.2.framed && e.2.stack == k).map fun e => e.2.frame

/-- The lowest-numbered stack that trained (R464). -/
def State.firstStack (s : State) : Fin 12 := ((fins 12).find? fun k => !s.boot.stackFail.getLsbD k.1).getD 0

/-- Frames of 2 MiB of a stack for pages: none where it failed its training (R464), and beside the 6 GiB reserve of R220,
which lies whole on the lowest-numbered trained stack. DESIGN CHOICE, log 18. -/
def State.stackFrames (s : State) (k : Fin 12) : Nat :=
  if s.boot.stackFail.getLsbD k.1 then 0 else if k = s.firstStack then 65536 - 3072 else 65536

/-- The frame a page goes to (R218): the hashed candidate of its SIDES, or the next with a free frame; where no candidate
has one, the lowest-numbered other stack that does. Of a stack it takes the lowest free frame. DESIGN CHOICE, log 18. -/
def State.chooseFrame (s : State) (c : Fin 8) (g : Segment) (p : Nat) : Fin 12 × Nat :=
  let cand := (fins 12).filter fun k => bitAt g.sides (k.1 / 3)
  let x := s.ctx c
  let i := Config.placeHash (x.placeKeys[finOf 2 (bit x.keySel)]) p % max 1 cand.length
  let order := cand.drop i ++ cand.take i
  let free := fun k : Fin 12 => decide ((s.framesUsed k).length < s.stackFrames k)
  let k := ((order ++ (fins 12).filter fun k => !cand.contains k).find? free).getD s.firstStack
  let used := s.framesUsed k
  (k, ((List.range (used.length + 1)).find? fun n => !used.contains n).getD 0)

/-- A page's entry naming a frame under the context's key in force (R216, R218). -/
def Page.inFrame (y : Page) (x : Ctx) (f : Fin 12 × Nat) : Page := { y with stack := f.1, frame := f.2, key := x.keySel }

/-- Where chunk `n` of a page's frame lies under a key (R218): its row, and its channel. -/
def chunkPlace (key : List Byte) (p n : Nat) : Nat × Nat := (n / 32, (n + Config.rowHash key p (n / 32)) % 32)

/-! ### Addresses of transfers (R228, R229) -/

/-- The product of the used counts of a pattern (R229). -/
def EdgeDesc.rows (e : EdgeDesc) : Nat :=
  (((List.range 5).map e.count).filter (· != 0)).foldl (· * ·) 1

/-- Byte offset of row `k` of a span (R229). -/
def EdgeDesc.rowOffset (e : EdgeDesc) (k : Nat) : Int :=
  let k := k % e.rows
  ((List.range 5).foldl (fun (acc : Nat × Int) d =>
    let n := e.count d
    if n = 0 then acc else (acc.1 / n, acc.2 + ((acc.1 % n : Nat) : Int) * e.stride d)) (k, (0 : Int))).2 * 64

/-- Address of line `i` of transfer `n` of a span whose base is `base` (R229). -/
def EdgeDesc.lineAddr (e : EdgeDesc) (base n i : Nat) : Nat :=
  let r := e.lines / e.rowl
  (((base : Int) + e.rowOffset (n * r + i / e.rowl) + 64 * ((i % e.rowl : Nat) : Int)) % (2 ^ 52 : Nat)).toNat

/-- Lines of a piece of a transfer (R230). -/
def pieceLines (lines piece : Nat) : List Nat := (List.range (min 64 (lines - 64 * piece))).map (64 * piece + ·)

/-- RPL_CTRL: the context replays, and alone (R426, R427). -/
def State.replays (s : State) (c : Fin 8) : Bool := s.rfld Reg.rplCtrl 3 1 == 1 && s.rfld Reg.rplCtrl 0 3 == c.1
def State.solo (s : State) (c : Fin 8) : Bool := s.replays c && s.rfld Reg.rplCtrl 4 1 == 1

/-- An error recorded by its code (R242): MEM_CAUSE and the first error's place. -/
def State.memCause (s : State) (c : Fin 8) (code a : Nat) (stack : Nat) : State :=
  let first := s.rfld Reg.memCause 0 6 == 0
  let b := match code with | 3 => 1 | 4 => 2 | 8 => 3 | 6 => 4 | 1 | 7 => 5 | _ => 0
  let s := s.cause Reg.memCause b
  if first then
    (s.setReg Reg.memErrAt (c.1 + code * 2 ^ 3 + 2 ^ 7 + (if code = 4 then stack * 2 ^ 8 else 0))).setReg
      Reg.memErrPage (pageOf a)
  else s

/-- A request or an outbound line ended with a code (R233, R235, R242): recorded and counted. -/
def State.memError (s : State) (c : Fin 8) (code a : Nat) (stack : Nat) : State :=
  (s.memCause c code a stack).count Reg.memErrCount 0 32 1

/-! ### Frames of the remote tier (R223) -/

/-- The remote page of a page of a segment. -/
def Segment.remote (g : Segment) (p : Nat) : Nat := g.home + (p - g.base / 2 ^ 21)

/-- The servers of a segment's remote home (R213). -/
def Segment.sources (g : Segment) : List Nat := [g.src0] ++ (if g.src1 = 0xFFFF then [] else [g.src1])

/-- The weight servers named as SRC0 or SRC1 in a scroll's segments (R412). -/
def Scroll.homeServers (q : Scroll) : List Half :=
  (q.segments.flatMap fun g => ([g.src0, g.src1].filter (· != 0xFFFF)).map fun e => BitVec.ofNat 16 e).eraseDups

/-- A page-class frame to a server, on the port of R302. -/
def State.pageFrame (s : State) (c : Fin 8) (p : Nat) (stack : Fin 12) (ty dest offset : Nat) (fin : Bool)
    (pay : List Byte) : State :=
  s.enqueue (s.rolePort 1 (stack.1 / 3) p)
    (s.frame ty 2 (BitVec.ofNat 16 dest) (BitVec.ofNat 8 c.1) (s.ctx c).gen 0 offset fin pay) none (some c)

/-- PAGE_REQ to source `k` of the page's segment (R223). -/
def State.requestPage (s : State) (c : Fin 8) (q : Scroll) (p k : Nat) : State :=
  match q.segOf p with
  | none => s
  | some g => s.pageFrame c p ((s.ctx c).page q p).stack 0x20 (g.sources.getD k 0) (g.remote p * 2 ^ 21) false []

/-- The frames of one granule's write-back to a server: 4 KiB pieces, then the CRC-64 with END (R223). -/
def State.writeBackTo (s : State) (c : Fin 8) (q : Scroll) (p n dest : Nat) (bs : List Byte) : State :=
  match q.segOf p with
  | none => s
  | some g =>
    let off := g.remote p * 2 ^ 21 + n * 2 ^ 16
    let st := ((s.ctx c).page q p).stack
    let s := (List.range 16).foldl (fun (s : State) i =>
      s.pageFrame c p st 0x23 dest (off + 4096 * i) false (slice bs (4096 * i) 4096)) s
    s.pageFrame c p st 0x23 dest (off + 2 ^ 16) true (leBytes 8 (crc64 bs).toNat)

/-- Granules in `mask` written back, from `src`, to every server of the segment. DEDUCED, log 18. A granule is `fresh` while
it has been written since the bytes sent: those of its frame, or with `old` those of the cut (R226). In a solo replay no
write-back leaves (R427). -/
def State.writeBack (s : State) (c : Fin 8) (q : Scroll) (p : Nat) (mask : BitVec 32) (src : Mem) (base : Nat) (old : Bool) :
    State :=
  match (q.segOf p).filter fun _ => !s.solo c with
  | none => s
  | some g =>
    let s := s.modCtx c fun x => x.modPage q p fun y => { y with
      flying := y.flying ||| mask
      flying1 := if g.src1 = 0xFFFF then y.flying1 else y.flying1 ||| mask
      fresh := (y.fresh &&& ~~~mask) ||| (if old then y.newer &&& mask else 0) }
    ((List.range 32).filter fun n => mask.getLsbD n).foldl (fun (s : State) n =>
      let bs := Memory.readBytes src (base + n * 2 ^ 16) (2 ^ 16)
      g.sources.foldl (fun (s : State) d => s.writeBackTo c q p n d bs) s) s

/-- The page's frame is freed and the page is REMOTE (R225). -/
def Ctx.dropFrame (x : Ctx) (q : Scroll) (p : Nat) : Ctx :=
  let x := x.modPage q p fun y => { y with
    state := .remote, dirty := 0, flying := 0, flying1 := 0, fresh := 0, newer := 0, snap := false, copied := false, written := false }
  { x with mem := Memory.clear x.mem (p * 2 ^ 21) (2 ^ 21), eccLines := x.eccLines.delRange (p * 2 ^ 15) (2 ^ 15) }

/-- The stack of a resident page has lost its PHY's lock (R30, R32): domains 0 to 11. DEDUCED, log 19: code STACK. -/
def State.stackLost (s : State) (k : Fin 12) : Bool := s.clkLost.getLsbD k.1

/-- The stack is in thermal stall: requests for it wait (R393). -/
def State.stackStalled (s : State) (k : Fin 12) : Bool := s.thermal[finOf 60 (48 + k.1)].stall != 0

/-- The stack serves requests: its PHY is in lock and it is not in stall (R32, R393). -/
def State.stackServes (s : State) (k : Fin 12) : Bool := !s.stackLost k && !s.stackStalled k

/-- The page's contents can be read: it has no frame, or its stack serves requests. -/
def State.pageServed (s : State) (y : Page) : Bool := !y.framed || s.stackServes y.stack

/-- Is a member of the context stopped on the page, or stopped within a piece that touches it (R217)? -/
def Ctx.stoppedOn (x : Ctx) (q : Scroll) (p : Nat) : Bool :=
  x.members.any fun e =>
    let d : EdgeDesc := ⟨q.edge (e.1 / 16384) (e.1 % 16384)⟩
    e.2.any fun (m, y) => y.stop == .fetch p || y.stop == .alloc p || y.stop == .homeArea p ||
      (d.kind != 1 && match y.cur with
        | some t => (pieceLines d.lines t.piece).any fun i =>
            pageOf (d.lineAddr (y.baseOf d m) (t.seq - y.spanStart) i) == p
        | none => false)

/-- A map of a gradient mask lies on the page (R199): while a step runs the page keeps its frame. DESIGN CHOICE, log 18. -/
def Ctx.maskedOn (x : Ctx) (q : Scroll) (p : Nat) : Bool := x.inStep && q.targets.any fun t => (q.maskPages t).contains p

/-- The page an eviction takes (R225, R217): the least recently accessed of class REMOTE, or else of class STACKED, outside
wide buffers (R204). While seals are outstanding no write-back may start, and only clean pages go (R412); a dirty page goes
only while its frame can be read. -/
def Ctx.victim (x : Ctx) (q : Scroll) (readable : Page → Bool) : Option Nat :=
  let ok := fun (cls : Nat) => x.pages.filter fun e =>
    e.2.state == .resident && !e.2.snap && (q.wideOf (e.1 * 2 ^ 21)).isNone && (readable e.2 || e.2.dirty == (0 : BitVec 32)) && !x.stoppedOn q e.1 && !x.maskedOn q e.1 && (!x.sealing || (e.2.dirty == (0 : BitVec 32))) &&
      (match q.segOf e.1 with | some g => g.cls == cls | none => false)
  let least := fun (l : Tab Page) => (l.foldl (fun (b : Option (Nat × Page)) e =>
    match b with
    | none => some e
    | some d => if e.2.used < d.2.used then some e else b) none).map (·.1)
  (least (ok 2)).or (least (ok 1))

/-- The outcome of asking for a frame (R221): one is free; an eviction is under way; none can be evicted. -/
inductive FrameGrant where
  | free | wait | none
  deriving DecidableEq, Repr

/-- A frame for a page that is not PINNED (R221, R225). A dirty page of a stack out of lock or in stall is not written back,
and what asks for a frame waits for it. DESIGN CHOICE, log 18. -/
def State.getFrame (s : State) (c : Fin 8) (q : Scroll) : FrameGrant × State :=
  let x := s.ctx c
  if x.charged < x.stacked * 512 then (.free, s)
  else
    match x.victim q s.pageServed with
    | none =>
      -- R412: a write-back that waits for the seals, or for its stack, is an eviction under way
      if (x.pages.any fun e => e.2.state == .moving && e.2.move == .evict)
          || ({ x with sealing := false }.victim q fun _ => true).isSome then
        (.wait, s)
      else (.none, s)
    | some v =>
      let g := x.page q v
      if g.dirty = 0 then (.free, s.modCtx c fun x => x.dropFrame q v)
      else if s.solo c then
        -- freed without a write-back; `fresh` marks the page for RPL_CAUSE.INEXACT
        (.free, s.modCtx c fun x => (x.dropFrame q v).modPage q v fun y => { y with fresh := g.dirty })
      else
        let s := s.modCtx c fun x => x.modPage q v fun y => { y with state := .moving, move := .evict }
        (.wait, s.writeBack c q v g.dirty x.mem (v * 2 ^ 21) false)

/-! ### Touching a page -/

/-- What a page answers to an access (R216, R222): served; the requester stops; the request ends with a code. -/
inductive Touch where
  | ok
  | stop (r : MemberStop)
  | fail (code : Nat)
  deriving DecidableEq, Repr

/-- The context's homes are not yet back at the cut that a recovery reset or RESTORE returns it to (R419, R420): no page is
fetched, and no cut taken. DEDUCED, log 24. -/
def Ctx.rolling (x : Ctx) : Bool :=
  x.ckpt.rollDue || !x.ckpt.rollWait.isEmpty || match x.ckpt.restore with | some r => !r.rollbacks.isEmpty | none => false

/-- A fetch of the page starts when a frame is there (R222, R223) and its home is not being rolled back (R419). -/
def State.startFetch (s : State) (c : Fin 8) (q : Scroll) (g : Segment) (p : Nat) : Touch × State :=
  let r := if (s.ctx c).rolling then (FrameGrant.wait, s) else if g.cls = 0 then (FrameGrant.free, s) else s.getFrame c q
  match r.1 with
  | .wait => (.stop (.alloc p), r.2)
  | .none => (.fail 6, r.2)
  | .free =>
    let s := r.2
    let s := if s.solo c ∧ ((s.ctx c).page q p).fresh ≠ 0 then s.cause Reg.rplCause 2 else s
    let f := s.chooseFrame c g p
    let s := s.modCtx c fun x =>
      let x := x.modPage q p fun y => { y.inFrame x f with state := .moving, move := .fetch, fresh := 0, newer := 0 }
      { x with fetches := x.fetches.set p {} }
    (.stop (.fetch p), s.requestPage c q p 0)

/-- An access counted for R225. -/
def State.accessed (s : State) (c : Fin 8) (q : Scroll) (p : Nat) : State :=
  s.modCtx c fun x =>
    let x := { x with accesses := x.accesses + 1 }
    x.modPage q p fun y => { y with used := x.accesses }

/-- The segment of an address that a region may reach (R229, R360: REGIONS 0 is every region); `none` for the host. -/
def Scroll.reach (q : Scroll) (a : Nat) (r : Option (Fin 48)) : Option Segment :=
  (q.segOf (pageOf a)).filter fun g => match r with | some f => g.regions == 0 || bitAt g.regions f.1 | none => true

/-- A read of the line at `a` (R216, R222, R229, R236). -/
def State.touchRead (s : State) (c : Fin 8) (q : Scroll) (r : Option (Fin 48)) (a : Nat) : Touch × State :=
  let p := pageOf a
  match q.reach a r with
  | none => (.fail 1, s)
  | some g =>
    let x := s.ctx c
    let y := x.page q p
    if y.poison then (.fail 5, s)
    else
      match y.state with
      | .unbacked => if g.init = 1 then s.startFetch c q g p else (.ok, s)
      | .remote => s.startFetch c q g p
      | .moving =>
        match y.move with
        | .fetch => (.stop (.fetch p), s)
        | _ => (.stop (.alloc p), s)
      | .resident =>
        let s := s.accessed c q p
        if x.badLines.has (a / 64) then (.fail 5, s)
        else if s.stackLost y.stack then (.fail 4, s)
        else if s.stackStalled y.stack then (.stop (.alloc p), s)
        else if x.eccLines.has (a / 64) then
          if g.cls ≠ 0 ∧ y.dirty = 0 then (s.modCtx c fun x => x.dropFrame q p).startFetch c q g p
          else
            -- the line is poisoned now, whenever the request that read it ends (R236, R242)
            (.fail 4, (s.memCause c 4 a y.stack.1).modCtx c fun x => { x with
              badLines := x.badLines.add (a / 64), eccLines := x.eccLines.del (a / 64) })
        else (.ok, s)

/-- Copy-before-write (R411): the page is copied to its snapshot place or to a free home-area page; `none` while there is
no free one. -/
def Ctx.copyBefore (x : Ctx) (q : Scroll) (p : Nat) : Option Ctx :=
  let y := x.page q p
  let base := p * 2 ^ 21
  match q.statePage? p with
  | some k =>
    let x := if y.snap && !y.copied then
        { x.modPage q p (fun y => { y with copied := true }) with
          ckpt := { x.ckpt with snapshot := Memory.copy x.ckpt.snapshot x.mem (k * 2 ^ 21) base (2 ^ 21) } }
      else x
    some (x.modPage q p fun y => { y with written := true })
  | none =>
    if y.snap && !y.copied then
      if x.ckpt.homeCopies.length < q.homeArea / 2 ^ 21 then
        some { x.modPage q p (fun y => { y with copied := true }) with
          ckpt := { x.ckpt with homeCopies := x.ckpt.homeCopies.set p (Memory.copy [] x.mem 0 base (2 ^ 21)) } }
      else none
    else some x

/-- The lines of window slots that show [a, a + n) of a kind of memory back-invalidated, before the engine writes them
(R323). Which lines the host holds is not tracked: every such line is. DESIGN CHOICE, log 34. -/
def State.invalidate (s : State) (kind : Fin 4) (c : Fin 8) (a n : Nat) : State :=
  ((fins 32).filter fun w => s.windows[w].kind == kind && (kind != 2 || s.windows[w].ctx == c)).foldl (fun (s : State) w =>
    let base := s.windows[w].base
    ((List.range ((a + n + 63) / 64 - a / 64)).map fun i => 64 * (a / 64 + i)).foldl (fun (s : State) b =>
      if base ≤ b ∧ b < base + 2 ^ 31 then s.emit (.backInvalidate (2 ^ 25 * w.1 + (b - base) / 64)) else s) s) s

/-- Lines of a context's deep range that the engine is about to write. -/
def State.backInvalidate (s : State) (c : Fin 8) (a n : Nat) : State := s.invalidate 2 c a n

/-- A write of the line at `a` (R216, R217, R222, R206, R411): the page is made ready for it. -/
def State.touchWrite (s : State) (c : Fin 8) (q : Scroll) (r : Option (Fin 48)) (a : Nat) : Touch × State :=
  let p := pageOf a
  match q.reach a r with
  | none => (.fail 1, s)
  | some g =>
    if g.shared then (.fail 7, s)
    else
      let x := s.ctx c
      let y := x.page q p
      let ready := fun (s : State) =>
        let s := s.accessed c q p
        match q.wideOf a with
        | some (w, b) =>
          if ((s.ctx c).cleared.has (2 ^ 24 * w + (a - b) / 2 ^ 16)) then
            match (s.ctx c).copyBefore q p with
            | some x => (Touch.ok, s.setCtx c x)
            | none => (.stop (.homeArea p), s)
          else (.stop (.clearing w ((a - b) / 2 ^ 16)), s)
        | none =>
          match (s.ctx c).copyBefore q p with
          | some x => (Touch.ok, s.setCtx c x)
          | none => (.stop (.homeArea p), s)
      let held := fun (k : Fin 12) (s : State) =>
        if s.stackLost k then (Touch.fail 4, s)
        else if s.stackStalled k then (.stop (.alloc p), s)
        else ready s
      if y.poison then (.fail 5, s)
      else
        match y.state with
        | .unbacked =>
          if g.init = 1 then s.startFetch c q g p
          else
            let f := if g.cls = 0 then (FrameGrant.free, s) else s.getFrame c q
            match f.1 with
            | .wait => (.stop (.alloc p), f.2)
            | .none => (.fail 6, f.2)
            | .free =>
              let fr := f.2.chooseFrame c g p
              held fr.1 (f.2.modCtx c fun x => x.modPage q p fun y => { y.inFrame x fr with state := .resident })
        | .remote => s.startFetch c q g p
        | .moving =>
          match y.move with
          | .fetch => (.stop (.fetch p), s)
          | _ => (.stop (.alloc p), s)
        | .resident => held y.stack s

/-- The line at `a` written: DIRTY set, poison cleared (R226, R236). -/
def Ctx.putLine (x : Ctx) (q : Scroll) (a : Nat) (bs : List Byte) : Ctx :=
  let g := BitVec.ofNat 32 (2 ^ granuleOf a)
  let x := x.modPage q (pageOf a) fun y => { y with
    dirty := y.dirty ||| g, fresh := y.fresh ||| g, newer := y.newer ||| g }
  { x with mem := Memory.writeBytes x.mem a bs, badLines := x.badLines.del (a / 64), eccLines := x.eccLines.del (a / 64) }

/-- A line that could not be written is poisoned: in its frame, or the page as a whole (R235). -/
def Ctx.poisonLine (x : Ctx) (q : Scroll) (a : Nat) : Ctx :=
  if (q.segOf (pageOf a)).isNone then x
  else if (x.page q (pageOf a)).framed then { x with badLines := x.badLines.add (a / 64) }
  else x.modPage q (pageOf a) fun y => { y with poison := true }

/-- Sixteen FP32 values added line by line into the stored ones (R205). -/
def addLine (old new : List Byte) : List Byte :=
  (List.range 16).flatMap fun i => leBytes 4 (add32 (leAt old (4 * i) 4) (leAt new (4 * i) 4))

/-- An accumulating write fails (R210): GRD_BWD_CAUSE, GRD_BWD_AT, and a recovery reset is requested; the context has passed
its commit point (R122). -/
def State.accFail (s : State) (c : Fin 8) (q : Scroll) (a : Nat) : State :=
  let first := s.rfld Reg.bwdCause 0 1 == 0
  let s := s.cause Reg.bwdCause 0
  let w := (q.wideOf a).getD (0, 0)
  let s := if first then
      s.setReg Reg.bwdAt (w.1 + (((s.ctx c).page q (pageOf a)).stack).1 * 2 ^ 3
        + ((a - w.2) / 2 ^ 21 % 2 ^ 20) * 2 ^ 7 + 2 ^ 27 + c.1 * 2 ^ 28)
    else s
  (s.modCtx c fun x => { x with committed := true }).requestReset 2 []

/-- Does an accumulating write to the line fail (R210)? So does one to a line that an error met earlier has poisoned.
DESIGN CHOICE, log 19. -/
def State.accFails (s : State) (c : Fin 8) (q : Scroll) (a : Nat) : Bool :=
  (s.ctx c).eccLines.has (a / 64) || (s.ctx c).badLines.has (a / 64) || s.stackLost ((s.ctx c).page q (pageOf a)).stack

/-- The line's new bytes under an accumulating or a plain write. -/
def Ctx.storeLine (x : Ctx) (q : Scroll) (a : Nat) (bs : List Byte) : Ctx :=
  match q.wideOf a with
  | some _ => x.putLine q a (addLine (Memory.readBytes x.mem a 64) bs)
  | none => x.putLine q a bs

/-! ### Fetches, write-backs, and the events of this chapter -/

/-- The next background fetch of R216: of the pages of INIT HOME of class PINNED and STACKED, ascending from `bg`, the first
that is still as scroll load left it. A STACKED page for which no frame is free is left to be fetched on demand.
DESIGN CHOICE, log 18. `fuel` bounds the pages passed over. -/
def State.backgroundLoop (c : Fin 8) (q : Scroll) : Nat → State → State
  | 0, s => s
  | fuel + 1, s =>
    let x := s.ctx c
    match x.bg with
    | none => s
    | some b =>
      let next := (q.segments.filter fun g => g.init == 1 && decide (g.cls ≤ 1)
        && decide (b < g.base / 2 ^ 21 + g.pages)).map fun g => max b (g.base / 2 ^ 21)
      match next.min? with
      | none => s.modCtx c fun x => { x with bg := none }
      | some p =>
        let s := s.modCtx c fun x => { x with bg := some (p + 1) }
        match q.segOf p with
        | none => s
        | some g =>
          let room := g.cls == 0 || decide (x.charged < x.stacked * 512)
          if (x.page q p).state = .unbacked ∧ room then (s.startFetch c q g p).2
          else if room then State.backgroundLoop c q fuel s
          else
            -- no page of this segment can be fetched now
            let s := s.modCtx c fun x => { x with bg := some (g.base / 2 ^ 21 + g.pages) }
            State.backgroundLoop c q fuel s

/-- The next background fetch of a context (R216). -/
def State.background (s : State) (c : Fin 8) : State :=
  match s.scroll? c with
  | some q => if (s.ctx c).rolling then s else State.backgroundLoop c q ((s.ctx c).pages.length + q.segments.length + 2) s
  | none => s

/-- The page that a remote page number stands for, among pages that satisfy `ok` (R223). -/
def Ctx.pageAt (x : Ctx) (q : Scroll) (rp : Nat) (ok : Nat → Segment → Bool) : Option Nat :=
  (x.pages.find? fun e =>
    match q.segOf e.1 with
    | some g => g.cls + g.init != 0 && g.remote e.1 == rp && ok e.1 g
    | none => false).map (·.1)

/-- An acknowledged write-back of a granule by one server (R225, R226, R412). -/
def Ctx.granuleDone (x : Ctx) (q : Scroll) (p n : Nat) (alt : Bool) : Ctx × Bool :=
  let b := BitVec.ofNat 32 (2 ^ n)
  let y := x.page q p
  let y := if alt then { y with flying1 := y.flying1 &&& ~~~b } else { y with flying := y.flying &&& ~~~b }
  if y.flying.getLsbD n || y.flying1.getLsbD n then (x.setPage p y, false)
  else
    let y := { y with
      cutDirty := if y.cutSent.getLsbD n then y.cutDirty &&& ~~~b else y.cutDirty
      cutSent := y.cutSent &&& ~~~b
      dirty := if y.fresh.getLsbD n then y.dirty else y.dirty &&& ~~~b }
    -- R412: once the page's cut write-back is acknowledged SNAP clears and its home-area page is free
    let done := y.snap && (q.statePage? p).isNone && y.cutDirty == 0
    let y := if done then { y with snap := false, copied := false } else y
    let x := x.setPage p y
    let x := if done then { x with ckpt := { x.ckpt with homeCopies := x.ckpt.homeCopies.erase p } } else x
    -- R225, R227: an evicted page is freed once every granule is acknowledged and no SNAP stands
    let x := if y.state = .moving ∧ y.move = .evict ∧ y.dirty = 0 ∧ !y.snap then x.dropFrame q p else x
    (x, true)

/-- WB_ACK (R225, R226): one server acknowledges one granule. -/
def execWbAck (p : Fin 64) (f : Frame) (s : State) : Host.Outcome State Fault Refusal :=
  actIf f.wf (fun s => s.arrive p { f with type := 0x24, flags := f.flags ||| 4 } fun s =>
    let c := finOf 8 f.context.toNat
    match s.scroll? c with
    | none => s
    | some q =>
      let off := f.offset.toNat
      let n := off / 2 ^ 16 % 32
      match (s.ctx c).pageAt q (off / 2 ^ 21) (fun _ g => g.sources.contains f.source.toNat) with
      | none => s
      | some pg =>
        let alt := match q.segOf pg with | some g => g.src0 != f.source.toNat | none => false
        let y := (s.ctx c).page q pg
        if !(if alt then y.flying1.getLsbD n else y.flying.getLsbD n) then s
        else
          let r := (s.ctx c).granuleDone q pg n alt
          let s := s.setCtx c r.1
          let s := if r.2 then (s.countMod Reg.memMigOut 1).background c else s
          s.modCtx c fun x => { x with ckpt := { x.ckpt with drain := x.ckpt.drain.map fun d => { d with progressAt := s.phys } } }) s

/-- WB_NAK (R226): the granule's write-back ends and it stays dirty; a page under eviction is RESIDENT again, and the next
eviction or the cut's write-back sends the granule again. DESIGN CHOICE, log 18. -/
def execWbNak (p : Fin 64) (f : Frame) (s : State) : Host.Outcome State Fault Refusal :=
  actIf f.wf (fun s => s.arrive p { f with type := 0x24, flags := f.flags &&& 0xFB } fun s =>
    let c := finOf 8 f.context.toNat
    match s.scroll? c with
    | none => s
    | some q =>
      let off := f.offset.toNat
      let n := off / 2 ^ 16 % 32
      match (s.ctx c).pageAt q (off / 2 ^ 21) (fun _ g => g.sources.contains f.source.toNat) with
      | none => s
      | some pg =>
        let y := (s.ctx c).page q pg
        let b := BitVec.ofNat 32 (2 ^ n)
        if y.flying.getLsbD n || y.flying1.getLsbD n then
          s.modCtx c fun x => x.setPage pg { y with
            flying := y.flying &&& ~~~b, flying1 := y.flying1 &&& ~~~b, cutSent := y.cutSent &&& ~~~b
            state := if y.state = .moving ∧ y.move = .evict ∧ !(s.ctx c).rolling then .resident else y.state }
        else s) s

/-- REKEY_PAGE_MOVE (R241): the page, the first that stands under the old key, takes a frame under the new one; its
contents stay. The last page sets REKEY_DONE. A page with SNAP set, that a piece in flight touches (R217, R227), or of a
stack that serves nothing waits. The command is the whole move, from MOVING to the entry that names the new frame. -/
def execRekeyPageMove (c : Fin 8) (page : Nat) (s : State) : Host.Outcome State Fault Refusal :=
  act (fun s =>
    match s.scroll? c with
    | none => s
    | some q =>
      let x := s.ctx c
      let left := x.pages.filter fun e => e.2.state == .resident && e.2.key != x.keySel
      if !x.rekeying then s
      else
        let s := match left.head?, q.segOf page with
          | some e, some g =>
            let f := s.chooseFrame c g page
            if e.1 = page ∧ !e.2.snap ∧ !x.stoppedOn q page ∧ s.stackServes e.2.stack ∧ s.stackServes f.1 then
              s.modCtx c fun x => x.modPage q page fun y => y.inFrame x f
            else s
          | _, _ => s
        let x := s.ctx c
        if x.pages.any fun e => e.2.framed && e.2.key != x.keySel then s
        else (s.modCtx c fun x => { x with rekeying := false }).cause Reg.memCause 7) s

/-- WIDE_GRANULE_CLEARED (R206). -/
def execWideGranuleCleared (c : Fin 8) (wbuf : Fin 8) (granule : Nat) (s : State) : Host.Outcome State Fault Refusal :=
  act (fun s =>
    match s.scroll? c with
    | none => s
    | some q =>
      match q.wides[wbuf.1]? with
      | none => s
      | some (b, len) =>
        let key := 2 ^ 24 * wbuf.1 + granule
        let y := (s.ctx c).page q (pageOf (b + granule * 2 ^ 16))
        -- a stack out of lock or in stall clears nothing (R32, R393)
        if len ≤ granule * 2 ^ 16 ∨ (s.ctx c).cleared.has key ∨ !(s.ctx c).inStep
          ∨ !s.pageServed y then s
        else (s.backInvalidate c (b + granule * 2 ^ 16) (2 ^ 16)).modCtx c fun x => { x with
          mem := Memory.clear x.mem (b + granule * 2 ^ 16) (2 ^ 16)
          badLines := x.badLines.delRange ((b + granule * 2 ^ 16) / 64) 1024
          eccLines := x.eccLines.delRange ((b + granule * 2 ^ 16) / 64) 1024
          cleared := x.cleared.add key }) s

/-- The stacks that a context's segments may use (R240). -/
def Scroll.stacks (q : Scroll) : List (Fin 12) :=
  (fins 12).filter fun k => q.segments.any fun g => bitAt g.sides (k.1 / 3)

/-- One context's window (R240): the busiest channel and its bytes, and the bytes on the channels of the stacks that its
segments may use, over which the mean is taken. -/
def imbalance (q : Scroll) (bytes : List (Nat × Nat)) : Nat × Nat × Nat :=
  let top := bytes.foldl (fun (b : Nat × Nat) e => if b.2 < e.2 then e else b) (0, 0)
  (top.1, top.2, ((bytes.filter fun e => q.stacks.contains (finOf 12 (e.1 / 32))).map (·.2)).sum)

/-- Corrected stack errors (R236), and corrected symbols and uncorrectable codewords of each port (R300), are counted. -/
def State.countCorrected (s : State) (seen : WindowCounts) : State :=
  let s := seen.fec.foldl (fun (s : State) e =>
    (s.count (Reg.fabFec e.1.1) 0 32 e.2.1).count (Reg.fabErr e.1.1) 0 16 e.2.2) s
  { s with health := { s.health with corrected := s.health.corrected + seen.corrected } }

/-- IMBALANCE_WINDOW (R240, R241, R242; R236, R300). A ratio "exceeds" exactly; MEM_IMB.RATIO, of every counted window,
is in sixteenths rounded down, and 255 when the mean is 0. DESIGN CHOICE, log 19. -/
def execImbalanceWindow (seen : WindowCounts) (s : State) : Host.Outcome State Fault Refusal :=
  act (fun s =>
    (fins 8).foldl (fun (s : State) c =>
      let mine := (seen.bytes.filter fun e => e.1 == c).map fun e => (e.2.1.1, e.2.2)
      let total := (mine.map (·.2)).sum
      match s.scroll? c with
      | none => s
      | some q =>
        if total < 10000000000 ∨ (s.ctx c).rekeying then s
        else
          let (chan, top, sum) := imbalance q mine
          let share := top * 16 * (32 * q.stacks.length)
          let ratio := if sum = 0 then 255 else min 255 (share / sum)
          let high := decide (s.rfld Reg.memCtrl 14 7 * sum < share)
          let run := if high then (s.ctx c).imbRun + 1 else 0
          let s := (s.setFld Reg.memImb 12 8 ratio).modCtx c fun x => { x with imbRun := run }
          if high ∧ s.rfld Reg.memCtrl 21 8 ≤ run then
            let s := (s.cause Reg.memCause 6).setReg Reg.memImb (c.1 + chan * 2 ^ 3 + ratio * 2 ^ 12 + 2 ^ 20)
            s.modCtx c fun x => { x with
              imbRun := 0
              rekeyReq := x.rekeyReq || (s.ownerFlag 0 && s.rfld Reg.memCtrl 29 1 == 1) }
          else s) (s.countCorrected seen)) s

end Sys2Proof.Machine
end

