-- ==== Sys2Proof/Machine/Nut.lean ====
section
/-! DEFINITION. What the nut makes of a shard (R243 to R246, R257 to R263): raw form, CP1 decoding, conversion, and the
bytes of the forward and transposed images. -/

namespace Sys2Proof

namespace Machine.Layout

/-- Format of the source, of the images; 8-bit float where the code names none (rejected at load, R243). -/
def srcFmt (l : Layout) : Fmt := (fmtOf l.sfmt).getD .e4m3
def imgFmt (l : Layout) : Fmt := (fmtOf l.tfmt).getD .e4m3

/-- Shards of a tensor (R244). -/
def shards (l : Layout) : Nat := (l.srows + l.shardRows - 1) / l.shardRows

/-- Scale bytes of a raw row, and bytes of a raw row (R244). -/
def rowScales (l : Layout) : Nat := if l.srcFmt.isMX then (l.scols + 31) / 32 else 0
def rowBytes (l : Layout) : Nat := l.rowScales + (l.scols * l.srcFmt.width + 7) / 8

/-- Bytes of shard `s` in raw form (R244). -/
def rawBytes (l : Layout) (s : Nat) : Nat := (min ((s + 1) * l.shardRows) l.srows - s * l.shardRows) * l.rowBytes

/-- Block rows and block columns (R245). -/
def nbi (l : Layout) : Nat := (l.srows + 31) / 32
def nbj (l : Layout) : Nat := (l.scols + 31) / 32

/-- Lines per block of a view (R46, R156, R245). -/
def lines (l : Layout) (view : Bool) : Nat :=
  if l.sp = 1 ∧ !view then l.imgFmt.blockLines24 else l.imgFmt.blockLines

/-- Blocks of a run, runs, and bytes of a run of a view (R245). -/
def runBlocks (l : Layout) (view : Bool) : Nat := if view then l.nbi else l.nbj
def runs (l : Layout) (view : Bool) : Nat := if view then l.nbj else l.nbi
def runBytes (l : Layout) (view : Bool) : Nat :=
  let n := l.runBlocks view
  if l.sp = 2 then ((n + 127) / 128 + n * l.imgFmt.blockLines) * 64 else n * l.lines view * 64

/-- Bytes of an image (R245). -/
def imageBytes (l : Layout) (view : Bool) : Nat := l.runs view * l.runBytes view

/-- The shards that contribute bytes to unit `u` of a view (R249): by block rows in the forward image; by blocks in a
transposed dense image; all in a transposed block-sparse one. -/
def unitShards (l : Layout) (view : Bool) (u : Nat) : List Nat :=
  let lo := 65536 * u
  let hi := min (lo + 65536) (l.imageBytes view)
  let hits := fun (s : Nat) =>
    if view && l.sp == 2 then true
    else if view then
      let b0 := lo / (64 * l.lines view)
      let b1 := (hi - 1) / (64 * l.lines view)
      (List.range (b1 + 1 - b0)).any fun k => 32 * ((b0 + k) % l.nbi) / l.shardRows == s
    else
      let r0 := lo / l.runBytes view
      let r1 := (hi - 1) / l.runBytes view
      (List.range (r1 + 1 - r0)).any fun k => 32 * (r0 + k) / l.shardRows == s
  if hi ≤ lo then [] else (List.range l.shards).filter hits

end Machine.Layout

namespace Machine

/-- The records of a CP1 form (R262, R263): the raw bytes, `none` on a decode error. `fuel` bounds the records. -/
def cp1Records (w : Nat) : Nat → List Byte → Option (List Byte)
  | 0, bs => if bs.isEmpty then some [] else none
  | n + 1, bs =>
    match bs with
    | [] => some []
    | t :: rest =>
      let tag := t.toNat
      if tag < 0x80 then (cp1Records w n rest).map (List.replicate (16 * (tag + 1) * w) 0 ++ ·)
      else if tag < 0xC0 then
        let k := (tag - 0x7F) * w
        if rest.length < k then none else (cp1Records w n (rest.drop k)).map (rest.take k ++ ·)
      else
        let sft := tag - 0xC0
        if 2 * w ≤ sft ∨ rest.length < w + 8 then none
        else
          let base := leAt rest 0 w
          let nib := leAt rest w 8
          if fld base (4 * sft) 4 ≠ 0 then none
          else
            let out := (List.range 16).flatMap fun j => leBytes w (putFld base (4 * sft) 4 (fld nib (4 * j) 4))
            (cp1Records w n (rest.drop (w + 8))).map (out ++ ·)

/-- Element width in bytes of a CP1 form (R262). -/
def cp1Width : Fmt → Nat
  | .fp32 => 4
  | .fp16 | .bf16 => 2
  | _ => 1

/-- CP1 decoding (R262, R263). -/
def cp1Decode (f : Fmt) (bs : List Byte) : Option (List Byte) :=
  let w := cp1Width f
  if leAt bs 0 2 = 0x5043 ∧ leAt bs 2 1 = 1 ∧ leAt bs 3 1 = w ∧ leAt bs 12 4 = 0 ∧ 16 ≤ bs.length then
    match cp1Records w (bs.length + 1) (bs.drop 16) with
    | some raw => if raw.length = leAt bs 4 8 then some raw else none
    | none => none
  else none

/-- The raw form of a transmitted shard; `none` is a transform error (R258, R261). -/
def rawShard (l : Layout) (s : Nat) (bs : List Byte) : Option (List Byte) :=
  let raw := if l.pack = 1 then cp1Decode l.srcFmt bs else some bs
  raw.filter fun r => r.length == l.rawBytes s

/-- Scale byte and pattern of element (r, c) of the image's source: row `perm r` (R246); padding is +0 (R245). -/
def srcElem (l : Layout) (perm : Nat → Nat) (raw : Nat → List Byte) (r c : Nat) : Nat × Nat :=
  if l.srows ≤ r ∨ l.scols ≤ c then (127, 0)
  else
    let sr := perm r
    let bs := raw (sr / l.shardRows)
    let at_ := (sr % l.shardRows) * l.rowBytes
    let b := c * l.srcFmt.width
    let w := l.srcFmt.width
    (leAt bs (at_ + c / 32) 1, fld (leAt bs (at_ + l.rowScales + b / 8) ((b % 8 + w + 7) / 8)) (b % 8) w)

/-- Row `r` of block `j` of a view, 32 elements along the reduction index: scale byte and patterns (R258). -/
def imageRow (l : Layout) (perm : Nat → Nat) (raw : Nat → List Byte) (view : Bool) (r j : Nat) : Nat × List Nat :=
  let src := (List.range 32).map fun k =>
    if view then srcElem l perm raw (32 * j + k) r else srcElem l perm raw r (32 * j + k)
  if l.sfmt = l.tfmt ∧ !view then ((src.head?.map (·.1)).getD 127, src.map (·.2))
  else
    -- as `vcvt` widens (R87, R257): an MX value beyond FP32 is infinite
    let vs := src.map fun e => if l.srcFmt.isMX then val32 (round32 (mxVal l.srcFmt e.1 e.2)) else elemVal l.srcFmt e.2
    if l.imgFmt.isMX then mxBlock l.imgFmt vs else (0, vs.map (encodeElem l.imgFmt))

/-- The scale line of a block (R46). -/
def scaleLine (rows : List (Nat × List Nat)) : List Byte :=
  (rows.map fun r => (BitVec.ofNat 8 r.1 : Byte)) ++ List.replicate 32 0

/-- A dense block from its 32 rows (R46). -/
def denseBlock (f : Fmt) (rows : List (Nat × List Nat)) : List Byte :=
  leBytes (128 * f.width) (packPats f.width (rows.flatMap (·.2))) ++ (if f.isMX then scaleLine rows else [])

/-- The two positions kept of a group of four (R259); `none` when more than two elements differ from +0. -/
def keep24 (g : List Nat) : Option (Nat × Nat) :=
  let nz := (List.range 4).filter fun i => g.getD i 0 != 0
  let fill := (List.range 4).filter fun i => g.getD i 0 == 0
  if 2 < nz.length then none
  else
    let ps := (nz ++ fill).take 2
    let a := ps.getD 0 0
    let b := ps.getD 1 1
    some (min a b, max a b)

/-- A 2:4 block from its rows (R156, R259). -/
def block24 (f : Fmt) (rows : List (Nat × List Nat)) : Option (List Byte) :=
  let kept := rows.map fun r => (List.range 8).map fun g => keep24 ((r.2.drop (4 * g)).take 4)
  if kept.any fun r => r.any Option.isNone then none
  else
    let pos := kept.map fun r => r.map fun p => p.getD (0, 1)
    let vals := (rows.zip pos).flatMap fun (r, ps) => ps.zipIdx.flatMap fun (p, g) =>
      [r.2.getD (4 * g + p.1) 0, r.2.getD (4 * g + p.2) 0]
    let metas := pos.flatMap fun ps => leBytes 4 (packPats 2 (ps.flatMap fun p => [p.1, p.2]))
    some (leBytes (64 * f.width) (packPats f.width vals) ++ metas ++ (if f.isMX then scaleLine rows else []))

/-- Presence nibble and bytes of a block of a block-sparse run (R159, R260). -/
def sparseBlockOf (f : Fmt) (rows : List (Nat × List Nat)) : Nat × List Byte :=
  let sub := fun q => (List.range 16).flatMap fun i =>
    (((rows.getD (16 * (q / 2) + i) (0, [])).2.drop (16 * (q % 2))).take 16)
  let here := (List.range 4).filter fun q => (sub q).any (· != 0)
  let nib := (here.map fun q => 2 ^ q).sum
  (nib, (here.flatMap fun q => leBytes (32 * f.width) (packPats f.width (sub q)))
    ++ (if f.isMX ∧ nib ≠ 0 then scaleLine rows else []))

/-- Run `i` of a view, padded to its capacity (R245, R258 to R260); `none` is a transform error. -/
def imageRun (l : Layout) (perm : Nat → Nat) (raw : Nat → List Byte) (view : Bool) (i : Nat) : Option (List Byte) :=
  let n := l.runBlocks view
  let block := fun j => (List.range 32).map fun r => imageRow l perm raw view (32 * i + r) j
  let f := l.imgFmt
  if l.sp = 2 then
    let bs := (List.range n).map fun j => sparseBlockOf f (block j)
    let map := leBytes (64 * ((n + 127) / 128)) (packPats 4 (bs.map (·.1)))
    some (slice (map ++ bs.flatMap (·.2)) 0 (l.runBytes view))
  else if l.sp = 1 ∧ !view then
    ((List.range n).mapM fun j => block24 f (block j)).map List.flatten
  else some ((List.range n).flatMap fun j => denseBlock f (block j))

/-- The 65,536 bytes of unit `u` of a view from the transmitted shards, each transformed whole (R248, R249, R258); `none` is a
transform error. -/
def unitBytes (l : Layout) (perm : Nat → Nat) (sent : Tab (List Byte)) (view : Bool) (u : Nat) : Option (List Byte) :=
  let raws := sent.map fun e => (e.1, rawShard l e.1 e.2)
  if raws.any fun e => e.2.isNone then none
  else
    let raw := fun s => ((Tab.get? raws s).join).getD []
    let bad := l.sp == 1 && !view && sent.any fun e =>
      (List.range l.nbi).any fun i => 32 * i / l.shardRows == e.1 && (imageRun l perm raw view i).isNone
    let len := l.runBytes view
    let r0 := 65536 * u / len
    let r1 := min (l.runs view) ((65536 * u + 65535) / len + 1)
    if bad then none else ((List.range (r1 - r0)).mapM fun k => imageRun l perm raw view (r0 + k)).map fun rs =>
      slice rs.flatten (65536 * u - r0 * len) 65536

end Machine

end Sys2Proof
end

