-- ==== Sys2Proof/Machine/Weights.lean ====
section
/-! DEFINITION. Weight streaming (R247 to R276): cache units, sources and chains, manifests, versions and their banks. -/

namespace Sys2Proof.Machine

/-- Key of a shard in a bank's tables. -/
def shardKey (tensor shard : Nat) : Nat := 2 ^ 16 * shard + tensor

namespace Scroll

/-- The layout entries in ascending TENSOR (R264). -/
def sortedLayouts (q : Scroll) : List Layout := q.layouts.mergeSort fun a b => decide (a.tensor ≤ b.tensor)

/-- All shards in manifest order (R264). -/
def manifestOrder (q : Scroll) : List (Layout × Nat) :=
  q.sortedLayouts.flatMap fun l => (List.range l.shards).map fun s => (l, s)

/-- Index of a shard's manifest entry (R264). -/
def manifestIndex (q : Scroll) (tensor shard : Nat) : Nat :=
  (q.sortedLayouts.foldl (fun n l => if l.tensor < tensor then n + l.shards else n) 0) + shard

/-- STORE shards in manifest order (R251, R267). -/
def storeShards (q : Scroll) : List (Layout × Nat) := q.manifestOrder.filter fun e => !e.1.stream

end Scroll

/-- CRC-64, length and SHA3-512 of a manifest entry (R264). -/
def manifestCrc (m : List Byte) (i : Nat) : Nat := leAt m (16 + 80 * i) 8
def manifestLen (m : List Byte) (i : Nat) : Nat := leAt m (24 + 80 * i) 4
def manifestSha (m : List Byte) (i : Nat) : List Byte := slice m (32 + 80 * i) 64

/-- The bank that holds a version (R267). -/
def Ctx.bankOf (x : Ctx) (v : Word) : Option (Fin 2) :=
  (fins 2).find? fun b => x.banks[b].state != .absent && x.banks[b].version == v

/-- A bank changed. -/
def Ctx.modBank (x : Ctx) (b : Fin 2) (f : Bank → Bank) : Ctx := { x with banks := vmod x.banks b f }

/-- Steps and peer services that pin the version of a bank (R268). -/
def Bank.pins (b : Bank) : Nat := bit b.stepPin + b.services

/-- PERM of a tensor (R246). -/
def Ctx.perm (x : Ctx) (l : Layout) (r : Nat) : Nat :=
  if l.perm = 0 then r else Memory.readLE x.mem (l.perm + 4 * r) 4

/-- A version becomes BAD (R261, R265) with a bit of WST_CAUSE. -/
def State.versionBad (s : State) (c : Fin 8) (b : Fin 2) (causeBit : Nat) : State :=
  (s.modCtx c fun x =>
    let v := x.banks[b].version
    { x.modBank b (fun k => { k with state := .bad }) with
      obtains := x.obtains.filter fun o => !(o.version == v && x.current != some b) }).cause Reg.wstCause causeBit

/-! ### Sources (R253 to R255) -/

/-- A source failed (R254): counted, and the loop goes to its next entry. -/
def State.sourceFailed (s : State) (o : Obtain) : State × Obtain :=
  let s := (s.cause Reg.wstCause 0).count Reg.wstFails 0 16 1
  (s, { o with idx := o.idx + 1, bytes := [], firstFail := some (o.firstFail.getD s.phys) })

/-- The end of a pass over the source list (R254): a hold is reported once HOLD_LIMIT has passed; the loop waits 1 ms. -/
def State.passEnd (s : State) (c : Fin 8) (side tensor : Nat) (o : Obtain) : State × Obtain :=
  let late := match o.firstFail with
    | some t => decide (t + s.rfld Reg.wstCtrl 20 8 * 100000000 ≤ s.phys)
    | none => false
  let o := { o with retry := true }
  if late && !o.reported then
    let first := s.rfld Reg.wstCause 1 1 == 0
    let s := (s.cause Reg.wstCause 1).count Reg.wstFails 16 16 1
    let s := if first then
        (s.setReg Reg.wstHoldAt (c.1 + side * 2 ^ 3 + tensor * 2 ^ 5 + 2 ^ 21)).setReg Reg.wstHoldShard o.shard
      else s
    (s, { o with reported := true })
  else (s, o)

/-- SHARD_REQ to an engine (R254, R302). -/
def State.requestShard (s : State) (c : Fin 8) (l : Layout) (o : Obtain) (dest : Half) : State :=
  s.enqueue (s.rolePort 1 l.side o.shard)
    (s.frame 0x10 1 dest (BitVec.ofNat 8 c.1) (s.ctx c).gen l.tensor (o.shard * 2 ^ 40) false
      (leBytes 4 o.version.toNat ++ leBytes 4 0)) none (some c)

/-- A shard forwarded to DOWN (R255): frames of up to 4,088 bytes against SHARD_PUSH credits of the tensor's side. -/
def State.forwardShard (s : State) (c : Fin 8) (l : Layout) (v : Word) (shard : Nat) (down : Half) (bs : List Byte) :
    State :=
  let n := max 1 ((bs.length + 4087) / 4088)
  (List.range n).foldl (fun (s : State) i =>
    s.enqueue (s.rolePort 1 l.side shard)
      (s.frame 0x13 1 down 0 0 l.tensor (shard * 2 ^ 40 + 4088 * i) (i + 1 == n)
        (leBytes 4 v.toNat ++ leBytes 4 0 ++ (bs.drop (4088 * i)).take 4088)) (some (l.side, 1, 0)) (some c)) s

/-- The obtain loop stands at an entry of its list (R254): a chain entry takes a push that has come or waits for one, any
other is asked. Answers a complete push that it takes. -/
def State.tryEntry (s : State) (c : Fin 8) (q : Scroll) (l : Layout) (o : Obtain) : State × Obtain × Option (List Byte) :=
  match (q.sources l.srclist).1[o.idx]? with
  | none => let r := s.passEnd c l.side l.tensor o; (r.1, r.2, none)
  | some (role, engine) =>
    if role = 0 then
      match (s.ctx c).pushes.find? fun p =>
          p.version == o.version && p.tensor == o.tensor && p.shard == o.shard && p.source == engine with
      | none => (s, o, none)
      | some p =>
        let s := s.modCtx c fun x => { x with pushes := x.pushes.filter (· != p) }
        if p.complete then (s, o, some p.bytes) else (s, { o with bytes := p.bytes }, none)
    else (s.requestShard c l o engine, o, none)

/-- Same shard of the same version. -/
def Obtain.same (a b : Obtain) : Bool := a.version == b.version && a.tensor == b.tensor && a.shard == b.shard

/-- The loop's record kept. -/
def Ctx.setObtain (x : Ctx) (o : Obtain) : Ctx :=
  { x with obtains := (x.obtains.filter fun p => !p.same o) ++ [o] }

/-- A complete unit is transformed (R258); a transform error marks the version BAD, and the step in flight, which
finishes on it (R272), reads free bytes there (log 4). -/
def State.fillUnits (s : State) (c : Fin 8) (q : Scroll) : State :=
  (s.ctx c).units.foldl (fun (s : State) u =>
    if u.bytes.isSome ∨ u.needs.any (fun n => (u.got.get? n).isNone) then s
    else
      match q.layout? u.tensor with
      | none => s
      | some l =>
        let put := fun (s : State) (bs : List Byte) => s.modCtx c fun x => { x with units := x.units.map fun w =>
          if w.tensor = u.tensor ∧ w.view = u.view ∧ w.unit = u.unit then
            { w with bytes := some (Memory.writeBytes [] 0 bs), got := [] } else w }
        match unitBytes l ((s.ctx c).perm l) u.got u.view u.unit with
        | some bs => put s bs
        | none =>
          let s := match (s.ctx c).bankOf u.version with
            | some b => s.versionBad c b 4
            | none => s
          let (bs, s) := s.freeBytes
          put s (slice bs 0 65536)) s

/-- A copy that passed its check is used (R249, R254, R265, R267): stored for a STORE tensor, given to the units that need
it, queued for its digest check the first time, forwarded to DOWN. Where it did not come by the chain of its list, the chain's
push of it is late (R255). -/
def State.useCopy (s : State) (c : Fin 8) (q : Scroll) (l : Layout) (b : Fin 2) (o : Obtain) (bs : List Byte) : State :=
  let down := (q.sources l.srclist).2
  let s := if down ≠ 0xFFFF then s.forwardShard c l o.version o.shard down bs else s
  let k := shardKey o.tensor o.shard
  let s := s.modCtx c fun x =>
    let x := { x with
      obtains := x.obtains.filter fun (p : Obtain) => !p.same o
      late := if o.idx ≠ 0 ∧ (((q.sources l.srclist).1[0]?).any fun (e : Nat × Half) => e.1 == 0) then
          x.late ++ [(o.version, o.tensor, o.shard)] else x.late
      units := x.units.map fun (u : CacheUnit) =>
        if u.version = o.version ∧ u.tensor = o.tensor ∧ u.needs.contains o.shard ∧ u.bytes.isNone then
          { u with got := u.got.set o.shard bs } else u }
    x.modBank b fun y => { y with
      stored := if l.stream then y.stored else y.stored.set k bs
      eccShards := y.eccShards.del k
      toCheck := if y.checked.has k || (y.toCheck.get? k).isSome then y.toCheck else y.toCheck.set k bs }
  s.fillUnits c q

/-- The loop goes on until it waits (R254). `fuel` is at least the entries of a list. -/
def State.obtainLoop (c : Fin 8) (q : Scroll) (l : Layout) (b : Fin 2) :
    Nat → Obtain → State → State
  | 0, o, s => s.setCtx c ((s.ctx c).setObtain o)
  | n + 1, o, s =>
    let (s, o, push) := s.tryEntry c q l o
    match push with
    | none => s.setCtx c ((s.ctx c).setObtain o)
    | some bs =>
      let i := q.manifestIndex o.tensor o.shard
      let m := (s.ctx c).banks[b].manifest
      if bs.length = manifestLen m i ∧ (crc64 bs).toNat = manifestCrc m i then s.useCopy c q l b o bs
      else let r := s.sourceFailed o; State.obtainLoop c q l b n r.2 r.1

/-- A shard of a version is wanted (R249, R267): obtained unless it is being obtained. -/
def State.obtain (s : State) (c : Fin 8) (q : Scroll) (l : Layout) (b : Fin 2) (shard : Nat) : State :=
  let o : Obtain := { version := (s.ctx c).banks[b].version, tensor := l.tensor, shard := shard }
  if (s.ctx c).obtains.any fun p => p.same o then s
  else
    let s := s.modCtx c fun x => { x with late := x.late.filter (· != (o.version, o.tensor, o.shard)) }
    State.obtainLoop c q l b 8 o s

/-- The build of a bank goes on (R267): the STORE shards not yet stored are obtained in turn, until one must be waited for;
with none left the version is READY. `fuel` bounds them. -/
def State.build (c : Fin 8) (q : Scroll) (b : Fin 2) : Nat → State → State
  | 0, s => s
  | fuel + 1, s =>
    let k := (s.ctx c).banks[b]
    if k.state ≠ .building ∨ !k.verified then s
    else
      match q.storeShards.find? fun e => (k.stored.get? (shardKey e.1.tensor e.2)).isNone with
      | some (l, sh) =>
        let s := s.obtain c q l b sh
        if ((s.ctx c).banks[b].stored.get? (shardKey l.tensor sh)).isSome then State.build c q b fuel s else s
      | none => (s.modCtx c fun x => x.modBank b fun y => { y with state := .ready }).cause Reg.wstCause 6

/-- Builds go on in both banks. -/
def State.builds (s : State) (c : Fin 8) (q : Scroll) : State :=
  (fins 2).foldl (fun s b => State.build c q b (q.storeShards.length + 1) s) s

/-! ### Versions (R264 to R273) -/

/-- The weight-ingress port of manifests: the first port of that role. R302 names none. DESIGN CHOICE, log 16. -/
def State.manifestPort (s : State) : Option (Fin 64) := (fins 64).find? fun p => s.role p == 1

/-- The TENSOR under which the manifest of a version is obtained, beyond any tensor's (log 16). -/
def manifestTensor : Nat := 65536

/-- The manifest is asked of the entry its loop stands at, of the SERVER entries of source list 0 in order; past the last,
the pass ends as R254 has it (R265). -/
def State.manifestTry (s : State) (c : Fin 8) (q : Scroll) (b : Fin 2) (o : Obtain) : State :=
  let s := s.modCtx c fun x => x.modBank b fun y => { y with manifest := [] }
  match ((q.sources 0).1.filter fun e => e.1 == 2)[o.idx]? with
  | none => let r := s.passEnd c 0 0 o; r.1.setCtx c ((r.1.ctx c).setObtain r.2)
  | some (_, engine) =>
    let s := s.setCtx c ((s.ctx c).setObtain o)
    s.enqueue s.manifestPort
      (s.frame 0x14 1 engine (BitVec.ofNat 8 c.1) (s.ctx c).gen 0 0 false (leBytes 4 o.version.toNat ++ leBytes 4 0))
      none (some c)

/-- The engine of the entry at which a manifest's loop stands. -/
def Scroll.manifestFrom (q : Scroll) (o : Obtain) : Option Half :=
  if o.retry then none else (((q.sources 0).1.filter fun e => e.1 == 2)[o.idx]?).map (·.2)

/-- A build starts in a bank (R265, R269): the obtains of the version it held end, and its manifest is obtained. -/
def State.startBuild (s : State) (c : Fin 8) (q : Scroll) (b : Fin 2) (v : Word) (digest : List Byte) : State :=
  let old := (s.ctx c).banks[b]
  let s := s.modCtx c fun x =>
    { x.modBank b (fun _ => { ({} : Bank) with state := .building, version := v, digest := digest }) with
      pendUnbuilt := false
      obtains := x.obtains.filter fun o => old.state == .absent || o.version != old.version }
  s.manifestTry c q b { version := v, tensor := manifestTensor, shard := 0 }

/-- The bank a build may take (R269): neither CURRENT's nor a pinned one; an ABSENT one first. DESIGN CHOICE, log 20. -/
def Ctx.freeBank (x : Ctx) : Option (Fin 2) :=
  let ok := (fins 2).filter fun b => x.current != some b && x.banks[b].pins == 0
  (ok.find? fun b => x.banks[b].state == .absent).or ok.head?

/-- RETIRING versions without a pin, but for one that is the pending target (R274), and BAD ones without a pin (R267) give up
their banks, and a target that waits unbuilt takes one (R269, R270). -/
def State.bankFreed (s : State) (c : Fin 8) : State :=
  let s := s.modCtx c fun x =>
    let gone := fun b : Fin 2 => x.banks[b].pins == 0 && (x.banks[b].state == .bad ||
      (x.banks[b].state == .retiring && x.pending != some x.banks[b].version))
    { x with
      current := x.current.filter fun b => !gone b
      banks := Vector.ofFn fun b : Fin 2 => if gone b then {} else x.banks[b] }
  let x := s.ctx c
  match x.scroll, x.pending with
  | some q, some v =>
    if !x.pendUnbuilt ∨ (x.bankOf v).isSome then s
    else match x.freeBank with
      | some b => s.startBuild c q b v x.pendDigest
      | none => s
  | _, _ => s

/-- The pending target that a later switch replaces or cancels is abandoned: ABSENT, unless it is CURRENT, and what is being
obtained for it ends (R269, R274). One that peer services pin is RETIRING until they end. -/
def Ctx.abandonTarget (x : Ctx) (v : Word) : Ctx :=
  match x.pending.filter (· != v) with
  | none => x
  | some w =>
    match x.bankOf w with
    | some b =>
      if x.current = some b ∨ x.banks[b].state = .retiring then x
      else
        let y := x.banks[b]
        let left : Bank := if y.pins = 0 then {}
          else { y with state := if y.state = VerState.bad then VerState.bad else VerState.retiring }
        { x.modBank b (fun _ => left) with obtains := x.obtains.filter fun o => o.version != w }
    | none => x

/-- A target is named, by a switch command or in FOLLOW mode (R269, R271, R274). Answers false for a BAD version. -/
def State.switchTo (s : State) (c : Fin 8) (q : Scroll) (v : Word) (digest : List Byte) : Bool × State :=
  let x := s.ctx c
  match x.bankOf v with
  | some b =>
    if x.banks[b].state = .bad then (false, s.cause Reg.wstCause 7)
    else
      let s := s.modCtx c fun x => { x.abandonTarget v with
        pending := if x.current = some b then none else some v, pendDigest := digest, pendUnbuilt := false }
      (true, s.bankFreed c)
  | none =>
    let s := (s.modCtx c fun x => { x.abandonTarget v with
      pending := some v, pendDigest := digest, pendUnbuilt := true }).bankFreed c
    if !(s.ctx c).pendUnbuilt then (true, s)
    else
      match (s.ctx c).freeBank with
      | some b => (true, s.startBuild c q b v digest)
      | none => (true, s)

/-- Bank `b` becomes CURRENT and the one that was becomes RETIRING (R270). -/
def Ctx.makeCurrent (x : Ctx) (b : Fin 2) : Ctx :=
  let x := match x.current with
    | some a => x.modBank a fun (y : Bank) => { y with state := if y.state = VerState.bad then VerState.bad else VerState.retiring }
    | none => x
  { x.modBank b (fun y => { y with state := .current }) with current := some b, pending := none }

/-- The version of a step start (R270, R274): the switch, and whether the step may pin the CURRENT version. -/
def State.pinVersion (s : State) (c : Fin 8) : Bool × State :=
  let x := s.ctx c
  let x := match x.pending.bind x.bankOf with
    | some b =>
      if x.banks[b].state = VerState.ready ∨ x.banks[b].state = VerState.retiring then x.makeCurrent b else x
    | none => x
  let bad := match x.current with
    | some b => x.banks[b].state == VerState.bad
    | none => true
  if bad || ((x.vmode || x.mustPend) && x.pending.isSome) then (false, s.setCtx c { x with waitVersion := true })
  else
    let next := if x.mustPend then x.thenPend else none
    let x := { x with
      waitVersion := false
      mustPend := false
      thenPend := none
      banks := Vector.ofFn fun i : Fin 2 => { x.banks[i] with stepPin := x.current == some i } }
    let s := (s.setCtx c x).bankFreed c
    match next, x.scroll with
    | some w, some q => (true, (s.switchTo c q w []).2)
    | _, _ => (true, s)

/-- The step's pin ends with the step (R268, R270, R271). -/
def State.unpinVersion (s : State) (c : Fin 8) : State :=
  let x := s.ctx c
  let v := (x.current.map fun b => x.banks[b].version)
  let s := (s.modCtx c fun x => { x with banks := x.banks.map fun b => { b with stepPin := false } }).bankFreed c
  match x.scroll, v with
  | some q, some v => if x.vmode then (s.switchTo c q (v + 1) []).2 else s
  | _, _ => s

/-! ### Cache units (R248 to R250) -/

/-- A side's share of cache units (R248): NCACHE x 64 MiB / 64 KiB. -/
def Scroll.unitShare (q : Scroll) (side : Nat) : Nat := q.ncache side * 1024

/-- The pinned version's bank. -/
def Ctx.pinned (x : Ctx) : Option (Fin 2) := (fins 2).find? fun b => x.banks[b].stepPin

/-- The copy of a shard in a bank, unless it fails its CRC-64 or has an uncorrectable stack error (R251, R252). -/
def Bank.copy (b : Bank) (q : Scroll) (tensor shard : Nat) : Option (List Byte) :=
  let k := shardKey tensor shard
  let i := q.manifestIndex tensor shard
  (b.stored.get? k).filter fun bs => !b.eccShards.has k && bs.length == manifestLen b.manifest i
    && (crc64 bs).toNat == manifestCrc b.manifest i

/-- A unit with a parity error is discarded (R252). -/
def State.dropBadUnit (s : State) (c : Fin 8) (mine : CacheUnit → Bool) : State :=
  if (s.ctx c).units.any fun w => mine w && w.bytes.isSome && w.parity then
    (s.modCtx c fun x => { x with units := x.units.filter fun w => !(mine w && w.bytes.isSome && w.parity) }).cause
      Reg.wstCause 5
  else s

/-- A member transfer reaches a unit (R249, R252): `none` when it is present, otherwise why the member stops. A shard whose
bank copy cannot be used is obtained again. -/
def State.touchUnit (s : State) (c : Fin 8) (q : Scroll) (l : Layout) (view : Bool) (u : Nat) :
    Option MemberStop × State :=
  let x := s.ctx c
  match x.pinned with
  | none => (some (.source l.tensor 0), s)
  | some b =>
    let v := x.banks[b].version
    let mine := fun (w : CacheUnit) => w.tensor == l.tensor && w.view == view && w.unit == u && w.version == v
    let s := s.dropBadUnit c mine
    let x := s.ctx c
    match x.units.find? mine with
    | some w =>
      if w.bytes.isSome then (none, s)
      else (some (.source l.tensor ((w.needs.find? fun n => (w.got.get? n).isNone).getD 0)), s)
    | none =>
      let used := (x.units.filter fun w => match q.layout? w.tensor with | some k => k.side == l.side | none => false).length
      if q.unitShare l.side ≤ used then (some .cacheSpace, s)
      else
        let needs := l.unitShards view u
        let held := if l.stream then [] else needs.filterMap fun n =>
          (x.banks[b].copy q l.tensor n).map fun bs => (n, bs)
        let w : CacheUnit := { tensor := l.tensor, view := view, unit := u, version := v, needs := needs, got := held }
        let s := s.modCtx c fun x => { x with units := x.units ++ [w] }
        let missing := needs.filter fun n => !(held.any fun e => e.1 == n)
        let s := missing.foldl (fun (s : State) n => s.obtain c q l b n) s
        let s := s.fillUnits c q
        match (s.ctx c).units.find? mine with
        | some w =>
          if w.bytes.isSome then (none, s) else (some (.source l.tensor (missing.head?.getD 0)), s)
        | none => (some (.source l.tensor 0), s)

/-- A transfer that reads a unit touches it (R250). -/
def Ctx.touched (x : Ctx) (l : Layout) (view : Bool) (u : Nat) (by_ : Nat × Nat × Nat) : Ctx :=
  { x with units := x.units.map fun w =>
      if w.tensor = l.tensor ∧ w.view = view ∧ w.unit = u ∧ w.bytes.isSome ∧ !w.touches.contains by_ then
        { w with touches := w.touches ++ [by_] }
      else w }

/-- Units that READS or TREADS distinct member transfers have touched, none of which is still being read, are released
(R250). -/
def Ctx.releaseUnits (x : Ctx) (q : Scroll) : Ctx :=
  { x with units := x.units.filter fun w =>
      match q.layout? w.tensor with
      | none => true
      | some l =>
        let reading := fun (t : Nat × Nat × Nat) =>
          ((x.members.getD (16384 * l.side + t.1) []).get? t.2.1).any fun m => m.cur.any fun y => y.seq == t.2.2
        decide (w.touches.length < if w.view then l.treads else l.reads) || w.touches.any reading }

/-! ### The commands -/

/-- The layout entry, bank and record of an obtain. -/
def State.obtainAt (s : State) (c : Fin 8) (o : Obtain) : Option (Scroll × Layout × Fin 2) :=
  match s.scroll? c with
  | none => none
  | some q =>
    match q.layout? o.tensor, (s.ctx c).bankOf o.version with
    | some l, some b => some (q, l, b)
    | _, _ => none

/-- A failure of the entry the loop stands at, and its next entry (R254, R265). -/
def State.obtainFail (s : State) (c : Fin 8) (o : Obtain) : State :=
  match s.obtainAt c o with
  | none =>
    match if o.tensor = manifestTensor then s.scroll? c else none, (s.ctx c).bankOf o.version with
    | some q, some b => let r := s.sourceFailed o; r.1.manifestTry c q b r.2
    | _, _ => s
  | some (q, l, b) =>
    let r := s.sourceFailed o
    State.obtainLoop c q l b 8 r.2 r.1

/-- A whole copy from a source (R254): checked against the manifest. -/
def State.copyArrived (s : State) (c : Fin 8) (o : Obtain) (bs : List Byte) : State :=
  match s.obtainAt c o with
  | none => s
  | some (q, l, b) =>
    let i := q.manifestIndex o.tensor o.shard
    let m := (s.ctx c).banks[b].manifest
    if bs.length = manifestLen m i ∧ (crc64 bs).toNat = manifestCrc m i then (s.useCopy c q l b o bs).builds c q
    else s.obtainFail c o

/-- The obtains of a shard that wait for a source (R254). -/
def Ctx.waiting (x : Ctx) (tensor shard : Nat) : List Obtain :=
  x.obtains.filter fun o => o.tensor == tensor && o.shard == shard && !o.retry

/-- SHARD_SOURCE_TIMEOUT (R254, R265). -/
def execShardSourceTimeout (c : Fin 8) (tensor shard : Nat) (s : State) : Host.Outcome State Fault Refusal :=
  act (fun s => ((s.ctx c).waiting tensor shard).foldl (fun (s : State) o =>
    let s := s.obtainFail c o
    match s.scroll? c with | some q => s.builds c q | none => s) s) s

/-- SHARD_RETRY (R254): the loop tries its list from the start. -/
def execShardRetry (c : Fin 8) (tensor shard : Nat) (s : State) : Host.Outcome State Fault Refusal :=
  act (fun s =>
    ((s.ctx c).obtains.filter fun o => o.tensor == tensor && o.shard == shard && o.retry).foldl (fun (s : State) o =>
      match s.obtainAt c o with
      | none =>
        match if o.tensor = manifestTensor then s.scroll? c else none, (s.ctx c).bankOf o.version with
        | some q, some b => s.manifestTry c q b { o with idx := 0, retry := false }
        | _, _ => s
      | some (q, l, b) => (State.obtainLoop c q l b 8 { o with idx := 0, retry := false } s).builds c q) s) s

/-- PUSH_DISCARD (R255). -/
def execPushDiscard (c : Fin 8) (tensor shard : Nat) (s : State) : Host.Outcome State Fault Refusal :=
  act (fun s => s.modCtx c fun x => { x with pushes := x.pushes.filter fun p => !(p.tensor == tensor && p.shard == shard) }) s

/-- SHARD_DIGEST_CHECK (R265). -/
def execShardDigestCheck (c : Fin 8) (version : Word) (tensor shard : Nat) (s : State) :
    Host.Outcome State Fault Refusal :=
  act (fun s =>
    match s.scroll? c, (s.ctx c).bankOf version with
    | some q, some b =>
      let k := shardKey tensor shard
      match (s.ctx c).banks[b].toCheck.get? k with
      | none => s
      | some bs =>
        let ok := sha3_512 bs == manifestSha (s.ctx c).banks[b].manifest (q.manifestIndex tensor shard)
        let s := s.modCtx c fun x => x.modBank b fun y => { y with toCheck := y.toCheck.erase k, checked := y.checked.add k }
        if ok then s else (s.versionBad c b 3).bankFreed c
    | _, _ => s) s

/-- Version, shard and byte offset of a shard frame (R303). -/
def shardFields (f : Frame) : Word × Nat × Nat :=
  (BitVec.ofNat 32 (leAt f.payload 0 4), fld f.offset.toNat 40 24, fld f.offset.toNat 0 40)

/-- SHARD_DATA (R254): bytes from the source the loop stands at, in order; a frame out of order is a missing one. -/
def execShardData (p : Fin 64) (f : Frame) (s : State) : Host.Outcome State Fault Refusal :=
  actIf f.wf (fun s => s.arrive p { f with type := 0x11 } fun s =>
    let c := finOf 8 f.context.toNat
    let (v, sh, off) := shardFields f
    match (s.ctx c).obtains.find? fun o => o.version == v && o.tensor == f.stream.toNat && o.shard == sh && !o.retry with
    | none => s
    | some o =>
      match s.obtainAt c o with
      | none => s
      | some (q, l, _) =>
        match (q.sources l.srclist).1[o.idx]? with
        | some (role, engine) =>
          if role = 0 ∨ engine ≠ f.source then s
          else if off ≠ o.bytes.length then s.obtainFail c o
          else
            let bs := o.bytes ++ f.payload.drop 8
            if f.isEnd then s.copyArrived c o bs else s.setCtx c ((s.ctx c).setObtain { o with bytes := bs })
        | none => s) s

/-- SHARD_ABSENT (R254). -/
def execShardAbsent (p : Fin 64) (f : Frame) (s : State) : Host.Outcome State Fault Refusal :=
  actIf f.wf (fun s => s.arrive p { f with type := 0x12 } fun s =>
    let c := finOf 8 f.context.toNat
    let (v, sh, _) := shardFields f
    match (s.ctx c).obtains.find? fun o => o.version == v && o.tensor == f.stream.toNat && o.shard == sh && !o.retry with
    | none =>
      -- a server that has not the manifest: its request has STREAM and OFFSET 0 (log 16)
      match s.scroll? c, (s.ctx c).obtains.find? fun o => o.version == v && o.tensor == manifestTensor with
      | some q, some o =>
        if f.stream = 0 ∧ f.offset = 0 ∧ q.manifestFrom o = some f.source then s.obtainFail c o else s
      | _, _ => s
    | some o =>
      match s.obtainAt c o with
      | none => s
      | some (q, l, _) =>
        if ((q.sources l.srclist).1[o.idx]?).any fun e => e.1 != 0 && e.2 == f.source then
          (s.obtainFail c o).builds c q
        else s) s

/-- SHARD_PUSH (R254, R255): taken by a loop that waits at a CHAIN entry of this engine, otherwise held; a push of a shard
that the bank already stores is discarded, and so is the one that comes after its shard has come from another entry: one push,
and only until the shard is demanded again. DESIGN CHOICE, log 20. -/
def execShardPush (p : Fin 64) (f : Frame) (s : State) : Host.Outcome State Fault Refusal :=
  actIf f.wf (fun s => s.arrive p { f with type := 0x13 } fun s =>
    let c := finOf 8 f.context.toNat
    let (v, sh, off) := shardFields f
    let t := f.stream.toNat
    let pay := f.payload.drop 8
    let here := fun (o : Obtain) => o.version == v && o.tensor == t && o.shard == sh && !o.retry &&
      (match s.obtainAt c o with
        | some (q, l, _) => (q.sources l.srclist).1[o.idx]? == some (0, f.source)
        | none => false)
    match (s.ctx c).obtains.find? here with
    | some o =>
      if off ≠ o.bytes.length then s.obtainFail c o
      else
        let bs := o.bytes ++ pay
        if f.isEnd then s.copyArrived c o bs else s.setCtx c ((s.ctx c).setObtain { o with bytes := bs })
    | none =>
      let stored := match (s.ctx c).bankOf v with
        | some b => ((s.ctx c).banks[b].stored.get? (shardKey t sh)).isSome
        | none => false
      let mine := fun (k : Push) => k.version == v && k.tensor == t && k.shard == sh && k.source == f.source
      if stored then s
      else if (s.ctx c).late.contains (v, t, sh) then
        if f.isEnd then s.modCtx c fun x => { x with late := x.late.erase (v, t, sh) } else s
      else
        s.modCtx c fun x =>
          let old := ((x.pushes.find? mine).getD ⟨v, t, sh, f.source, [], false⟩)
          let rest := x.pushes.filter fun k => !mine k
          if off ≠ old.bytes.length ∨ old.complete then { x with pushes := rest }
          else { x with pushes := rest ++ [{ old with bytes := old.bytes ++ pay, complete := f.isEnd }] }) s

/-- Can a CP1 form of `n` elements of `w` bytes be `len` bytes long (R262)? Of its elements 16 t stand in ZRUN and NIB
records, the others in LIT records: a length is taken up by as few NIB records, j, as reach it. -/
def cp1Length (n w len : Nat) : Bool :=
  (List.range (n / 16 + 1)).any fun t =>
    let e := n - 16 * t
    let d := len - 16 - e * w
    let j := (d - (t + e) + 7 + w) / (8 + w)
    decide (16 + e * w ≤ len) && decide (j ≤ t) && decide ((t - j + 127) / 128 + j * (9 + w) + (e + 63) / 64 ≤ d)

/-- Does the manifest hold (R264, R265)? -/
def manifestOk (q : Scroll) (v : Word) (m : List Byte) : Bool :=
  let all := q.manifestOrder
  let stored := (all.zipIdx.filter fun e => !e.1.1.stream).map fun e => manifestLen m e.2
  leAt m 0 4 == 0x4E414D57 && leAt m 4 4 == v.toNat && leAt m 8 4 == all.length && leAt m 12 4 == 0
    && m.length == 16 + 80 * all.length
    && (all.zipIdx.all fun e => leAt m (28 + 80 * e.2) 4 == 0 &&
      (if e.1.1.pack = 1 then let w := cp1Width (e.1.1.srcFmt); cp1Length (e.1.1.rawBytes e.1.2 / w) w (manifestLen m e.2)
        else manifestLen m e.2 == e.1.1.rawBytes e.1.2))
    && decide (stored.sum ≤ q.wstore / 2)

/-- MANIFEST_DATA (R265, R267), from the entry its loop stands at, in order; a frame out of order is a missing one. The
digest that comes with the first frame governs in FOLLOW mode, the command's in MANUAL mode. -/
def execManifestData (p : Fin 64) (f : Frame) (s : State) : Host.Outcome State Fault Refusal :=
  actIf f.wf (fun s => s.arrive p { f with type := 0x15 } fun s =>
    let c := finOf 8 f.context.toNat
    let v := BitVec.ofNat 32 (leAt f.payload 0 4)
    match s.scroll? c, (s.ctx c).bankOf v with
    | some q, some b =>
      let k := (s.ctx c).banks[b]
      match (s.ctx c).obtains.find? fun o => o.version == v && o.tensor == manifestTensor && q.manifestFrom o == some f.source with
      | none => s
      | some o =>
      if k.state ≠ .building ∨ k.verified then s
      else if f.offset.toNat ≠ k.manifest.length then s.obtainFail c o
      else
        let first := f.offset.toNat == 0
        let m := k.manifest ++ f.payload.drop (if first then 68 else 4)
        let dig := if ((s.ctx c).vmode || k.digest.isEmpty) && first then slice f.payload 4 64 else k.digest
        let s := s.modCtx c fun x => x.modBank b fun y => { y with manifest := m, digest := dig }
        if !f.isEnd then s
        else
          let s := s.modCtx c fun x => { x with obtains := x.obtains.filter fun p => !p.same o }
          if sha3_512 m == dig && manifestOk q v m then
            (s.modCtx c fun x => x.modBank b fun y => { y with verified := true }).builds c q
          else (s.versionBad c b 2).bankFreed c
    | _, _ => s) s

/-- The bank copies of a shard that a peer's request finds unusable are obtained again and rewritten (R252). -/
def State.mendCopies (s : State) (v : Word) (tensor shard : Nat) : State :=
  (fins 8).foldl (fun (s : State) c =>
    match s.scroll? c, (s.ctx c).bankOf v with
    | some q, some b =>
      let y := (s.ctx c).banks[b]
      let kept := y.state == .ready || y.state == .current || y.state == .retiring
      match q.layout? tensor with
      | some l =>
        if kept && (y.stored.get? (shardKey tensor shard)).isSome && (y.copy q tensor shard).isNone then s.obtain c q l b shard
        else s
      | none => s
    | _, _ => s) s

/-- SHARD_REQ (R256): served from the bank of the lowest-numbered context that holds the version and the shard, on the
port the request came by. Whose bank serves is not stated. DESIGN CHOICE, log 20. -/
def execShardReq (p : Fin 64) (f : Frame) (s : State) : Host.Outcome State Fault Refusal :=
  actIf f.wf (fun s => s.arrive p { f with type := 0x10 } fun s =>
    let (v, sh, off) := shardFields f
    let serves := fun (c : Fin 8) => ((s.ctx c).bankOf v).bind fun b =>
      let y := (s.ctx c).banks[b]
      if y.state = .ready ∨ y.state = .current ∨ y.state = .retiring then
        ((s.scroll? c).bind fun q => y.copy q f.stream.toNat sh).map fun bs => (c, b, bs)
      else none
    let answer := fun (s : State) (ty : Nat) (o : Nat) (fin : Bool) (pay : List Byte) =>
      s.enqueue (some p) (s.frame ty 1 f.source f.context f.generation f.stream.toNat o fin
        (leBytes 4 v.toNat ++ leBytes 4 0 ++ pay)) none none
    let found := (fins 8).findSome? serves
    let s := s.mendCopies v f.stream.toNat sh
    match found with
    | none => answer s 0x12 f.offset.toNat true []
    | some (c, b, bs) =>
      let s := (s.modCtx c fun x => x.modBank b fun y => { y with services := y.services + 1 }).countMod Reg.wstPeer 1
      let bs := bs.drop off
      let n := max 1 ((bs.length + 4087) / 4088)
      (List.range n).foldl (fun (s : State) i =>
        answer s 0x11 (sh * 2 ^ 40 + off + 4088 * i) (i + 1 == n) ((bs.drop (4088 * i)).take 4088)) s) s

/-- PEER_SERVICE_END (R256, R268, R270): the service's pin ends. -/
def execPeerServiceEnd (c : Fin 8) (version : Word) (s : State) : Host.Outcome State Fault Refusal :=
  act (fun s =>
    match (s.ctx c).bankOf version with
    | none => s
    | some b => (s.modCtx c fun x => x.modBank b fun y => { y with services := y.services - 1 }).bankFreed c) s

end Sys2Proof.Machine
end

