-- ==== Sys2Proof/Machine/Reduction.lean ====
section
/-! DEFINITION. Gradient reduction (R194 to R201, R277 to R298): slices and blocks, rings and owners, the pre-pass, the
hop, deadline mode and the bypass, delivery and digests. -/

namespace Sys2Proof.Machine

namespace Scroll

/-- START is AFTER_BACKWARD (R277). -/
def afterBackward (q : Scroll) : Bool := q.su 0xE 2 1 == 1

/-- BASE of RSTAGE, 0 for none; its bytes (R277, R362). -/
def rstage (q : Scroll) : Nat := q.su 0xE 8 8
def rstageBytes (q : Scroll) : Nat := ((q.segments.find? fun g => g.base == q.rstage).map (·.pages)).getD 0 * 2 ^ 21

/-- BUDDY of the reduction section (R277). -/
def buddy (q : Scroll) : Half := if q.reduces then BitVec.ofNat 16 (q.su 0xE 20 2) else 0xFFFF

/-- Levels of the reduction (R277). -/
def finalLevel (q : Scroll) : Fin 2 := if q.su 0xE 1 1 = 0 then 0 else 1

/-- Gradient target entry `t`. -/
def target? (q : Scroll) (t : Nat) : Option Target := q.targets[t]?

end Scroll

namespace Target

/-- Slices of an entry, and block row and column of slice `s` (R196, R279). -/
def slices (t : Target) : Nat := t.nbi * t.nbj
def rowOf (t : Target) (s : Nat) : Nat := t.bi0 + s / t.nbj
def colOf (t : Target) (s : Nat) : Nat := t.bj0 + s % t.nbj

end Target

/-- A bit of a mask map in the deep range (R199). -/
def Ctx.maskBit (x : Ctx) (m : MaskEntry) (i : Nat) : Bool := bitAt (Memory.read x.mem (m.map + i / 8)).toNat (i % 8)

/-- Sub-block `k` of a slice is live under a BLOCKS mask (R199). -/
def Ctx.subLive (x : Ctx) (m : MaskEntry) (t : Target) (s k : Nat) : Bool :=
  x.maskBit m (m.cols / 16 * (2 * t.rowOf s + k / 2) + (2 * t.colOf s + k % 2))

/-- The sub-blocks of slice `s` that travel to reduction (R198, R201): all four under a ROWS mask, live rows or not.
DESIGN CHOICE, log 21. -/
def Ctx.liveSubs (x : Ctx) (q : Scroll) (t : Target) (s : Nat) : List Nat :=
  match q.maskOf t with
  | some m => if m.kind = 2 then (List.range 4).filter (x.subLive m t s) else [0, 1, 2, 3]
  | none => [0, 1, 2, 3]

/-- LIVE of a slice's header (R294). -/
def Ctx.liveMask (x : Ctx) (q : Scroll) (t : Target) (s : Nat) : Nat :=
  match q.maskOf t with
  | none => 0xFFFFFFFF
  | some m =>
    if m.kind = 2 then (((List.range 4).filter (x.subLive m t s)).map fun k => 2 ^ k).sum
    else (((List.range 32).filter fun r => x.maskBit m (32 * t.rowOf s + r)).map fun r => 2 ^ r).sum

/-- Index of the first block of slice `s` in its entry's series (R282). -/
def Ctx.blockBase (x : Ctx) (q : Scroll) (t : Target) (s : Nat) : Nat :=
  8 * ((List.range s).map fun u => (x.liveSubs q t u).length).sum

/-- Slice of a block of the series (R282). -/
def Ctx.sliceOf (x : Ctx) (q : Scroll) (t : Target) (b : Nat) : Option Nat :=
  (List.range t.slices).find? fun s => decide (x.blockBase q t s ≤ b) && decide (b < x.blockBase q t (s + 1))

/-- Places in a slice of the 32 elements of its block `k`, as 32 x row + column (R198). -/
def Ctx.blockPlaces (x : Ctx) (q : Scroll) (t : Target) (s k : Nat) : List Nat :=
  let sub := (x.liveSubs q t s).getD (k / 8) 0
  (List.range 32).map fun e => 32 * (16 * (sub / 2) + 2 * (k % 8) + e / 16) + 16 * (sub % 2) + e % 16

/-- The map bits of a target can be read: no page of theirs is still to be fetched (R201). A page whose fetch failed reads as
the deep range stands. DESIGN CHOICE, log 21. -/
def Ctx.maskReady (x : Ctx) (q : Scroll) (t : Target) : Bool :=
  (q.maskPages t).all fun p =>
    match q.segOf p with
    | none => true
    | some g =>
      let y := x.page q p
      y.poison || y.state == .resident || (y.state == .unbacked && g.init != 1)

/-- The map pages of a target are asked for (R201, R231). -/
def State.touchMask (s : State) (c : Fin 8) (q : Scroll) (t : Target) : State :=
  (q.maskPages t).foldl (fun (s : State) p => (s.touchRead c q none (p * 2 ^ 21)).2) s

/-! ### Rings (R277 to R281) -/

/-- This engine's position on a ring. -/
def State.ringPos (s : State) (q : Scroll) (l : Fin 2) : Nat := (q.ring l).idxOf s.ident

/-- Slices of an entry that this engine's level-1 position owns: first and count (R279). -/
def State.shard1 (s : State) (q : Scroll) (t : Target) : Nat × Nat :=
  let n := (q.ring 0).length
  let k := s.ringPos q 0
  (k * t.slices / n, (k + 1) * t.slices / n - k * t.slices / n)

/-- Position of the owner of slice `sl` at a level (R279); at level 2 among the slices of this engine's level-1 shard. -/
def State.ownerPos (s : State) (q : Scroll) (t : Target) (l : Fin 2) (sl : Nat) : Nat :=
  let n := (q.ring l).length
  let (lo, cnt) := if l = 0 then (0, t.slices) else s.shard1 q t
  ((List.range n).find? fun k => decide (lo + k * cnt / n ≤ sl) && decide (sl < lo + (k + 1) * cnt / n)).getD 0

/-- The slice takes part in a level here: all at level 1, this engine's level-1 shard at level 2 (R281). -/
def State.inLevel (s : State) (q : Scroll) (t : Target) (l : Fin 2) (sl : Nat) : Bool :=
  l == 0 || (decide ((s.shard1 q t).1 ≤ sl) && decide (sl < (s.shard1 q t).1 + (s.shard1 q t).2))

/-- Steps along the path of a slice from position `p`'s place after the owner: 0 for the first contributor, N - 1 for the
owner (R280). -/
def pathPlace (n owner p : Nat) : Nat := (p + 2 * n - owner - 1) % n

/-- Engine `k` places after this one on the ring. -/
def State.after (s : State) (q : Scroll) (l : Fin 2) (k : Nat) : Half :=
  let r := q.ring l
  r.getD ((s.ringPos q l + k) % max 1 r.length) 0xFFFF

/-- Position of an engine on the ring. -/
def Scroll.posOf (q : Scroll) (l : Fin 2) (e : Half) : Nat := (q.ring l).idxOf e

/-! ### The level's record -/

/-- Key of an entry and level. -/
def redKey (l : Fin 2) (entry : Nat) : Nat := 65536 * l.1 + entry

/-- An entry's record at a level. -/
def Ctx.red (x : Ctx) (l : Fin 2) (entry : Nat) : RedLevel := x.reds.getD (redKey l entry) {}

/-- The record changed. -/
def State.modRed (s : State) (c : Fin 8) (l : Fin 2) (entry : Nat) (f : RedLevel → RedLevel) : State :=
  s.modCtx c fun x => { x with reds := x.reds.set (redKey l entry) (f (x.red l entry)) }

/-- DONE of an edge stream (R145); 0 for a stream that the context does not have. DESIGN CHOICE, log 9. -/
def State.doneOf (s : State) (c : Fin 8) (side n : Nat) : Nat :=
  let e := s.edgeOf c side n
  let ms := (s.ctx c).members.getD (16384 * side + n) []
  if ms.length < e.members ∨ !e.valid then 0
  else ((ms.map fun m => m.2.done).min?).getD 0

/-- The slice order of a gradient stream: the entries it carries in table order, each slice once per micro-batch; transfer
`n` of member `m` of `M` carries slice nM + m. DEDUCED, log 21. Answers the first slice of an entry and the slices of all. -/
def Scroll.streamSlices (q : Scroll) (t : Target) (entry : Nat) : Nat × Nat :=
  let mine := q.targets.zipIdx.filter fun e => e.1.side == t.side && e.1.stream == t.stream
  (((mine.filter fun e => decide (e.2 < entry)).map fun e => e.1.slices).sum, (mine.map fun e => e.1.slices).sum)

/-- Entry and slice of transfer `n` of member `m` (log 21). -/
def Scroll.sliceAt (q : Scroll) (side stream members n m : Nat) : Option (Nat × Nat) :=
  let mine := q.targets.zipIdx.filter fun e => e.1.side == side && e.1.stream == stream
  let total := (mine.map fun e => e.1.slices).sum
  let i := if total = 0 then 0 else (n * members + m) % total
  (mine.foldl (fun (acc : Nat × Option (Nat × Nat)) e =>
    match acc.2 with
    | some _ => acc
    | none => if i < acc.1 + e.1.slices then (acc.1, some (e.2, i - acc.1)) else (acc.1 + e.1.slices, none)) (0, none)).2

/-- A WIDE entry's slices may be read for reduction (R208): layer-eager, once the last micro-batch's writes to all the blocks
of its layer, the WIDE entries of its TENSOR, are complete (DEDUCED, log 21); after-backward, once every write of the
context's WIDE streams is. -/
def State.wideReady (s : State) (c : Fin 8) (q : Scroll) (t : Target) : Bool :=
  let written := fun (u : Target) (idx : Nat) =>
    let e := s.edgeOf c u.side u.stream
    decide (idx / e.members < ((s.ctx c).member u.side u.stream (idx % e.members)).done)
  -- the slices of one micro-batch on an entry's stream: the entry's own from `lo`, and all
  q.targets.zipIdx.all fun u => !u.1.wide ||
    (let (lo, total) := q.streamSlices u.1 u.2
     let last := (q.mb - 1) * total
     if q.afterBackward then (List.range total).all fun k => written u.1 (last + k)
     else u.1.tensor != t.tensor || (List.range u.1.slices).all fun k => written u.1 (last + lo + k))

/-- The slot of a WIDE block at `base` can be read (R209): its page's stack is in lock and not in stall, and none of its
lines is poisoned or has an uncorrectable error. Until then the block waits. DESIGN CHOICE, log 21. -/
def State.slotServed (s : State) (c : Fin 8) (q : Scroll) (base : Nat) : Bool :=
  let x := s.ctx c
  s.pageServed (x.page q (pageOf base)) && (List.range 64).all fun i => !x.badLines.has (base / 64 + i) && !x.eccLines.has (base / 64 + i)

/-- This engine's own values of a block (R198, R209, R281, R284), once they exist. -/
def State.ownValues (s : State) (c : Fin 8) (q : Scroll) (l : Fin 2) (t : Target) (entry b : Nat) : Option (List Nat) :=
  let x := s.ctx c
  if l = 0 ∧ t.wide then
    match x.sliceOf q t b with
    | none => none
    | some sl =>
      let base := ((q.wides[t.wbuf]?).map (·.1)).getD 0 + t.woff + 4096 * sl
      if s.wideReady c q t && s.slotServed c q base then
        some ((x.blockPlaces q t sl (b - x.blockBase q t sl)).map fun p => Memory.readLE x.mem (base + 4 * p) 4)
      else none
  else (x.red l entry).own.get? b

/-- This engine's own count for a block (R281). -/
def Ctx.ownCount (x : Ctx) (l : Fin 2) (entry b : Nat) : Nat := if l = 0 then 1 else (x.red l entry).cnt.getD b 1

/-- The hash of a copy (R296). -/
def copyHash (b : Nat) (wire : List Byte) : DWord := crc64 (leBytes 8 b ++ wire)

/-- OFFSET of a reduction frame (R282). -/
def State.redOffset (s : State) (c : Fin 8) (b : Nat) : Nat := ((s.ctx c).curStep.toNat % 2 ^ 24) * 2 ^ 40 + b

/-- A reduction frame on the entry's port (R282, R302, R306). -/
def State.redFrame (s : State) (c : Fin 8) (t : Target) (l : Fin 2) (entry ty : Nat) (dest : Half) (sl b : Nat)
    (pay : List Byte) : State :=
  if s.solo c then s
  else
    s.enqueue (s.rolePort 2 t.side sl)
      (s.frame ty 3 dest 0 0 (if ty = 3 then entry else entry + l.1 * 2 ^ 16) (s.redOffset c b) (ty == 3) pay)
      (some (l.1 * 2 ^ 16, 3, 0)) (some c)

/-- SETTLED to the sender of a copy (R288). -/
def State.settled (s : State) (c : Fin 8) (q : Scroll) (t : Target) (l : Fin 2) (entry : Nat) (dest : Half) (b : Nat) : State :=
  if (s.ctx c).redMode then
    s.redFrame c t l entry 3 dest (((s.ctx c).sliceOf q t b).getD 0) b []
  else s

/-- Bytes retained by the context (R288). -/
def Ctx.retainedBytes (x : Ctx) : Nat := (x.reds.flatMap fun e => e.2.retained.map fun r => r.wire.length).sum

/-- RSTAGE is full: the engine sends nothing new (R288). -/
def State.rstageFull (s : State) (c : Fin 8) (q : Scroll) (n : Nat) : Bool :=
  (s.ctx c).redMode && decide (q.rstageBytes < (s.ctx c).retainedBytes + n)

/-- The engine that a copy of a block goes to (R289): the next on the ring, or the first after it that is not bypassed or
is the owner `stay`. Answers the engine and whether it is a bypass copy. -/
def State.receiver (s : State) (q : Scroll) (l : Fin 2) (bypassed : List Half) (stay : Nat) : Half × Bool :=
  let n := (q.ring l).length
  let ok := fun k => !(bypassed.contains (s.after q l k)) || q.posOf l (s.after q l k) == stay
  let k := ((List.range n).find? fun k => decide (1 ≤ k) && ok k).getD 1
  (s.after q l k, k != 1)

/-- A block copy sent (R284, R288, R289, R296): LAST when the receiver owns it, SKIP on a bypass copy. -/
def State.sendBlock (s : State) (c : Fin 8) (q : Scroll) (l : Fin 2) (t : Target) (entry sl b : Nat) (out : Bsi) : State :=
  let r := (s.ctx c).red l entry
  let owner := s.ownerPos q t l sl
  let (dest, byp) := s.receiver q l r.bypassed owner
  let out := { out with last := q.posOf l dest == owner, skip := out.skip || byp }
  let w := out.wire
  -- R123, R297: the rerun of a step does not send again what left before it
  if b < r.sentTo then s
  else
  let s := s.redFrame c t l entry 0x30 dest sl b w
  s.modRed c l entry fun r =>
    let r := { r with digests := vmod r.digests (if byp then 2 else 0) (· ^^^ copyHash b w) }
    if (s.ctx c).redMode then { r with retained := r.retained ++ [⟨b, false, w, dest⟩] } else r

/-- A pre-pass byte sent (R283, R288): to the next engine; the first contributor is never bypassed (R290). -/
def State.sendPrepass (s : State) (c : Fin 8) (q : Scroll) (l : Fin 2) (t : Target) (entry sl b e : Nat) : State :=
  let r := (s.ctx c).red l entry
  let n := (q.ring l).length
  let first := (s.ownerPos q t l sl + 1) % max 1 n
  let (dest, _) := s.receiver q l r.preBypassed first
  if b < r.preSentTo then s
  else
  let s := s.redFrame c t l entry 0x31 dest sl b [BitVec.ofNat 8 e]
  if (s.ctx c).redMode then
    s.modRed c l entry fun r => { r with retained := r.retained ++ [⟨b, true, [BitVec.ofNat 8 e], dest⟩] }
  else s

/-- A skip record (R291): GRD_CAUSE.SKIP, the first skip's place, the count, and the step's records. -/
def State.recordSkip (s : State) (c : Fin 8) (l : Fin 2) (entry b : Nat) (pre : Bool) (who : Half) : State :=
  let first := s.rfld Reg.grdCause 0 1 == 0
  let s := (s.cause Reg.grdCause 0).count Reg.grdCounts 0 16 1
  let s := if first then
      ((s.setReg Reg.grdSkipAt (c.1 + l.1 * 2 ^ 3 + bit pre * 2 ^ 4 + 2 ^ 5 + who.toNat * 2 ^ 6)).setReg
        Reg.grdSkipEntry entry).setReg Reg.grdSkipBlock b
    else s
  s.modCtx c fun x => { x with skips := x.skips ++ [⟨x.curStep, entry, l, pre, who, s.ident, b⟩] }

/-- A recorded switch governs a block in a replayed step (R426). -/
def State.replaySwitch (s : State) (c : Fin 8) (l : Fin 2) (entry b : Nat) (pre : Bool) : Bool :=
  match (s.ctx c).replay with
  | some r => r.skips.any fun k => k.entry == entry && k.level == l && k.prepass == pre && k.recorder == s.ident && k.block == b
  | none => false

/-- Copies from a switched upstream discarded and settled (R290). -/
def State.dropSwitched (s : State) (c : Fin 8) (q : Scroll) (l : Fin 2) (t : Target) (entry b : Nat) (pre : Bool) : State :=
  let r := (s.ctx c).red l entry
  let up := s.after q l ((q.ring l).length - 1)
  let gone := if pre then (r.pre.filter fun e => decide (b ≤ e.1)).map (·.1) else (r.inReg.filter fun e => decide (b ≤ e.1)).map (·.1)
  let s := gone.foldl (fun (s : State) k => (s.settled c q t l entry up k).cause Reg.grdCause 4) s
  s.modRed c l entry fun r =>
    if pre then { r with pre := r.pre.filter fun e => decide (e.1 < b) }
    else { r with inReg := r.inReg.filter fun e => decide (e.1 < b) }

/-- The decision of R290 on a block: an incoming copy, a start of its own, or waiting. -/
inductive Incoming where
  | take (wire : List Byte) (sender : Half)
  | start
  | wait
  deriving DecidableEq, Repr

/-- R290 for a block (`pre` false) or a pre-pass byte (`pre` true) that this engine does not start itself; `upFirst`
says that the upstream neighbour starts the path. In strict mode a notice counts for nothing (R284, R287), and in a
replayed step only the recorded switches count (R426). -/
def State.incoming (s : State) (c : Fin 8) (q : Scroll) (l : Fin 2) (t : Target) (entry b : Nat) (pre upFirst : Bool) :
    Incoming × State :=
  let r := (s.ctx c).red l entry
  let up := s.after q l ((q.ring l).length - 1)
  let reg := if pre then (r.pre.get? b).map fun v => [BitVec.ofNat 8 v] else r.inReg.get? b
  let byp := if pre then (r.preByp.get? b).map fun v => (v.1, [BitVec.ofNat 8 v.2]) else r.inByp.get? b
  let sw := if pre then r.preSwitched else r.switched
  let notice := if pre then r.preNotice else r.notice
  let forced := s.replaySwitch c l entry b pre
  match sw, reg, forced with
  | none, some w, false => (.take w up, s)
  | _, _, _ =>
    let covers := forced || ((s.ctx c).replay.isNone && (s.ctx c).redMode && match notice with
      | some (who, b0) => who == up && decide (b0 ≤ b)
      | none => false)
    if sw.isNone && !covers then (.wait, s)
    else
      let s := if sw.isNone then
          let s := s.modRed c l entry fun r => if pre then { r with preSwitched := some b } else { r with switched := some b }
          (s.recordSkip c l entry b pre up).dropSwitched c q l t entry b pre
        else s
      if upFirst then (.start, s)
      else match byp with
        | some (u, w) => (.take w u, s)
        | none => (.wait, s)

/-- One more pre-pass byte (R283), if it is ready: forwarded, or the agreed exponent at the first contributor. -/
def State.prepassOne (s : State) (c : Fin 8) (q : Scroll) (l : Fin 2) (t : Target) (entry : Nat) : Option State :=
  let x := s.ctx c
  let r := x.red l entry
  let b := r.preNext
  match x.sliceOf q t b with
  | none => none
  | some sl =>
    if !s.inLevel q t l sl then
      some (s.modRed c l entry fun r => { r with preNext := x.blockBase q t (sl + 1) })
    else
      match s.ownValues c q l t entry b with
      | none => none
      | some vals =>
        let n := (q.ring l).length
        let owner := s.ownerPos q t l sl
        -- places along the pre-pass: from two after the owner round to the first contributor
        let place := (s.ringPos q l + 2 * n - owner - 2) % n
        let nat := naturalExp (vals.map val32)
        let finish := fun (s : State) (e : Nat) =>
          -- a bypass byte, taken or discarded, is settled (R288, R290)
          let byp := ((s.ctx c).red l entry).preByp.get? b
          let s := s.modRed c l entry fun r => { r with
            preNext := b + 1, pre := r.pre.erase b, preByp := r.preByp.erase b }
          let s := if place = n - 1 then
              s.modRed c l entry fun r => { r with agreed := r.agreed.set b (min 255 (e + (s.ctx c).redHeadroom)) }
            else s.sendPrepass c q l t entry sl b e
          some (match byp with
            | some (u, _) => s.settled c q t l entry u b
            | none => s)
        if s.solo c then some (s.modRed c l entry fun r => { r with preNext := b + 1 })
        else if place ≠ n - 1 ∧ s.rstageFull c q 1 then none
        else if place = 0 then finish s nat
        else
          let up := s.after q l (n - 1)
          let d := s.incoming c q l t entry b true (place == 1)
          match d.1 with
          | .wait => none
          | .start => finish d.2 nat
          | .take w u =>
            (finish d.2 (max nat (leNat w))).map fun s => if u = up then s.settled c q t l entry u b else s

/-- Pre-pass bytes as far as they are ready. -/
def State.prepassRun (c : Fin 8) (q : Scroll) (l : Fin 2) (t : Target) (entry : Nat) : Nat → State → State
  | 0, s => s
  | n + 1, s =>
    match s.prepassOne c q l t entry with
    | some s => State.prepassRun c q l t entry n s
    | none => s

/-- Every pre-pass of the context goes on. -/
def State.prepass (s : State) (c : Fin 8) : State :=
  match s.scroll? c with
  | none => s
  | some q =>
    -- between the stop and the restart of a rerun nothing is processed (R121)
    if (s.ctx c).rerunning then s
    else
    q.targets.zipIdx.foldl (fun (s : State) e =>
      if !(s.ctx c).maskReady q e.1 then s.touchMask c q e.1 else (List.finRange 2).foldl (fun (s : State) l =>
        if q.finalLevel < l then s
        else State.prepassRun c q l e.1 e.2 ((s.ctx c).blockBase q e.1 e.1.slices + e.1.slices + 1) s) s) s

/-! ### Delivery (R286, R293, R294) -/

/-- 1 / COUNT rounded once (R293). -/
def reciprocal (count : Nat) : Nat := div32 0x3F800000 (round32 (Val.ofInt count))

/-- The 65 lines of a delivered slice (R293, R294): `sums` gives, by block, the FP32 sums, COUNT and SKIP. COUNT of the
header is that of the last block. DEDUCED, log 21. -/
def Ctx.sliceBytes (x : Ctx) (q : Scroll) (t : Target) (sl : Nat) (sums : Tab (List Nat × Nat × Bool)) : List Byte :=
  let base := x.blockBase q t sl
  let n := 8 * (x.liveSubs q t sl).length
  let blocks := (List.range n).map fun k => (x.blockPlaces q t sl k, sums.getD (base + k) ([], 1, false))
  let count := ((blocks.getLast?).map fun e => e.2.2.1).getD 1
  let skip := blocks.any fun e => e.2.2.2
  let elem := fun (p : Nat) =>
    match blocks.find? fun e => e.1.contains p with
    | some e => mul32 (e.2.1.getD (e.1.idxOf p) 0) (reciprocal e.2.2.1)
    | none => nan32
  leBytes 2 t.tensor ++ leBytes 2 (t.rowOf sl) ++ leBytes 2 (t.colOf sl) ++ leBytes 2 count
    ++ leBytes 1 (bit skip + 2 * bit (q.maskOf t).isSome) ++ leBytes 7 0 ++ leBytes 4 (x.liveMask q t sl)
    ++ List.replicate 44 0 ++ (List.range 1024).flatMap fun p => leBytes 4 (elem p)

/-- An invalid element at the final owner (R286): recorded, and the context is held. -/
def State.invalidSlice (s : State) (c : Fin 8) (t : Target) (sl : Nat) (exhausted : Bool) : State :=
  let first := s.rfld Reg.grdCause 2 1 == 0
  let s := s.cause Reg.grdCause 2
  let s := if first then
      (s.setReg Reg.grdInvAt (c.1 + bit (!exhausted) * 2 ^ 3 + 2 ^ 4 + t.tensor * 2 ^ 5)).setReg Reg.grdInvSlice
        (t.rowOf sl % 4096 + (t.colOf sl % 4096) * 2 ^ 12)
    else s
  s.faultHold c

/-- A whole owned slice delivered on its OSTREAM (R294): transfer k of the stream goes to member k mod M (log 21). -/
def State.deliverSlice (s : State) (c : Fin 8) (q : Scroll) (l : Fin 2) (t : Target) (entry sl : Nat) : State :=
  let x := s.ctx c
  let r := x.red l entry
  let e := s.edgeOf c t.side t.ostream
  let k := r.delivered
  let bs := x.sliceBytes q t sl r.sums
  let s := s.modRed c l entry fun r => { r with delivered := k + 1, sums := [] }
  let m := k % max 1 e.members
  s.modMember c t.side t.ostream m fun y => { y with
    arrived := y.arrived ++ [{ seq := k / max 1 e.members, bytes := Memory.writeBytes [] 0 bs, piece := (e.lines + 63) / 64 }] }

/-- The owner's result of a block at a level (R281, R284, R286, R293): values for level 2, or part of a slice. -/
def State.ownerResult (s : State) (c : Fin 8) (q : Scroll) (l : Fin 2) (t : Target) (entry sl b : Nat) (sums : List Nat)
    (count : Nat) (skip bad exhausted : Bool) : State :=
  if l ≠ q.finalLevel then
    s.modRed c 1 entry fun r => { r with own := r.own.set b sums, cnt := r.cnt.set b count }
  else if bad then s.invalidSlice c t sl exhausted
  else
    let s := s.modRed c l entry fun r => { r with sums := r.sums.set b (sums, count, skip) }
    if b + 1 = (s.ctx c).blockBase q t (sl + 1) then s.deliverSlice c q l t entry sl else s

/-- A processed block: the next one is due, OWN is folded; the copy it came from is settled, and a bypass copy that was not
taken is discarded and settled (R288, R290, R424). -/
def State.hopDone (s : State) (c : Fin 8) (q : Scroll) (l : Fin 2) (t : Target) (entry b : Nat) (x : List Nat)
    (from_ : Option Half) : State :=
  let spare := ((((s.ctx c).red l entry).inByp.get? b).map (·.1)).filter fun u => from_ != some u
  let s := s.modRed c l entry fun r => { r with
    next := b + 1, inReg := r.inReg.erase b, inByp := r.inByp.erase b, agreed := r.agreed.erase b
    ownDigest := r.ownDigest ^^^ crc64 (leBytes 8 b ++ x.flatMap (leBytes 4)) }
  let s := s.modCtx c fun x => { x with advanced := true }
  (from_.toList ++ spare.toList).foldl (fun (s : State) u => s.settled c q t l entry u b) s

/-- REDUCTION_HOP of a block (R284), when it is the next of its entry and everything it needs is there. -/
def State.hop (s : State) (c : Fin 8) (q : Scroll) (l : Fin 2) (t : Target) (entry b : Nat) : State :=
  let x := s.ctx c
  let r := x.red l entry
  match x.sliceOf q t b with
  | none => s
  | some sl =>
    if r.next ≠ b ∨ !x.maskReady q t then s
    else if !s.inLevel q t l sl then s.modRed c l entry fun r => { r with next := b + 1 }
    else
      match s.ownValues c q l t entry b with
      | none => s
      | some vals =>
        let n := (q.ring l).length
        let owner := s.ownerPos q t l sl
        let place := pathPlace n owner (s.ringPos q l)
        let cnt := x.ownCount l entry b
        let xs := vals.map val32
        if s.solo c then
          let s := if place = n - 1 then
              s.ownerResult c q l t entry sl b vals 1 false (xs.any nonFinite) false
            else s
          s.hopDone c q l t entry b vals none
        else if place ≠ n - 1 ∧ s.rstageFull c q 68 then s
        else
          let nat := naturalExp xs
          let first := fun (s : State) (e : Nat) (skip : Bool) (from_ : Option Half) =>
            let out := bsiQuantise e 0 cnt skip false xs []
            if place = n - 1 then
              (s.ownerResult c q l t entry sl b vals cnt skip (xs.any nonFinite) false).hopDone c q l t entry b vals from_
            else (s.sendBlock c q l t entry sl b out).hopDone c q l t entry b vals from_
          if place = 0 then
            match r.agreed.get? b with
            | none => s
            | some e => first s e false none
          else
            let d := s.incoming c q l t entry b false (place == 1)
            match d.1 with
            | .wait => d.2
            | .start => first d.2 (min 255 (nat + x.redHeadroom)) true none
            | .take w u =>
              let s := d.2
              let inn := Bsi.ofBytes w
              let from_ := some u
              let sums := (List.range 32).map fun j => round32 ((inn.widen j).add (xs.getD j .zero))
              let bad := (List.range 32).map fun j => inn.invalidAt j
              if place = n - 1 then
                let anyBad := bad.any id || sums.any fun v => nonFinite (val32 v)
                let exhausted := inn.allInvalid && (inn.bump == 15 || inn.e == 255)
                (s.ownerResult c q l t entry sl b sums (inn.count + cnt) inn.skip anyBad exhausted).hopDone c q l t entry b
                  vals from_
              else
                let out := bsiQuantise inn.e inn.bump (inn.count + cnt) inn.skip false (sums.map val32) bad
                (s.sendBlock c q l t entry sl b out).hopDone c q l t entry b vals from_

/-- REDUCTION_HOP (R284). -/
def execReductionHop (c : Fin 8) (level : Fin 2) (entry block : Nat) (s : State) : Host.Outcome State Fault Refusal :=
  act (fun s =>
    match s.scroll? c with
    | none => s
    | some q =>
      match q.target? entry with
      | none => s
      | some t =>
        if !(s.ctx c).inStep ∨ (s.ctx c).rerunning ∨ q.finalLevel < level ∨ (s.ctx c).state ≠ .running then s
        else ((s.prepass c).hop c q level t entry block).prepass c) s

/-! ### Reduction frames -/

/-- Context, scroll, entry, level and first block of a reduction frame, when it is of the step in progress; any other is
dropped with GRD_CAUSE.STALE (R282). The first that brings a reduction byte passes the commit point (R122), and a block
accepted advances its queue (R431): `bytes` and `block` say of which kind the frame is. -/
def State.redTarget (s : State) (f : Frame) (bytes block : Bool) (go : State → Fin 8 → Scroll → Target → Fin 2 → Nat → Nat → State) : State :=
  let c := finOf 8 f.context.toNat
  let entry := fld f.stream.toNat 0 16
  let l : Fin 2 := finOf 2 (fld f.stream.toNat 16 1)
  match s.scroll? c with
  | none => s
  | some q =>
    match q.target? entry with
    | none => s
    | some t =>
      let x := s.ctx c
      if !x.inStep ∨ fld f.offset.toNat 40 24 ≠ x.curStep.toNat % 2 ^ 24 then s.cause Reg.grdCause 3
      else
        let s := s.modCtx c fun x => { x with committed := x.committed || bytes, advanced := x.advanced || block }
        go s c q t l entry (fld f.offset.toNat 0 40)

/-- The blocks of a RED_BLOCK payload (R94, R303). -/
def splitBlocks : Nat → List Byte → List (List Byte)
  | 0, _ => []
  | n + 1, bs =>
    if bs.length < 4 then []
    else
      let len := if bitAt (leAt bs 0 4) 12 then 4 else 68
      bs.take len :: splitBlocks n (bs.drop len)

/-- One copy of a block arrived (R290, R296). A second bypass copy of a block, which the spec does not name, is discarded and
settled. DESIGN CHOICE, log 21. -/
def State.blockArrived (s : State) (c : Fin 8) (q : Scroll) (t : Target) (l : Fin 2) (entry b : Nat) (src : Half)
    (w : List Byte) : State :=
  let up := s.after q l ((q.ring l).length - 1)
  let r := (s.ctx c).red l entry
  let reg := src == up
  let s := s.modRed c l entry fun r => { r with digests := vmod r.digests (if reg then 1 else 3) (· ^^^ copyHash b w) }
  if reg ∧ r.switched.isSome then (s.settled c q t l entry src b).cause Reg.grdCause 4
  else if b < r.next then s.settled c q t l entry src b
  else if reg then s.modRed c l entry fun r => { r with inReg := r.inReg.set b w }
  else if (r.inByp.get? b).isSome then s.settled c q t l entry src b
  else s.modRed c l entry fun r => { r with inByp := r.inByp.set b (src, w) }

/-- RED_BLOCK (R282, R284, R290). -/
def execRedBlock (p : Fin 64) (f : Frame) (s : State) : Host.Outcome State Fault Refusal :=
  actIf f.wf (fun s => s.arrive p { f with type := 0x30 } fun s =>
    s.redTarget f true true fun s c q t l entry b =>
      (splitBlocks 4096 f.payload).zipIdx.foldl (fun (s : State) e => s.blockArrived c q t l entry (b + e.2) f.source e.1) s) s

/-- RED_PREPASS (R283, R290): one exponent byte per block. -/
def execRedPrepass (p : Fin 64) (f : Frame) (s : State) : Host.Outcome State Fault Refusal :=
  actIf f.wf (fun s => s.arrive p { f with type := 0x31 } fun s =>
    s.redTarget f true false fun s c q t l entry b =>
      let up := s.after q l ((q.ring l).length - 1)
      let s := f.payload.zipIdx.foldl (fun (s : State) (e : Byte × Nat) =>
        let k := b + e.2
        let r := (s.ctx c).red l entry
        if f.source = up ∧ r.preSwitched.isSome then (s.settled c q t l entry f.source k).cause Reg.grdCause 4
        else if k < r.preNext then s.settled c q t l entry f.source k
        else if f.source = up then s.modRed c l entry fun r => { r with pre := r.pre.set k e.1.toNat }
        else if (r.preByp.get? k).isSome then s.settled c q t l entry f.source k
        else s.modRed c l entry fun r => { r with preByp := r.preByp.set k (f.source, e.1.toNat) }) s
      s.prepass c) s

/-- Notices that name one engine cover the blocks of each of them: from the lowest first block (R290). -/
def widerNotice (n : Option (Half × Nat)) (who : Half) (b : Nat) : Option (Half × Nat) :=
  some (who, match n with | some (_, b0) => min b0 b | none => b)

/-- BYPASS_NOTICE (R290): taken when it names the upstream neighbour. Whether a notice concerns the pre-pass is told by
FLAGS END, which R303 leaves free here. DESIGN CHOICE, log 21. -/
def execBypassNotice (p : Fin 64) (f : Frame) (s : State) : Host.Outcome State Fault Refusal :=
  actIf f.wf (fun s => s.arrive p { f with type := 0x32 } fun s =>
    s.redTarget f false false fun s c q _ l entry b =>
      let who : Half := BitVec.ofNat 16 (leAt f.payload 0 2)
      if who ≠ s.after q l ((q.ring l).length - 1) then s
      else
        (s.modRed c l entry fun r =>
          if f.isEnd then { r with preNotice := widerNotice r.preNotice who b }
          else { r with notice := widerNotice r.notice who b }).prepass c) s

/-- SETTLED (R288): the retained copy of the block that the sender held is freed; a pre-pass copy before a block, level 1
before level 2. DEDUCED, log 21. -/
def execSettled (p : Fin 64) (f : Frame) (s : State) : Host.Outcome State Fault Refusal :=
  actIf f.wf (fun s => s.arrive p { f with type := 0x03 } fun s =>
    s.redTarget f false false fun s c _ _ _ entry b =>
      let find := fun (l : Fin 2) (pre : Bool) =>
        ((s.ctx c).red l entry).retained.find? fun k => k.block == b && k.prepass == pre && k.dest == f.source
      match [((0 : Fin 2), true), (0, false), (1, true), (1, false)].findSome? fun e => (find e.1 e.2).map fun k => (e.1, k) with
      | some (l, k) => (s.modRed c l entry fun r => { r with retained := r.retained.erase k }).prepass c
      | none => s) s

/-- BYPASS (R289): the copy of the lowest unsettled block is late at its receiver `d`; `d` is bypassed for the entry and
step, except for blocks it owns (or, in the pre-pass, starts). -/
def State.bypass (s : State) (c : Fin 8) (q : Scroll) (l : Fin 2) (t : Target) (entry : Nat) (pre : Bool) : State :=
  let r := (s.ctx c).red l entry
  let n := (q.ring l).length
  let stayOf := fun (b : Nat) =>
    let o := s.ownerPos q t l (((s.ctx c).sliceOf q t b).getD 0)
    if pre then (o + 1) % max 1 n else o
  let late := (r.retained.filter fun k => k.prepass == pre && q.posOf l k.dest != stayOf k.block).foldl
    (fun (m : Option Retained) k => match m with
      | some j => if k.block < j.block then some k else some j
      | none => some k) none
  match late with
  | none => s
  | some k =>
    let d := k.dest
    let b0 := k.block
    let s := (s.cause Reg.grdCause 1).count Reg.grdCounts 16 16 1
    let s := s.modRed c l entry fun r =>
      if pre then { r with preBypassed := r.preBypassed ++ [d] } else { r with bypassed := r.bypassed ++ [d] }
    let r := (s.ctx c).red l entry
    let next := (s.receiver q l (if pre then r.preBypassed else r.bypassed) n).1
    let sl := fun b => ((s.ctx c).sliceOf q t b).getD 0
    let pay := leBytes 2 d.toNat ++ leBytes 6 0
    let s := s.enqueue (s.rolePort 2 t.side (sl b0))
      (s.frame 0x32 3 next 0 0 (entry + l.1 * 2 ^ 16) (s.redOffset c b0) pre pay) (some (l.1 * 2 ^ 16, 3, 0)) (some c)
    let again := r.retained.filter fun j => j.prepass == pre && j.dest == d && decide (b0 ≤ j.block)
      && q.posOf l d != stayOf j.block
    again.foldl (fun (s : State) j =>
      if pre then
        let s := s.redFrame c t l entry 0x31 next (sl j.block) j.block j.wire
        s.modRed c l entry fun r => { r with retained := r.retained.map fun i => if i = j then { j with dest := next } else i }
      else
        let out := { Bsi.ofBytes j.wire with skip := true, last := q.posOf l next == stayOf j.block }
        let s := s.redFrame c t l entry 0x30 next (sl j.block) j.block out.wire
        s.modRed c l entry fun r => { r with
          digests := vmod r.digests 2 (· ^^^ copyHash j.block out.wire)
          retained := r.retained.map fun i => if i = j then { j with dest := next, wire := out.wire } else i }) s

/-- BYPASS (R289), in deadline mode; a replayed step bypasses nobody of itself (R426). -/
def execBypass (c : Fin 8) (level : Fin 2) (entry : Nat) (prepass : Bool) (s : State) : Host.Outcome State Fault Refusal :=
  act (fun s =>
    match s.scroll? c with
    | none => s
    | some q =>
      match q.target? entry with
      | none => s
      | some t =>
        if (s.ctx c).redMode ∧ (s.ctx c).inStep then s.bypass c q level t entry prepass else s) s

/-- The map pages of the entry that a REDUCE stream's transfer belongs to, when they must be fetched first (R201): the page
that the member waits for, and the state with the fetches started. -/
def State.sliceWaits (s : State) (c : Fin 8) (q : Scroll) (side stream n m : Nat) : Option (Nat × State) :=
  match q.sliceAt side stream (max 1 (s.edgeOf c side stream).members) n m with
  | none => none
  | some (entry, _) =>
    match q.target? entry with
    | none => none
    | some t =>
      if (s.ctx c).maskReady q t then none
      else some ((q.maskPages t).headD 0, s.touchMask c q t)

/-- The slice of a REDUCE stream's transfer enters reduction: own values by block (R197, R198). -/
def State.sliceIn (s : State) (c : Fin 8) (q : Scroll) (side stream n m : Nat) (bs : Mem) : State :=
  let e := s.edgeOf c side stream
  match q.sliceAt side stream (max 1 e.members) n m with
  | none => s
  | some (entry, sl) =>
    match q.target? entry with
    | none => s
    | some t =>
      let x := s.ctx c
      let base := x.blockBase q t sl
      (s.modRed c 0 entry fun r => { r with
        own := (List.range (8 * (x.liveSubs q t sl).length)).foldl (fun o k =>
          o.set (base + k) ((x.blockPlaces q t sl k).map fun p => Memory.readLE bs (4 * p) 4)) r.own }).prepass c

end Sys2Proof.Machine
end

