-- ==== Sys2Proof/Machine/Edge.lean ====
section
/-! DEFINITION. Edge-stream members (R136, R143 to R148, R227 to R235, R307, R308): marks and phases (R387), reading and
writing pieces, fabric streams, completion; and page fetches, which end the requests that wait on them (R223, R234). -/

namespace Sys2Proof.Machine

/-! ### Phases (R386, R387) -/

/-- A phase of a context is complete (R386). -/
def State.phaseDone (s : State) (c : Fin 8) (p : Phase) : Bool := decide (p.count ≤ s.doneOf c p.side p.stream)

/-- A phase is ready (R387). -/
def State.phaseReady (s : State) (c : Fin 8) (q : Scroll) (p : Phase) : Bool :=
  p.preds.all fun k => (q.phases.find? fun z => z.num == k).any fun z => s.phaseDone c z

/-- No other released, incomplete phase of the context has energy in a region where `p` has (R387). -/
def State.phaseMust (s : State) (c : Fin 8) (q : Scroll) (p : Phase) : Bool :=
  !(q.phases.any fun z => z.num != p.num && (s.ctx c).released.has z.num && !s.phaseDone c z &&
    ((z.energy.zip p.energy).any fun e => e.1 != 0 && e.2 != 0))

/-- The power of a phase in W at 0.72 V: ENERGY, in units of 10 mJ, over DURATION, in us. -/
def Phase.watts (p : Phase) : Nat := p.energy.sum * 10000 / max 1 p.duration

/-- The forecast power of a ready phase fits: it is within the headroom that the last iteration of the budget loop left.
DESIGN CHOICE, log 31. -/
def State.phaseFits (s : State) (p : Phase) : Bool := decide ((p.watts : Int) ≤ s.budget.room)

/-- A phase released: it stays so until the step ends. The action log records a release past a deferred phase (R491). -/
def State.releasePhase (s : State) (c : Fin 8) (p : Phase) : State :=
  let past := s.budget.deferred.any fun d => d.1 == c && decide (d.2 < p.num) && !(s.ctx c).released.has d.2
  let s := if past then s.action 2 c.1 0xFFFF p.num else s
  { s with budget := { s.budget with room := s.budget.room - p.watts } }.modCtx c fun x => { x with
    released := x.released.add p.num }

/-- A phase's release deferred, recorded once in a step. -/
def State.deferPhase (s : State) (c : Fin 8) (p : Phase) : State :=
  if s.budget.deferred.contains (c, p.num) then s
  else { s with budget := { s.budget with deferred := s.budget.deferred ++ [(c, p.num)] } }.action 2 c.1 0xFFFF p.num

/-- Ready phases in ascending number (R387): all are released while no limit binds; while one binds, those before the first
that does not fit, and those that the progress rule releases; the others are deferred. -/
def State.releaseReady (c : Fin 8) (q : Scroll) : List Phase → Bool → State → State
  | [], _, s => s
  | p :: rest, fit, s =>
    if !(s.ctx c).inStep ∨ (s.ctx c).released.has p.num ∨ !s.phaseReady c q p then State.releaseReady c q rest fit s
    else
      let fit := fit && (!s.budget.binding || s.phaseFits p)
      State.releaseReady c q rest fit (if fit || s.phaseMust c q p then s.releasePhase c p else s.deferPhase c p)

/-- The ready phases of a context that may be released now are (R387); under the loop's worst action only those that the
progress rule releases (R383). -/
def State.releasePhases (s : State) (c : Fin 8) : State :=
  match s.scroll? c with
  | none => s
  | some q => State.releaseReady c q (q.phases.mergeSort fun a b => decide (a.num ≤ b.num)) (!s.budget.held.contains c) s

/-! ### Marks -/

/-- A mark of a stream's list: KIND, BEFORE, TARGET, COUNT (R144). -/
def Ctx.mark (x : Ctx) (e : EdgeDesc) (k : Nat) : Nat × Nat × Nat × Nat :=
  let w := Memory.readLE x.mem (e.markBase + 16 * k) 16
  (fld w 0 8, fld w 8 32, fld w 40 16, fld w 64 32)

/-- A member passes the marks that stand before transfer `n` (R146): the first that stops it. -/
def State.passMarks (s : State) (c : Fin 8) (e : EdgeDesc) (y : Member) (n : Nat) : Member × Option MemberStop :=
  (List.range e.markCount).foldl (fun (r : Member × Option MemberStop) k =>
    match r.2 with
    | some _ => r
    | none =>
      let (kind, before, target, count) := (s.ctx c).mark e k
      if before ≠ n ∨ r.1.passed.has k then r
      else if kind = 0 then
        if s.doneOf c (target % 4) (target / 4) < count then
          (r.1, some (.waitMark (finOf 4 (target % 4)) (target / 4)))
        else ({ r.1 with passed := r.1.passed.add k }, none)
      else if (s.ctx c).released.has target then ({ r.1 with passed := r.1.passed.add k }, none)
      else (r.1, some (.phaseMark target))) (y, none)

/-- A PHASE mark was passed between two records of a member, which advances it (R431). -/
def State.passedPhase (s : State) (c : Fin 8) (e : EdgeDesc) (a b : Member) : Bool :=
  b.passed.any fun k => !a.passed.has k && ((s.ctx c).mark e k).1 != 0

/-! ### The status of a transfer -/

/-- Status word (R233). -/
def statusWord (code piece : Nat) : Word := BitVec.ofNat 32 (code + (min piece 3) * 2 ^ 8)

/-- An error entry of the step's replay record (R238). -/
def State.errEntry (s : State) (c : Fin 8) (side stream m seq piece code : Nat) : State :=
  s.modCtx c fun x => { x with errs := x.errs ++ [⟨finOf 4 side, code, stream, m, seq, piece⟩] }

/-- The code a replayed step ends this piece with (R426). -/
def Ctx.forcedCode (x : Ctx) (side stream m seq piece : Nat) : Option Nat :=
  x.replay.bind fun r => (r.errs.find? fun e =>
    e.side.1 == side && e.stream == stream && e.mem == m && e.seq == seq && e.piece == piece).map (·.code)

/-- An inbound transfer fails at a piece (R233, R234): the rest reads as zero, and reading is over. -/
def Xfer.fail (t : Xfer) (code pieces : Nat) : Xfer :=
  { t with code := code, failPiece := t.piece, piece := pieces }

/-! ### Inbound members -/

/-- What a read of a piece comes to. -/
inductive PieceRead where
  | done (bytes : List Byte)
  | stop (r : MemberStop)
  | fail (code a : Nat)
  deriving DecidableEq, Repr

/-- The lines at addresses of the deep range, in order, or what stops them (R222, R229, R236). -/
def State.readLines (c : Fin 8) (q : Scroll) (r : Option (Fin 48)) : List Nat → List Byte → State → PieceRead × State
  | [], bs, s => (.done bs, s)
  | a :: rest, bs, s =>
    match s.touchRead c q r a with
    | (.ok, s) => State.readLines c q r rest (bs ++ Memory.readBytes (s.ctx c).mem a 64) s
    | (.stop k, s) => (.stop k, s)
    | (.fail code, s) => (.fail code a, s)

/-- The lines at weight addresses (R247 to R249). -/
def State.readWeights (c : Fin 8) (q : Scroll) : List Nat → List Byte → State → PieceRead × State
  | [], bs, s => (.done bs, s)
  | a :: rest, bs, s =>
    match q.layout? (fld a 36 16) with
    | none => (.stop (.source (fld a 36 16) 0), s)
    | some l =>
      let off := fld a 0 35
      match s.touchUnit c q l (bitAt a 35) (off / 65536) with
      | (some r, s) => (.stop r, s)
      | (none, s) =>
        let b := (s.ctx c).units.find? fun u => u.tensor == l.tensor && u.view == bitAt a 35 && u.unit == off / 65536
        State.readWeights c q rest (bs ++ Memory.readBytes ((b.bind (·.bytes)).getD []) (off % 65536) 64) s

/-- The oldest transfers of an inbound member enter the mesh against credits of the tile (R128, R138, R230), by the edge
port and channel that lead to its tile (R25, R132); without such a channel they stay in the edge ring (log 9). A piece
delivered to the mesh advances a member of KIND 2 (R431). Which lane a packet takes at an edge port's input the spec does not
say: lane 0. DESIGN CHOICE, log 9. -/
def State.feed (c : Fin 8) (side : Fin 4) (stream m : Nat) : Nat → State → State
  | 0, s => s
  | fuel + 1, s =>
    let e := s.edgeOf c side.1 stream
    let y := (s.ctx c).member side.1 stream m
    let total := (e.lines + 63) / 64
    match (e.memberTile m).bind fun t => (s.edgeEntry c side t).map fun z => (t, z), y.staged.head?.or y.cur with
    | some (t, at_, ch), some x =>
      if !x.credited && y.credits == 0 then s
      else if x.credited && x.sent == x.piece then s
      else
        let hdr : Packet := { ch := BitVec.ofNat 5 ch, ctx := c, gen := (s.ctx c).gen, str := finOf 32 e.str, lines := 0, last := false,
                              seq := BitVec.ofNat 16 x.seq, loff := 0, zmask := 0, srcX := BitVec.ofNat 10 (tileX at_),
                              srcY := BitVec.ofNat 10 (tileY at_), payload := [] }
        let ps := (packets hdr e.lines e.zskip (Memory.readBytes x.bytes 0 (64 * e.lines))).filter fun p =>
          decide (64 * x.sent ≤ p.loff.toNat) && decide (p.loff.toNat < 64 * x.piece)
        let s := { s with mesh := s.mesh ++ ps.map (InFlight.mk at_ (finOf 7 side.1) 0) }
        let x' := { x with sent := x.piece, credited := true }
        let whole := x'.sent == total
        let s := s.modMember c side.1 stream m fun y =>
          let y := if x.credited then y else { y with credits := y.credits - 1 }
          let y := { y with advanced := y.advanced || e.kind == 2, sentDown := y.sentDown + bit whole }
          match y.staged with
          | _ :: rest => { y with staged := if whole then rest else x' :: rest }
          | [] => { y with cur := if whole then none else some x' }
        if whole then
          let s := s.modStr t (finOf 32 e.str) fun z => { z with posts := z.posts.map fun p =>
            if p.seq = x.seq then { p with status := statusWord x.code x.failPiece } else p }
          State.feed c side stream m fuel s
        else s
    | _, _ => s

/-- The member's tile string's outstanding limit. -/
def State.tileOutst (s : State) (e : EdgeDesc) (m : Nat) : Nat :=
  match e.memberTile m with
  | some t => (s.tile t).strs[finOf 32 e.str].outst
  | none => 8

/-- A whole inbound transfer has been read or has failed: the next may start (R146). -/
def Member.readDone (y : Member) (x : Xfer) : Member :=
  { y with cur := none, staged := y.staged ++ [x], next := y.next + 1, stop := .none }

/-- The pages, or the cache units, of the transfers that a member's run-ahead reaches are asked for: of the transfer it has
started, for weights, and up to PREFETCH beyond the last delivered one, for the deep range, as far as marks and the span let
it run (R231, R249): none while it stands at a mark or at the end of its span. -/
def State.lookAhead (s : State) (c : Fin 8) (q : Scroll) (side : Fin 4) (stream m : Nat) (e : EdgeDesc) : State :=
  let y := (s.ctx c).member side.1 stream m
  let seq := (y.cur.map (·.seq)).getD y.next
  let limit := if e.kind = 1 then seq + 1 else y.sentDown + e.prefetch
  let started := y.cur.isSome || (!y.atEnd e && (s.passMarks c e y seq).2.isNone)
  let open_ := fun (n : Nat) => started && (n == seq || (
    !(e.persist && y.spanOf e != 0 && decide (y.spanStart + y.spanOf e ≤ n)) &&
    (List.range (n - seq)).all fun i => (s.passMarks c e y (seq + i + 1)).2.isNone))
  let addrs := ((List.range (limit - seq)).filter fun i => open_ (seq + i)).flatMap fun i =>
    (List.range e.lines).map fun j => e.lineAddr (y.baseOf e m) (seq + i - y.spanStart) j
  if e.kind = 1 then
    ((addrs.map fun a => (fld a 36 16, bitAt a 35, fld a 0 35 / 65536)).eraseDups).foldl (fun (s : State) u =>
      match q.layout? u.1 with
      | some l => (s.touchUnit c q l u.2.1 u.2.2).2
      | none => s) s
  else if e.kind = 2 then
    ((addrs.map pageOf).eraseDups).foldl (fun (s : State) p =>
      let g := (s.ctx c).page q p
      match q.reach (p * 2 ^ 21) ((e.memberTile m).map regionOf) with
      | some k =>
        if !g.poison && (g.state == .remote || (g.state == .unbacked && k.init == 1)) then (s.startFetch c q k p).2 else s
      | none => s) s
  else s

/-- The pieces of the transfer that a member reads, from its next one (R230, R234). A request ends with an error only when
a piece touches the page (R231): a transfer read ahead of the one to be delivered next waits with its failing piece, and
with code STACK if that is what it met (R236). -/
def State.readPieces (c : Fin 8) (q : Scroll) (side : Fin 4) (stream m : Nat) (e : EdgeDesc) : Nat → State → State
  | 0, s => s
  | fuel + 1, s =>
    let y := (s.ctx c).member side.1 stream m
    let total := (e.lines + 63) / 64
    match y.cur with
    | none => s
    | some x =>
      if total ≤ x.piece then
        (s.modMember c side.1 stream m fun y => y.readDone x).modCtx c fun k => if e.kind = 1 then k.releaseUnits q else k
      else
        let addrs := (pieceLines e.lines x.piece).map fun i => e.lineAddr (y.baseOf e m) (x.seq - y.spanStart) i
        let region := (e.memberTile m).map regionOf
        let r := match (s.ctx c).forcedCode side.1 stream m x.seq x.piece with
          | some k => if k = 8 then State.readLines c q region addrs [] s else (PieceRead.fail k (addrs.headD 0), s)
          | none => if x.code = 4 then
              (PieceRead.fail 4 ((addrs.find? fun a => (s.ctx c).badLines.has (a / 64)).getD (addrs.headD 0)), s)
            else if e.kind = 1 then State.readWeights c q addrs [] s else State.readLines c q region addrs [] s
        match r with
        | (.done bs, s) =>
          let s := s.modMember c side.1 stream m fun y => { y with
            stop := .none
            cur := some { x with bytes := Memory.writeBytes x.bytes (4096 * x.piece) bs, piece := x.piece + 1 } }
          let s := if e.kind = 1 then
              s.modCtx c fun k => addrs.foldl (fun (k : Ctx) a => match q.layout? (fld a 36 16) with
                | some l => k.touched l (bitAt a 35) (fld a 0 35 / 65536) (stream, m, x.seq)
                | none => k) k
            else s
          State.readPieces c q side stream m e fuel s
        | (.stop k, s) => s.modMember c side.1 stream m fun y => { y with stop := k }
        | (.fail code a, s) =>
          if y.sentDown < x.seq then
            s.modMember c side.1 stream m fun y => { y with stop := .ahead, cur := some (if code = 4 then { x with code := 4 } else x) }
          else
          let s := (s.memError c code a ((s.ctx c).page q (pageOf a)).stack.1).errEntry c side.1 stream m x.seq x.piece code
          State.readPieces c q side stream m e fuel
            (s.modMember c side.1 stream m fun y => { y with cur := some (x.fail code total) })

/-- An inbound member goes on (R146, R230): marks, prefetch, then its transfer. -/
def State.goInbound (s : State) (c : Fin 8) (q : Scroll) (side : Fin 4) (stream m : Nat) (e : EdgeDesc) : State :=
  let y := ((s.ctx c).member side.1 stream m).takeArm e
  let s := s.modMember c side.1 stream m fun _ => y
  let halt := fun (s : State) (k : MemberStop) => s.modMember c side.1 stream m fun y => { y with stop := k }
  let s :=
    if y.cur.isSome then State.readPieces c q side stream m e 8 s
    else if y.atEnd e then halt s .unarmed
    else
      let (y', stop) := s.passMarks c e y y.next
      let s := s.modMember c side.1 stream m fun _ => { y' with advanced := y'.advanced || s.passedPhase c e y y' }
      match stop with
      | some k => halt s k
      | none =>
        if y.sentDown + e.prefetch ≤ y.next then halt s .ahead
        else if e.kind = 3 then
          match y.arrived with
          | [] => halt s .fabric
          | x :: rest => s.modMember c side.1 stream m fun y => ({ y with arrived := rest }).readDone x
        else
          let s := s.modMember c side.1 stream m fun y => { y with cur := some { seq := y.next }, stop := .none }
          State.readPieces c q side stream m e 8 (if e.kind = 1 then s.lookAhead c q side stream m e else s)
  let s := if e.kind = 2 then s.lookAhead c q side stream m e else s
  State.feed c side stream m 66 s

/-! ### Outbound members -/

/-- The fabric entry of a stream: role and peer (R307). -/
def Scroll.fabricOf (q : Scroll) (side stream : Nat) : Option (Nat × Nat) :=
  (q.fabric.find? fun e => e.1 == side && e.2.1 == stream).map fun e => e.2.2

/-- A REDUCE entry names this stream (R196). Its transfers go to reduction, whatever its KIND. DEDUCED, log 21. -/
def Scroll.reduceStream (q : Scroll) (side stream : Nat) : Bool :=
  q.targets.any fun t => !t.wide && t.side == side && t.stream == stream

/-- Lines of a transfer that could not be written are poisoned, each with its record (R235, R238): those mapped for the
member's region, in segments that are not read-only. -/
def State.poisonLines (s : State) (c : Fin 8) (q : Scroll) (r : Option (Fin 48)) (side stream m seq : Nat)
    (addrs : List (Nat × Nat)) : State :=
  (addrs.filter fun e => (q.reach e.2 r).any fun g => !g.shared).foldl (fun (s : State) e =>
    let s := s.modCtx c fun x => x.poisonLine q e.2
    (s.memError c 8 e.2 0).errEntry c side stream m seq (e.1 / 64) 8) s

/-- What writing lines comes to. -/
inductive PieceWrite where
  | done
  | stop (r : MemberStop)
  | fail (code a : Nat)
  | accFail (a : Nat)
  deriving DecidableEq, Repr

/-- Every page of the lines is ready for a write (R216, R411), or what is in the way. -/
def State.readyLines (c : Fin 8) (q : Scroll) (r : Option (Fin 48)) : List Nat → State → PieceWrite × State
  | [], s => (.done, s)
  | a :: rest, s =>
    let acc := (q.wideOf a).isSome
    match s.touchWrite c q r a with
    | (.ok, s) => if acc && s.accFails c q a then (.accFail a, s) else State.readyLines c q r rest s
    | (.stop k, s) => (.stop k, s)
    | (.fail code, s) => if acc && code == 4 then (.accFail a, s) else (.fail code a, s)

/-- The pieces of the transfer that a member writes to the deep range, from its next one (R205, R230, R235). -/
def State.writePieces (c : Fin 8) (q : Scroll) (side : Fin 4) (stream m : Nat) (e : EdgeDesc) : Nat → State → State
  | 0, s => s
  | fuel + 1, s =>
    let y := (s.ctx c).member side.1 stream m
    match y.cur with
    | none => s
    | some x =>
      let over_ := fun (s : State) => s.modMember c side.1 stream m fun y => { y with cur := none, next := y.next + 1, stop := .none }
      if (e.lines + 63) / 64 ≤ x.piece then over_ s
      else
        let addr := fun i => e.lineAddr (y.baseOf e m) (x.seq - y.spanStart) i
        let ls := pieceLines e.lines x.piece
        let region := (e.memberTile m).map regionOf
        let inplace := e.inplace || (e.memberTile m).any fun t => (s.tile t).strs[finOf 32 e.str].inplace
        let rest := ((List.range e.lines).filter fun i => decide (64 * x.piece ≤ i)).map fun i => (i, addr i)
        let r := match (s.ctx c).forcedCode side.1 stream m x.seq x.piece with
          | some k => (PieceWrite.fail k (addr (64 * x.piece)), s)
          | none => State.readyLines c q region (ls.map addr) s
        match r with
        | (.done, s) =>
          let s := ls.foldl (fun (s : State) i =>
            let s := (s.backInvalidate c (addr i) 64).modCtx c fun k => k.storeLine q (addr i) (Memory.readBytes x.bytes (64 * i) 64)
            if (q.wideOf (addr i)).isSome then s.countMod Reg.accLines 1 else s) s
          let s := s.modCtx c fun k => { k with committed := k.committed || inplace }
          State.writePieces c q side stream m e fuel (s.modMember c side.1 stream m fun y => { y with
            advanced := true, stop := .none, cur := some { x with piece := x.piece + 1 } })
        | (.stop k, s) =>
          let s := match k, y.stop with
            | .homeArea _, .homeArea _ => s
            | .homeArea _, _ => s.count Reg.ckpCounts 16 16 1
            | _, _ => s
          s.modMember c side.1 stream m fun y => { y with stop := k }
        | (.fail code a, s) =>
          let s := if code = 7 ∨ code = 1 then (s.memError c code a 0).errEntry c side.1 stream m x.seq x.piece code else s
          over_ (if code = 7 then s else s.poisonLines c q region side.1 stream m x.seq rest)
        | (.accFail a, s) => s.accFail c q a

/-- Destinations of an outbound fabric stream: its peer, or the update targets (R295, R307). -/
def Scroll.dests (q : Scroll) (peer : Nat) : List Half := if peer = 0xFFFF then q.updates else [BitVec.ofNat 16 peer]

/-- The DATA frames of a transfer (R308), beyond `sentEnd` (R123). -/
def State.sendData (s : State) (c : Fin 8) (q : Scroll) (side : Fin 4) (stream m seq : Nat) (e : EdgeDesc) (bs : Mem) :
    State :=
  match q.fabricOf side.1 stream with
  | none => s
  | some (role, peer) =>
    let T := 64 * e.lines
    let y := (s.ctx c).member side.1 stream m
    (List.range ((T + 4095) / 4096)).foldl (fun (s : State) i =>
      let off := seq * T + 4096 * i
      let len := min 4096 (T - 4096 * i)
      let lo := max off y.sentEnd
      let pay := Memory.readBytes bs (lo - seq * T) (off + len - lo)
      if s.solo c then s
      else if off + len ≤ y.sentEnd then s
      else
        (q.dests peer).foldl (fun (s : State) d =>
          s.enqueue (s.rolePort role side.1 e.fstream)
            (s.frame 0x01 4 d 0 0 e.fstream (m % 2 ^ 20 * 2 ^ 44 + lo % 2 ^ 44) (decide (4096 * i + len = T)) pay)
            (some (e.fstream, 4, m)) (some c)) s) s

/-- The digest of a fabric stream's payloads (R424). -/
def Ctx.foldStream (x : Ctx) (fstream : Nat) (out : Bool) (off : Nat) (pay : List Byte) : Ctx :=
  let k := 2 * fstream + bit out
  { x with strDigests := x.strDigests.set k ((x.strDigests.getD k 0) ^^^ crc64 (leBytes 8 off ++ pay)) }

/-- An outbound member goes on (R146, R230): marks, then its transfer, once the tile's send has arrived whole. -/
def State.goOutbound (s : State) (c : Fin 8) (q : Scroll) (side : Fin 4) (stream m : Nat) (e : EdgeDesc) : State :=
  let y := ((s.ctx c).member side.1 stream m).takeArm e
  let s := s.modMember c side.1 stream m fun _ => y
  let halt := fun (s : State) (k : MemberStop) => s.modMember c side.1 stream m fun y => { y with stop := k }
  if y.cur.isSome then State.writePieces c q side stream m e 8 s
  else if y.atEnd e then halt s .unarmed
  else
    let (y', stop) := s.passMarks c e y y.next
    let s := s.modMember c side.1 stream m fun _ => { y' with advanced := y'.advanced || s.passedPhase c e y y' }
    match stop with
    | some k => halt s k
    | none =>
      match y.staged.find? fun x => x.seq == y.next && x.got.length == e.lines with
      | none => halt s .noSend
      | some x =>
        match if q.reduceStream side.1 stream then s.sliceWaits c q side.1 stream x.seq m else none with
        | some (p, s) => halt s (.fetch p)
        | none =>
        let s := s.modMember c side.1 stream m fun y => { y with staged := y.staged.filter fun z => z.seq != x.seq }
        if e.kind = 2 ∧ !q.reduceStream side.1 stream then
          State.writePieces c q side stream m e 8
            (s.modMember c side.1 stream m fun y => { y with cur := some { x with piece := 0 }, stop := .none })
        else
          let s := if q.reduceStream side.1 stream then s.sliceIn c q side.1 stream x.seq m x.bytes
            else
              let T := 64 * e.lines
              let s := s.sendData c q side stream m x.seq e x.bytes
              s.modCtx c fun k => (List.range ((T + 4095) / 4096)).foldl (fun (k : Ctx) i =>
                k.foldStream e.fstream true (x.seq * T + 4096 * i)
                  (Memory.readBytes x.bytes (4096 * i) (min 4096 (T - 4096 * i)))) k
          s.modMember c side.1 stream m fun y => { y with next := y.next + 1, stop := .none
                                                          queuedEnd := (x.seq + 1) * 64 * e.lines }

/-- May the context's edge streams start anything (R338, R339, R436)? -/
def State.edgeRuns (s : State) (c : Fin 8) : Bool :=
  let x := s.ctx c
  x.inStep && x.state == .running && !x.rerunning && !s.hng.running && s.power == .active

/-- MEMBER_TRANSFER_START (R146, R230): the member passes what marks it can and starts or resumes its next transfer. -/
def execMemberTransferStart (side : Fin 4) (stream : Fin 16384) (m : Nat) (s : State) :
    Host.Outcome State Fault Refusal :=
  act (fun s =>
    match s.edgeCtx side.1 stream.1 with
    | none => s
    | some c =>
      match s.scroll? c with
      | none => s
      | some q =>
        let e := s.edgeOf c side.1 stream.1
        if e.members ≤ m ∨ !s.edgeRuns c ∨ s.clkLost.getLsbD (32 + side.1) then s
        else if e.outbound then s.goOutbound c q side stream.1 m e
        else s.goInbound c q side stream.1 m e) s

/-! ### Completion (R145) -/

/-- Frames of a member's transfers below `end_` have left every port (R145, KIND 3). -/
def State.framesGone (s : State) (c : Fin 8) (fstream m end_ : Nat) : Bool :=
  !((fins 64).any fun p => (s.ports[p]).queue.any fun f =>
    f.ctx == some c && f.key == some (fstream, 4, m) && decide (fld f.frame.offset.toNat 0 44 < end_))

/-- Credits for `n` transfers of each member of a DATA stream granted to the sender, so that it never holds credits for more
than `outst` transfers (R141, R306): member, `n` and `outst`. -/
def State.grantTransfers (s : State) (p : Option (Fin 64)) (c : Fin 8) (peer : Half) (e : EdgeDesc) (ms : List (Nat × Nat × Nat)) :
    State :=
  let per := (64 * e.lines + 4095) / 4096
  s.grant p c peer ((ms.map fun (m, n, outst) =>
    let k := (e.fstream, 4, m)
    (k, min (n * per) (outst * per - s.outstanding c peer k))).filter fun g => g.2 != 0)

/-- Credits for `n` transfers of an inbound fabric member granted to its peer (R306). -/
def State.grantData (s : State) (c : Fin 8) (q : Scroll) (side : Nat) (stream : Nat) (ms : List (Nat × Nat)) : State :=
  let e := s.edgeOf c side stream
  match q.fabricOf side stream with
  | none => s
  | some (role, peer) =>
    s.grantTransfers (s.rolePort role side e.fstream) c (BitVec.ofNat 16 peer) e (ms.map fun (m, n) => (m, n, s.tileOutst e m))

/-- The update streams of a scroll (R295, R307). -/
def Scroll.updateStreams (q : Scroll) : List EdgeDesc :=
  (q.fabric.filter fun e => e.2.2.2 == 0xFFFF && (q.edge e.1 e.2.1 |> EdgeDesc.mk).outbound).map fun e => ⟨q.edge e.1 e.2.1⟩

/-- Credits granted to the partner for members of its update streams, a number of transfers each, as an inbound member with
OUTST 8 would (R307). The scroll describes no stream of the partner's: its update streams are taken to be like our own, and
their credits leave by the CKPT port. DEDUCED, log 24. -/
def State.partnerCredits (s : State) (c : Fin 8) (q : Scroll) (ms : List (EdgeDesc × Nat × Nat)) : State :=
  if q.partner = 0xFFFF then s
  else
    let port := ((fins 64).find? fun p => s.role p == 3 && s.ports[p].state == .up).or ((fins 64).find? fun p => s.role p == 3)
    ms.foldl (fun (s : State) (e, m, n) => s.grantTransfers port c q.partner e [(m, n, 8)]) s

/-- The oldest posted transfer of a tile string that is whole completes (R140, R145, R150). -/
def State.stringComplete (s : State) (t : TileId) (n : Fin 32) : State :=
  let z := (s.tile t).strs[n]
  match z.posts.find? fun p => !p.done with
  | none => s
  | some p =>
    if p.got.length ≠ z.lines then s
    else
      let s := s.modTile t fun x =>
        let x := { x with advanced := true, strs := vmod x.strs n fun z => { z with
          posts := match p.chain with
            | some _ => z.posts.filter fun r => r.seq != p.seq
            | none => z.posts.map fun r => if r.seq = p.seq then { r with done := true } else r } }
        match p.chain with
        | some g => x.chainStep g
        | none => x
      let s := s.wake t
      if z.kind = 0 then s
      else
        match s.ctxOf t with
        | none => s
        | some c =>
          let e := s.edgeOf c z.side.1 z.stream
          match e.memberOf t with
          | none => s
          | some m =>
            let s := s.modMember c z.side.1 z.stream m fun y => { y with done := y.done + 1, advanced := true }
            let s := match s.scroll? c with
              | some q => if e.kind = 3 then s.grantData c q z.side.1 z.stream [(m, 1)] else s
              | none => s
            (s.releasePhases c).prepass c

/-- A member of an outbound stream completes its oldest written transfer (R145): its tile has a credit again (R139). -/
def State.memberComplete (s : State) (side : Fin 4) (stream m : Nat) : State :=
  match s.edgeCtx side.1 stream with
  | none => s
  | some c =>
    let e := s.edgeOf c side.1 stream
    let y := (s.ctx c).member side.1 stream m
    if !e.outbound ∨ y.next ≤ y.done ∨ (e.kind = 3 ∧ !s.framesGone c e.fstream m ((y.done + 1) * 64 * e.lines)) then s
    else
      let s := s.modMember c side.1 stream m fun y => { y with done := y.done + 1, advanced := true }
      let s := match e.memberTile m with
        | some t => (s.modStr t (finOf 32 e.str) fun z => { z with credits := z.credits + 1 }).wake t
        | none => s
      (s.releasePhases c).prepass c

/-- TRANSFER_COMPLETE (R145). -/
def execTransferComplete (x : XferEnd) (s : State) : Host.Outcome State Fault Refusal :=
  act (fun s => match x with
    | .str t n => if s.unitsRun t then s.stringComplete t n else s
    | .mem side stream m => s.memberComplete side stream.1 m) s

/-! ### DATA (R308) -/

/-- Bytes [a, b) of a transfer are missing (R308): their lines are bad, and the first fault gives the code. -/
def Xfer.miss (x : Xfer) (T a b code : Nat) : Xfer :=
  if b ≤ a then x
  else
    { x with
      bad := (List.range ((b - 1 - x.seq * T) / 64 + 1 - (a - x.seq * T) / 64)).foldl
        (fun (g : NatSet) i => g.add ((a - x.seq * T) / 64 + i)) x.bad
      code := if x.code = 0 then code else x.code }

/-- A fabric transfer is whole (R308): bad lines are zero; a non-zero code sets FAB_CAUSE.DATA_ERR, counts, and enters the
replay record, and PIECE is 0 where no piece failed (R233). A SPLIT without a missing line names the last piece (log 21). -/
def State.fabricWhole (s : State) (c : Fin 8) (side stream m : Nat) (x : Xfer) (T : Nat) : State :=
  let forced := (List.range ((T + 4095) / 4096)).findSome? fun p => ((s.ctx c).forcedCode side stream m x.seq p).map fun k => (k, p)
  let piece := match x.bad.head? with
    | some i => i / 64
    | none => if x.code = 0 then 0 else (T - 1) / 4096
  let bytes := x.bad.foldl (fun (b : Mem) i => Memory.clear b (64 * i) 64) x.bytes
  -- in a replayed step what its record says governs, whatever has come (R426)
  let (code, piece, bytes) := match forced with
    | some (k, p) => (k, p, Memory.clear bytes (4096 * p) (T - 4096 * p))
    | none => (x.code, piece, bytes)
  let s := if code ≠ 0 then
      ((s.cause Reg.fabCause 8).count Reg.memErrCount 0 32 1).errEntry c side stream m x.seq piece code
    else s
  s.modMember c side stream m fun y => { y with
    asm := none
    arrived := y.arrived ++ [{ seq := x.seq, bytes := bytes, piece := (T + 4095) / 4096, code := code, failPiece := piece }]
    expected := (x.seq + 1) * T }

/-- The transfers a gap covers whole complete with GAP (R308). `fuel` bounds them. -/
def State.skipTo (c : Fin 8) (side stream m T off : Nat) : Nat → State → State
  | 0, s => s
  | fuel + 1, s =>
    let y := (s.ctx c).member side stream m
    let seq := y.expected / T
    let x := y.asm.getD { seq := seq }
    if (seq + 1) * T ≤ off then
      State.skipTo c side stream m T off fuel (s.fabricWhole c side stream m (x.miss T y.expected ((seq + 1) * T) 11) T)
    else if y.expected < off then
      s.modMember c side stream m fun y => { y with asm := some (x.miss T y.expected off 11), expected := off }
    else s

/-- A DATA frame placed by its offset (R308). -/
def State.placeData (s : State) (c : Fin 8) (side stream m : Nat) (e : EdgeDesc) (off : Nat) (pay : List Byte)
    (fin : Bool) : State :=
  let T := 64 * e.lines
  let y := (s.ctx c).member side stream m
  let s := State.skipTo c side stream m T off (off / T + 1 - y.expected / T) s
  let seq := off / T
  let y := (s.ctx c).member side stream m
  let x := y.asm.getD { seq := seq }
  let end_ := (seq + 1) * T
  let keep := pay.take (end_ - off)
  let x := { x with bytes := Memory.writeBytes x.bytes (off - seq * T) keep }
  let next := off + keep.length
  if keep.length < pay.length then s.fabricWhole c side stream m { x with code := if x.code = 0 then 10 else x.code } T
  else if next = end_ then s.fabricWhole c side stream m x T
  else if fin then s.fabricWhole c side stream m (x.miss T next end_ 9) T
  else s.modMember c side stream m fun y => { y with asm := some x, expected := next }

/-- DATA (R307, R308). -/
def execData (p : Fin 64) (f : Frame) (s : State) : Host.Outcome State Fault Refusal :=
  actIf f.wf (fun s => s.arrive p { f with type := 0x01 } fun s =>
    -- frames that come between the stop and the restart of a rerun are placed; the restart keeps what streams of committing
    -- roles have placed. DESIGN CHOICE, log 27
    let c := finOf 8 f.context.toNat
    let m := fld f.offset.toNat 44 20
    let off := fld f.offset.toNat 0 44
    match s.scroll? c with
    | none => s
    | some q =>
      let here := q.fabric.find? fun e =>
        let d := s.edgeOf c e.1 e.2.1
        d.valid && !d.outbound && d.kind == 3 && d.fstream == f.stream.toNat && e.2.2.2 == f.source.toNat
      match here with
      | none =>
        -- R414: a partner's update record is folded into this step's digest and discarded
        if f.source == q.partner then
          let s := s.modCtx c fun x => { x with
            ckpt := { x.ckpt with area := { x.ckpt.area with
              update := x.ckpt.area.update ^^^ crc64 (leBytes 8 f.offset.toNat ++ f.payload) } } }
          let s := s.consumed c f.source (f.stream.toNat, 4, m)
          match q.updateStreams.find? fun e => e.fstream == f.stream.toNat with
          | some e => if f.isEnd then s.partnerCredits c q [(e, m, 1)] else s
          | none => s
        else s.countGen
      | some (side, stream, role, _) =>
        let e := s.edgeOf c side stream
        if e.members ≤ m ∨ off < ((s.ctx c).member side stream m).expected then s.countGen
        else
          let s := (s.consumed c f.source (e.fstream, 4, m)).modCtx c fun x => { x.foldStream e.fstream false off f.payload with
            committed := x.committed || role != 1 }
          s.placeData c side stream m e off f.payload f.isEnd) s

/-! ### Page fetches (R223, R234) -/

/-- The request of a member stopped on a page ends with a code (R223, R234, R235); one read ahead of the transfer to be
delivered next has touched nothing yet, and goes on (R231). -/
def State.endRequest (s : State) (c : Fin 8) (q : Scroll) (side : Fin 4) (stream m page code : Nat) : State :=
  let e := s.edgeOf c side.1 stream
  let y := (s.ctx c).member side.1 stream m
  match y.cur with
  | none => s
  | some x =>
    let addr := fun i => e.lineAddr (y.baseOf e m) (x.seq - y.spanStart) i
    if e.outbound then
      let rest := ((List.range e.lines).filter fun i => decide (64 * x.piece ≤ i)).map fun i => (i, addr i)
      (s.poisonLines c q ((e.memberTile m).map regionOf) side.1 stream m x.seq rest).modMember c side.1 stream m fun y =>
        { y with cur := none, next := y.next + 1, stop := .none }
    else if y.sentDown < x.seq then
      if code = 3 then s else s.modMember c side.1 stream m fun y => { y with stop := .ahead }
    else
      let s := (s.memError c code (page * 2 ^ 21) ((s.ctx c).page q page).stack.1).errEntry c side.1 stream m x.seq x.piece code
      let x := x.fail code ((e.lines + 63) / 64)
      State.feed c side stream m 66 (s.modMember c side.1 stream m fun y => y.readDone x)

/-- Every member stopped on the page's fetch ends its request with a code. -/
def State.endWaiting (s : State) (c : Fin 8) (q : Scroll) (page code : Nat) : State :=
  (s.ctx c).members.foldl (fun (s : State) st =>
    st.2.foldl (fun (s : State) m =>
      if m.2.stop = .fetch page then s.endRequest c q (finOf 4 (st.1 / 16384)) (st.1 % 16384) m.1 page code else s) s) s

/-- A fetch from the current source failed (R223): the alternate, or poison and code REMOTE. A PINNED page of a load that
fails is dealt with by the load (R366). -/
def State.fetchFailed (s : State) (c : Fin 8) (q : Scroll) (page : Nat) : State :=
  match (s.ctx c).fetches.get? page, q.segOf page with
  | some f, some g =>
    if f.source.1 + 1 < g.sources.length then
      let s := s.modCtx c fun x => { x with fetches := x.fetches.set page { f with source := 1, bytes := [], next := 0 } }
      s.requestPage c q page 1
    else
      let s := s.modCtx c fun x =>
        { (x.dropFrame q page).modPage q page (fun y => { y with poison := true }) with fetches := x.fetches.erase page }
      (s.endWaiting c q page 2).background c
  | _, _ => s

/-- The page of a context whose fetch a frame answers, from the source in use (R223). -/
def Ctx.fetchOf (x : Ctx) (q : Scroll) (f : Frame) : Option (Nat × Fetch) :=
  x.fetches.find? fun e => match q.segOf e.1 with
    | some g => g.remote e.1 == f.offset.toNat / 2 ^ 21 && g.sources[e.2.source.1]? == some f.source.toNat
    | none => false

/-- The fetch that the END frame of a whole page answers: its offset names the byte after the page. -/
def Ctx.fetchEnd (x : Ctx) (q : Scroll) (f : Frame) : Option (Nat × Fetch) :=
  x.fetches.find? fun e => match q.segOf e.1 with
    | some g => (g.remote e.1 == f.offset.toNat / 2 ^ 21 || g.remote e.1 + 1 == f.offset.toNat / 2 ^ 21)
        && g.sources[e.2.source.1]? == some f.source.toNat
    | none => false

/-- PAGE_DATA (R223): page bytes in order; END carries the CRC-64 of the whole page. -/
def execPageData (p : Fin 64) (f : Frame) (s : State) : Host.Outcome State Fault Refusal :=
  actIf f.wf (fun s => s.arrive p { f with type := 0x21 } fun s =>
    let c := finOf 8 f.context.toNat
    match s.scroll? c with
    | none => s
    | some q =>
      match if f.isEnd then (s.ctx c).fetchEnd q f else (s.ctx c).fetchOf q f with
      | none => s
      | some (page, t) =>
        if !f.isEnd then
          if f.offset.toNat % 2 ^ 21 ≠ t.next then s.fetchFailed c q page
          else s.modCtx c fun x => { x with fetches := x.fetches.set page { t with
            bytes := Memory.writeBytes t.bytes t.next f.payload, next := t.next + f.payload.length } }
        else if s.stackLost ((s.ctx c).page q page).stack then
          -- the frame's stack has lost its PHY's lock: requests for it end with an error (R32). DEDUCED, log 19
          let s := s.modCtx c fun x => { x.dropFrame q page with fetches := x.fetches.erase page }
          (s.endWaiting c q page 4).background c
        else if t.next = 2 ^ 21 ∧ (crc64 (Memory.readBytes t.bytes 0 (2 ^ 21))).toNat = leAt f.payload 0 8 then
          let s := (s.backInvalidate c (page * 2 ^ 21) (2 ^ 21)).modCtx c fun x =>
            let x := x.modPage q page fun y => { y with state := .resident, poison := false, dirty := 0 }
            { x with mem := Memory.copy x.mem t.bytes (page * 2 ^ 21) 0 (2 ^ 21), fetches := x.fetches.erase page }
          (s.countMod Reg.memMigIn 1).background c
        else s.fetchFailed c q page) s

/-- PAGE_ERR (R223). -/
def execPageErr (p : Fin 64) (f : Frame) (s : State) : Host.Outcome State Fault Refusal :=
  actIf f.wf (fun s => s.arrive p { f with type := 0x22 } fun s =>
    let c := finOf 8 f.context.toNat
    match s.scroll? c with
    | none => s
    | some q =>
      match (s.ctx c).fetchOf q f with
      | some (page, _) => s.fetchFailed c q page
      | none => s) s

/-- REMOTE_FETCH_DEADLINE (R234): requests that wait on the page end with LATE, unless DEADLINE is 0 or a replay governs
(R426); the fetch goes on. -/
def execRemoteFetchDeadline (c : Fin 8) (page : Nat) (s : State) : Host.Outcome State Fault Refusal :=
  act (fun s =>
    match s.scroll? c with
    | none => s
    | some q =>
      if s.rfld Reg.memCtrl 0 14 = 0 ∨ (s.ctx c).replay.isSome ∨ ((s.ctx c).fetches.get? page).isNone then s
      else s.endWaiting c q page 3) s

end Sys2Proof.Machine
end

