-- ==== Sys2Proof/Machine/Rings.lean ====
section
/-! DEFINITION. Ring commands as the engine holds them (R327, R328): their fields, completion records, and the commands
of a context that others complete. -/

namespace Sys2Proof
open Machine

/-- OPCODE, FLAGS, COOKIE, COUNTER, TAG of an entry, and a parameter at offset `a` of PARAMS (R327, R332). -/
def RawEntry.opcode (e : RawEntry) : Nat := leAt e.bytes 0 1
def RawEntry.flags (e : RawEntry) : Nat := leAt e.bytes 1 1
def RawEntry.cookie (e : RawEntry) : Nat := leAt e.bytes 4 4
def RawEntry.counter (e : RawEntry) : Nat := leAt e.bytes 8 8
def RawEntry.tag (e : RawEntry) : List Byte := slice e.bytes 96 32
def RawEntry.par (e : RawEntry) (a n : Nat) : Nat := leAt e.bytes (16 + a) n
def RawEntry.parBytes (e : RawEntry) (a n : Nat) : List Byte := slice e.bytes (16 + a) n

/-- The entry a ring row stands for (R327): opcode, common part and parameters, zero elsewhere; the host memory that its
parameters point at. -/
def EntryHead.entry (h : EntryHead) (op : Nat) (params : List Byte) (host : List Byte) : RawEntry :=
  { bytes := [BitVec.ofNat 8 op, h.flags, 0, 0] ++ leBytes 4 h.cookie.toNat ++ leBytes 8 h.counter.toNat
      ++ slice params 0 80 ++ slice h.tag 0 32
    host := host }

end Sys2Proof

namespace Sys2Proof.Machine

/-! STATUS codes (R328). -/
namespace Status
def ok := 0
def badOpcode := 1
def badParam := 2
def badTag := 3
def staleCounter := 4
def noKey := 5
def state := 6
def resource := 7
def verify := 8
def aborted := 9
end Status

/-- A command has started (R332). -/
def Cmd.begun (k : Cmd) : Bool := k.phase != .waiting

/-- Offset of a ring's registers (R344). -/
def ringReg (r : Fin 9) (o : Nat) : Nat := 0x20100 + 0x40 * r.1 + o

/-- A 64-bit register (R321). -/
def State.reg64 (s : State) (off : Nat) : Nat := s.reg off + s.reg (off + 4) * 2 ^ 32

/-- The completion record of a command (R328). -/
def completionRecord (e : RawEntry) (k status detail : Nat) : List Byte :=
  leBytes 4 e.cookie ++ leBytes 1 e.opcode ++ leBytes 1 status ++ leBytes 1 (1 - k / 512 % 2) ++ [0] ++ leBytes 8 detail

/-- A completion of an entry of a ring: its record at queue place k mod 512, CMD_CAUSE.COMPLETE when IRQ is set, and
CMD_LAST on a failure (R328, R344). -/
def State.record (s : State) (r : Fin 9) (e : RawEntry) (status detail : Nat) : State :=
  let k := s.rings[r].completions
  let s := s.hostWrite (s.reg64 (ringReg r 0x10) + 16 * (k % 512)) (completionRecord e k status detail)
  let s := s.modRing r fun x => { x with completions := k + 1 }
  let s := s.causeIf (bitAt e.flags 1) Reg.cmdCause 0
  if status = Status.ok then s
  else s.setReg Reg.cmdLast (r.1 + e.opcode * 2 ^ 4 + status * 2 ^ 12 + 2 ^ 16)

/-- A consumed command completes. -/
def State.finish (s : State) (r : Fin 9) (k : Cmd) (status : Nat) (detail : Nat := 0) : State :=
  (s.modRing r fun x => { x with cmds := x.cmds.erase k }).record r k.entry status detail

/-- Every command of a ring that satisfies `p` completes, in ring order. -/
def State.finishAll (s : State) (r : Fin 9) (p : Cmd → Bool) (status : Nat) (detail : Nat := 0) : State :=
  (s.rings[r].cmds.filter p).foldl (fun (s : State) k => s.finish r k status detail) s

/-- The ring of a context (R325). -/
def ringOf (c : Fin 8) : Fin 9 := ⟨c.1, by omega⟩

/-- A command of an opcode that has started and not completed. -/
def Cmd.isOp (op : Nat) (k : Cmd) : Bool := k.entry.opcode == op && k.begun

/-- The STEP_START, HOLD, CAPO commands of a context that have started. -/
def Cmd.isStep : Cmd → Bool := Cmd.isOp 0x12
def Cmd.isHold : Cmd → Bool := Cmd.isOp 0x13
def Cmd.isCapo : Cmd → Bool := Cmd.isOp 0x16

/-- The deferred phases of a step that is over are forgotten (R387, R398). -/
def State.forgetDeferred (s : State) (c : Fin 8) : State :=
  { s with budget := { s.budget with deferred := s.budget.deferred.filter fun d => d.1 != c } }

/-- The STEP_START in progress completes: DETAIL holds the steps run (R332); the context is LOADED, and a host hold ends
with it (R338). A HOLD that still waits has no boundary left to take effect at, and completes with ABORTED. DEDUCED, log 32. -/
def State.endSteps (s : State) (c : Fin 8) (status : Nat) : State :=
  let s := s.finishAll (ringOf c) Cmd.isStep status (s.ctx c).stepsRun
  let s := (s.finishAll (ringOf c) Cmd.isHold Status.aborted).forgetDeferred c
  s.modCtx c fun x => { x with
    starting := false, hostHold := false, inStep := false, rerunning := false, waitVersion := false
    state := if x.state = .running ∨ x.state = .held then .loaded else x.state }

/-- The step in flight of a context is abandoned: tiles stop and its work is discarded (R339, R449). -/
def State.abandonStep (s : State) (c : Fin 8) : State :=
  let s := ((s.stopTiles c).discardWork c).forgetDeferred c
  s.modCtx c fun x => { x with inStep := false, rerunning := false, waitVersion := false, units := [] }

/-- The frames of the context that wait in ports are removed. -/
def State.dropFrames (s : State) (c : Fin 8) (p : QFrame → Bool) : State :=
  { s with ports := s.ports.map fun pt => { pt with queue := pt.queue.filter fun f => !(f.ctx == some c && p f) } }

end Sys2Proof.Machine
end

