-- ==== Sys2Proof/Machine/Steps.lean ====
section
/-! DEFINITION. Steps of a context: preparing its tiles (R62, R117, R143, R351, R352), the step-end write-back (R118), the
end of a step with its replay record (R424, R425), and the boundary, where cuts, holds and STEP_START's end apply (R338,
R409, R446). -/

namespace Sys2Proof.Machine

/-! ### Tiles at step edges (R113 to R118) -/

/-- The spill window of a tile (R115), if its region has one. -/
def Scroll.window (q : Scroll) (t : TileId) : Option Nat :=
  let sb := q.spillBase (regionOf t)
  if sb = 0 then none else some (sb + localIndex t * 65536)

/-- The line runs of valid handles whose HINT satisfies `p` (R108), without handle 0. -/
def Tile.buffers (x : Tile) (p : Nat → Bool) : List Span :=
  (List.range 63).filterMap fun i =>
    let e := x.entry (i + 1)
    if bitAt e 23 && p (fld e 21 2) then
      let b := fld e 0 10
      some ⟨64 * b, min (fld e 10 10 + 1) (1024 - b)⟩
    else none

/-- The handle table, then every STATE and CONST buffer it names, reloaded from the spill window (R117). -/
def Tile.reload (x : Tile) (m : Mem) (w : Nat) : Tile :=
  let x := x.wideWrite 0 (Memory.readBytes m w 256)
  (x.buffers fun h => h == 1 || h == 2).foldl (fun (x : Tile) sp =>
    x.wideWrite sp.at_ (Memory.readBytes m (w + sp.at_) (64 * sp.lines))) x

/-- Lines 4 to 1,023 that no valid STATE or CONST handle covers cleared (R117). -/
def Tile.clearScratch (x : Tile) : Tile :=
  let keep := x.buffers fun h => h == 1 || h == 2
  ((List.range 1020).map (· + 4)).foldl (fun (x : Tile) l =>
    if keep.any fun sp => decide (sp.at_ ≤ 64 * l) && decide (64 * l < sp.at_ + 64 * sp.lines) then x
    else { x with
      pad := Memory.clear x.pad (64 * l) 64
      clearTags := x.clearTags.delRange (4 * l) 4
      badWords := x.badWords.delRange (16 * l) 16
      badTags := x.badTags.del l }) x

/-- The initial registers of a task with INJECT applied (R351). -/
def TaskEntry.start (e : TaskEntry) (seed pos : DWord) : Vector Word 16 :=
  Vector.ofFn fun i : Fin 16 =>
    if i = 14 ∧ bitAt e.inject.toNat 0 then BitVec.ofNat 32 seed.toNat
    else if i = 15 ∧ bitAt e.inject.toNat 0 then BitVec.ofNat 32 (seed.toNat / 2 ^ 32)
    else if i = 12 ∧ bitAt e.inject.toNat 1 then BitVec.ofNat 32 pos.toNat
    else if i = 13 ∧ bitAt e.inject.toNat 1 then BitVec.ofNat 32 (pos.toNat / 2 ^ 32)
    else e.regs[i]

/-- A tile at step start (R62, R117, R143): buffers prepared, slots READY or FREE, events zero, queues, strings and chains
empty, and on an outbound edge string the member's credits (R139). A slot's PROGRESS (R71) starts again from 0.
DESIGN CHOICE, log 12. -/
def Tile.begin (x : Tile) (window : Option (Mem × Nat)) (seed pos : DWord) : Tile :=
  let x := x.discard
  let x := match window with
    | some (m, w) => x.reload m w
    | none => x
  let x := x.clearScratch
  { x with
    slots := Vector.ofFn fun k : Fin 8 =>
      let e := x.tasks[k]
      if e.enable then { state := .ready, pc := e.entry, regs := e.start seed pos } else {}
    last := 0
    runLen := 0
    eligible := false
    events := Vector.replicate 16 0
    strs := x.strs.map fun z => { z with next := 0, credits := if z.outbound && z.kind != 0 then z.outst else 0 }
    stopped := false
    finished := false }

/-- A tile that cannot run: DEAD, or in a lost region (R373, R444). -/
def State.tileGone (s : State) (t : TileId) : Bool := s.fret.lost.getLsbD (regionOf t).1 || s.fret.dead.has t.1

/-- The lines of a tile's reload (R117): the handle table and the STATE and CONST buffers it names. -/
def Tile.reloadLines (x : Tile) : List Span := ⟨0, 4⟩ :: x.buffers fun h => h == 1 || h == 2

/-- A line of the spill window at `w` that the reload of `y` reads is poisoned or has an uncorrectable error. -/
def Ctx.badReload (x : Ctx) (y : Tile) (w : Nat) : Bool :=
  y.reloadLines.any fun sp => (List.range sp.lines).any fun i =>
    let l := (w + sp.at_) / 64 + i
    x.badLines.has l || x.eccLines.has l

/-- Can the spill windows that a step start reloads be read? While a stack that holds one is out of lock or in stall (R32,
R393) the step waits to start. DESIGN CHOICE, log 26. -/
def State.windowsServed (s : State) (c : Fin 8) (q : Scroll) : Bool :=
  (s.ctx c).tileList.all fun t => s.tileGone t ||
    match q.window t with
    | some w => s.pageServed ((s.ctx c).page q (pageOf w))
    | none => true

/-- Every tile of a context begins the step; `reload` as R117 says. Without a spill window there is nothing to reload. A
tile that does not reload reads its handle table for the clearing of R117: a parity event there is one of source code 3
(R119, R120). DEDUCED, log 26. A reload that reads a poisoned line or meets an uncorrectable error escalates as that source
does (R124), and the step starts with the bytes as they stand. DESIGN CHOICE, log 26. -/
def State.beginTiles (s : State) (c : Fin 8) (q : Scroll) (reload : Bool) : State :=
  let x := s.ctx c
  x.tileList.foldl (fun (s : State) t =>
    if s.tileGone t then s
    else
      let window := if reload then (q.window t).map fun w => (x.mem, w) else none
      let bad := if window.isSome then none else (s.tile t).badWords.find? fun w => decide (1 ≤ w) && decide (w < 64)
      let s := s.modTile t fun y => y.begin window x.curSeed x.curPos
      match bad, window with
      | some v, _ => s.parityEvent t c 3 0 v
      | none, some (_, w) => if x.badReload (s.tile t) w then s.escalate [] else s
      | none, none => s) s

/-- Every enabled slot is DONE and every command its slots issued has completed (R62). -/
def Tile.stepDone (x : Tile) : Bool :=
  ((fins 8).all fun k => x.slots[k].state == .done || x.slots[k].state == .free)
    && x.tensorQ.isEmpty && x.vectorQ.isEmpty && x.functionQ.isEmpty
    && (x.strs.toList.all fun z => z.posts.all (·.done) && z.sends.all (·.read))
    && x.runs.toList.all fun r => r.isNone

/-- The lines of a step-end write-back (R118): the table and every STATE buffer it names, without repeats. -/
def Tile.writeLines (x : Tile) : NatSet :=
  (x.buffers (· == 1)).foldl (fun (g : NatSet) sp =>
    (List.range sp.lines).foldl (fun (g : NatSet) i => g.add (sp.at_ / 64 + i)) g) [0, 1, 2, 3]

/-- The step-end write-back of a tile (R118, R411): `none` while a line cannot be written. -/
def State.writeBackTile (s : State) (c : Fin 8) (q : Scroll) (t : TileId) : Bool × State :=
  match q.window t with
  | none => (true, s)
  | some w =>
    match s.touchWrite c q none w with
    | (.stop _, s) => (false, s)
    | (.fail _, s) => (false, s)
    | (.ok, s) =>
      let x := s.tile t
      let s := x.writeLines.foldl (fun (s : State) l => s.backInvalidate c (w + 64 * l) 64) s
      (true, s.modCtx c fun k => x.writeLines.foldl (fun (k : Ctx) l =>
        k.putLine q (w + 64 * l) (Memory.readBytes x.pad (64 * l) 64)) k)

/-! ### The replay record (R424, R425) -/

/-- A skip record's 32 bytes. The order of fields is R424's; their places are a DESIGN CHOICE, log 25. -/
def SkipRec.encode (k : SkipRec) : List Byte :=
  leBytes 8 k.step.toNat ++ leBytes 2 k.entry ++ leBytes 1 k.level.1 ++ leBytes 1 (bit k.prepass)
    ++ leBytes 2 k.skipped.toNat ++ leBytes 2 k.recorder.toNat ++ leBytes 4 k.block ++ leBytes 12 0

/-- An error entry's 16 bytes (log 25). -/
def ErrRec.encode (e : ErrRec) : List Byte :=
  leBytes 1 e.side.1 ++ leBytes 1 e.code ++ leBytes 2 e.stream ++ leBytes 4 e.mem ++ leBytes 4 e.seq ++ leBytes 4 e.piece

/-- A skip record and an error entry read back. -/
def SkipRec.decode (b : List Byte) : SkipRec :=
  { step := BitVec.ofNat 64 (leAt b 0 8), entry := leAt b 8 2, level := finOf 2 (leAt b 10 1), prepass := leAt b 11 1 == 1
    skipped := BitVec.ofNat 16 (leAt b 12 2), recorder := BitVec.ofNat 16 (leAt b 14 2), block := leAt b 16 4 }
def ErrRec.decode (b : List Byte) : ErrRec :=
  { side := finOf 4 (leAt b 0 1), code := leAt b 1 1, stream := leAt b 2 2, mem := leAt b 4 4, seq := leAt b 8 4
    piece := leAt b 12 4 }

/-- The record of the step that ends (R424), and whether it was cut off. -/
def State.replayRecord (s : State) (c : Fin 8) (q : Scroll) : List Byte × Bool :=
  let x := s.ctx c
  let b := x.pinned.map fun b => x.banks[b]
  let reds := x.reds.flatMap fun e =>
    leBytes 2 (e.1 % 65536) ++ leBytes 1 (e.1 / 65536) ++ leBytes 5 0
      ++ e.2.digests.toList.flatMap (fun d => leBytes 8 d.toNat) ++ leBytes 8 e.2.ownDigest.toNat
  let strs := x.strDigests.flatMap fun e => leBytes 3 (e.1 / 2) ++ leBytes 1 (e.1 % 2) ++ leBytes 4 0 ++ leBytes 8 e.2.toNat
  let body := x.skips.flatMap SkipRec.encode ++ x.errs.flatMap ErrRec.encode ++ reds ++ strs
  let cut := decide (2 ^ 26 < 256 + body.length)
  let len := min (2 ^ 26) ((256 + body.length + 4095) / 4096 * 4096)
  let head := leBytes 4 0x44505252 ++ leBytes 4 len ++ leBytes 1 c.1
    ++ leBytes 1 (bit cut + 2 * bit x.restored + 4 * bit (s.replays c)) ++ leBytes 1 x.reruns
    ++ leBytes 1 (bit x.redMode) ++ leBytes 1 x.redHeadroom ++ leBytes 3 0
    ++ leBytes 8 x.curStep.toNat ++ leBytes 8 x.curPos.toNat
    ++ leBytes 8 ((x.series.map fun (z : Series) => z.seed).getD 0).toNat ++ leBytes 8 x.curIndex ++ leBytes 8 x.curSeed.toNat
    ++ leBytes 4 ((b.map fun (k : Bank) => k.version).getD 0).toNat ++ leBytes 4 x.ckpt.cut.number
    ++ slice q.digest 0 64 ++ slice ((b.map fun (k : Bank) => k.digest).getD []) 0 64
    ++ leBytes 8 x.stepTime ++ leBytes 8 x.ckpt.area.update.toNat
    ++ leBytes 4 x.skips.length ++ leBytes 4 x.errs.length ++ leBytes 4 x.reds.length ++ leBytes 4 x.strDigests.length
  (slice (slice head 0 256 ++ body) 0 len, cut)

/-- The record appended to the ring (R424, R425). -/
def State.appendRecord (s : State) (c : Fin 8) (q : Scroll) : State :=
  let (bs, cut) := s.replayRecord c q
  let len := bs.length
  let pos := if 2 ^ 32 < s.replayPos + len then 0 else s.replayPos
  let hit := s.replayLog.filter fun r => decide (r.pos < pos + len) && decide (pos < r.pos + r.len)
  let lost := hit.filter fun r => !r.drained
  let s := s.invalidate 3 c pos len
  let s := { s with
    replayRing := Memory.writeBytes s.replayRing pos bs
    replayLog := (s.replayLog.filter fun r => !hit.contains r) ++ [⟨c, pos, len, s.replayHead, false⟩]
    replayPos := pos + len
    replayHead := s.replayHead + len }
  let s := lost.foldl (fun (s : State) r => s.modCtx r.ctx fun x => { x with ckpt := { x.ckpt with replayLost := true } }) s
  let s := s.causeIf (!lost.isEmpty) Reg.rplCause 0
  (s.causeIf cut Reg.rplCause 1).modCtx c fun x => { x with ckpt := { x.ckpt with area := { x.ckpt.area with update := 0 } } }

/-! ### The cut (R408, R409) -/

/-- Regions and stacks of the context are in thermal stall (R393, R398). -/
def State.stalled (s : State) (c : Fin 8) : Bool :=
  ((fins 48).any fun r => (s.ctx c).holds r && s.regions[r].state == .stall)
    || match s.scroll? c with
      | some q => q.stacks.any fun k => s.thermal[finOf 60 (48 + k.1)].stall != 0
      | none => false

/-- A region or stack that the context uses is in thermal stall (R432): of its own, or a region that it crosses in transit. -/
def State.usesStalled (s : State) (c : Fin 8) : Bool :=
  s.stalled c || (fins 48).any fun r => (s.ctx c).state != .free && (s.ctx c).transit.getLsbD r.1
    && s.thermal[finOf 60 r.1].stall != 0

/-- The detection window under way is skipped for some contexts (R432). -/
def State.skip (s : State) (p : Fin 8 → Bool) : State :=
  { s with ctxs := Vector.ofFn fun c : Fin 8 =>
      let x := s.ctx c
      { x with skipWindow := x.skipWindow || p c } }

/-- A page at a cut: `marked` is its SNAP, and `granules` what the cut writes back of it. -/
def Page.atCut (y : Page) (marked : Bool) (granules : BitVec 32) : Page :=
  { y with snap := marked, copied := false, written := false, cutDirty := granules, newer := 0, cutSent := 0 }

/-- The pages that a cut marks (R409): every state page, and every remote-homed page, of class STACKED or REMOTE (R226), with
a dirty granule. -/
def Ctx.markSnap (x : Ctx) (q : Scroll) : Ctx :=
  let homed := fun (p : Nat) => match q.segOf p with | some g => g.cls != 0 | none => false
  let pages := x.pages.mapVals fun p y => if homed p then y.atCut (y.dirty != (0 : BitVec 32)) y.dirty else y.atCut false 0
  (List.range q.statePages).foldl (fun (x : Ctx) k =>
    x.modPage q (q.stateAt k) fun y => y.atCut true 0) { x with pages := pages }

/-- The cut record of this instant (R406, R417). -/
def State.cutRecord (s : State) (c : Fin 8) (number time : Nat) : CutRecord :=
  let x := s.ctx c
  { number := number, time := time, step := x.stepNo, series := x.series, armed := x.armed
    current := x.current.map fun b => x.banks[b].version
    pending := x.pending, vmode := x.vmode
    redMode := s.rfld (Reg.grdCtl c.1) 0 1 == 1, headroom := s.rfld (Reg.grdCtl c.1) 1 4
    recFrom := x.ckpt.cut.recTo, recTo := s.replayHead, replayComplete := !x.ckpt.replayLost }

/-- The drain in progress abandoned (R409, R420, R428): its frames that still queue go with it. -/
def State.dropDrain (s : State) (c : Fin 8) : State :=
  let s := s.causeIf (s.ctx c).ckpt.drain.isSome Reg.ckpCause 3
  let s := s.dropFrames c fun f => f.frame.type == 0x40 && fld f.frame.stream.toNat 4 3 == c.1
    && [0, 2, 3].contains (f.frame.stream.toNat % 16)
  s.modCtx c fun x => { x with ckpt := { x.ckpt with drain := none } }

/-- Orders 3 and 4 of R409: the earlier drain is abandoned, SNAP set, the record fixed, the hold released, and the CAPOs
whose time the hold has reached complete. Until the seals are acknowledged no write-back but the cut's starts (R412; log 23). -/
def State.takeCut (s : State) (c : Fin 8) (q : Scroll) (time : Nat) : State :=
  let x := s.ctx c
  let s := s.dropDrain c
  let n := x.ckpt.cut.number + 1
  let rec_ := s.cutRecord c n time
  let none_ := q.homeServers.isEmpty
  let now := if x.ckpt.holding then x.ckpt.holdSince else s.ns
  let capo := fun (k : Cmd) => k.isCapo && decide (k.entry.par 0 8 ≤ now)
  let late := x.ckpt.holding && decide (x.ckpt.holdPhys + 100000000 < s.phys)
  let s := s.modCtx c fun x => { x.markSnap q with
    sealing := !none_
    capoHold := false
    ckpt := { x.ckpt with
      cut := rec_, phase := 2, due := none, periodicDue := false, holding := false, homeCopies := [], sealedCut := none_
      pendingAt := x.ckpt.pendingAt.filter fun t => decide (now < t)
      slots := x.ckpt.slots.map fun a => if a = .filling then .invalid else a
      drain := some { progressAt := s.phys } } }
  let s := if late then (s.cause Reg.ckpCause 2).count Reg.ckpCounts 0 16 1 else s
  (s.cause Reg.ckpCause 1).finishAll (ringOf c) capo Status.ok (n % 2 ^ 32 + (rec_.step.toNat % 2 ^ 32) * 2 ^ 32)

/-- The capo hold at a boundary (R409, R398): the cut is taken, or the hold waits for stalled regions, for ACTIVE, or for homes
that are still rolled back. -/
def State.capoAt (s : State) (c : Fin 8) : State :=
  match s.scroll? c, (s.ctx c).ckpt.due with
  | some q, some t =>
    if s.stalled c || s.power != .active || (s.ctx c).rolling then
      s.modCtx c fun x => { x with
        capoHold := true
        ckpt := { x.ckpt with
          holding := true
          holdSince := if x.ckpt.holding then x.ckpt.holdSince else s.ns
          holdPhys := if x.ckpt.holding then x.ckpt.holdPhys else s.phys } }
    else s.takeCut c q t
  | _, _ => s

/-! ### The boundary and the end of a step -/

/-- A context is RUNNING or HELD by its holds (R335, R338). -/
def Ctx.settleState (x : Ctx) : Ctx :=
  if x.state = .running ∨ x.state = .held then
    { x with state := if x.hostHold || x.capoHold || x.faultHold then .held else .running }
  else x

/-- A re-key that waits starts at the boundary (R241): a new key is drawn for the other value of the selector. Its cause in
the action log is MEM_CAUSE.IMBALANCE. -/
def State.startRekey (s : State) (c : Fin 8) : State :=
  if !(s.ctx c).rekeyReq then s
  else
    let (key, s) := (s.action 8 c.1 0x506 0).freeBytes
    s.modCtx c fun x => { x with
      rekeyReq := false, rekeying := true, keySel := !x.keySel
      placeKeys := vset x.placeKeys (finOf 2 (bit !x.keySel)) (slice key 0 16) }

/-- The step boundary of a context (R241, R338, R409, R446): a pending cut, DEGRADED, the waiting HOLDs, the end of the
STEP_START. -/
def State.boundary (s : State) (c : Fin 8) : State :=
  let s := (s.startRekey c).capoAt c
  if !(s.ctx c).starting then s
  else if s.degraded then s.endSteps c Status.aborted
  else
    let waits := s.rings[ringOf c].cmds.filter Cmd.isHold
    let s := s.finishAll (ringOf c) Cmd.isHold Status.ok
    let s := if waits.isEmpty then s else s.modCtx c fun x => { x with hostHold := true }
    if (waits.any fun k => bitAt (k.entry.par 0 1) 0) || (s.ctx c).stepsLeft == some 0 then s.endSteps c Status.ok
    else s.modCtx c Ctx.settleState

/-- Slices that this engine owns of an entry at the final level (R279, R281). -/
def State.ownedSlices (s : State) (q : Scroll) (t : Target) : Nat :=
  let l := q.finalLevel
  ((List.range t.slices).filter fun sl => s.inLevel q t l sl && s.ownerPos q t l sl == s.ringPos q l).length

/-- Every owned slice has been delivered and consumed (R297). -/
def State.slicesDone (s : State) (c : Fin 8) (q : Scroll) : Bool :=
  q.targets.zipIdx.all fun (t, i) =>
    let x := s.ctx c
    let sent := fun (u : Target × Nat) => (x.red q.finalLevel u.2).delivered
    let same := q.targets.zipIdx.filter fun u => u.1.side == t.side && u.1.ostream == t.ostream
    let used := ((x.members.getD (16384 * t.side + t.ostream) []).map fun m => m.2.done).sum
    decide (s.ownedSlices q t ≤ sent (t, i)) && decide ((same.map sent).sum ≤ used)

/-- The step has finished (R118, R271, R424): record, digests, unpinning, counts; then the boundary. -/
def State.stepEnd (s : State) (c : Fin 8) (q : Scroll) : State :=
  let s := s.appendRecord c q
  let s := s.modCtx c fun x => { x with
    inStep := false
    lastDigests := x.reds.mapVals fun _ r => r.digests
    lastStep := x.curStep
    stepNo := x.curStep + 1
    series := x.series.map fun z => { z with index := z.index + 1 }
    stepsRun := x.stepsRun + 1
    stepsDone := x.stepsDone + 1
    stepsLeft := x.stepsLeft.map (· - 1)
    units := [], released := [], replay := none, restored := false, advanced := true }
  let s := s.modListed c fun t => { t with stopped := true }
  let s := if (q.sec? 0xD).isSome then s.unpinVersion c else s
  let s := { s with hng := { s.hng with stepSince := true, repeats := 0 } }
  s.boundary c

/-- Reduction has done its part of the step (R284, R288): every block for which this engine is on the path is processed, and no
copy is still retained unsettled, so that a step in deadline mode ends only with its copies settled. DEDUCED, log 21. -/
def State.reduced (s : State) (c : Fin 8) (q : Scroll) : Bool :=
  let x := s.ctx c
  q.targets.zipIdx.all fun (t, i) => (List.finRange 2).all fun l =>
    let (lo, cnt) := if l = 0 then (0, t.slices) else s.shard1 q t
    q.finalLevel < l || cnt == 0 ||
      (decide (x.blockBase q t (lo + cnt) ≤ (x.red l i).next) && (x.red l i).retained.isEmpty)

/-- The step ends once every tile has finished it, every block is reduced and every owned slice is consumed (R118, R284,
R297). -/
def State.tryStepEnd (s : State) (c : Fin 8) (q : Scroll) : State :=
  let x := s.ctx c
  if x.inStep && !x.rerunning && (x.tileList.all fun t => s.tileGone t || (s.tile t).finished) && s.reduced c q && s.slicesDone c q then
    s.stepEnd c q
  else s

/-- A tile's step-end write-back (R118): a word of bad parity escalates (R120), and the tile has then not finished. A tile
without a spill window writes nothing back and reads nothing. -/
def State.tileFinish (s : State) (t : TileId) : State :=
  match s.ctxOf t with
  | none => s
  | some c =>
    match s.scroll? c with
    | none => s
    | some q =>
      let x := s.tile t
      if !(s.ctx c).inStep ∨ (s.ctx c).state ≠ .running then s
      else if x.finished then s.tryStepEnd c q
      else if !s.tileRuns t ∨ !x.stepDone then s
      else
        match if (q.window t).isNone then none else x.badIn (x.writeLines.map fun l => ⟨64 * l, 1⟩) with
        | some w => (s.modTile t fun x => { x with err := x.err ||| 1 }).parityEvent t c 3 0 w
        | none =>
          match s.writeBackTile c q t with
          | (false, s) => s
          | (true, s) =>
            (s.modTile t fun x => { x with finished := true, steps := x.steps + 1, advanced := true }).tryStepEnd c q

/-! ### The start of a step -/

/-- The step seed (R352). -/
def stepSeed (q : Scroll) (seed : DWord) (i : Nat) : DWord :=
  BitVec.ofNat 64 (leAt (sha3_512 (leBytes 8 seed.toNat ++ leBytes 8 i ++ q.digest)) 0 8)

/-- The first port of a role (log 16). -/
def State.firstPort (s : State) (role : Nat) : Option (Fin 64) := (fins 64).find? fun p => s.role p == role

/-- After a restore, what a sender held of DATA credits counts as used: the frames they were granted for may have been abandoned
with the step. DESIGN CHOICE, log 17. -/
def State.forgetCredits (s : State) (c : Fin 8) : State :=
  { s with given := s.given.map fun a => if a.cls = 4 ∧ a.ctx.toNat = c.1 then { a with spent := a.granted } else a }

/-- The credits of a step start (R306): DATA for OUTST transfers of every inbound fabric member, 32 reduction frames for
every other member of each ring, 64 pushes per tensor side for every CHAIN entry. -/
def State.stepCredits (s : State) (c : Fin 8) (q : Scroll) : State :=
  let s := q.fabric.foldl (fun (s : State) e =>
    let d := s.edgeOf c e.1 e.2.1
    if d.valid && !d.outbound && d.kind == 3 then
      s.grantData c q e.1 e.2.1 ((List.range d.members).map fun m => (m, s.tileOutst d m))
    else s) s
  let s := s.partnerCredits c q (q.updateStreams.flatMap fun e => (List.range e.members).map fun m => (e, m, 8))
  let s := (fins 2).foldl (fun (s : State) l =>
    ((q.ring l).filter (· != s.ident)).foldl (fun (s : State) e =>
      s.grant (s.firstPort 2) c e [((l.1 * 2 ^ 16, 3, 0), 32)]) s) s
  let chain := (q.layouts.flatMap fun l =>
    ((q.sources l.srclist).1.filter fun e => e.1 == 0).map fun e => (e.2, l.side)).eraseDups
  chain.foldl (fun (s : State) e => s.grant (s.firstPort 1) c e.1 [((e.2, 1, 0), 64)]) s

/-- Reduction of an entry at a level as a rerun starts (R297): what left stays sent, what has arrived since the stop stays,
and the own values, their sums and the deliveries are made again. -/
def RedLevel.again (r : RedLevel) : RedLevel :=
  { r with
    own := [], cnt := [], agreed := [], sums := [], next := 0, preNext := 0, delivered := 0, ownDigest := 0
    sentTo := max r.sentTo r.next, preSentTo := max r.preSentTo r.preNext }

/-- A member as a rerun starts: `sentEnd` stays (R123), and of a fabric stream whose bytes pass the commit point (R122) what
has arrived since the stop. DEDUCED, log 27. -/
def Member.again (y : Member) (commits : Bool) : Member :=
  if commits then { sentEnd := y.sentEnd, arrived := y.arrived, asm := y.asm, expected := y.expected }
  else { sentEnd := y.sentEnd }

/-- An inbound fabric stream of the gradient/peer or checkpoint/buddy role (R122, R307). -/
def Scroll.commits (q : Scroll) (side stream : Nat) : Bool :=
  match q.fabricOf side stream with
  | some (role, _) => role != 1 && !(EdgeDesc.mk (q.edge side stream)).outbound
  | none => false

/-- Edge streams, services, deep range and reduction of a context as a step starts (R143, R181, R206, R237). The commit point
passed since the stop of a rerun stays passed (R122). -/
def State.beginEdges (s : State) (c : Fin 8) (rerun : Bool) : State :=
  let mine := fun k => (s.ctx c).holds (finOf 48 (k / 16))
  let s := { s with
    routers := s.routers.keep fun k _ => !mine k
    selections := s.selections.keep fun k _ => !mine k
    budget := { s.budget with deferred := s.budget.deferred.filter fun d => d.1 != c } }
  s.modCtx c fun x => { x with
    members := if rerun then x.members.mapVals fun k ms => ms.mapVals fun _ m =>
        m.again (x.scroll.any fun q => q.commits (k / 16384) (k % 16384))
      else []
    pages := x.pages.mapVals fun _ y => { y with poison := false }
    cleared := [], units := [], errs := [], strDigests := [], released := []
    committed := rerun && x.committed, rerunning := false
    skips := if rerun then x.skips else []
    reds := if rerun then x.reds.mapVals fun _ r => r.again else [] }

/-- Records of a STAGING slot in order: offset, length (R424, R426). `fuel` bounds them. -/
def recordsAt (m : Mem) : Nat → Nat → List Nat
  | 0, _ => []
  | fuel + 1, o =>
    let len := Memory.readLE m (o + 4) 4
    if Memory.readLE m o 4 ≠ 0x44505252 ∨ len = 0 ∨ 2 ^ 31 ≤ o then [] else o :: recordsAt m fuel (o + len)

/-- The record of a step in the STAGING slot that RPL_CTRL names (R426): the first with its number. DEDUCED, log 25. -/
def State.recordOf (s : State) (step : DWord) : Option (ReplayPlan × Bool × Nat) :=
  let w := s.windows[finOf 32 (s.rfld Reg.rplCtrl 5 5)]
  if w.kind ≠ 1 then none
  else
    ((recordsAt w.staging 524288 0).find? fun o => Memory.readLE w.staging (o + 16) 8 == step.toNat).map fun o =>
      let nskip := Memory.readLE w.staging (o + 208) 4
      let nerr := Memory.readLE w.staging (o + 212) 4
      ({ skips := (List.range nskip).map fun i => SkipRec.decode (Memory.readBytes w.staging (o + 256 + 32 * i) 32)
         errs := (List.range nerr).map fun i =>
           ErrRec.decode (Memory.readBytes w.staging (o + 256 + 32 * nskip + 16 * i) 16) },
       Memory.readLE w.staging (o + 11) 1 == 1, Memory.readLE w.staging (o + 12) 1)

/-- May the context begin its next step (R335, R338, R396, R436)? -/
def State.mayBegin (s : State) (c : Fin 8) : Bool :=
  let x := s.ctx c
  x.starting && !x.inStep && x.state == .running && !x.rerunning && x.stepsLeft != some 0 && !s.hng.running &&
    !s.hng.fenced && s.power == .active && !s.degraded

/-- A step begins, its version pinned (R62, R117, R143, R270, R292, R337, R351, R352, R387, R426). -/
def State.beginStep (s : State) (c : Fin 8) (q : Scroll) : State :=
  let x := s.ctx c
  let z := x.series.getD ⟨0, 0, 0⟩
  let ctl := Reg.grdCtl c.1
  let plan := if s.replays c then s.recordOf x.stepNo else none
  let reload := x.reload
  let s := s.modCtx c fun x => { x with
    inStep := true
    advanced := true
    curStep := x.stepNo
    curIndex := z.index
    curPos := BitVec.ofNat 64 (z.pos.toNat + z.index * q.posAdvance)
    curSeed := stepSeed q z.seed z.index
    stepTime := s.ns
    reruns := 0
    reload := false
    redMode := match plan with | some p => p.2.1 | none => s.rfld ctl 0 1 == 1
    redHeadroom := match plan with | some p => p.2.2 | none => s.rfld ctl 1 4
    replay := plan.map (·.1) }
  let s := s.beginEdges c false
  let s := s.beginTiles c q reload
  let s := if x.restored then s.forgetCredits c else s
  let s := s.stepCredits c q
  (s.releasePhases c).prepass c

/-- The next step starts, unless it waits for a version (R270) or a replay has run out of records (R426). A scroll without
WEIGHTS has no version to pin. DEDUCED, log 20. -/
def State.stepBegin (s : State) (c : Fin 8) : State :=
  match s.scroll? c with
  | none => s
  | some q =>
    if !s.mayBegin c then s
    else if (s.ctx c).reload && !s.windowsServed c q then s
    else if s.replays c ∧ (s.recordOf (s.ctx c).stepNo).isNone then (s.cause Reg.rplCause 3).endSteps c Status.ok
    else if (q.sec? 0xD).isNone then s.beginStep c q
    else
      match s.pinVersion c with
      | (false, s) => s
      | (true, s) => s.beginStep c q

/-- The offsets from which a context's DATA frames still wait in ports: by FSTREAM and member, the lowest, over every
destination of the stream (R123). DESIGN CHOICE, log 27. -/
def State.queuedLow (s : State) (c : Fin 8) (fstream m : Nat) : Option Nat :=
  let os := s.ports.toList.flatMap fun pt => pt.queue.filterMap fun f =>
    if f.ctx = some c ∧ f.key = some (fstream, 4, m) then some (fld f.frame.offset.toNat 0 44) else none
  os.min?

/-- After a rerun's reload the step starts again (R117, R121, R123): frames still queued at the edge are discarded and
sent again, those handed to the SerDes stand, and instruction stores with a fetch event are rewritten. No credits are
granted again. DEDUCED, log 27. -/
def State.rerunRestart (s : State) (c : Fin 8) : State :=
  match s.scroll? c with
  | none => s
  | some q =>
    let x := s.ctx c
    if !x.rerunning ∨ !x.inStep ∨ x.state ≠ .running ∨ s.hng.running ∨ !s.windowsServed c q then s
    else
      let s' := s
      let handed := fun (k m : Nat) (y : Member) =>
        (s'.queuedLow c (s'.edgeOf c (k / 16384) (k % 16384)).fstream m).getD (max y.sentEnd y.queuedEnd)
      let s := s.modCtx c fun x => { x with
        members := x.members.mapVals fun k ms => ms.mapVals fun m y => { y with sentEnd := handed k m y } }
      let s := s.dropFrames c fun f => f.frame.type == 0x01
      let s := x.refetchTiles.foldl (fun (s : State) k =>
        let t := finOf 786432 k
        let p := (q.tileMap (x.rect.index t)).1
        s.modTile t fun y => { y with
          badInstr := []
          imem := if p = 0xFFFF then [] else (q.program p).zipIdx.map fun w => (w.2, w.1) }) s
      let s := s.modCtx c fun x => { x with refetchTiles := [] }
      let s := s.beginEdges c true
      let s := s.beginTiles c q true
      s.releasePhases c

end Sys2Proof.Machine
end

