-- ==== Sys2Proof/Machine/CheckTiles.lean ====
section
/-! DEFINITION. The checks of a scroll at load, first part (R345 to R357, R359): size, format and signature, and the
rejections of the per-tile sections, the routes and the service tables. A failure is a triple CAUSE, section TYPE, index
(R367). Indices and the readings named DEDUCED here: log 28. -/

namespace Sys2Proof.Machine

/-- A failed check (R367): CAUSE, section TYPE, index of the entry. -/
abbrev Fail := Nat × Nat × Nat

/-- A section rejection (CAUSE 5) when the condition holds. -/
def failIf (bad : Bool) (ty i : Nat) : List Fail := if bad then [(5, ty, i)] else []

/-- The failures of each entry of a list, with its index. -/
def eachFail {α : Type} (l : List α) (f : α → Nat → List Fail) : List Fail := l.zipIdx.flatMap fun (e : α × Nat) => f e.1 e.2

namespace Scroll

/-! ### Framing (R346, R347, R355) -/

/-- A byte of [a, a + n) outside the named pieces (offset from `a`, length) is not zero (R355). -/
def stray (q : Scroll) (a n : Nat) (named : List (Nat × Nat)) : Bool :=
  q.bytes.any fun b => decide (a ≤ b.1) && decide (b.1 < a + n) &&
    !(named.any fun p => decide (a + p.1 ≤ b.1) && decide (b.1 < a + p.1 + p.2))

/-- SIZE (R345, R367). -/
def sizeFails (q : Scroll) : List Fail :=
  if decide (2 ^ 31 < q.length) || q.length != q.u 8 8 then [(1, 0, 0)] else []

/-- The header's rules (R345, R346). -/
def headerBad (q : Scroll) : Bool :=
  q.u 0 4 != 0x4C575343 || q.u 4 1 != 2 || q.u 5 1 != 1 || decide (2 ^ 31 < q.length) || q.length % 64 != 0
    || decide (q.sections < 6) || decide (32 < q.sections) || decide (q.length < 64 + 32 * q.sections + 4672)
    || decide (2 ^ 63 < q.posAdvance) || decide (1 < q.u 40 1) || q.mb == 0 || decide (64 < q.mb)
    || ((List.range 4).any fun i => decide (32 < q.ncache i)) || decide (765 < q.u 48 4)
    || q.stray 0 64 [(0, 6), (8, 22), (32, 10), (44, 8)]

/-- Directory entry `i` (R347, R348). -/
def entryBad (q : Scroll) (i : Nat) (e : Nat × Nat × Nat × Nat) : Bool :=
  let o := e.2.2.1
  let n := e.2.2.2
  e.1 == 0 || decide (0x10 < e.1) || o % 64 != 0 || q.stray (64 + 32 * i) 32 [(0, 2), (4, 20)]
    || decide (o < 64 + 32 * q.sections) || decide (q.length - 4672 < o + n)
    || (q.dir.zipIdx.any fun (d : (Nat × Nat × Nat × Nat) × Nat) => d.2 != i &&
        (d.1.1 == e.1 || (decide (o < d.1.2.2.1 + d.1.2.2.2) && decide (d.1.2.2.1 < o + n))))

/-- FORMAT (R346 to R348, R367). -/
def formatFails (q : Scroll) : List Fail :=
  (if q.headerBad || ((List.range 6).any fun t => (q.sec? (t + 1)).isNone) then [(2, 0, 0)] else [])
    ++ q.dir.zipIdx.flatMap fun (e : (Nat × Nat × Nat × Nat) × Nat) => if q.entryBad e.2 e.1 then [(2, e.1.1, 0)] else []

end Scroll

/-- A scroll-signing key of the owner record in force, empty when its slot is (R474, R353). -/
def State.scrollKey (s : State) (k : Nat) : List Byte :=
  let r := s.owner
  let key := slice r (2720 + 2592 * k) 2592
  if s.owned && decide (k < 4) && bitAt (leAt r 10 1) k && key.any (· != 0) then key else []

/-- SIGNATURE (R353, R367). -/
def State.signatureFails (s : State) (q : Scroll) : List Fail :=
  let a := q.length - 4672
  let key := s.scrollKey (q.u (a + 4) 1)
  if q.u a 4 != 0x53474953 || q.u (a + 8) 2 != 4627 || q.stray a 4672 [(0, 5), (8, 2), (16, 4627)] || key.isEmpty
      || !Config.mlDsaVerify key q.digest "" (q.bytesAt (a + 16) 4627) then [(3, 0, 0)]
  else []

namespace Scroll

/-- The rectangle of the scroll as regions. -/
def toRect (q : Scroll) : Rect :=
  { fx0 := finOf 8 q.rect.1, fx1 := finOf 8 q.rect.2.1, fy0 := finOf 6 q.rect.2.2.1, fy1 := finOf 6 q.rect.2.2.2 }

/-- Tiles of the rectangle. -/
def nTiles (q : Scroll) : Nat := q.toRect.tiles

/-- The transit regions, ascending. -/
def transits (q : Scroll) : List (Fin 48) := (fins 48).filter fun f => bitAt q.transit f.1

/-- The tiles that ROUTES covers, in the order of its records (R348). -/
def routeTiles (q : Scroll) : List TileId :=
  (List.range q.nTiles).map q.toRect.tile ++ q.transits.flatMap fun f => (List.range 16384).map (tileIn f)

/-- Record of a tile in ROUTES. -/
def routeRecord (q : Scroll) (t : TileId) : Option Nat :=
  let r := regionOf t
  if q.toRect.has r then some (q.toRect.index t)
  else
    match q.transits.findIdx? (· == r) with
    | some k => some (q.nTiles + 16384 * k + localIndex t)
    | none => none

/-- A valid entry `n` of the scroll's routes for a tile (R131). -/
def entryAt (q : Scroll) (t : TileId) (n : Nat) : Option Nat :=
  match q.routeRecord t with
  | some i => let e := (q.route i (finOf 32 n)).toNat; if bitAt e 16 then some e else none
  | none => none

/-- The sections whose length their counts fix (R348 to R351); DEDUCED: a shorter or longer section is rejected. -/
def lengthFails (q : Scroll) : List Fail :=
  let want := fun (ty : Nat) (n : Nat) (c : Nat) =>
    match ty with
    | 1 => n == 8 + 4 * c
    | 2 => n == 16
    | 3 => n == 16 * q.nTiles
    | 4 => decide (8 * c ≤ n)
    | 5 => n == 512 * q.nTiles
    | 6 => n == 128 * (q.nTiles + 16384 * q.transits.length)
    | 7 => n == 24896 * c
    | 8 => decide (16 * q.nTiles ≤ n) && c == q.nTiles
    | 9 => n == 512 * q.nTiles && c == q.nTiles
    | 0xA => decide (128 ≤ n) && c == 4
    | 0xB => decide (6144 ≤ n) && c == 48
    | 0xC => decide (64 ≤ n) && c == q.su 0xC 0 4
    | 0xD => decide (64 ≤ n) && c == q.su 0xD 0 4
    | 0xE => decide (384 ≤ n) && c == q.su 0xE 24 4
    | 0xF => n == 128 * c
    | _ => n == 64 + 16 * c && c == q.su 0x10 0 2
  q.dir.flatMap fun (e : Nat × Nat × Nat × Nat) => failIf (!want e.1 e.2.2.2 e.2.1) e.1 0

/-! ### Tile map, programs, tasks, functions (R55, R349 to R351) -/

/-- The record of tile `i` says that nothing is placed there (R364). -/
def idleTile (q : Scroll) (i : Nat) : Bool := q.su 3 (16 * i) 16 == 2 ^ 32 - 1

/-- The edge-port tile of a load channel (R349). -/
def loadPort (side pos : Nat) : Option TileId :=
  match side with
  | 0 => tileAt pos 0
  | 1 => tileAt 1023 pos
  | 2 => tileAt pos 767
  | _ => tileAt 0 pos

/-- TILE_MAP (R349). DEDUCED: a tile on which nothing is placed has no load channel. -/
def tileMapFails (q : Scroll) (c : Fin 8) : List Fail :=
  let progs := ((q.sec? 4).map (·.1)).getD 0
  let sets := ((q.sec? 7).map (·.1)).getD 0
  let hops := 32 * (q.nTiles + 16384 * q.transits.length) + 1
  (List.range q.nTiles).flatMap fun i =>
    let m := q.tileMap i
    let w := q.su 3 (16 * i) 16
    let side := fld w 32 2
    let ends := match loadPort side (fld w 34 10) with
      | some t => follow? q.entryAt c.1 hops t (fld w 44 5) side == some (some (q.toRect.tile i))
      | none => false
    failIf ((m.1 != 0xFFFF && decide (progs ≤ m.1)) || (m.2 != 0xFFFF && decide (sets ≤ m.2)) || fld w 49 79 != 0
      || (m.1 == 0xFFFF && (fins 8).any fun j => (q.task i j).enable) || (!q.idleTile i && !ends)) 3 i

/-- PROGRAMS (R350). -/
def programFails (q : Scroll) : List Fail :=
  match q.sec? 4 with
  | none => []
  | some (c, o, n) => (List.range c).flatMap fun p =>
    let start := q.u (o + 8 * p) 4
    let len := q.u (o + 8 * p + 4) 2
    failIf (len == 0 || decide (1536 < len) || decide (n < 8 * c + 8 * (start + len)) || q.u (o + 8 * p + 6) 2 != 0) 4 p

/-- TASKS (R351). -/
def taskFails (q : Scroll) : List Fail :=
  (List.range q.nTiles).flatMap fun i =>
    failIf ((List.range 8).any fun j =>
      let a := 512 * i + 64 * j
      fld (q.su 5 a 2) 11 4 != 0 || decide (3 < q.su 5 (a + 2) 1) || q.su 5 (a + 3) 1 &&& 0x88 != 0) 5 i

/-- FUNCTIONS: the headers (R55). -/
def functionFails (q : Scroll) : List Fail :=
  (List.range (((q.sec? 7).map (·.1)).getD 0)).flatMap fun k =>
    failIf ((List.range 16).any fun t =>
      let h := q.u (q.funSet k + 64 + 16 * t) 16
      let w := signed 8 (fld h 32 8)
      let sc := signed 8 (fld h 80 8)
      decide (w < -24) || decide (24 < w) || decide (sc < -8) || decide (8 < sc) || fld h 41 2 == 3 || fld h 43 2 == 3) 7 k

/-! ### Handles (R109, R110, R115, R356) -/

/-- Entry `h` of a tile's initial handle table (R356). -/
def handle (q : Scroll) (i h : Nat) : Nat :=
  let b := q.handleBlock i
  if b.1 = 0 then (if h = 0 then 0xB00C00 else 0) else q.su 8 (b.1 + 4 * h) 4

/-- Valid handles of a tile with HINT STATE or CONST, ascending, without handle 0. -/
def images? (q : Scroll) (i : Nat) : List (Nat × Nat) :=
  (((List.range 64).map fun h => (h, q.handle i h)).filter fun e =>
    e.1 != 0 && bitAt e.2 23 && (fld e.2 21 2 == 1 || fld e.2 21 2 == 2))

/-- The handles that hold STATE. -/
def stateful (q : Scroll) (i : Nat) : Bool := (q.images? i).any fun e => fld e.2 21 2 == 1

/-- HANDLES (R356), and R115: no valid handle lies at or above the context's handle quota (R110). -/
def handleFails (q : Scroll) (quota : Nat) : List Fail :=
  match q.sec? 8 with
  | none => []
  | some (_, _, n) => (List.range q.nTiles).flatMap fun i =>
    let b := q.handleBlock i
    let t := q.toRect.tile i
    failIf (q.su 8 (16 * i + 12) 4 != 0 || (b.1 != 0 &&
      (b.1 % 64 != 0 || decide (b.1 < 16 * q.nTiles) || decide (n < b.1 + b.2)
        || b.2 != 256 + ((q.images? i).map fun e => 64 * (fld e.2 10 10 + 1)).sum
        || q.handle i 0 % 2 ^ 24 != 0xB00C00
        || ((List.range 63).any fun k =>
            let e := q.handle i (k + 1)
            bitAt e 23 && (decide (quota ≤ k + 1) || decide (fld e 0 10 < 4) || decide (1023 < fld e 0 10 + fld e 10 10) || fld e 21 2 == 3))
        || (q.spillBase (regionOf t) == 0 && !(q.images? i).isEmpty)))) 8 i

/-! ### Routes and strings (R131, R133, R135, R149, R357) -/

/-- ROUTES (R131, R133): reserved codes, and channels that start at a local inject and do not end. -/
def routeFails (q : Scroll) : List Fail :=
  let hops := 32 * (q.nTiles + 16384 * q.transits.length) + 1
  eachFail q.routeTiles fun t i =>
    failIf ((List.range 32).any fun n =>
      match q.entryAt t n with
      | none => false
      | some e => fld e 0 3 == 7 || fld e 3 3 == 7 || fld e 17 15 != 0 ||
          (fld e 0 3 == 6 && (follow? q.entryAt (fld e 12 3) hops t n 6).isNone)) 6 i

/-- The string `n` of tile `i` as its descriptor says. -/
def str (q : Scroll) (i : Nat) (n : Fin 32) : Str := { desc := q.strDesc i n }

/-- The local-string rules (R135) for string `n` of tile `i`. An edge-side string has the KIND, DIR and SIZE of its edge
stream (R136). DEDUCED, log 28. -/
def strBad (q : Scroll) (i : Nat) (n : Fin 32) : Bool :=
  let z := q.str i n
  let d := z.desc.toNat
  let t := q.toRect.tile i
  if fld d 50 14 ≠ 0 then true
  else if !z.valid then false
  else if z.kind = 0 then
    match tileAt z.peerX z.peerY with
    | none => true
    | some u =>
      if !q.toRect.has (regionOf u) then true
      else
        let y := q.str (q.toRect.index u) z.pstr
        !y.valid || y.outbound == z.outbound || y.lines != z.lines || y.kind != 0 || y.peerX != tileX t
          || y.peerY != tileY t || y.pstr != n
  else
    let e : EdgeDesc := ⟨q.edge z.side.1 z.stream⟩
    fld d 39 4 != 0 || fld d 43 5 != 0 || !e.valid || e.str != n.1 || (e.memberOf t).isNone
      || e.kind != z.kind || e.outbound != z.outbound || e.lines != z.lines

/-- The least slot a chain stage needs, in bytes: what its template reads and writes that no register sets (R149).
DEDUCED: the counts of the vector and function classes come from registers and are checked at issue. -/
def templateNeeds (w : Nat) : Nat × Nat :=
  if fld w 60 4 = 4 then
    ((fmtOf (fld w 50 4)).elim 0 fun f => 64 * fld w 21 8 * f.blockLines, 4096)
  else (0, 0)

/-- A chain descriptor (R149, R357) of tile `i`. -/
def chainBad (q : Scroll) (i : Nat) (d : BitVec 512) : Bool :=
  let b := chainByte d
  let units := b 1
  let stages := chainStages d
  let first := bit (chainIn d)
  let slot := fun (k : Nat) => 64 * (fld (q.handle i (b (4 + 2 * k) % 64)) 10 10 + 1) / b (5 + 2 * k)
  let lines := fun (n : Nat) => 64 * (q.str i (finOf 32 n)).lines
  let sIn := q.str i (finOf 32 (b 2))
  let sOut := q.str i (finOf 32 (b 3))
  if !chainValid d then d.toNat != 0
  else
    decide (7 < b 0) || units == 0 || decide (6 < units) || decide (stages < 2) || decide (6 < stages)
      || (if chainIn d then decide (31 < b 2) || !sIn.valid || sIn.outbound else b 2 != 0)
      || (if chainOut d then decide (31 < b 3) || !sOut.valid || !sOut.outbound else b 3 != 0)
      || ((List.range 5).any fun k =>
          if k + 1 < stages then
            decide (63 < b (4 + 2 * k)) || decide (b (5 + 2 * k) < 2) || decide (8 < b (5 + 2 * k))
              || (fld (q.handle i (b (4 + 2 * k) % 64)) 10 10 + 1) % b (5 + 2 * k) != 0
          else b (4 + 2 * k) != 0 || b (5 + 2 * k) != 0)
      || b 14 != 0 || b 15 != 0
      || ((List.range 6).any fun u =>
          let w := fld d.toNat (128 + 64 * u) 64
          if u < units then
            let need := templateNeeds w
            let c := fld w 60 4
            !(c == 4 || c == 5 || c == 6)
              || (decide (0 < first + u) && decide (slot (first + u - 1) < need.1))
              || (decide (first + u + 1 < stages) && decide (slot (first + u) < need.2))
          else w != 0)
      || (chainIn d && decide (slot 0 < lines (b 2))) || (chainOut d && decide (slot (stages - 2) < lines (b 3)))

/-- STRINGS (R135, R149, R357). -/
def stringFails (q : Scroll) : List Fail :=
  if (q.sec? 9).isNone then []
  else (List.range q.nTiles).flatMap fun i =>
    failIf (((fins 32).any (q.strBad i)) || (fins 4).any fun k => q.chainBad i (q.chainDesc i k)) 9 i

/-! ### Service tables (R170, R178, R359) -/

/-- An expert-router table at byte `o` of the section. -/
def routerBad (q : Scroll) (o : Nat) : Bool :=
  match q.sec? 0xB with
  | none => true
  | some (_, b, n) =>
    let d := q.routerDesc (b + o)
    o % 64 != 0 || decide (o < 6144) || decide (n < o + 64 + 8 * d.e)
      || decide (1 < q.u (b + o) 1) || decide (1 < q.u (b + o + 1) 1) || d.e == 0 || decide (1024 < d.e) || d.k == 0
      || decide (16 < d.k) || d.cap == 0 || d.n == 0 || decide (16384 < d.n) || d.p == 0 || decide (64 < d.p)
      || decide (15 < d.tevent) || (d.gate && (d.e != 1 || d.k != 1))
      || q.stray (b + o) 64 [(0, 11), (12, 4)]
      || ((List.range d.e).any fun e =>
          let x := q.expert (b + o) e
          decide (127 < x.1) || decide (127 < x.2.1) || decide (15 < x.2.2.1) || q.u (b + o + 67 + 8 * e) 1 != 0)

/-- A selection table at byte `o` of the section. -/
def selectBad (q : Scroll) (o : Nat) : Bool :=
  match q.sec? 0xB with
  | none => true
  | some (_, b, n) =>
    let f := fun i => q.u (b + o + i) 1
    o % 64 != 0 || decide (o < 6144) || decide (n < o + 16) || f 0 == 0 || decide (64 < f 0) || decide (16 < f 1)
      || decide (64 < f 2) || decide (15 < f 3) || decide (f 0 < f 1 + f 2) || q.stray (b + o) 16 [(0, 4)]

/-- SERVICE: router table t of region f has index 16f + t, selection table t 768 + 16f + t. -/
def serviceFails (q : Scroll) : List Fail :=
  if (q.sec? 0xB).isNone then []
  else
    let off := fun (k : Nat) => q.su 0xB (128 * (k % 768 / 16) + 64 * (k / 768) + 4 * (k % 16)) 4
    let out := fun (k : Nat) => !q.toRect.has (finOf 48 (k % 768 / 16))
    (List.range 1536).flatMap fun k =>
      failIf (off k != 0 && (out k || (if k < 768 then q.routerBad (off k) else q.selectBad (off k)))) 0xB k

end Scroll

/-! ### Cycles of router buffers (R133) -/

/-- The valid entry of a tile over a union of scrolls. -/
def unionEntry (qs : List Scroll) (t : TileId) (n : Nat) : Option Nat := qs.findSome? fun q => q.entryAt t n

/-- Buffer of a router input: tile, port, lane. -/
def bufferKey (t : TileId) (p lane : Nat) : Nat := 16 * t.1 + 2 * p + lane

/-- The dependences between input buffers: a packet that stands in the first waits for space in the second. -/
def bufferEdges (qs : List Scroll) : List (Nat × Nat) :=
  (qs.flatMap fun q => q.routeTiles).flatMap fun t => (List.range 32).filterMap fun n =>
    match unionEntry qs t n with
    | none => none
    | some e =>
      match hop t (fld e 3 3) with
      | none => none
      | some (u, p) =>
        match unionEntry qs u (fld e 6 5) with
        | none => none
        | some g =>
          match hop u (fld g 3 3) with
          | some (v, r) =>
            if fld g 0 3 = p.1 ∧ fld g 12 3 = fld e 12 3 then
              some (bufferKey u p.1 (fld e 11 1), bufferKey v r.1 (fld g 11 1))
            else none
          | none => none

/-- The dependences that remain when those from buffers on which nothing waits are struck out, `fuel` times over: none
exactly when there is no cycle. -/
def strike : Nat → List (Nat × Nat) → List (Nat × Nat)
  | 0, es => es
  | fuel + 1, es => strike fuel (es.filter fun e => es.any fun d => d.2 == e.1)

/-- The channels of a union of scrolls form a cycle (R133). -/
def cyclic (qs : List Scroll) : Bool :=
  let es := bufferEdges qs
  !(strike es.length es).isEmpty

end Sys2Proof.Machine
end

