-- ==== Sys2Proof/Machine/CheckMemory.lean ====
section
/-! DEFINITION. The checks of a scroll at load, second part (R355, R358, R360 to R363): edge streams, segments, weights,
reduction, energy and checkpoint sections. -/

namespace Sys2Proof.Machine
namespace Scroll

/-! ### What lies where -/

/-- Every page of [a, a + n) lies in a PINNED segment (R215). -/
def pinned (q : Scroll) (a n : Nat) : Bool :=
  (List.range ((a % 2 ^ 21 + n + 2 ^ 21 - 1) / 2 ^ 21)).all fun i =>
    match q.segOf (a / 2 ^ 21 + i) with
    | some g => g.cls == 0
    | none => false

/-- The deep range as the images leave it (R216, R360). -/
def initMem (q : Scroll) : Mem :=
  q.images.foldl (fun (m : Mem) e =>
    match q.segments[e.1]? with
    | some g => Memory.copy m q.bytes g.base ((q.at? 0xC).getD 0 + e.2.1) e.2.2
    | none => m) []

/-- The bytes at an address are known to a check: they do not come from a remote home or, `late`, the pages that the checks need
have been fetched, before the scroll counts as loaded. Outside every segment no bit is set. DESIGN CHOICE, log 28. -/
def known (q : Scroll) (late : Bool) (a : Nat) : Bool :=
  match q.segOf (pageOf a) with
  | some g => g.init != 1 || late
  | none => true

/-- Do two intervals meet? -/
def meets (a n b m : Nat) : Bool := decide (a < b + m) && decide (b < a + n)

/-- A range of `n` bytes at offset `a` of a section of length `len` is not framed (R355). -/
def unframed (len head a n : Nat) : Bool :=
  n != 0 && (a == 0 || a % 64 != 0 || decide (a < head) || decide (len < a + n))

/-- A side has a port of a role under the scroll's own plan (R301). -/
def hasRole (q : Scroll) (side role : Nat) : Bool := (List.range 4).any fun i => q.su 2 (4 * side + i) 1 == role

/-- PORT_PLAN (R301). -/
def planFails (q : Scroll) : List Fail := (List.range 16).flatMap fun n => failIf (decide (3 < q.su 2 n 1)) 2 n

/-! ### Edge streams (R136, R144, R205, R228, R247, R307, R358) -/

/-- The valid streams: side, number, descriptor. -/
def streams (q : Scroll) : List (Nat × Nat × EdgeDesc) :=
  (List.range 4).flatMap fun side =>
    ((List.range (min 16384 (q.edgeCount side))).map fun n => (side, n, (⟨q.edge side n⟩ : EdgeDesc))).filter fun e => e.2.2.valid

/-- The OSTREAMs (R277). -/
def ostream (q : Scroll) (side n : Nat) : Bool := q.targets.any fun t => t.side == side && t.ostream == n

/-- First bytes of the rows that a stream's pattern gives its members, modulo 2^52 (R229). -/
def rowAddrs (e : EdgeDesc) : List Nat :=
  (List.range e.members).flatMap fun m => (List.range e.rows).map fun k =>
    ((((e.memberBase m : Nat) : Int) + e.rowOffset k) % (2 ^ 52 : Nat)).toNat

/-- A row of `n` bytes at `a`, which may wrap at 2^52, meets a range. -/
def rowMeets (a n b m : Nat) : Bool := meets a n b m || meets 0 (a + n - 2 ^ 52) b m

/-- The pattern rules (R228). -/
def patternBad (e : EdgeDesc) : Bool :=
  e.lines % e.rowl != 0 || e.count 0 == 0 || ((List.range 4).any fun d => e.count d == 0 && e.count (d + 1) != 0)
    || (e.span != 0 && decide (e.rows < e.span * e.lines / e.rowl))

/-- The rules of a KIND 1 stream (R247). -/
def weightBad (q : Scroll) (side : Nat) (e : EdgeDesc) : Bool :=
  match q.layout? (fld e.base 36 16) with
  | none => true
  | some l =>
    let view := bitAt e.base 35
    e.outbound || l.side != side || (view && !l.timg) || ((rowAddrs e).any fun a =>
      a / 2 ^ 35 != e.base / 2 ^ 35 || a % 64 != 0 || decide (l.imageBytes view < a % 2 ^ 35 + 64 * e.rowl))

/-- The mark list of a stream (R144, R215, R358): offset in the section, or why it is bad. -/
def marksBad (q : Scroll) (side n : Nat) (e : EdgeDesc) : Bool :=
  let len := ((q.sec? 0xA).map (·.2.2)).getD 0
  if e.markCount = 0 then (q.markDir side n).isSome
  else
    match q.markDir side n with
    | none => true
    | some o =>
      let w := fun (k : Nat) => q.su 0xA (o + 16 * k) 16
      o == 0 || o % 16 != 0 || decide (o < 128) || decide (len < o + 16 * e.markCount) || e.markBase % 16 != 0
        || !q.pinned e.markBase (16 * e.markCount)
        || ((List.range e.markCount).any fun k =>
            decide (1 < fld (w k) 0 8) || fld (w k) 56 8 != 0 || fld (w k) 96 32 != 0
              || (k != 0 && decide (fld (w k) 8 32 < fld (w (k - 1)) 8 32)))

/-- An edge-stream descriptor (R136), with the checks of its kind. DEDUCED, log 28: a reserved KIND, a reserved bit or a
value outside its range is rejected too; the pattern rules hold where a pattern is used, KIND 1 and 2. -/
def streamBad (q : Scroll) (c : Fin 8) (side n : Nat) (e : EdgeDesc) : Bool :=
  let r := e.raw
  let rect := q.toRect
  let inRect := fun (x y : Nat) => match tileAt x y with | some t => rect.has (regionOf t) | none => false
  e.kind == 0 || bitAt r 7 || bitAt r 23 || fld r 124 4 != 0 || fld r 276 4 != 0 || decide (64 < e.prefetch)
    || e.ctx != c.1 || decide (e.x1 < e.x0) || decide (e.y1 < e.y0) || !inRect e.x0 e.y0 || !inRect e.x1 e.y1
    || e.mstride % 64 != 0 || q.marksBad side n e
    || (e.kind != 3 && patternBad e)
    || (e.kind == 1 && q.weightBad side e)
    || (e.kind == 2 && e.outbound && !e.inplace && (rowAddrs e).any fun a =>
        q.wides.any fun w => rowMeets a (64 * e.rowl) w.1 w.2)
    || (e.kind == 3 && !q.ostream side n && (q.fabric.filter fun f => f.1 == side && f.2.1 == n).length != 1)

/-- A fabric-stream entry (R302, R307). -/
def fabricBad (q : Scroll) (ident : Half) (f : Nat × Nat × Nat × Nat) : Bool :=
  let e : EdgeDesc := ⟨q.edge f.1 f.2.1⟩
  !e.valid || e.kind != 3 || q.ostream f.1 f.2.1 || f.2.2.1 == 0 || decide (3 < f.2.2.1) || !q.hasRole f.1 f.2.2.1
    || (!e.outbound && f.2.2.2 == 0xFFFF) || f.2.2.2 == ident.toNat

/-- EDGE. Every failure of a stream has index 16,384 x side + stream. -/
def edgeFails (q : Scroll) (c : Fin 8) (ident : Half) : List Fail :=
  match q.sec? 0xA with
  | none => []
  | some (_, o, len) =>
    let dirs := (List.range (q.su 0xA 72 4)).map fun i => q.su 0xA (q.su 0xA 64 8 + 16 * i) 2
    failIf (q.stray o 128 [(0, 12), (16, 12), (32, 12), (48, 12), (64, 12), (80, 12)]
        || ((List.range 4).any fun s => decide (16384 < q.edgeCount s) || unframed len 128 (q.su 0xA (16 * s) 8) (64 * q.edgeCount s))
        || unframed len 128 (q.su 0xA 64 8) (16 * q.su 0xA 72 4) || unframed len 128 (q.su 0xA 80 8) (16 * q.su 0xA 88 4)) 0xA 0
      ++ (dirs.zipIdx.flatMap fun (d : Nat × Nat) =>
        let side := d.1 % 4
        let n := d.1 / 4
        failIf (!(⟨q.edge side n⟩ : EdgeDesc).valid || (⟨q.edge side n⟩ : EdgeDesc).markCount == 0
          || decide (1 < (dirs.filter (· == d.1)).length)
          || q.stray (o + q.su 0xA 64 8 + 16 * d.2) 16 [(0, 2), (8, 8)]) 0xA (16384 * side + n))
      ++ (q.fabric.zipIdx.flatMap fun (f : (Nat × Nat × Nat × Nat) × Nat) =>
        failIf (q.fabricBad ident f.1 || q.stray (o + q.su 0xA 80 8 + 16 * f.2) 16 [(0, 3), (4, 2)]) 0xA
          (16384 * f.1.1 + f.1.2.1))
      ++ q.streams.flatMap fun (e : Nat × Nat × EdgeDesc) => failIf (q.streamBad c e.1 e.2.1 e.2.2) 0xA (16384 * e.1 + e.2.1)

/-! ### Segments (R115, R204, R213 to R215, R360) -/

/-- Segment entry `i`. -/
def segmentBad (q : Scroll) (o : Nat) (g : Segment) (i : Nat) : Bool :=
  let a := o + q.su 0xC 8 8 + 64 * i
  q.stray a 64 [(0, 28), (32, 8)] || g.base % 2 ^ 21 != 0 || g.pages == 0 || decide (2 ^ 26 < g.pages)
    || decide (2 ^ 52 < g.base + g.pages * 2 ^ 21) || decide (2 < g.cls) || decide (1 < q.u (a + 13) 1)
    || decide (2 < g.init) || g.sides == 0 || decide (15 < g.sides) || decide (2 ^ 48 ≤ g.regions)
    || decide (2 ^ 40 ≤ g.home) || (g.cls != 0 && g.src0 == 0xFFFF) || (g.init == 1 && g.src0 == 0xFFFF)
    || (g.init == 2 && g.cls != 0) || (g.shared && (g.cls == 0 || g.init != 1))
    || ((fins 48).any fun f => bitAt g.regions f.1 && !q.toRect.has f)
    || (q.segments.zipIdx.any fun (h : Segment × Nat) => h.2 != i && meets g.base (g.pages * 2 ^ 21) h.1.base (h.1.pages * 2 ^ 21))
    || (g.init == 2 && (q.images.filter fun e => e.1 == i).length != 1)

/-- SEGMENTS: segment i has index i, the spill base of region f 256 + f, wide buffer w 512 + w, an image the index of
its segment. -/
def segmentFails (q : Scroll) : List Fail :=
  match q.sec? 0xC with
  | none => []
  | some (_, o, len) =>
    failIf (q.stray o 64 [(0, 44)] || decide (256 < q.su 0xC 0 4) || decide (8 < q.su 0xC 4 4)
        || unframed len 64 (q.su 0xC 8 8) (64 * q.su 0xC 0 4)
        || unframed len 64 (q.su 0xC 16 8) (if q.su 0xC 16 8 = 0 then 0 else 384)
        || unframed len 64 (q.su 0xC 24 8) (16 * q.su 0xC 4 4) || unframed len 64 (q.su 0xC 32 8) (32 * q.su 0xC 40 4)) 0xC 0
      ++ (eachFail q.segments fun g i => failIf (q.segmentBad o g i) 0xC i)
      ++ ((fins 48).flatMap fun f =>
        let b := q.spillBase f
        failIf (b != 0 && (b % 2 ^ 30 != 0 || !q.toRect.has f || !q.pinned b (2 ^ 30))) 0xC (256 + f.1))
      ++ (eachFail q.wides fun w i =>
        failIf (w.1 % 2 ^ 21 != 0 || w.2 % 2 ^ 21 != 0 || w.2 == 0 || decide (2 ^ 40 < w.2) || !q.pinned w.1 w.2
          || (q.wides.zipIdx.any fun (v : (Nat × Nat) × Nat) => v.2 != i && meets w.1 w.2 v.1.1 v.1.2)) 0xC (512 + i))
      ++ eachFail q.images fun e i =>
        failIf (q.stray (o + q.su 0xC 32 8 + 32 * i) 32 [(0, 2), (8, 16)] || unframed len 64 e.2.1 e.2.2 ||
          (match q.segments[e.1]? with
            | some g => g.init != 2 || decide (g.pages * 2 ^ 21 < e.2.2)
            | none => true)) 0xC e.1

/-! ### Weights (R243 to R246, R253, R361) -/

/-- Format codes of weights (R243). -/
def weightFmt (f : Nat) : Bool := (decide (1 ≤ f) && decide (f ≤ 10)) || f == 13 || f == 14

/-- PERM, as far as its bytes are known, moves a row out of its shard or names none (R243, R246). -/
def permMoves (q : Scroll) (late : Bool) (m : Mem) (l : Layout) : Bool :=
  l.perm != 0 && (List.range l.srows).any fun r =>
    let p := Memory.readLE m (l.perm + 4 * r) 4
    q.known late (l.perm + 4 * r) && (decide (l.srows ≤ p) || p / l.shardRows != r / l.shardRows)

/-- PERM is misplaced or bad (R243, R246). -/
def permBad (q : Scroll) (m : Mem) (l : Layout) : Bool :=
  l.perm != 0 && (l.perm % 64 != 0 || !q.pinned l.perm (4 * l.srows) || q.permMoves false m l)

/-- Version-layout entry `i`. -/
def layoutBad (q : Scroll) (m : Mem) (o : Nat) (l : Layout) (i : Nat) : Bool :=
  let a := o + q.su 0xD 8 8 + 64 * i
  let size := fun (n : Nat) => n == 0 || decide (131072 < n)
  let reads := fun (n : Nat) => n == 0 || decide (2 ^ 20 < n)
  q.stray a 64 [(0, 10), (12, 28)] || !weightFmt l.sfmt || !weightFmt l.tfmt || decide (2 < l.sp)
    || decide (1 < q.u (a + 5) 1) || decide (1 < l.pack) || decide (3 < l.side) || decide (1 < q.u (a + 8) 1)
    || size l.srows || size l.scols || l.shardRows % 32 != 0 || size l.shardRows || reads l.reads
    || (l.timg && reads l.treads)
    || ((q.layouts.take i).any fun k => decide (l.tensor ≤ k.tensor))
    || (l.timg && !l.imgFmt.isMX && l.sp != 1)
    || decide (2 ^ 35 < l.imageBytes false) || (l.timg && decide (2 ^ 35 < l.imageBytes true))
    || q.permBad m l || !q.hasRole l.side 1 || decide (q.su 0xD 4 4 ≤ l.srclist)

/-- Source list `l` (R253, R361). -/
def sourceBad (q : Scroll) (o l : Nat) : Bool :=
  let a := o + q.su 0xD 16 8 + 32 * l
  let roles := (List.range 4).map fun i => q.u (a + 4 * i) 1
  q.stray a 32 [(0, 1), (2, 3), (6, 3), (10, 3), (14, 4)] || (roles.any fun r => decide (2 < r) && r != 0xFF)
    || !roles.contains 2 || ((roles.drop 1).contains 0)
    || ((List.range 3).any fun i => roles.getD i 0 == 0xFF && roles.getD (i + 1) 0 != 0xFF)

/-- WEIGHTS: layout entry i has index i, source list l 65,536 + l. -/
def weightFails (q : Scroll) (m : Mem) : List Fail :=
  match q.sec? 0xD with
  | none => []
  | some (_, o, len) =>
    failIf (q.stray o 64 [(0, 24)] || decide (65536 < q.su 0xD 0 4) || decide (256 < q.su 0xD 4 4)
        || unframed len 64 (q.su 0xD 8 8) (64 * q.su 0xD 0 4) || unframed len 64 (q.su 0xD 16 8) (32 * q.su 0xD 4 4)) 0xD 0
      ++ (eachFail q.layouts fun l i => failIf (q.layoutBad m o l i) 0xD i)
      ++ (List.range (min 256 (q.su 0xD 4 4))).flatMap fun l => failIf (q.sourceBad o l) 0xD (65536 + l)

/-! ### Reduction (R196 to R204, R209, R277, R278, R362) -/

/-- Blocks that two targets share (R203). -/
def sharesBlock (t u : Target) : Bool :=
  t.tensor == u.tensor && meets t.bi0 t.nbi u.bi0 u.nbi && meets t.bj0 t.nbj u.bj0 u.nbj

/-- The map bytes that say which parts of slice `s` are live (R199). -/
def maskBytes (k : MaskEntry) (t : Target) (s : Nat) : List Nat :=
  if k.kind = 2 then
    [0, 1].map fun (h : Nat) => k.map + (k.cols / 16 * (2 * t.rowOf s + h) + 2 * t.colOf s) / 8
  else [k.map + 4 * t.rowOf s]

/-- A slice of the target is fully masked, as far as the map's bytes are known (R200). -/
def maskedOut (q : Scroll) (late : Bool) (m : Mem) (t : Target) : Bool :=
  let x : Ctx := { mem := m }
  match q.maskOf t with
  | some k => (List.range t.slices).any fun s => ((maskBytes k t s).all fun a => q.known late a) && x.liveMask q t s == 0
  | none => false

/-- Gradient target `i` (R196, R200, R203, R204, R209, R278, R302). -/
def targetBad (q : Scroll) (m : Mem) (o : Nat) (t : Target) (i : Nat) : Bool :=
  let a := o + q.su 0xE 32 8 + 32 * i
  let out : EdgeDesc := ⟨q.edge t.side t.ostream⟩
  let wide := q.wides[t.wbuf]?
  q.stray a 32 [(0, 19), (24, 8)] || decide (4095 < t.bi0) || decide (4095 < t.bj0) || t.nbi == 0 || decide (4096 < t.nbi)
    || t.nbj == 0 || decide (4096 < t.nbj) || decide (3 < t.side) || decide (1 < q.u (a + 11) 1)
    || decide (16383 < t.stream) || decide (16383 < t.ostream)
    || (t.mask != 0xFFFF && decide (q.su 0xE 28 4 ≤ t.mask))
    || !q.hasRole t.side 2 || !out.valid || out.outbound || out.lines != 65 || out.kind != 3
    || (if t.wide then
          t.woff % 4096 != 0 || (match wide with
            | some w => decide (w.2 < t.woff + 4096 * t.slices)
            | none => true)
          || (q.targets.zipIdx.any fun (u : Target × Nat) => u.2 != i && u.1.wide && u.1.wbuf == t.wbuf
              && meets t.woff (4096 * t.slices) u.1.woff (4096 * u.1.slices))
        else t.wbuf != 0 || t.woff != 0 || decide (1 < q.mb) || q.afterBackward)
    || (q.targets.zipIdx.any fun (u : Target × Nat) => u.2 != i && sharesBlock t u.1)
    || q.maskedOut false m t

/-- Mask entry `i` (R199). -/
def maskBad (q : Scroll) (o : Nat) (k : MaskEntry) (i : Nat) : Bool :=
  q.stray (o + q.su 0xE 40 8 + 32 * i) 32 [(0, 1), (2, 10), (16, 8)] || (k.kind != 1 && k.kind != 2) || k.map % 64 != 0
    || decide (2 ^ 52 ≤ k.map)
    || (match q.layout? k.tensor with
        | some l => k.rows != 32 * l.nbi || k.cols != 32 * l.nbj
        | none => true)

/-- The header of the reduction section (R277, R278). -/
def reductionBad (q : Scroll) (ident : Half) : Bool :=
  let f := q.su 0xE
  let ring := fun (l : Fin 2) => q.ring l
  let ringBad := fun (l : Fin 2) => (ring l).contains 0xFFFF || ((ring l).filter (· == ident)).length != 1
    || (ring l).eraseDups.length != (ring l).length
  decide (f 0 1 < 2) || decide (64 < f 0 1) || f 1 1 == 1 || decide (64 < f 1 1) || decide (1 < f 2 1) || decide (1 < f 3 1)
    || decide (8 < f 4 1) || f 6 2 == 0 || decide (1000 < f 6 2) || f 16 2 == 0xFFFF
    || (f 3 1 == 1 && q.rstage == 0)
    || (q.rstage != 0 && !(q.segments.any fun g => g.base == q.rstage && g.cls == 0 && decide (128 ≤ g.pages)))
    || ringBad 0 || (f 1 1 != 0 && ringBad 1)

/-- REDUCTION: target i has index i, mask entry m 65,536 + m. -/
def reductionFails (q : Scroll) (m : Mem) (ident : Half) : List Fail :=
  match q.sec? 0xE with
  | none => []
  | some (_, o, len) =>
    failIf (q.stray o 384 [(0, 5), (6, 16), (24, 24), (128, 256)] || q.reductionBad ident || decide (1024 < q.su 0xE 28 4)
        || unframed len 384 (q.su 0xE 32 8) (32 * q.su 0xE 24 4) || unframed len 384 (q.su 0xE 40 8) (32 * q.su 0xE 28 4)) 0xE 0
      ++ (eachFail q.targets fun t i => failIf (q.targetBad m o t i) 0xE i)
      ++ eachFail q.masks fun k i => failIf (q.maskBad o k i) 0xE (65536 + i)

/-- The checks of R200 and R243 again once the pages of INIT HOME that they read hold their contents, not known at order 3.
DESIGN CHOICE, log 28. -/
def lateFails (q : Scroll) (m : Mem) : List Fail :=
  (eachFail q.layouts fun l i => failIf (q.permMoves true m l) 0xD i)
    ++ eachFail q.targets fun t i => failIf (q.maskedOut true m t) 0xE i

/-! ### Energy (R386) and checkpoint (R404, R363) -/

/-- Phases with a predecessor struck out while one has none left: what remains lies on or behind a cycle. -/
def strikePhases : Nat → List (Nat × List Nat) → List (Nat × List Nat)
  | 0, ps => ps
  | fuel + 1, ps => strikePhases fuel (ps.filter fun p => p.2.any fun k => ps.any fun r => r.1 == k)

/-- The PHASE marks of the scroll's mark lists. -/
def phaseMarks (q : Scroll) : List Nat :=
  q.streams.flatMap fun (e : Nat × Nat × EdgeDesc) =>
    match q.markDir e.1 e.2.1 with
    | none => []
    | some o => (List.range e.2.2.markCount).filterMap fun k =>
      let w := q.su 0xA (o + 16 * k) 16
      if fld w 0 8 = 1 then some (fld w 40 16) else none

/-- ENERGY (R386). -/
def energyFails (q : Scroll) : List Fail :=
  let ps := q.phases
  let names := ps.map (·.num)
  let left := strikePhases ps.length (ps.map fun p => (p.num, p.preds))
  failIf (q.phaseMarks.any fun k => !names.contains k) 0xF 0 ++ eachFail ps fun p i =>
    let a := 128 * i
    failIf (decide (1 < (names.filter (· == p.num)).length) || (p.preds.any fun k => !names.contains k)
      || (left.any fun r => r.1 == p.num) || decide (8 < q.su 0xF (a + 2) 1) || q.su 0xF (a + 3) 1 != 0
      || ((List.range 8).any fun j => decide (p.preds.length ≤ j) && q.su 0xF (a + 4 + 2 * j) 2 != 0)
      || q.su 0xF (a + 22) 2 != 0 || p.count == 0 || p.duration == 0
      || !(⟨q.edge p.side p.stream⟩ : EdgeDesc).valid
      || ((fins 48).any fun f => p.energy.getD f.1 0 != 0 && !q.toRect.has f)) 0xF i

/-- CHECKPOINT (R363, R404). -/
def checkpointFails (q : Scroll) : List Fail :=
  match q.sec? 0x10 with
  | none => []
  | some (_, o, _) =>
    let f := q.su 0x10
    let inRange := fun (a n : Nat) => (List.range (n / 2 ^ 21)).all fun i => (q.statePage? (a / 2 ^ 21 + i)).isSome
    let held := fun (g : Fin 48) => (List.range 16384).any fun i => q.stateful (q.toRect.index (tileIn g i))
    failIf (q.stray o 64 [(0, 6), (8, 1), (10, 6)] || f 0 2 == 0 || decide (64 < f 0 2) || decide (64 < f 8 1)
        || decide (512 < f 10 2) || (f 12 4 != 0 && (decide (f 12 4 < 60) || decide (86400 < f 12 4)))
        || ((q.partner != 0xFFFF) != (q.buddyArea != 0)) || q.dserver == 0xFFFF
        || ((fins 48).any fun g => q.toRect.has g && q.spillBase g != 0 && held g && !inRange (q.spillBase g) (2 ^ 30))) 0x10 0
      ++ eachFail q.ranges fun r i =>
        failIf (q.stray (o + 64 + 16 * i) 16 [(0, 14)] || r.1 % 2 ^ 21 != 0 || r.2.1 == 0 || decide (2 ^ 20 < r.2.1)
          || !q.pinned r.1 (r.2.1 * 2 ^ 21)
          || ((q.ranges.take i).any fun p => decide (r.1 < p.1 + p.2.1 * 2 ^ 21))
          || (q.wides.any fun w => meets r.1 (r.2.1 * 2 ^ 21) w.1 w.2)) 0x10 i

/-! ### Bytes that no structure holds (R355) -/

/-- A byte of the section that no structure of it names is not zero. -/
def gap (q : Scroll) (ty : Nat) (named : List (Nat × Nat)) : List Fail :=
  match q.sec? ty with
  | none => []
  | some (_, o, len) => failIf (q.stray o len named) ty 0

/-- The gaps of the framed sections. -/
def gapFails (q : Scroll) : List Fail :=
  let blocks := (List.range q.nTiles).map q.handleBlock
  let tables := (fins 48).flatMap fun f => (List.range 16).map fun t =>
    (q.su 0xB (128 * f.1 + 4 * t) 4, q.su 0xB (128 * f.1 + 64 + 4 * t) 4)
  q.gap 8 ((0, 16 * q.nTiles) :: blocks.filter fun (b : Nat × Nat) => b.1 != 0)
    ++ q.gap 0xA ([(0, 128), (q.su 0xA 64 8, 16 * q.su 0xA 72 4), (q.su 0xA 80 8, 16 * q.su 0xA 88 4)]
      ++ ((List.range 4).map fun s => (q.su 0xA (16 * s) 8, 64 * q.edgeCount s))
      ++ q.streams.filterMap fun (e : Nat × Nat × EdgeDesc) => (q.markDir e.1 e.2.1).map fun m => (m, 16 * e.2.2.markCount))
    ++ q.gap 0xB ((0, 6144) :: tables.flatMap fun (t : Nat × Nat) =>
        (if t.1 = 0 then [] else [(t.1, 64 + 8 * (q.routerDesc ((q.at? 0xB).getD 0 + t.1)).e)])
          ++ if t.2 = 0 then [] else [(t.2, 16)])
    ++ q.gap 0xC ([(0, 64), (q.su 0xC 8 8, 64 * q.su 0xC 0 4), (q.su 0xC 16 8, if q.su 0xC 16 8 = 0 then 0 else 384),
        (q.su 0xC 24 8, 16 * q.su 0xC 4 4), (q.su 0xC 32 8, 32 * q.su 0xC 40 4)] ++ q.images.map fun e => e.2)
    ++ q.gap 0xD [(0, 64), (q.su 0xD 8 8, 64 * q.su 0xD 0 4), (q.su 0xD 16 8, 32 * q.su 0xD 4 4)]
    ++ q.gap 0xE [(0, 384), (q.su 0xE 32 8, 32 * q.su 0xE 24 4), (q.su 0xE 40 8, 32 * q.su 0xE 28 4)]

end Scroll
end Sys2Proof.Machine
end

