-- ==== Sys2Proof/Machine/ScrollCheck.lean ====
section
/-! DEFINITION. The checks of a scroll at load, last part (R364 to R369): fret map, quotas, port plan and transit
reservations, and the one failure that is reported (R367). -/

namespace Sys2Proof.Machine

/-! ### Fret map (R364, R365) -/

/-- The scroll lists the DEAD tiles and lost regions of its regions (R365). -/
def State.fits (s : State) (q : Scroll) : Bool :=
  let mine := (fins 48).filter fun f => q.toRect.has f || bitAt q.transit f.1
  let listed := (List.range (((q.sec? 1).map (·.1)).getD 0)).map fun i => q.su 1 (8 + 4 * i) 4
  (mine.all fun f => !s.fret.lost.getLsbD f.1 || bitAt q.defectsLost f.1)
    && s.fret.dead.all fun d =>
      let t : TileId := finOf 786432 d
      !mine.contains (regionOf t) || listed.contains (tileX t + 1024 * tileY t)

/-- A tile on which nothing may be placed (R364). -/
def State.barred (s : State) (t : TileId) : Bool := s.tileGone t

/-- Nothing is placed on a DEAD tile or in a lost region (R364). -/
def State.placeFails (s : State) (q : Scroll) : List Fail :=
  let bad := fun (t : Option TileId) => match t with | some t => s.barred t | none => false
  let fret := fun (b : Bool) (ty i : Nat) => if b then [((6 : Nat), ty, i)] else []
  ((List.range q.nTiles).flatMap fun i =>
    let t := q.toRect.tile i
    fret (s.barred t && !q.idleTile i) 3 i
      ++ fret (bad (Scroll.loadPort (fld (q.su 3 (16 * i) 16) 32 2) (fld (q.su 3 (16 * i) 16) 34 10)) && !q.idleTile i) 3 i
      ++ fret ((fins 32).any fun n =>
          let z := q.str i n
          z.valid && (s.barred t || (z.kind == 0 && bad (tileAt z.peerX z.peerY)))) 9 i)
    ++ (eachFail q.routeTiles fun t i =>
      fret ((List.range 32).any fun n =>
        match q.entryAt t n with
        | none => false
        | some e =>
          (match Machine.hop t (fld e 3 3) with | some (u, _) => s.barred u | none => false)
            || (s.barred t && (Machine.hop t (fld e 0 3)).isNone && decide (fld e 0 3 ≤ 3))) 6 i)
    ++ (q.streams.flatMap fun (e : Nat × Nat × EdgeDesc) =>
      fret ((List.range e.2.2.members).any fun m => bad (e.2.2.memberTile m)) 0xA (16384 * e.1 + e.2.1))
    ++ (fins 48).flatMap fun f => (fins 16).flatMap fun t =>
      match q.router? f t with
      | none => []
      | some o => fret ((List.range (q.routerDesc o).e).any fun e =>
          let x := q.expert o e
          s.barred (tileIn f (128 * x.2.1 + x.1))) 0xB (16 * f.1 + t.1)

/-- FRET (R364, R365, R367). -/
def State.fretFails (s : State) (q : Scroll) : List Fail :=
  (if s.fits q then [] else [(6, 1, 0)]) ++ s.placeFails q

/-! ### Quotas, plan and reservations (R220, R248, R301, R334, R368, R405) -/

/-- The scrolls of the other contexts. -/
def State.otherScrolls (s : State) (c : Fin 8) : List Scroll :=
  ((fins 8).filter (· != c)).filterMap fun d =>
    (((s.ctx d).load.filter fun l => decide (4 ≤ l.order)).map (·.scroll)).or (s.scroll? d)

/-- QUOTA. -/
def State.quotaFails (s : State) (c : Fin 8) (q : Scroll) : List Fail :=
  let x := s.ctx c
  let wide := (q.wides.map (·.2)).sum
  if decide (x.stacked * 512 < q.pinnedPages + q.fixedPages) || decide (x.remote < q.remotePages)
      || decide (x.stacked * 2 ^ 30 < wide)
      || ((List.range 4).any fun i => decide (32 < ((q :: s.otherScrolls c).map fun o => o.ncache i).sum)) then [(7, 0, 0)]
  else []

/-- The entries of region `f` that are granted to a context (R334). -/
def Ctx.grantHas (x : Ctx) (f n : Nat) : Bool :=
  match x.grants.get? f with
  | some g => decide (g.1 ≤ n) && decide (n < g.1 + g.2)
  | none => false

/-- PLAN: another plan is in force, or an entry lies outside the context's grants or inside another's (R35, R301, R334). -/
def State.planConflict (s : State) (c : Fin 8) (q : Scroll) : Bool :=
  (match s.plan with
    | some pl => (fins 16).any fun n => (pl[n]).1 != q.su 2 n.1 1
    | none => false)
  || q.routeTiles.any fun t =>
    let f := regionOf t
    (List.range 32).any fun n => (q.entryAt t n).isSome &&
      ((!q.toRect.has f && !(s.ctx c).grantHas f.1 n) || (fins 8).any fun d => d != c && (s.ctx d).grantHas f.1 n)

/-! ### The check as a whole (R366 orders 2 and 3, R367) -/

/-- Pages that a scroll's segments map (R214). -/
def Scroll.mapped (q : Scroll) : Nat := (q.segments.map (·.pages)).sum

/-- Rejections under the rules of the sections' chapters (CAUSE 5). -/
def State.sectionFails (s : State) (c : Fin 8) (q : Scroll) : List Fail :=
  let m := q.initMem
  let others := s.otherScrolls c
  q.lengthFails ++ q.planFails ++ q.tileMapFails c ++ q.programFails ++ q.taskFails ++ q.routeFails
    ++ failIf (cyclic (q :: others)) 6 0 ++ q.functionFails ++ q.handleFails (s.ctx c).hquota ++ q.stringFails
    ++ q.edgeFails c s.ident ++ q.serviceFails ++ q.segmentFails
    ++ failIf (decide (2 ^ 27 < ((q :: others).map Scroll.mapped).sum)) 0xC 0
    ++ q.weightFails m ++ q.reductionFails m s.ident ++ q.energyFails ++ q.checkpointFails ++ q.gapFails

/-- Every failure of a scroll for a context. -/
def State.scrollFails (s : State) (c : Fin 8) (q : Scroll) : List Fail :=
  let r := (s.ctx c).rect
  let rect := if q.rect = (r.fx0.1, r.fx1.1, r.fy0.1, r.fy1.1) then [] else [((4 : Nat), (0 : Nat), (0 : Nat))]
  q.sizeFails ++ q.formatFails ++ s.signatureFails q ++ rect ++ s.sectionFails c q ++ s.fretFails q
    ++ s.quotaFails c q ++ (if s.planConflict c q then [(8, 0, 0)] else [])

/-- Order of R367: CAUSE, then TYPE, then index. -/
def Fail.le (a b : Fail) : Bool :=
  decide (a.1 < b.1) || (a.1 == b.1 && (decide (a.2.1 < b.2.1) || (a.2.1 == b.2.1 && decide (a.2.2 ≤ b.2.2))))

/-- The failure that is reported (R367). -/
def leastFail : List Fail → Option Fail
  | [] => none
  | f :: fs =>
    match leastFail fs with
    | none => some f
    | some g => some (if Fail.le f g then f else g)

/-- STATUS of a CAUSE (R367). -/
def failStatus (cause : Nat) : Nat :=
  if cause = 0 then 0
  else if cause = 1 ∨ cause = 10 then 2
  else if cause = 7 ∨ cause = 8 then 7
  else 8

/-- DETAIL of a LOAD_SCROLL completion: CAUSE in bytes 8 and 9 of the record, TYPE in 10 and 11, index in 12 to 15 (R367). -/
def failDetail (f : Fail) : Nat := f.1 + f.2.1 * 2 ^ 16 + f.2.2 * 2 ^ 32

end Sys2Proof.Machine
end

