-- ==== Sys2Proof/Machine/Power.lean ====
section
/-! DEFINITION. Power and heat (R377 to R400, R502 to R511): pegs, region states, lost regions, regulators, rails,
sensors, wear, coolant, FAILED, and the health score (R401 to R403). -/

namespace Sys2Proof.Machine

/-! ### FAILED (R443) -/

/-- Entry into FAILED (R443): SerDes off, REG_OFF_N low, every rail commanded to 0 V, scratchpads lost. The message of order
2 follows in `settle`. -/
def State.enterFailed (s : State) : State :=
  if s.hng.failed then s
  else
    { s.emit .serdesOff with
      hng := { s.hng with failed := true }
      pins := { s.pins with regOffN := false }
      regions := s.regions.map fun x => { x with peg := 0, armed := false }
      tiles := []
      mesh := [] }

/-- THERMTRIP_N falls, set by hardware (R504). -/
def State.trip (s : State) : State := { s with pins := { s.pins with thermtripN := false } }

/-- THERMTRIP (R504, R506): the pin falls in every state of the engine. -/
def execThermtrip (s : State) : Host.Outcome State Fault Refusal := actOr State.trip (fun s => s.trip.enterFailed) s

/-- SUPPLY_FAULT (R502). -/
def execSupplyFault (_rail : AuxRail) (s : State) : Host.Outcome State Fault Refusal := act State.enterFailed s

/-! ### Pegs and region states (R380, R381) -/

/-- A region's peg commanded (R380, R381): not while its link is silent (R379); recorded in the action log. -/
def State.setPeg (s : State) (r : Fin 48) (mv : Nat) (cause_ : Nat := 0xFFFF) : State :=
  let x := s.regions[r]
  if x.peg = mv || x.noLink then s
  else
    let s := s.modRegion r fun x => { x with
      peg := mv, armed := x.armed && mv != 0, inDip := x.inDip && mv != 0
      floorTime := if mv = 0 then 0 else x.floorTime }
    (s.emit (.regulatorTarget r mv)).action 1 r.1 cause_ mv

/-- Does a context reserve entries in the region (R334)? -/
def State.reserved (s : State) (r : Fin 48) : Bool :=
  (fins 8).any fun c => (s.ctx c).state != .free && (s.ctx c).transit.getLsbD r.1

/-- A peg that an ACTIVE region may have (R380, R391): a blind region's is held at 0.60 V. -/
def State.activePeg (s : State) (r : Fin 48) (mv : Nat) : Nat :=
  if s.thermal[finOf 60 r.1].blind = 0 then max 600 mv else 600

/-- The region's state under R380, with the peg that goes with it and the cause of its change: ACTIVE keeps the loop's choice,
at least 0.60 V. A rail that falls on entry to REST is not in a dip (R394); the entry is over when its regulator next answers.
DESIGN CHOICE, log 44. -/
def State.settleRegion (s : State) (r : Fin 48) (cause_ : Nat := 0xFFFF) : State :=
  let x := s.regions[r]
  let held := (s.ctxOfRegion r).isSome
  let stalled := s.thermal[finOf 60 r.1].stall != 0
  let put := fun (st : RegionState) (mv : Nat) => (s.modRegion r fun x => { x with state := st }).setPeg r mv cause_
  if x.state = .lost then s
  else if !held && !s.reserved r then put .off 0
  else
    match s.power with
    | .park => put .park 0
    | .rest =>
      let falls := decide (600 < x.peg)
      (s.modRegion r fun x => { x with
        state := .rest, entering := x.entering || falls, inDip := x.inDip && !falls }).setPeg r 600 cause_
    | .active =>
      if stalled then put .stall 600
      else if held then put .active (s.activePeg r x.peg)
      else put .transit 600

/-- Every region's state settled. -/
def State.settleRegions (s : State) : State := (fins 48).foldl (fun (s : State) r => s.settleRegion r) s

/-- DEGRADED between steps (R446): a STEP_START whose context stands at a step boundary completes with ABORTED. During a
recovery reset order 8 does this. -/
def State.abortStanding (s : State) : State :=
  if !s.degraded || s.hng.running then s
  else (fins 8).foldl (fun (s : State) c =>
    if (s.ctx c).starting && !(s.ctx c).inStep then s.endSteps c Status.aborted else s) s

/-- Loaded scrolls that no longer fit become STALE (R374), the previous one of a context that loads another included. The
scroll that a load installs is judged as the load completes. -/
def State.markStale (s : State) : State :=
  (fins 8).foldl (fun (s : State) c =>
    match s.scroll? c with
    | some q =>
      let installed := match (s.ctx c).load with | some l => l.order == 7 | none => false
      if !installed && !s.fits q then s.modCtx c fun x => { x with stale := true } else s
    | none => s) s

/-- A region lost (R394, R444): muted, its rail off, the loss added to the fret map at once (R370), its tiles off the dead list
(R373), and the engine DEGRADED (R446). `cause_` is what the action log names (R490). -/
def State.loseRegion (s : State) (r : Fin 48) (cause_ : Nat := 0xA01) : State :=
  if s.regions[r].state = .lost then s
  else
    let s := if s.regions[r].peg = 0 then s else s.action 1 r.1 cause_ 0
    let s := s.modRegion r fun x => { x with
      state := .lost, peg := 0, armed := false, inDip := false, entering := false, floorTime := 0, highTime := 0 }
    let s := ((s.emit (.regulatorTarget r 0)).causeAt Reg.pwrCause 1 1 r.1).action 4 r.1 cause_ (2 ^ 31 - 1)
    let s := { s with
      fret := { s.fret with
        lost := s.fret.lost ||| BitVec.ofNat 48 (2 ^ r.1), revision := s.fret.revision + 1, openRecord := true
        dead := s.fret.dead.filter fun t => regionOf (finOf 786432 t) != r }
      tiles := s.tiles.keep fun k _ => regionOf (finOf 786432 k) != r
      mesh := s.mesh.filter fun f => regionOf f.tile != r }
    s.markStale.abortStanding

/-! ### Regulators (R378, R379) -/

/-- REGULATOR_POLL (R379). -/
def execRegulatorPoll (r : Fin 48) (s : State) : Host.Outcome State Fault Refusal :=
  act (fun s => (s.modRegion r fun x => { x with polled := true }).emit (.regulatorPoll r)) s

/-- REGULATOR_TELEMETRY (R378, R379): an answer clears NOLINK, and the region takes the peg of its state (R380). -/
def execRegulatorTelemetry (r : Fin 48) (mv amps : Nat) (temp : Int) (s : State) : Host.Outcome State Fault Refusal :=
  act (fun s =>
    let was := s.regions[r].noLink
    let s := s.modRegion r fun x => { x with
      mv := mv, amps := amps, regTemp := temp, polled := false, noLink := false, entering := false }
    if was && s.regions[r].state != .test then s.settleRegion r else s) s

/-- REGULATOR_SILENT (R379): a regulator polled and silent for 10 ms. -/
def execRegulatorSilent (r : Fin 48) (s : State) : Host.Outcome State Fault Refusal :=
  act (fun s =>
    if s.regions[r].polled then
      let s := s.modRegion r fun x => { x with noLink := true }
      s.causeAt Reg.pwrCause 2 1 r.1
    else s) s

/-! ### Rails (R394) -/

/-- RAIL_CHECK (R394): one comparison, every 100 ns. -/
def execRailCheck (r : Fin 48) (mv : Nat) (s : State) : Host.Outcome State Fault Refusal :=
  act (fun s =>
    let x := s.regions[r]
    if x.state = .lost then s
    else
      let high := if 900 < mv then x.highTime + 100 else 0
      let armed := s.pins.regOffN && x.peg != 0 && (x.armed || decide (480 ≤ mv))
      let floor := if armed && decide (mv < 480) then x.floorTime + 100 else 0
      let dip := x.inDip && armed && decide (560 < mv)
      if 10000 < high ∨ 1000 < floor then s.loseRegion r
      else
        let s := s.modRegion r fun x => { x with
          armed := armed, highTime := high, floorTime := floor
          inDip := armed && !dip && (x.inDip || (!x.entering && decide (mv < 560)))
          dips := if dip then satAdd x.dips 1 32 else x.dips }
        if dip then s.causeAt Reg.pwrCause 0 1 r.1 else s) s

/-- RAIL_RAISE_TIMEOUT (R394, R463). -/
def execRailRaiseTimeout (r : Fin 48) (s : State) : Host.Outcome State Fault Refusal :=
  act (fun s =>
    let x := s.regions[r]
    if x.peg ≠ 0 ∧ !x.armed ∧ s.pins.regOffN then s.loseRegion r else s) s

/-! ### Sensors (R389 to R393) -/

/-- The sensors of a hot spot of a unit: two per hot spot, in order (R389). -/
def spotSensors (h : Nat) : List Nat := [2 * h, 2 * h + 1]

/-- Hot spots of a unit. -/
def spots (u : Fin 60) : Nat := if u.1 < 48 then 2 else 1

/-- A hot spot's limit in degrees (R389). -/
def spotLimit (u : Fin 60) : Int := if u.1 < 48 then 105 else 95

/-- The readings of a hot spot's sensors that are not excluded. -/
def Thermal.live (x : Thermal) (h : Nat) : List Int :=
  (spotSensors h).filterMap fun i => if x.suspect.getLsbD i then none else x.temps[i]?

/-- A hot spot's reading: the higher of its sensors (R389); none when it is blind. -/
def Thermal.reading (x : Thermal) (h : Nat) : Option Int := (x.live h).max?

/-- Do the two sensors of a hot spot differ by more than 6 K (R390)? -/
def Thermal.differs (x : Thermal) (h : Nat) : Bool :=
  match x.live h with
  | [a, b] => decide (6 < a - b) || decide (6 < b - a)
  | _ => false

/-- A sensor is marked suspect and excluded until cold reset (R389, R390). -/
def State.suspectSensor (s : State) (u : Fin 60) (i : Nat) : State :=
  let s := (s.modThermal u fun x => { x with suspect := x.suspect ||| BitVec.ofNat 4 (2 ^ i) }).causeAt Reg.thmCause 3 2 u.1
  s.action 5 u.1 0xB03 i

/-- A hot spot with no sensor left is blind (R391); a blind region's peg is held at 0.60 V. Without a reading it is not NEAR. -/
def State.blindSpot (s : State) (u : Fin 60) (h : Nat) : State :=
  let x := s.thermal[u]
  if (x.live h).isEmpty ∧ !x.blind.getLsbD h then
    let b := BitVec.ofNat 2 (2 ^ h)
    let s := (s.modThermal u fun x => { x with blind := x.blind ||| b, near := x.near &&& ~~~b }).causeAt Reg.thmCause 4 2 u.1
    let s := s.action 5 u.1 0xB04 0xFF
    let r := finOf 48 u.1
    if u.1 < 48 ∧ 600 < s.regions[r].peg then s.setPeg r 600 0xB04 else s
  else s

/-- A hot spot enters or leaves thermal stall (R393). -/
def State.setStall (s : State) (u : Fin 60) (h : Nat) (on : Bool) : State :=
  let b := BitVec.ofNat 2 (2 ^ h)
  if s.thermal[u].stall.getLsbD h == on then s
  else
    let s := if on then s else s.skip s.usesStalled
    let s := s.modThermal u fun x => { x with stall := if on then x.stall ||| b else x.stall &&& ~~~b }
    let s := s.action 9 u.1 0xB01 (bit on)
    let s := if on then
        { s.causeAt Reg.thmCause 1 2 u.1 with health := { s.health with excursions := s.health.excursions + 1 } }
      else s
    if u.1 < 48 then s.settleRegion (finOf 48 u.1) 0xB01 else s

/-- Energy and DURATION of the phases that are released or ready and not complete: the energy in a region, in all for a
stack (R392). -/
def State.phaseEnergies (s : State) (u : Fin 60) : List (Nat × Nat) :=
  (fins 8).flatMap fun c =>
    match s.scroll? c with
    | none => []
    | some q =>
      if !(s.ctx c).inStep then []
      else ((q.phases.filter fun p => ((s.ctx c).released.has p.num || s.phaseReady c q p) && !s.phaseDone c p).map fun p =>
        (if u.1 < 48 then p.energy.getD u.1 0 else p.energy.sum, p.duration))

/-- The highest forecast of a unit (R392). -/
def State.forecastOf (s : State) (u : Fin 60) (t : Int) : Int :=
  Config.forecast u.1 t s.coolant (s.phaseEnergies u) (s.rfld Reg.thmCtrl 4 5)

/-- One hot spot after a sample: NEAR, stall and its end (R392, R393). -/
def State.spotStep (s : State) (u : Fin 60) (h : Nat) : State :=
  match s.thermal[u].reading h with
  | none => s
  | some t =>
    let f := s.forecastOf u t
    let margin : Int := (s.rfld Reg.thmCtrl 0 4 : Nat)
    let b := BitVec.ofNat 2 (2 ^ h)
    let near := decide (spotLimit u - margin ≤ max t f)
    let enters := near && !s.thermal[u].near.getLsbD h
    let s := s.modThermal u fun x => { x with
      near := if near then x.near ||| b else x.near &&& ~~~b }
    let s := if enters then
        { s.causeAt Reg.thmCause 0 2 u.1 with health := { s.health with excursions := s.health.excursions + 1 } }
      else s
    if spotLimit u ≤ t then s.setStall u h true
    else if t ≤ spotLimit u - 10 then s.setStall u h false
    else s

/-- The readings of a sample stored (R389): a stack's top die after its offset; values out of range exclude the sensor. -/
def State.storeReadings (s : State) (u : Fin 60) (readings : List Int) : State :=
  let temps := (readings.take (2 * spots u)).zipIdx.map fun (e : Int × Nat) =>
    if u.1 < 48 ∨ e.2 = 0 then e.1 else e.1 - Config.topOffset (u.1 - 48)
  let s := s.modThermal u fun x => { x with temps := temps }
  (readings.take (2 * spots u)).zipIdx.foldl (fun (s : State) (e : Int × Nat) =>
    if (e.1 < -20 ∨ 150 < e.1) ∧ !s.thermal[u].suspect.getLsbD e.2 then s.suspectSensor u e.2 else s) s

/-- THM_SEL_STAT.FORECAST: the highest forecast of the hot spots that have a reading (R392). -/
def State.storeForecast (s : State) (u : Fin 60) : State :=
  match (((List.range (spots u)).filterMap s.thermal[u].reading).map (s.forecastOf u)).max? with
  | some f => s.modThermal u fun x => { x with forecast := f }
  | none => s

/-- A hot spot of the unit reads a trip temperature (R504): 125 degrees, 110 in a stack. -/
def Thermal.trips (x : Thermal) (u : Fin 60) : Bool :=
  (List.range (spots u)).any fun h => (x.reading h).any fun t => decide ((if u.1 < 48 then 125 else 110) ≤ t)

/-- A sample of a unit's sensors (R389 to R393). A trip temperature enters FAILED (R504, R506). -/
def State.sample (s : State) (u : Fin 60) (readings : List Int) : State :=
  let s := s.storeReadings u readings
  if s.thermal[u].trips u then s.trip.enterFailed
  else
    (List.range (spots u)).foldl (fun (s : State) h =>
      let s := s.modThermal u fun x =>
        if x.differs h then x else { x with disagree := x.disagree &&& ~~~BitVec.ofNat 2 (2 ^ h) }
      (s.blindSpot u h).spotStep u h) (s.storeForecast u)

/-- SENSOR_DISAGREE (R390): the pair has differed by more than 6 K for more than 1 s. -/
def execSensorDisagree (unit : Fin 60) (spot : Fin 2) (s : State) : Host.Outcome State Fault Refusal :=
  act (fun s =>
    if s.thermal[unit].differs spot.1 ∧ spot.1 < spots unit then
      (s.modThermal unit fun x => { x with disagree := x.disagree ||| BitVec.ofNat 2 (2 ^ spot.1) }).causeAt Reg.thmCause 2 2 unit.1
    else s) s

/-- SENSOR_SUSPECT (R390): the difference persists 60 s more, and the lower sensor is excluded. -/
def execSensorSuspect (unit : Fin 60) (spot : Fin 2) (s : State) : Host.Outcome State Fault Refusal :=
  act (fun s =>
    let x := s.thermal[unit]
    if x.disagree.getLsbD spot.1 ∧ x.differs spot.1 then
      let i := 2 * spot.1
      let low := if x.temps.getD i 0 < x.temps.getD (i + 1) 0 then i else i + 1
      let s := s.suspectSensor unit low
      (s.modThermal unit fun x => { x with disagree := x.disagree &&& ~~~BitVec.ofNat 2 (2 ^ spot.1) }).blindSpot unit spot.1
    else s) s

/-- COOLANT_SAMPLE (R510). -/
def execCoolantSample (inlet outlet : Int) (flow : Nat) (s : State) : Host.Outcome State Fault Refusal :=
  act (fun s =>
    let t := fun (x : Int) => (max 0 (min 255 (x + 40))).toNat
    { s with coolant := BitVec.ofNat 32 (t inlet + t outlet * 2 ^ 8 + min 1023 flow * 2 ^ 16) }) s

/-! ### Wear (R395) -/

/-- A cycle counted: counts in halves, wear in units of 1/1600 ppm (log 29); a full cycle adds 2 (dT / 40)^2 ppm. -/
def Thermal.cycle (x : Thermal) (range halves : Nat) : Thermal :=
  if range < 10 then x
  else { x with
    cyc10 := x.cyc10 + halves
    cyc40 := x.cyc40 + (if 40 ≤ range then halves else 0)
    wear := x.wear + halves * range * range }

/-- The three-point reduction of ASTM E1049 on turning points, newest first. PRESUMED, log 6. -/
def rainflow : Nat → List Int → Thermal → List Int × Thermal
  | 0, t, x => (t, x)
  | fuel + 1, t, x =>
    match t with
    | a :: b :: c :: rest =>
      let y := (b - c).natAbs
      if (a - b).natAbs < y then (t, x)
      else if rest.isEmpty then rainflow fuel [a, b] (x.cycle y 1)
      else rainflow fuel (a :: rest) (x.cycle y 2)
    | _ => (t, x)

/-- A reading enters the rainflow count: the newest turning point moves while the reading runs on (R395). -/
def Thermal.turn (x : Thermal) (t : Int) : Thermal :=
  match x.turns with
  | a :: b :: rest =>
    if (b ≤ a ∧ a ≤ t) ∨ (a ≤ b ∧ t ≤ a) then { x with turns := t :: b :: rest }
    else
      let r := rainflow x.turns.length x.turns x
      { r.2 with turns := t :: r.1 }
  | [a] => if a = t then x else { x with turns := [t, a] }
  | [] => { x with turns := [t] }

/-- WEAR_SAMPLE (R395): the unit's reading, for a region the higher of its two hot spots. -/
def execWearSample (unit : Fin 60) (s : State) : Host.Outcome State Fault Refusal :=
  act (fun s =>
    match ((List.range (spots unit)).filterMap s.thermal[unit].reading).max? with
    | some t => s.modThermal unit fun x => x.turn t
    | none => s) s

/-- WEAR_FLASH_WRITE (R395). -/
def execWearFlashWrite (s : State) : Host.Outcome State Fault Refusal :=
  act (fun s => { s with flash := { s.flash with
    cyc10 := s.thermal.map (·.cyc10), cyc40 := s.thermal.map (·.cyc40), wear := s.thermal.map (·.wear) } }) s

/-! ### Health (R401 to R403) -/

/-- Totals of inputs 1 to 5 since cold reset (R401). -/
def State.healthTotals (s : State) : Vector Nat 5 :=
  #v[((List.range 64).map fun n => s.reg (Reg.fabFec n)).sum, s.health.corrected, s.reg Reg.scrCount,
     (s.regions.toList.map (·.dips)).sum, s.health.excursions]

/-- F, W and CAP of inputs 1 to 5 (R401). -/
def healthParams : List (Nat × Nat × Nat) :=
  [(10 ^ 10, 40, 200), (100, 40, 200), (1, 50, 250), (10, 30, 150), (1, 30, 150)]

/-- The penalty of an input: `recent` counts of the last 10 min, `base` of the last 24 h over `n` intervals of 10 s. The
quotient is rounded down. DESIGN CHOICE, log 30. -/
def penalty (f w cap recent base n : Nat) : Nat :=
  let r := 6 * recent
  if f * n ≤ 360 * base then min cap (w * (r * n - 360 * base) / max 1 (360 * base)) else min cap (w * (r - f) / f)

/-- The penalty of input 6 (R401). -/
def State.anomalies (s : State) : Nat :=
  min 400 ((s.thermal.toList.map fun x =>
    40 * ((List.range 2).filter fun h => x.disagree.getLsbD h).length
      + 80 * ((List.range 4).filter fun i => x.suspect.getLsbD i).length
      + 200 * ((List.range 2).filter fun h => x.blind.getLsbD h).length).sum)

/-- The six penalties (R401). -/
def State.penalties (s : State) (history : List (Vector Nat 5)) : Vector Nat 6 :=
  let count := fun (n : Nat) (i : Fin 5) => ((history.take n).map fun v => v[i]).sum
  let n := min 8640 history.length
  Vector.ofFn fun i : Fin 6 =>
    if h : i.1 < 5 then
      let k := healthParams.getD i.1 (1, 0, 0)
      penalty k.1 k.2.1 k.2.2 (count 60 ⟨i.1, h⟩) (count 8640 ⟨i.1, h⟩) n
    else s.anomalies

/-- The reported score after a raw score (R402). -/
def Health.report (h : Health) (raw : Nat) : Health :=
  if raw < h.score then { h with raw := raw, score := raw, rise := [] }
  else if h.score + 25 ≤ raw then
    let rise := (raw :: h.rise).take 60
    if rise.length = 60 then { h with raw := raw, score := rise.min?.getD raw, rise := [] }
    else { h with raw := raw, rise := rise }
  else { h with raw := raw, rise := [] }

/-- A new health score, and the request of a checkpoint that it may start (R401 to R403). -/
def State.healthScore (s : State) : State :=
  let h := s.health
  let now := s.healthTotals
  let history := ((Vector.ofFn fun i : Fin 5 => now[i] - h.last[i]) :: h.history).take 8640
  let pens := s.penalties history
  let total := pens.toList.sum
  let top := (pens.toList.zipIdx.foldl (fun (b : Nat × Nat) (e : Nat × Nat) => if b.1 < e.1 then (e.1, e.2 + 1) else b) (0, 0)).2
  let r := { h with history := history, last := now, pens := pens }.report (1000 - total)
  let scores := (r.score :: r.scores).take 7
  let slope := s.rfld Reg.ckpCtrl 10 10
  let fell := decide (slope < (scores.max?.getD 0) - r.score)
  let free := match h.sinceRequest with
    | some (t, sc) => decide (t + 600000000000 ≤ s.phys) || decide (r.score + slope ≤ sc)
    | none => true
  let thresh := s.rfld Reg.ckpCtrl 0 10
  let asks := (decide (r.score < thresh ∧ thresh ≤ h.score) || fell) && free
  let s := { s with health := { r with
    scores := scores
    top := if asks then top else r.top
    sinceRequest := if asks then some (s.phys, r.score) else r.sinceRequest } }
  if asks then (s.cause Reg.ckpCause 0).action 3 0 0xFFFF top else s

end Sys2Proof.Machine
end

