-- ==== Sys2Proof/Machine/Load.lean ====
section
/-! DEFINITION. Loading a scroll (R113, R116, R345, R366 to R369) and retiring the structures of a context (R340, R341):
what LOAD_SCROLL, its commit and teardown share. -/

namespace Sys2Proof.Machine

/-- The started commands of an opcode on a context's ring complete. -/
def State.finishOp (s : State) (c : Fin 8) (op status : Nat) (detail : Nat := 0) : State :=
  s.finishAll (ringOf c) (Cmd.isOp op) status detail

/-! ### A context brought to LOADED (R339) -/

/-- Orders 3 to 5 of R339: the step abandoned, every STEP_START and HOLD of the ring ABORTED, every hold released. -/
def State.stopSteps (s : State) (c : Fin 8) : State :=
  let s := s.abandonStep c
  let run := (s.ctx c).stepsRun
  let mine := s.rings[ringOf c].cmds.filter fun k => k.entry.opcode == 0x12 || k.entry.opcode == 0x13
  let s := mine.foldl (fun (s : State) k => s.finish (ringOf c) k Status.aborted (if k.isStep then run else 0)) s
  s.modCtx c fun x => { x with
    state := if x.state = .running ∨ x.state = .held then .loaded else x.state
    starting := false, hostHold := false, capoHold := false, faultHold := false, waitVersion := false }

/-! ### Orders 1 to 3 (R345, R366, R367) -/

/-- The staged scroll (R345, R353). -/
def stagedScroll (w : Window) (len : Nat) : Scroll :=
  let m := w.staging.filter fun b => decide (b.1 < len)
  { bytes := m, length := len, digest := sha3_512 (Memory.readBytes m 0 (len - 4672)) }

/-- The slot that a LOAD_SCROLL names is above 31 or is no STAGING slot (R345). -/
def State.badSlot (s : State) (k : Cmd) : Bool :=
  let slot := k.entry.par 0 1
  decide (31 < slot) || (s.windows[finOf 32 slot]).kind != 1

/-- LOAD_SCROLL starts: orders 1 to 3 of R366. -/
def State.loadStart (s : State) (c : Fin 8) (k : Cmd) : State :=
  let slot := k.entry.par 0 1
  let len := k.entry.par 8 8
  let w := s.windows[finOf 32 slot]
  if s.badSlot k then s.finish (ringOf c) k Status.badParam (failDetail (10, 0, 0))
  else
    let q := stagedScroll w len
    match leastFail (s.scrollFails c q) with
    | some f => s.finish (ringOf c) k (failStatus f.1) (failDetail f)
    | none => s.modCtx c fun x => { x with load := some { order := 3, scroll := q } }

/-! ### Retiring (R340, R341) -/

/-- A context with everything that its scroll gave it gone; what CREATE gave it stays (R340, R366). -/
def Ctx.wipe (x : Ctx) : Ctx :=
  { state := x.state, gen := x.gen, rect := x.rect, hquota := x.hquota, tentries := x.tentries, stacked := x.stacked
    remote := x.remote, transit := x.transit, grants := x.grants, load := x.load
    retire := x.retire.map fun r => { r with charged := 0 } }

/-- The window slots of a context become UNMAPPED (R324). -/
def State.unmapWindows (s : State) (c : Fin 8) : State :=
  { s with windows := s.windows.map fun w => if w.kind = 2 ∧ w.ctx = c then {} else w }

/-- Orders 2 and 3 of R340: tiles and edge streams stop, the generation moves on, requests of the context are cancelled. -/
def State.retireStart (s : State) (c : Fin 8) (forLoad : Bool) : State :=
  let s := (s.stopTiles c).dropFrames c fun _ => true
  let s := { s with given := s.given.filter fun a => a.ctx.toNat != c.1 }
  s.modCtx c fun x => { x with
    gen := x.gen + 1
    scroll := none, stale := false, needRestore := false, inStep := false, rerunning := false, starting := false
    fetches := [], obtains := [], pushes := [], bg := none, sealing := false
    ckpt := { x.ckpt with drain := none, restore := none, due := none, periodicDue := false, pendingAt := none, holding := false, rollDue := false, rollWait := [] }
    retire := some { forLoad := forLoad, order := 4, acks := 0, start := s.phys, charged := x.charged } }

/-- The drain fence is complete (order 4 of R340). -/
def State.fenceDone (s : State) (c : Fin 8) : State :=
  (s.discardWork c).modCtx c fun x => { x with retire := x.retire.map fun r => { r with order := 5 } }

/-- An edge holds no frame of the context (R341): the ports of a side; the host chiplet holds none. -/
def State.edgeClear (s : State) (c : Fin 8) (edge : Fin 5) : Bool :=
  (fins 64).all fun p => portSide p != edge.1 ||
    ((s.ports[p].queue.all fun f => f.ctx != some c)
      && (s.ports[p].state == .down || s.ports[p].replay.all fun r => r.ctx != some c))

/-- The route-table entries of a context cleared: its tiles', but for entries granted to others, and its transit entries
(R334). -/
def State.clearRoutes (s : State) (c : Fin 8) : State :=
  let x := s.ctx c
  let keep := fun (t : TileId) (n : Nat) => (fins 8).any fun d => d != c && (s.ctx d).grantHas (regionOf t).1 n
  let mine := fun (t : TileId) (n : Nat) => (x.holds (regionOf t) && !keep t n) || x.grantHas (regionOf t).1 n
  let put := fun (k : Nat) (y : Tile) => Vector.ofFn fun n : Fin 32 => if mine (finOf 786432 k) n.1 then 0 else y.routes[n]
  { s with tiles := s.tiles.mapVals fun k y => { y with routes := put k y } }

/-- Order 7 of R340: frames, banks and snapshot zeroed, scratchpads and every structure of the tiles cleared. TILE_ERR and
TILE_FAULT stay (R72). -/
def State.zeroContext (s : State) (c : Fin 8) : State :=
  let s := (s.clearRoutes c).discardWork c
  let s := s.modListed c fun t => { routes := t.routes, err := t.err, fault := t.fault }
  s.modCtx c Ctx.wipe

/-! ### The commit (order 4 of R366) -/

/-- GRD_CTXn_CTRL takes the settings of the reduction section, the reset values without one (R277). -/
def State.loadReductionCtl (s : State) (c : Fin 8) (q : Scroll) : State :=
  let off := Reg.grdCtl c.1
  s.setReg off (if q.reduces then q.su 0xE 3 1 + q.su 0xE 4 1 * 2 + q.su 0xE 6 2 * 2 ^ 5 else resetOf off)

/-- The port plan of a scroll (R301). -/
def Scroll.plan (q : Scroll) : Vector (Fin 4) 16 := Vector.ofFn fun n : Fin 16 => finOf 4 (q.su 2 n.1 1)

/-- The commit: the plan set, the context disarmed, its window slots unmapped, the record of R446 followed. -/
def State.commitLoad (s : State) (c : Fin 8) (q : Scroll) : State :=
  let s := { s.unmapWindows c with
    plan := some (s.plan.getD q.plan)
    fret := { s.fret with openRecord := false } }
  let s := s.loadReductionCtl c q
  s.modCtx c fun x => { x with
    state := .created, armed := false, stale := false, needRestore := false
    load := some { order := 4, scroll := q } }

/-! ### Orders 5 to 7 of R366 -/

/-- The route tables of the rectangle and the transit entries (order 6). -/
def State.writeRoutes (s : State) (c : Fin 8) (q : Scroll) : State :=
  let old := s
  q.routeTiles.zipIdx.foldl (fun (s : State) (e : TileId × Nat) =>
    let f := (regionOf e.1).1
    let mine := fun (n : Nat) =>
      if q.toRect.has (regionOf e.1) then !((fins 8).any fun d => d != c && (old.ctx d).grantHas f n)
      else (old.ctx c).grantHas f n
    let put := fun (y : Tile) => Vector.ofFn fun n : Fin 32 => if mine n.1 then q.route e.2 n else y.routes[n]
    s.modTile e.1 fun y => { y with routes := put y }) s

/-- The initial handle table and images of tile `i`, each with its first byte in the scratchpad (R116, R356). -/
def Scroll.tileImages (q : Scroll) (i : Nat) : List (Nat × List Byte) :=
  let o := (q.at? 8).getD 0 + (q.handleBlock i).1 + 256
  let table := (List.range 64).flatMap fun h => leBytes 4 (q.handle i h)
  (0, table) :: ((q.images? i).foldl (fun (r : List (Nat × List Byte) × Nat) e =>
    let n := 64 * (fld e.2 10 10 + 1)
    (r.1 ++ [(64 * fld e.2 0 10, q.bytesAt (o + r.2) n)], r.2 + n)) ([], 0)).1

/-- A tile's structures written from the scroll: instruction store, task table, function tables and descriptors (R349 to
R351, R357). -/
def Tile.install (x : Tile) (q : Scroll) (i : Nat) : Tile :=
  let p := q.tileMap i
  let fs := q.funSet p.2
  { x with
    imem := if p.1 = 0xFFFF then [] else (q.program p.1).zipIdx.map fun w => (w.2, w.1)
    badInstr := []
    headers := Vector.ofFn fun k : Fin 16 => if p.2 = 0xFFFF then 0 else BitVec.ofNat 128 (q.u (fs + 64 + 16 * k.1) 16)
    tables := if p.2 = 0xFFFF then [] else Memory.copy [] q.bytes 0 (fs + 320) 24576
    loaded := if p.2 = 0xFFFF then 0 else BitVec.ofNat 16 (q.u fs 2)
    tasks := Vector.ofFn fun j : Fin 8 => q.task i j
    waiters := Vector.ofFn fun e : Fin 16 => q.waiter i e
    strs := Vector.ofFn fun n : Fin 32 => { desc := q.strDesc i n }
    chains := Vector.ofFn fun n : Fin 4 => q.chainDesc i n }

/-- Every tile of the rectangle that can run: its structures and, with `images`, a cleared scratchpad with its images (R116,
R366, R397). -/
def State.installTiles (s : State) (c : Fin 8) (q : Scroll) (images : Bool) : State :=
  (List.range (s.ctx c).rect.tiles).foldl (fun (s : State) i =>
    let t := (s.ctx c).rect.tile i
    if s.tileGone t then s
    else s.modTile t fun y =>
      let y := if images then { routes := y.routes, err := y.err, fault := y.fault } else y.discard
      let y := y.install q i
      if images then (q.tileImages i).foldl (fun (y : Tile) e => y.wideWrite e.1 e.2) y else y) s

/-- A page that scroll load writes becomes RESIDENT (R216), unless its remote home is to be fetched. -/
def State.resident (s : State) (c : Fin 8) (q : Scroll) (p : Nat) : State :=
  match q.segOf p with
  | none => s
  | some g =>
    if g.init = 1 then s
    else
      let f := s.chooseFrame c g p
      s.modCtx c fun x => x.modPage q p fun y => { y.inFrame x f with state := .resident }

/-- The pages of [a, a + n). -/
def pagesOf (a n : Nat) : List Nat :=
  if n = 0 then [] else (List.range ((a + n - 1) / 2 ^ 21 - a / 2 ^ 21 + 1)).map (a / 2 ^ 21 + ·)

/-- Bytes that scroll load writes into the deep range. -/
def State.loadBytes (s : State) (c : Fin 8) (q : Scroll) (a from_ n : Nat) : State :=
  let s := (pagesOf a n).foldl (fun (s : State) p => s.resident c q p) s
  (s.backInvalidate c a n).modCtx c fun x => { x with mem := Memory.copy x.mem q.bytes a from_ n }

/-- The images of the SEGMENTS section, the mark lists at their MARK_BASE, and the spill windows (R116, R216, R358). -/
def State.writeImages (s : State) (c : Fin 8) (q : Scroll) : State :=
  let o := (q.at? 0xC).getD 0
  let s := q.images.foldl (fun (s : State) e =>
    match q.segments[e.1]? with
    | some g => (pagesOf g.base (g.pages * 2 ^ 21)).foldl (fun (s : State) p => s.resident c q p)
        (s.loadBytes c q g.base (o + e.2.1) e.2.2)
    | none => s) s
  let s := q.streams.foldl (fun (s : State) (e : Nat × Nat × EdgeDesc) =>
    match q.markDir e.1 e.2.1 with
    | some m => s.loadBytes c q e.2.2.markBase ((q.at? 0xA).getD 0 + m) (16 * e.2.2.markCount)
    | none => s) s
  (List.range (s.ctx c).rect.tiles).foldl (fun (s : State) i =>
    let t := (s.ctx c).rect.tile i
    match q.window t with
    | none => s
    | some w =>
      let s := (pagesOf w 65536).foldl (fun (s : State) p => s.resident c q p) s
      (q.tileImages i).foldl (fun (s : State) e =>
        (s.backInvalidate c (w + e.1) e.2.length).modCtx c fun x => { x with
          mem := Memory.writeBytes x.mem (w + e.1) e.2 }) s) s

/-- The pages of PINNED segments with INIT HOME (R216). -/
def Scroll.homePages (q : Scroll) : List Nat :=
  (q.segments.filter fun g => g.cls == 0 && g.init == 1).flatMap fun g => (List.range g.pages).map (g.base / 2 ^ 21 + ·)

/-- The pages of INIT HOME outside PINNED segments that hold the bits of a gradient mask: the check of R200 reads them
before the scroll counts as loaded. DESIGN CHOICE, log 28. -/
def Scroll.mapPages (q : Scroll) : List Nat :=
  (q.targets.flatMap q.maskPages).eraseDups.filter fun p => match q.segOf p with
    | some g => g.init == 1 && g.cls != 0
    | none => false

/-- Those that have no frame are fetched. -/
def State.fetchMaps (s : State) (c : Fin 8) (q : Scroll) : State :=
  q.mapPages.foldl (fun (s : State) p =>
    match q.segOf p with
    | some g =>
      let y := (s.ctx c).page q p
      if !y.poison && (y.state == .unbacked || y.state == .remote) then (s.startFetch c q g p).2 else s
    | none => s) s

/-- Orders 5 to 7 of R366: the scroll copied, route tables, tiles, page map and images written, background fetches begun.
The key of the context's frames is drawn (R219). -/
def State.installScroll (s : State) (c : Fin 8) (q : Scroll) : State :=
  let (key, s) := s.freeBytes
  let s := s.modCtx c fun x => { x.wipe with
    placeKeys := vset x.wipe.placeKeys 0 (slice key 0 16)
    scroll := some q, vmode := q.follow, bg := some 0, ckpt := { ({} : Ckpt) with
      lastPeriodic := s.ns, cut := { recFrom := s.replayHead, recTo := s.replayHead } }
    load := some { order := 7, scroll := q } }
  ((((s.writeRoutes c q).installTiles c q true).writeImages c q).fetchMaps c q).background c

end Sys2Proof.Machine
end

