-- ==== Sys2Proof/Machine/Checkpoint.lean ====
section
/-! DEFINITION. Checkpoints (R404 to R423): manifests, the drain of a cut, the area kept for a partner, CKPT frames, and
restores. -/

namespace Sys2Proof.Machine

/-! ### Shards and manifests (R407, R417) -/

/-- The shards of a scroll's state ranges (R407): first state page, base, pages, WRITER. -/
def Scroll.shards (q : Scroll) : List (Nat × Nat × Nat × Half) :=
  (q.ranges.foldl (fun (acc : Nat × List (Nat × Nat × Nat × Half)) r =>
    (acc.1 + r.2.1, acc.2 ++ (List.range ((r.2.1 + 511) / 512)).map fun i =>
      (acc.1 + 512 * i, r.1 + 2 ^ 30 * i, min 512 (r.2.1 - 512 * i), r.2.2))) (0, [])).2

/-- The writer of a shard: 0xFFFF names this engine (R404). -/
def State.writer (s : State) (w : Half) : Half := if w = 0xFFFF then s.ident else w

/-- The state pages that this engine writes, ascending (R407). -/
def State.ownPages (s : State) (q : Scroll) : List Nat :=
  (q.shards.filter fun h => s.writer h.2.2.2 == s.ident).flatMap fun h => (List.range h.2.2.1).map (h.1 + ·)

/-- The replay records that drain with the cut in force (R425). -/
def State.cutLog (s : State) (c : Fin 8) : List RecPlace :=
  let k := (s.ctx c).ckpt.cut
  s.replayLog.filter fun r => r.ctx == c && decide (k.recFrom ≤ r.start) && decide (r.start < k.recTo)

/-- The manifest of the in-memory cut as it stands now (R417). -/
def State.manifestNow (s : State) (c : Fin 8) (q : Scroll) : List Byte :=
  let k := (s.ctx c).ckpt.cut
  let log := s.cutLog c
  let z := k.series.getD ⟨0, 0, 0⟩
  let head := leBytes 4 0x4D4B4350 ++ leBytes 2 s.ident.toNat ++ leBytes 1 c.1
    ++ leBytes 1 (bit (!(s.ctx c).ckpt.replayLost) + 2 * bit k.armed + 4 * bit k.pending.isSome + 8 * bit k.vmode)
    ++ leBytes 4 k.number ++ leBytes 4 q.shards.length ++ leBytes 8 k.time ++ leBytes 8 k.step.toNat
    ++ leBytes 8 (z.pos.toNat + z.index * q.posAdvance) ++ leBytes 8 z.seed.toNat ++ leBytes 8 z.index
    ++ leBytes 4 (k.current.getD 0).toNat ++ leBytes 4 (k.pending.getD 0).toNat
    ++ leBytes 1 (bit k.redMode) ++ leBytes 1 k.headroom ++ leBytes 6 0
    ++ leBytes 8 ((log.head?.map (·.pos)).getD 0) ++ leBytes 8 (log.map (·.len)).sum ++ slice q.digest 0 64
  slice head 0 256 ++ q.shards.flatMap fun h =>
    slice (leBytes 8 h.2.1 ++ leBytes 4 h.2.2.1 ++ leBytes 2 (s.writer h.2.2.2).toNat ++ leBytes 2 0
      ++ sha3_512 (Memory.readBytes (s.ctx c).ckpt.snapshot (h.1 * 2 ^ 21) (h.2.2.1 * 2 ^ 21))) 0 96

/-- The manifest of the in-memory cut (R417): as it was sent or restored from, and before that as it would be sent. -/
def State.manifestBytes (s : State) (c : Fin 8) (q : Scroll) : List Byte :=
  let k := (s.ctx c).ckpt.cut
  if k.manifest.isEmpty then s.manifestNow c q else k.manifest

/-- The manifest is fixed as it is sent; an overwrite from here on clears REPLAY_COMPLETE in the next one (R425). -/
def State.fixManifest (s : State) (c : Fin 8) (q : Scroll) : State :=
  let m := s.manifestBytes c q
  s.modCtx c fun x =>
    if x.ckpt.cut.manifest.isEmpty then
      { x with ckpt := { x.ckpt with
        cut := { x.ckpt.cut with manifest := m, replayComplete := !x.ckpt.replayLost }, replayLost := false } }
    else x

/-- The shards that a manifest lists: first state page, base, pages, WRITER, SHA3-512. -/
def manifestShards (m : List Byte) : List (Nat × Nat × Nat × Half × List Byte) :=
  ((List.range (leAt m 12 4)).foldl (fun (acc : Nat × List (Nat × Nat × Nat × Half × List Byte)) i =>
    let o := 256 + 96 * i
    let n := leAt m (o + 8) 4
    (acc.1 + n, acc.2 ++ [(acc.1, leAt m o 8, n, BitVec.ofNat 16 (leAt m (o + 12) 2), slice m (o + 16) 64)])) (0, [])).2

/-- The cut record of a manifest (R417, R420); the records since then are those from `head` of the replay ring on. -/
def manifestRecord (q : Scroll) (m : List Byte) (head : Nat) : CutRecord :=
  let index := leAt m 48 8
  let flags := leAt m 7 1
  { number := leAt m 8 4, time := leAt m 16 8, step := BitVec.ofNat 64 (leAt m 24 8)
    series := some ⟨BitVec.ofNat 64 (leAt m 40 8), BitVec.ofNat 64 (leAt m 32 8) - BitVec.ofNat 64 (index * q.posAdvance), index⟩
    armed := bitAt flags 1
    current := if (q.sec? 0xD).isSome then some (BitVec.ofNat 32 (leAt m 56 4)) else none
    pending := if bitAt flags 2 then some (BitVec.ofNat 32 (leAt m 60 4)) else none
    vmode := bitAt flags 3, redMode := leAt m 64 1 == 1, headroom := leAt m 65 1, replayComplete := bitAt flags 0
    recFrom := head, recTo := head, manifest := m }

/-! ### CKPT frames (R416) -/

/-- The lowest-numbered UP CKPT port, or the lowest-numbered one while none is UP (R416; log 24). -/
def State.ckptPort (s : State) : Option (Fin 64) :=
  let ps := (fins 64).filter fun p => s.role p == 3
  (ps.find? fun p => s.ports[p].state == .up).or ps.head?

/-- The CKPT port of a page: of its snapshot place's stack side (R416). Where a place lies is not architectural (R219). -/
def State.pagePort (s : State) (c : Fin 8) (k : Nat) : Option (Fin 64) :=
  let x := s.ctx c
  (s.rolePort 3 (Config.placeHash (x.placeKeys[finOf 2 (bit x.keySel)]) (2 ^ 31 + k) % 4) k).or s.ckptPort

/-- STREAM of an operation on a cut of a context. -/
def ckptStream (op owner : Nat) : Nat := op + 16 * owner

/-- An operation of context `c` of ours (R416), on a cut that `owner` owns; it spends a credit of the destination. `fwd`: it
forwards a partner's cut (R415). -/
def State.ckptSend (s : State) (c : Fin 8) (port : Option (Fin 64)) (dest : Half) (op owner offset : Nat) (sel fin : Bool)
    (pay : List Byte) (fwd : Bool := false) : State :=
  let f := s.frame 0x40 5 dest 0 0 (ckptStream op owner) offset fin pay
  s.enqueue port { f with flags := f.flags ||| (if sel then 4 else 0) } (some (0, 5, 0)) (some c) fwd

/-- The response to a frame, on a port: it echoes CONTEXT and GENERATION (R306, R416). -/
def State.ckptReplyOn (s : State) (p : Option (Fin 64)) (f : Frame) (op offset : Nat) (fin : Bool) (pay : List Byte) : State :=
  let r := s.frame 0x40 5 f.source f.context f.generation (ckptStream op (fld f.stream.toNat 4 3)) offset fin pay
  s.enqueue p r none (some (finOf 8 f.context.toNat))

/-- A response on the lowest-numbered UP CKPT port (R416). -/
def State.ckptReply (s : State) (f : Frame) (op offset : Nat) (fin : Bool) (pay : List Byte) : State :=
  s.ckptReplyOn s.ckptPort f op offset fin pay

/-- Pieces of a byte string by offset, at most 4,096 bytes each. -/
def pieces (bs : List Byte) : List (Nat × List Byte) :=
  (List.range ((bs.length + 4095) / 4096)).map fun i => (4096 * i, (bs.drop (4096 * i)).take 4096)

/-- OFFSET of a PAGE frame (R416): bytes of the cut's state. -/
def pageOffset (cut off : Nat) : Nat := (cut % 2 ^ 16) * 2 ^ 48 + off

/-- A state page sent from its place, the END frame with its CRC-64 last (R412, R416). -/
def State.sendPage (s : State) (c : Fin 8) (dest : Half) (owner cut k : Nat) (bs : List Byte)
    (fwd : Bool := false) : State :=
  let port := s.pagePort c k
  let s := (pieces bs).foldl (fun (s : State) e =>
    s.ckptSend c port dest 0 owner (pageOffset cut (k * 2 ^ 21 + e.1)) false false e.2 fwd) s
  s.ckptSend c port dest 0 owner (pageOffset cut ((k + 1) * 2 ^ 21)) false true (leBytes 8 (crc64 bs).toNat) fwd

/-- Bytes sent under RECORD or MANIFEST, END on the last frame (log 24). -/
def State.sendBytes (s : State) (c : Fin 8) (dest : Half) (op owner : Nat) (bs : List Byte)
    (fwd : Bool := false) : State :=
  (pieces bs).foldl (fun (s : State) e =>
    s.ckptSend c s.ckptPort dest op owner e.1 false (decide (bs.length ≤ e.1 + 4096)) e.2 fwd) s

/-- SEAL or ROLLBACK to every server of the context (R413, R416). The SEALs not yet answered are kept: a SEAL_ACK does not say
which of the two it answers, and answers come in the order of what they answer. DEDUCED, log 24. -/
def State.sendSeals (s : State) (c : Fin 8) (q : Scroll) (rollback : Bool) (number time : Nat) (dests : List Half) : State :=
  let s := if rollback then s else s.modCtx c fun x => { x with ckpt := { x.ckpt with
    sealsOut := x.ckpt.sealsOut ++ ((q.homeServers.filter dests.contains).map fun e => (e, number)) } }
  (q.homeServers.filter dests.contains).foldl (fun (s : State) e =>
    s.ckptSend c s.ckptPort e 5 c.1 0 rollback true (leBytes 4 number ++ leBytes 8 time ++ leBytes 4 0)) s

/-- Where a drain goes (R412): the buddy, or DSERVER without one. -/
def Scroll.drainTo (q : Scroll) : Half := if q.buddy = 0xFFFF then q.dserver else q.buddy

/-- The engines a context exchanges checkpoint traffic with (R416). -/
def Scroll.ckptPeers (q : Scroll) : List Half :=
  (([q.partner, q.buddy, q.dserver].filter (· != 0xFFFF)) ++ q.homeServers).eraseDups

/-! ### The drain (R412) -/

/-- The drain of a context changed. -/
def State.modDrain (s : State) (c : Fin 8) (f : Drain → Drain) : State :=
  s.modCtx c fun x => { x with ckpt := { x.ckpt with drain := x.ckpt.drain.map f } }

/-- The remote-homed pages with SNAP set (R409). -/
def Ctx.snapRemote (x : Ctx) (q : Scroll) : Tab Page := x.pages.filter fun e => e.2.snap && (q.statePage? e.1).isNone

/-- The cut write-back of a page (R412): the granules dirty at the cut, from its home-area copy if copied. -/
def State.cutWriteBack (s : State) (c : Fin 8) (q : Scroll) (p : Nat) : State :=
  let x := s.ctx c
  let y := x.page q p
  let mask := y.cutDirty &&& ~~~(y.flying ||| y.flying1)
  let s := s.modCtx c fun x => x.modPage q p fun y => { y with cutSent := y.cutSent ||| mask }
  match x.ckpt.homeCopies.get? p with
  | some m => s.writeBack c q p mask m 0 true
  | none => s.writeBack c q p mask x.mem (p * 2 ^ 21) false

/-- A page of the cut write-backs, or the SEALs once every one is acknowledged (R412). In a solo replay no write-back
leaves (R427). -/
def State.drainWrite (s : State) (c : Fin 8) (q : Scroll) (d : Drain) : State :=
  let left := (s.ctx c).snapRemote q
  if d.sealed then s
  else
    match left.find? fun e => (e.2.cutDirty &&& ~~~(e.2.flying ||| e.2.flying1)) != (0 : BitVec 32) && s.pageServed e.2 with
    | some e => if s.solo c then s else (s.cutWriteBack c q e.1).modDrain c fun d => { d with progressAt := s.phys }
    | none =>
      if !left.isEmpty then s
      else
        let k := (s.ctx c).ckpt.cut
        let s := s.sendSeals c q false k.number k.time q.homeServers
        s.modDrain c fun d => { d with sealed := true, sealWait := q.homeServers, progressAt := s.phys }

/-- State page `k` copied to its place if it is not, and its SNAP cleared (R412). -/
def Ctx.localCopy (x : Ctx) (q : Scroll) (k : Nat) : Ctx :=
  let p := q.stateAt k
  let y := x.page q p
  let x := if y.copied then x
    else { x with ckpt := { x.ckpt with snapshot := Memory.copy x.ckpt.snapshot x.mem (k * 2 ^ 21) (p * 2 ^ 21) (2 ^ 21) } }
  x.modPage q p fun y => { y with snap := false, copied := true }

/-- State pages whose SNAP is set, ascending. -/
def Ctx.snapState (x : Ctx) (q : Scroll) : List Nat :=
  (List.range q.statePages).filter fun k => (x.page q (q.stateAt k)).snap

/-- The next local copy (R412); a page of a stack in stall waits (R393). -/
def State.drainCopy (s : State) (c : Fin 8) (q : Scroll) : State :=
  match ((s.ctx c).snapState q).find? fun k => s.pageServed ((s.ctx c).page q (q.stateAt k)) with
  | some k => (s.modCtx c fun x => x.localCopy q k).modDrain c fun d => { d with progressAt := s.phys }
  | none => s

/-- The bytes of the cut's replay records (R425). -/
def State.cutRecords (s : State) (c : Fin 8) : List Byte :=
  (s.cutLog c).flatMap fun r => Memory.readBytes s.replayRing r.pos r.len

/-- A state page of the snapshot area. -/
def Ctx.placeBytes (x : Ctx) (k : Nat) : List Byte := Memory.readBytes x.ckpt.snapshot (k * 2 ^ 21) (2 ^ 21)

/-- The next part of the buddy traffic (R412): a page once copied, when the one before is acknowledged; the records; the
manifest. -/
def State.drainBuddy (s : State) (c : Fin 8) (q : Scroll) (d : Drain) : State :=
  let x := s.ctx c
  let dest := q.drainTo
  if !d.unacked.isEmpty then s
  else
    match (s.ownPages q).find? fun k => decide (d.nextPage ≤ k) with
    | some k =>
      if !(x.page q (q.stateAt k)).copied then s
      else (s.sendPage c dest c.1 x.ckpt.cut.number k (x.placeBytes k)).modDrain c fun d =>
        { d with nextPage := k + 1, unacked := d.unacked.add k, progressAt := s.phys }
    | none =>
      if !d.recordsSent then
        (s.sendBytes c dest 2 c.1 (s.cutRecords c)).modDrain c fun d => { d with recordsSent := true, progressAt := s.phys }
      else if !d.manifestSent && d.sealed && d.sealWait.isEmpty then
        ((s.fixManifest c q).sendBytes c dest 3 c.1 (s.manifestBytes c q)).modDrain c fun d =>
          { d with manifestSent := true, progressAt := s.phys }
      else s

/-- The drain ends with its manifest acknowledged and every SNAP clear. -/
def State.drainEnd (s : State) (c : Fin 8) (q : Scroll) : State :=
  match (s.ctx c).ckpt.drain with
  | some d =>
    if d.manifestAcked && ((s.ctx c).snapState q).isEmpty then
      s.modCtx c fun x => { x with ckpt := { x.ckpt with drain := none } }
    else s
  | none => s

/-- The homes of the in-memory cut are not sealed yet: cut write-backs or seals remain (R418). In a solo replay no write-back
leaves, and none remains (R427). -/
def State.homesLeft (s : State) (c : Fin 8) : Bool := !s.solo c && !(s.ctx c).ckpt.sealedCut

/-- The ROLLBACK of the in-memory cut leaves once its homes are sealed (R419, R420); a recovery reset awaits the answers here,
a RESTORE in its own record. -/
def State.rollStep (s : State) (c : Fin 8) (q : Scroll) : State :=
  let k := (s.ctx c).ckpt
  if !k.rollDue || s.homesLeft c then s
  else
    (s.sendSeals c q true k.cut.number k.cut.time q.homeServers).modCtx c fun x => { x with
      sealing := false
      ckpt := { x.ckpt with
        rollDue := false
        rollWait := if k.restore.isSome then [] else q.homeServers
        drain := x.ckpt.drain.filter fun d => !d.onlyHomes } }

/-- DRAIN_STEP (R412, R419): one piece of each of the three activities (log 23), and the ROLLBACK that waits for the first;
paused out of ACTIVE (R398, R428), and while the engine is RECOVERING or FENCED. -/
def execDrainStep (c : Fin 8) (s : State) : Host.Outcome State Fault Refusal :=
  act (fun s =>
    match s.scroll? c with
    | none => s
    | some q =>
      if s.power ≠ .active ∨ s.hng.running ∨ s.hng.fenced then s
      else
        let each := fun (whole : Bool) (f : State → Drain → State) (s : State) =>
          match (s.ctx c).ckpt.drain with | some d => if whole && d.onlyHomes then s else f s d | none => s
        let s := each false (fun s d => s.drainWrite c q d) s
        let s := each true (fun s _ => s.drainCopy c q) s
        let s := each true (fun s d => (s.drainBuddy c q d).drainEnd c q) s
        s.rollStep c q) s

/-- DRAIN_STALL (R412): no progress for BUDDY_WAIT, in units of 100 ms; what is unacknowledged is sent again. -/
def execDrainStall (c : Fin 8) (s : State) : Host.Outcome State Fault Refusal :=
  act (fun s =>
    match s.scroll? c, (s.ctx c).ckpt.drain with
    | some q, some d =>
      if s.power ≠ .active ∨ s.hng.running ∨ s.hng.fenced then s
      else if s.phys < d.progressAt + s.rfld Reg.ckpWait 0 8 * 100000000 then s
      else
        let s := (s.cause Reg.ckpCause 7).modDrain c fun d => { d with progressAt := s.phys }
        let k := (s.ctx c).ckpt.cut
        let s := s.sendSeals c q false k.number k.time d.sealWait
        let s := d.unacked.foldl (fun (s : State) n =>
          s.sendPage c q.drainTo c.1 k.number n ((s.ctx c).placeBytes n)) s
        if d.manifestSent && !d.manifestAcked then s.sendBytes c q.drainTo 3 c.1 (s.manifestBytes c q) else s
    | _, _ => s) s

/-! ### Receiving CKPT frames -/

/-- A CKPT frame of an operation (R416). -/
def ckptAs (f : Frame) (op : Nat) : Frame :=
  { f with type := 0x40, stream := BitVec.ofNat 24 (f.stream.toNat / 16 * 16 + op) }

/-- A CKPT frame accepted (R309, R416): the context it concerns is the destination's, or for a response its owner's. One
more credit goes to the sender of a credited frame. -/
def State.ckpt (s : State) (p : Fin 64) (f : Frame) (op : Nat) (deliver : State → Fin 8 → Scroll → State) : State :=
  let f := ckptAs f op
  s.arrive p f fun s =>
    let c := if f.ckptResponse then finOf 8 (fld f.stream.toNat 4 3) else finOf 8 f.context.toNat
    match s.scroll? c with
    | none => s
    | some q =>
      let s := deliver s c q
      if f.ckptResponse then s else s.grant s.ckptPort c f.source [((0, 5, 0), 1)]

/-- State byte offset of a PAGE frame, and the state page it belongs to: the END frame stands past its page's bytes. -/
def pageAt (f : Frame) : Nat × Nat :=
  let a := fld f.offset.toNat 0 48
  (a, (if f.isEnd then a - 1 else a) / 2 ^ 21)

/-- Cut number of a PAGE frame. -/
def cutOf (f : Frame) : Nat := f.offset.toNat / 2 ^ 48

/-- Bytes of a page that have arrived in order: `none` for a frame that does not continue its page. -/
def pageArrived (asm : Tab Nat) (f : Frame) : Option (Tab Nat) :=
  let (a, k) := pageAt f
  let have_ := asm.getD k 0
  if f.isEnd then none
  else if a - k * 2 ^ 21 = have_ then some (asm.set k (have_ + f.payload.length))
  else if a = k * 2 ^ 21 then some (asm.set k f.payload.length)
  else none

/-! ### The area kept for a partner (R414, R415) -/

/-- The area of a context changed. -/
def State.modArea (s : State) (c : Fin 8) (f : BuddyArea → BuddyArea) : State :=
  s.modCtx c fun x => { x with ckpt := { x.ckpt with area := f x.ckpt.area } }

/-- A newer cut, or one sent again, fills the area anew (R414); forwarding of the old one is abandoned (R415). -/
def State.fillArea (s : State) (c : Fin 8) (cut owner : Nat) : State :=
  let s := s.dropFrames c fun f => f.fwd
  s.modArea c fun a => { ({} : BuddyArea) with
    state := .filling, cut := cut, owner := owner, lastDurable := a.lastDurable, update := a.update }

/-- CKPT_PAGE (R414). A page sent again (R412) of a cut that is VALID already is acknowledged again. DESIGN CHOICE, log 23. -/
def execCkptPage (p : Fin 64) (f : Frame) (s : State) : Host.Outcome State Fault Refusal :=
  actIf f.wf (fun s => s.ckpt p f 0 fun s c q =>
    let a := (s.ctx c).ckpt.area
    let cut := cutOf f
    let (off, k) := pageAt f
    let ahead := (cut + 2 ^ 16 - a.cut) % 2 ^ 16
    if f.source ≠ q.partner ∨ q.buddyArea = 0 then s
    else
      let again := ahead == 0 && a.state == .invalid
      let newer := a.state == .empty || (ahead != 0 && decide (ahead < 2 ^ 15))
      let s := if newer || again then s.fillArea c cut (fld f.stream.toNat 4 3) else s
      let a := (s.ctx c).ckpt.area
      if a.cut = cut ∧ a.state = .valid ∧ f.isEnd ∧ a.pagesGot.has k
          ∧ (crc64 (Memory.readBytes a.bytes (k * 2 ^ 21) (2 ^ 21))).toNat = leAt f.payload 0 8 then
        s.ckptReply f 1 (pageOffset cut (k * 2 ^ 21)) true []
      else if a.cut ≠ cut ∨ a.state ≠ .filling then s
      else if q.buddyArea < (k + 1) * 2 ^ 21 then s.modArea c fun a => { a with state := .invalid }
      else if f.isEnd then
        let good := a.asm.getD k 0 == 2 ^ 21
          && (crc64 (Memory.readBytes a.bytes (k * 2 ^ 21) (2 ^ 21))).toNat == leAt f.payload 0 8
        let s := s.modArea c fun a => { a with
          asm := a.asm.erase k
          pagesGot := if good then a.pagesGot.add k else a.pagesGot
          crcBad := a.crcBad || !good }
        s.ckptReply f 1 (pageOffset cut (k * 2 ^ 21)) true []
      else
        match pageArrived a.asm f with
        | some m => s.modArea c fun a => { a with asm := m, bytes := Memory.writeBytes a.bytes off f.payload }
        | none => s) s

/-- CKPT_RECORD (R414): the records follow the pages, of which a partner that writes no shard sends none. -/
def execCkptRecord (p : Fin 64) (f : Frame) (s : State) : Host.Outcome State Fault Refusal :=
  actIf f.wf (fun s => s.ckpt p f 2 fun s c q =>
    if f.source ≠ q.partner ∨ q.buddyArea = 0 then s
    else s.modArea c fun a => { a with records := slice a.records 0 (fld f.offset.toNat 0 48) ++ f.payload }) s

/-- The checks of a manifest against the area (R414). -/
def BuddyArea.complete (a : BuddyArea) (partner : Half) (m : List Byte) : Bool :=
  leAt m 8 4 % 2 ^ 16 == a.cut && !a.crcBad &&
    ((manifestShards m).filter fun h => h.2.2.2.1 == partner).all fun h =>
      ((List.range h.2.2.1).all fun i => a.pagesGot.has (h.1 + i))
        && sha3_512 (Memory.readBytes a.bytes (h.1 * 2 ^ 21) (h.2.2.1 * 2 ^ 21)) == h.2.2.2.2

/-- A VALID area forwarded to DSERVER (R415): shards, records, the manifest last. -/
def State.forwardArea (s : State) (c : Fin 8) (q : Scroll) : State :=
  let a := (s.ctx c).ckpt.area
  let slot := match a.lastDurable with | some n => n + 1 | none => 0
  let s := s.modArea c fun a => { a with forwarding := true, forwardSlot := slot }
  let mine := (manifestShards a.manifest).filter fun h => h.2.2.2.1 == q.partner
  let s := (mine.flatMap fun h => (List.range h.2.2.1).map (h.1 + ·)).foldl (fun (s : State) k =>
    s.sendPage c q.dserver a.owner a.cut k (Memory.readBytes a.bytes (k * 2 ^ 21) (2 ^ 21)) true) s
  (s.sendBytes c q.dserver 2 a.owner a.records true).sendBytes c q.dserver 3 a.owner a.manifest true

/-- A manifest of the partner that is whole (R414, R415). A newer cut, of which no page need have come, fills the area anew; an
older one is discarded. The manifest of a VALID area sent again (R412) is acknowledged again. DESIGN CHOICE, log 23. -/
def State.areaManifest (s : State) (c : Fin 8) (q : Scroll) (f : Frame) (m : List Byte) : State :=
  let a := (s.ctx c).ckpt.area
  let cut := leAt m 8 4 % 2 ^ 16
  let ahead := (cut + 2 ^ 16 - a.cut) % 2 ^ 16
  let reply := fun (s : State) (status : Nat) => s.ckptReply f 4 0 true (leBytes 1 status ++ leBytes 7 0)
  if a.state ≠ .empty ∧ 2 ^ 15 ≤ ahead then s
  else if a.state = .valid ∧ m = a.manifest then reply s 0
  else
    let s := if a.state = .empty ∨ ahead ≠ 0 then
        (s.fillArea c cut (fld f.stream.toNat 4 3)).modArea c fun b => { b with records := a.records.take (leAt m 80 8) }
      else s
    let ok := (s.ctx c).ckpt.area.complete q.partner m
    let s := s.modArea c fun a => { a with manifest := m, state := if ok then .valid else .invalid }
    let s := reply s (bit (!ok))
    if ok then s.forwardArea c q else s

/-- CKPT_MANIFEST (R414, R415). -/
def execCkptManifest (p : Fin 64) (f : Frame) (s : State) : Host.Outcome State Fault Refusal :=
  actIf f.wf (fun s => s.ckpt p f 3 fun s c q =>
    if f.source ≠ q.partner ∨ q.buddyArea = 0 then s
    else
      let m := slice (s.ctx c).ckpt.area.incoming 0 (fld f.offset.toNat 0 48) ++ f.payload
      let s := s.modArea c fun a => { a with incoming := if f.isEnd then [] else m }
      if f.isEnd then s.areaManifest c q f m else s) s

/-- CKPT_FETCH (R420): served from a VALID area with a matching digest, otherwise ABSENT. Offsets from 2^47 address the
manifest. DESIGN CHOICE, log 24. -/
def execCkptFetch (p : Fin 64) (f : Frame) (s : State) : Host.Outcome State Fault Refusal :=
  actIf f.wf (fun s => s.ckpt p f 7 fun s c _ =>
    let a := (s.ctx c).ckpt.area
    let off := fld f.offset.toNat 0 48
    let bs := if 2 ^ 47 ≤ off then a.manifest else Memory.readBytes a.bytes (off / 2 ^ 21 * 2 ^ 21) (2 ^ 21)
    let base := if 2 ^ 47 ≤ off then 2 ^ 47 else off / 2 ^ 21 * 2 ^ 21
    if a.state ≠ .valid ∨ sha3_512 a.manifest ≠ slice f.payload 0 64 ∨ (off < 2 ^ 47 ∧ !a.pagesGot.has (off / 2 ^ 21)) then
      s.ckptReply f 9 f.offset.toNat true []
    else
      let port := if 2 ^ 47 ≤ off then s.ckptPort else s.pagePort c (off / 2 ^ 21)
      let s := (pieces bs).foldl (fun (s : State) e => s.ckptReplyOn port f 8 (pageOffset a.cut (base + e.1)) false e.2) s
      s.ckptReplyOn port f 8 (pageOffset a.cut (base + bs.length)) true (leBytes 8 (crc64 bs).toNat)) s

/-! ### Acknowledgements of a drain -/

/-- CKPT_PAGE_ACK (R412). -/
def execCkptPageAck (p : Fin 64) (f : Frame) (s : State) : Host.Outcome State Fault Refusal :=
  actIf f.wf (fun s => s.ckpt p f 1 fun s c q =>
    if f.source ≠ q.drainTo ∨ cutOf f ≠ (s.ctx c).ckpt.cut.number % 2 ^ 16 then s
    else s.modDrain c fun d => { d with
      unacked := d.unacked.del (fld f.offset.toNat 0 48 / 2 ^ 21), progressAt := s.phys }) s

/-- The slot that does not hold the latest durable cut (R415). -/
def Ckpt.otherSlot (k : Ckpt) : Fin 2 := match k.durableSlot with | some n => n + 1 | none => 0

/-- A slot holds this cut (R415): CKP_CAUSE.DURABLE, and the slot VALID. -/
def State.durable (s : State) (c : Fin 8) (slot : Fin 2) : State :=
  let s := s.modCtx c fun x => { x with ckpt := { x.ckpt with
    slots := vset x.ckpt.slots slot AreaState.valid
    durableSlot := some slot
    phase := if x.ckpt.phase = 3 then 4 else x.ckpt.phase } }
  s.cause Reg.ckpCause 5

/-- The manifest of our own cut is acknowledged (R412): CKP_CAUSE.DRAINED, and the records have drained (R425). -/
def State.drained (s : State) (c : Fin 8) (q : Scroll) : State :=
  let mine := s.cutLog c
  let s := { s with replayLog := s.replayLog.map fun r => if mine.contains r then { r with drained := true } else r }
  let s := s.modDrain c fun d => { d with manifestAcked := true, progressAt := s.phys }
  let slot := (s.ctx c).ckpt.otherSlot
  let s := s.modCtx c fun x => { x with ckpt := { x.ckpt with
    phase := 3, slots := vset x.ckpt.slots slot AreaState.filling } }
  let s := s.cause Reg.ckpCause 4
  (if q.buddy = 0xFFFF then s.durable c slot else s).drainEnd c q

/-- The buddy traffic starts over after a manifest is refused (R414). -/
def Drain.again (d : Drain) : Drain :=
  { d with nextPage := 0, unacked := [], recordsSent := false, manifestSent := false }

/-- CKPT_MANIFEST_ACK (R412, R415): of our own drain, or from DSERVER of a forwarded cut, whose owner is a context of the
partner. -/
def execCkptManifestAck (p : Fin 64) (f : Frame) (s : State) : Host.Outcome State Fault Refusal :=
  actIf f.wf (fun s => s.arrive p (ckptAs f 4) fun s =>
    let status := leAt f.payload 0 1
    let own := finOf 8 (fld f.stream.toNat 4 3)
    let mine := match s.scroll? own, (s.ctx own).ckpt.drain with
      | some oq, some d => if f.source == oq.drainTo && d.manifestSent && !d.manifestAcked then some oq else none
      | _, _ => none
    match mine with
    | some oq => if status = 0 then s.drained own oq else s.modDrain own Drain.again
    | none =>
      let held := (fins 8).find? fun c =>
        let a := (s.ctx c).ckpt.area
        a.forwarding && a.owner == own.1
          && (match s.scroll? c with | some q => q.dserver == f.source | none => false)
      match held with
      | none => s
      | some c =>
        match s.scroll? c with
        | none => s
        | some q =>
          let a := (s.ctx c).ckpt.area
          if status ≠ 0 then s.modArea c fun a => { a with forwarding := false }
          else
            let s := s.modArea c fun a => { a with forwarding := false, lastDurable := some a.forwardSlot }
            s.ckptSend c s.ckptPort q.partner 10 a.owner 0 false true (leBytes 1 a.forwardSlot.1 ++ leBytes 7 0)) s

/-- CKPT_DURABLE (R415). -/
def execCkptDurable (p : Fin 64) (f : Frame) (s : State) : Host.Outcome State Fault Refusal :=
  actIf f.wf (fun s => s.ckpt p f 10 fun s c q =>
    let slot := leAt f.payload 0 1
    if f.source ≠ q.buddy ∨ 1 < slot then s else s.durable c (finOf 2 slot)) s

/-! ### Restoring a cut (R419 to R422) -/

/-- The target that follows the version of a cut (R273, R453): the recorded one; after a recovery reset in MANUAL mode
the one that is pending now, or the version that a switch accepted since the cut has made CURRENT. DEDUCED, log 20. -/
def Ctx.targetAfter (x : Ctx) (k : CutRecord) (kept : Bool) : Option Word :=
  if kept && !k.vmode then
    x.pending.or ((x.current.map fun b => x.banks[b].version).filter fun v => some v != k.current)
  else k.pending

/-- The cut record's versions (R273): the next step pins the version recorded for it, which in FOLLOW mode is the recorded
pending target, if any. A version that is not held becomes the pending target, and the next target follows it; `kept`: in a
recovery reset. DEDUCED, log 20. -/
def State.applyVersions (s : State) (c : Fin 8) (q : Scroll) (k : CutRecord) (kept : Bool) : State :=
  match k.current with
  | none => s
  | some v =>
    let x := s.ctx c
    let digestOf := fun (w : Word) => match x.bankOf w with
      | some b => x.banks[b].digest
      | none => if x.pending = some w then x.pendDigest else []
    let whole := fun (w : Word) => (x.bankOf w).filter fun b =>
      x.banks[b].state == .current || x.banks[b].state == .ready || x.banks[b].state == .retiring
    let s := match whole v with
      | some b => s.setCtx c { (if x.current = some b then x else x.makeCurrent b) with pending := none }
      | none => s
    let s := s.modCtx c fun x => { x with mustPend := false, thenPend := none }
    match x.targetAfter k kept with
    | some w =>
      if k.vmode ∨ (whole v).isSome then (s.switchTo c q w (digestOf w)).2
      else (s.switchTo c q v (digestOf v)).2.modCtx c fun x => { x with mustPend := true, thenPend := some w }
    | none =>
      if (whole v).isSome then s else (s.switchTo c q v (digestOf v)).2.modCtx c fun x => { x with mustPend := true }

/-- The record is that of a load state whose first STEP_START has not come (R519): it holds no series, and fixes nothing. -/
def CutRecord.open_ (k : CutRecord) : Bool := k.number == 0 && k.series.isNone

/-- A cut record applied (R419, R422, R519), in a recovery reset when `kept`. A load state with no series leaves the context
with none, and its versions, arming and step number as they stand (R336, R440). -/
def State.applyRecord (s : State) (c : Fin 8) (q : Scroll) (k : CutRecord) (kept : Bool) : State :=
  let s := if k.open_ then s else s.applyVersions c q k kept
  s.modCtx c fun x => { x with
    stepNo := if k.open_ then x.stepNo else k.step
    armed := if k.open_ then x.armed else k.armed
    vmode := if k.open_ then x.vmode else k.vmode
    series := k.series, seriesKept := k.series.isSome
    reload := true, restored := true, needRestore := false
    ckpt := { x.ckpt with cut := k } }

/-- The frames of STACKED and REMOTE pages freed, their pages REMOTE (R419). While cut write-backs are `left`, a page that still
has one keeps what it is sent from: a copied page its home-area copy, another its frame, under eviction. -/
def Ctx.freeRemote (x : Ctx) (q : Scroll) (left : Bool) : Ctx :=
  let free := fun (x : Ctx) (e : Nat × Page) =>
    if !(left && e.2.snap) then x.dropFrame q e.1
    else if e.2.copied then
      (x.dropFrame q e.1).modPage q e.1 fun y => { y with
        snap := true, copied := true, flying := e.2.flying, flying1 := e.2.flying1 }
    else x.modPage q e.1 fun y => { y with state := .moving, move := .evict, dirty := y.cutDirty }
  let homed := x.pages.filter fun e => match q.segOf e.1 with | some g => g.cls != 0 | none => false
  let x := (homed.filter fun e => e.2.framed).foldl free { x with fetches := [] }
  if left then x
  else
    (homed.filter fun e => !e.2.framed).foldl (fun (x : Ctx) e => x.modPage q e.1 fun y => { y with
      snap := false, copied := false, cutDirty := 0, cutSent := 0, flying := 0, flying1 := 0 })
      { x with ckpt := { x.ckpt with homeCopies := [] } }

/-- Local copies finished: every state page stands in its place. -/
def Ctx.copyAll (x : Ctx) (q : Scroll) : Ctx := (x.snapState q).foldl (fun (x : Ctx) k => x.localCopy q k) x

/-- Every state page whose WRITTEN bit is set rewritten from its place (R419). -/
def Ctx.rewrite (x : Ctx) (q : Scroll) : Ctx :=
  (List.range q.statePages).foldl (fun (x : Ctx) k =>
    let p := q.stateAt k
    if (x.page q p).written then
      { x.modPage q p (fun y => { y with written := false, poison := false }) with
        mem := Memory.copy x.mem x.ckpt.snapshot (p * 2 ^ 21) (k * 2 ^ 21) (2 ^ 21)
        badLines := x.badLines.delRange (p * 2 ^ 15) (2 ^ 15)
        eccLines := x.eccLines.delRange (p * 2 ^ 15) (2 ^ 15) }
    else x) x

/-- The drain abandoned, but for the cut write-backs and seals that remain: a restore to the cut finishes them (R419). -/
def State.homesOnly (s : State) (c : Fin 8) : State :=
  let d := (s.ctx c).ckpt.drain
  let s := s.dropDrain c
  if !s.homesLeft c then s
  else s.modCtx c fun x => { x with
    sealing := true
    ckpt := { x.ckpt with drain := some { d.getD {} with onlyHomes := true, progressAt := s.phys } } }

/-- Orders 1 to 3 of R419 from the in-memory cut: written pages rewritten, frames freed, and the homes rolled back once the cut
write-backs and seals, which DRAIN_STEP goes on with, are acknowledged. -/
def State.backToCut (s : State) (c : Fin 8) (q : Scroll) : State :=
  let s := if (s.ctx c).ckpt.drain.isNone then s.homesOnly c else s
  let s := (((List.range q.statePages).map q.stateAt).filter fun p => ((s.ctx c).page q p).written).foldl
    (fun (s : State) p => s.backInvalidate c (p * 2 ^ 21) (2 ^ 21)) s
  let left := s.homesLeft c
  let s := s.modCtx c fun x =>
    let x := ((x.copyAll q).rewrite q).freeRemote q left
    { x with ckpt := { x.ckpt with rollDue := true } }
  s.rollStep c q

/-- A context reloaded from its scroll copy from order 6 of R366 (R419, R420), its homes rolled back to the load's seal;
the background fetches start once the homes have answered (R420). -/
def State.reloadScroll (s : State) (c : Fin 8) (q : Scroll) : State :=
  let s := ((s.ctx c).pages.filter fun e => e.2.framed).foldl (fun (s : State) e =>
    s.backInvalidate c (e.1 * 2 ^ 21) (2 ^ 21)) s
  let s := s.modCtx c fun x => { x with
    pages := [], mem := [], badLines := [], eccLines := [], fetches := [], bg := some 0, members := [], reds := []
    units := [], sealing := false
    ckpt := { x.ckpt with homeCopies := [], sealedCut := true, rollDue := false, rollWait := [] } }
  let s := ((s.writeRoutes c q).installTiles c q true).writeImages c q
  s.sendSeals c q true 0 (s.ctx c).ckpt.cut.time q.homeServers

/-- A RESTORE ends (R421): a failure at or after order 3 sets NEED_RESTORE. -/
def State.restoreFail (s : State) (c : Fin 8) (cause : Nat) : State :=
  let late := match (s.ctx c).ckpt.restore with | some r => r.wrote | none => false
  let s := s.modCtx c fun x => { x with
    needRestore := x.needRestore || late, ckpt := { x.ckpt with restore := none } }
  let s := s.causeIf (cause == 4) Reg.ckpCause 6
  s.finishOp c 0x17 Status.verify cause

/-- Order 5 of R420, once every ROLLBACK is acknowledged; a fault hold ends (R338). -/
def State.restoreEnd (s : State) (c : Fin 8) (q : Scroll) : State :=
  match (s.ctx c).ckpt.restore with
  | some r =>
    if !r.wrote || !r.rollbacks.isEmpty then s
    else
      let k := if r.source = 0 then (s.ctx c).ckpt.cut else manifestRecord q r.manifest s.replayHead
      let s := s.modCtx c fun x => { x with faultHold := false, ckpt := { x.ckpt with
        restore := none
        phase := if r.source = 1 then 3 else if r.source = 2 then 4 else if x.ckpt.phase = 2 then 0 else x.ckpt.phase } }
      let s := s.applyRecord c q k false
      -- after `reloadScroll` the HOME pages are fetched again (R216)
      let s := if r.source = 0 ∧ ((q.sec? 0x10).isNone ∨ k.number = 0) then s.background c else s
      s.finishOp c 0x17 Status.ok
  | none => s

/-- FETCH of a state byte offset or, from 2^47, of the manifest (R416, R420). -/
def State.ckptFetch (s : State) (c : Fin 8) (dest : Half) (offset : Nat) (digest : List Byte) : State :=
  s.ckptSend c s.ckptPort dest 7 c.1 offset false true (slice digest 0 64)

/-- The engine a restore's manifest comes from. -/
def Scroll.restoreFrom (q : Scroll) (source : Fin 3) : Half := if source = 1 then q.buddy else q.dserver

/-- The engine a shard comes from: of another writer, always DSERVER (R420). -/
def State.shardFrom (s : State) (q : Scroll) (source : Fin 3) (writer : Half) : Half :=
  if writer = s.ident then q.restoreFrom source else q.dserver

/-- A RESTORE begins (R420). -/
def State.restoreStart (s : State) (c : Fin 8) (q : Scroll) (source : Fin 3) (digest : List Byte) : State :=
  let digest := slice digest 0 64
  let zero := digest.all (· == 0)
  let ck := (q.sec? 0x10).isSome
  let begin_ := fun (s : State) (r : Restore) => s.modCtx c fun x => { x with ckpt := { x.ckpt with restore := some r } }
  let r : Restore := { source := source, digest := digest }
  if source = 0 then
    if !ck || (s.ctx c).ckpt.cut.number == 0 then
      if !zero then s.restoreFail c 1
      else
        let s := (s.dropDrain c).reloadScroll c q
        (begin_ s { r with wrote := true, rollbacks := q.homeServers }).restoreEnd c q
    else if !zero && digest != sha3_512 ((s.modCtx c fun x => x.copyAll q).manifestBytes c q) then s.restoreFail c 1
    else
      ((begin_ (s.homesOnly c) { r with wrote := true, rollbacks := q.homeServers }).backToCut c q).restoreEnd c q
  else if !ck then s.finishOp c 0x17 Status.state
  else if source = 1 ∧ q.buddy = 0xFFFF then s.restoreFail c 4
  else (begin_ s r).ckptFetch c (q.restoreFrom source) (2 ^ 47) digest

/-- Order 3 begins (R420, R421, R423): the digest, then the layout, and every shard is asked for. -/
def State.restoreManifest (s : State) (c : Fin 8) (q : Scroll) (r : Restore) : State :=
  let layout := (manifestShards r.manifest).map fun h => (h.1, h.2.1, h.2.2.1)
  if sha3_512 r.manifest ≠ r.digest then s.restoreFail c 1
  else if layout ≠ q.shards.map fun h => (h.1, h.2.1, h.2.2.1) then s.restoreFail c 2
  else
    let s := s.dropDrain c
    let s := s.modCtx c fun x =>
      let x := { x with
        pages := x.pages.mapVals fun _ y => { y with snap := false, copied := false, written := false, cutDirty := 0, cutSent := 0 }
        sealing := false }
      { x with ckpt := { x.ckpt with
        homeCopies := [], sealedCut := true, rollDue := false, rollWait := [], restore := some { r with manifestOk := true, wrote := true } } }
    (manifestShards r.manifest).foldl (fun (s : State) h =>
      (List.range h.2.2.1).foldl (fun (s : State) i =>
        s.ckptFetch c (s.shardFrom q r.source h.2.2.2.1) ((h.1 + i) * 2 ^ 21) r.digest) s) s

/-- A shard written to the state ranges and to the snapshot area (R420). -/
def State.restoreShard (s : State) (c : Fin 8) (q : Scroll) (r : Restore) (first n : Nat) : State :=
  (List.range n).foldl (fun (s : State) i =>
    let k := first + i
    let p := q.stateAt k
    match q.segOf p with
    | none => s
    | some g =>
      let f := s.chooseFrame c g p
      (s.backInvalidate c (p * 2 ^ 21) (2 ^ 21)).modCtx c fun x =>
        let x := x.modPage q p fun y => { (if y.state = .resident then y else y.inFrame x f) with
          state := .resident, poison := false }
        { x with
          mem := Memory.copy x.mem r.bytes (p * 2 ^ 21) (k * 2 ^ 21) (2 ^ 21)
          badLines := x.badLines.delRange (p * 2 ^ 15) (2 ^ 15)
          eccLines := x.eccLines.delRange (p * 2 ^ 15) (2 ^ 15)
          ckpt := { x.ckpt with
            snapshot := Memory.copy x.ckpt.snapshot r.bytes (k * 2 ^ 21) (k * 2 ^ 21) (2 ^ 21) } }) s

/-- A page of a restore is whole: its shard is checked and written once all of it is there, and after the last shard the
homes are rolled back (R420). -/
def State.restorePage (s : State) (c : Fin 8) (q : Scroll) (r : Restore) (k : Nat) : State :=
  let r := { r with got := r.got.add k }
  let s := s.modCtx c fun x => { x with ckpt := { x.ckpt with restore := some r } }
  match (manifestShards r.manifest).find? fun h => decide (h.1 ≤ k) && decide (k < h.1 + h.2.2.1) with
  | none => s
  | some h =>
    if !((List.range h.2.2.1).all fun i => r.got.has (h.1 + i)) then s
    else if sha3_512 (Memory.readBytes r.bytes (h.1 * 2 ^ 21) (h.2.2.1 * 2 ^ 21)) ≠ h.2.2.2.2 then s.restoreFail c 3
    else
      let s := s.restoreShard c q r h.1 h.2.2.1
      if r.got.length ≠ q.statePages then s
      else
        let m := manifestRecord q r.manifest s.replayHead
        let s := s.sendSeals c q true m.number m.time q.homeServers
        let s := s.modCtx c fun x => let x := x.freeRemote q false; { x with
          ckpt := { x.ckpt with restore := some { r with rollbacks := q.homeServers } } }
        s.restoreEnd c q

/-- CKPT_FETCH_DATA (R420). -/
def State.onCkptFetchData (s : State) (p : Fin 64) (f : Frame) : State :=
  s.ckpt p f 8 fun s c q =>
    match (s.ctx c).ckpt.restore with
    | none => s
    | some r =>
      let (off, k) := pageAt f
      let put := fun (r : Restore) => s.modCtx c fun x => { x with ckpt := { x.ckpt with restore := some r } }
      if r.source = 0 then s
      else if !r.manifestOk then
        if f.source ≠ q.restoreFrom r.source ∨ off < 2 ^ 47 then s
        else if !f.isEnd then put { r with manifest := slice r.manifest 0 (off - 2 ^ 47) ++ f.payload }
        else if (crc64 r.manifest).toNat ≠ leAt f.payload 0 8 then s.restoreFail c 1
        else s.restoreManifest c q r
      else
        let from_ := ((manifestShards r.manifest).find? fun h => decide (h.1 ≤ k) && decide (k < h.1 + h.2.2.1)).map
          fun h => s.shardFrom q r.source h.2.2.2.1
        if from_ ≠ some f.source ∨ r.got.has k then s
        else if f.isEnd then
          if r.asm.getD k 0 = 2 ^ 21
              ∧ (crc64 (Memory.readBytes r.bytes (k * 2 ^ 21) (2 ^ 21))).toNat = leAt f.payload 0 8 then
            s.restorePage c q { r with asm := r.asm.erase k } k
          else s.restoreFail c 3
        else
          match pageArrived r.asm f with
          | some m => put { r with asm := m, bytes := Memory.writeBytes r.bytes off f.payload }
          | none => s

/-- CKPT_ABSENT (R421). -/
def State.onCkptAbsent (s : State) (p : Fin 64) (f : Frame) : State :=
  s.ckpt p f 9 fun s c q =>
    match (s.ctx c).ckpt.restore with
    | none => s
    | some r =>
      if r.source = 1 ∧ f.source = q.buddy then s.restoreFail c 4
      else if r.source ≠ 0 ∧ f.source = q.dserver then s.restoreFail c 5
      else s

/-- Does a restore wait for the buddy? -/
def State.waitsBuddy (s : State) (q : Scroll) (r : Restore) : Bool :=
  r.source == 1 && (!r.manifestOk || (manifestShards r.manifest).any fun h =>
    h.2.2.2.1 == s.ident && !((List.range h.2.2.1).all fun i => r.got.has (h.1 + i)) && q.buddy != 0xFFFF)

/-- RESTORE_BUDDY_SILENT (R421): the buddy has been silent for BUDDY_WAIT. -/
def State.buddySilent (s : State) (c : Fin 8) : State :=
  match s.scroll? c, (s.ctx c).ckpt.restore with
  | some q, some r => if s.waitsBuddy q r then s.restoreFail c 4 else s
  | _, _ => s

/-- CKPT_SEAL_ACK (R412, R413, R419, R420): of the SEAL sent to that server and not yet answered, or else of a ROLLBACK. -/
def State.onCkptSealAck (s : State) (p : Fin 64) (f : Frame) : State :=
  s.ckpt p f 6 fun s c q =>
    let number := leAt f.payload 0 4
    let answered := (f.source, number)
    let k := (s.ctx c).ckpt
    if !k.sealsOut.contains answered then
      match k.restore with
      | some r =>
        if number ≠ (if r.source = 0 then k.cut.number else leAt r.manifest 8 4) then s
        else
          let s := s.modCtx c fun x => { x with
            ckpt := { x.ckpt with restore := some { r with rollbacks := r.rollbacks.erase f.source } } }
          s.restoreEnd c q
      | none =>
        if number ≠ k.cut.number ∨ !k.rollWait.contains f.source then s
        else (s.modCtx c fun x => { x with ckpt := { x.ckpt with rollWait := k.rollWait.erase f.source } }).background c
    else
    let s := s.modCtx c fun x => { x with ckpt := { x.ckpt with sealsOut := x.ckpt.sealsOut.erase answered } }
    if number ≠ k.cut.number then s
    else
      let s := s.modDrain c fun d => { d with sealWait := d.sealWait.erase f.source, progressAt := s.phys }
      let s := s.modCtx c fun x =>
        let open_ := match x.ckpt.drain with | some d => !d.sealWait.isEmpty || !d.sealed | none => false
        { x with
          sealing := open_
          ckpt := { x.ckpt with sealedCut := x.ckpt.sealedCut || (x.ckpt.drain.isSome && !open_) } }
      s.rollStep c q

end Sys2Proof.Machine
end

