-- ==== Sys2Proof/Machine/Membership.lean ====
section
/-! DEFINITION. Membership (R311, R447 to R451): FENCED, epochs, the checks and effects of membership commands, probation;
and the blobs that carry command keys (R478 to R481). -/

namespace Sys2Proof.Machine

/-! ### FENCED (R311, R449) -/

/-- A context as the engine enters FENCED (R449): its step and its cuts end, and it is LOADED with NEED_RESTORE. -/
def State.fenceCtx (s : State) (c : Fin 8) : State :=
  let x := s.ctx c
  if x.scroll.isNone ∨ !(x.state == .loaded || x.state == .running || x.state == .held) then s
  else
    let s := ((s.abandonStep c).endSteps c Status.aborted).finishOp c 0x16 Status.aborted
    (s.dropDrain c).modCtx c fun x => { x with
      capoHold := false, needRestore := true, sealing := false
      ckpt := { x.ckpt with due := none, periodicDue := false, pendingAt := none, holding := false } }

/-- FENCED entered, which sets a cause bit (R311, R449, R451): replay buffers cleared, and probation ended. `code` is what the
action log names: 0xFFFF for a command (R490). -/
def State.enterFenced (s : State) (reg b code : Nat) : State :=
  if s.hng.fenced then s
  else
    let s := (s.cause reg b).action 6 0 code s.hng.epoch.toNat
    let s := { s with
      hng := { s.hng with fenced := true, probation := false }
      ports := s.ports.map fun pt => { pt with replay := [], fenceSeq := some pt.tx } }
    (fins 8).foldl State.fenceCtx s

/-- The engine fences itself during probation (R451). -/
def State.probationFail (s : State) : State :=
  if s.hng.probation then s.enterFenced Reg.hngCause 11 0xD0B else s

/-! ### Membership commands (R447 to R449) -/

/-- Fields of a membership command. -/
def memberKind (b : List Byte) : Nat := leAt b 4 1
def memberNsig (b : List Byte) : Nat := leAt b 5 1
def memberSerial (b : List Byte) : Nat := leAt b 8 8
def memberTarget (b : List Byte) : Half := BitVec.ofNat 16 (leAt b 16 2)
def memberEpoch (b : List Byte) : Half := BitVec.ofNat 16 (leAt b 18 2)
def memberSigner (b : List Byte) (j : Nat) : Nat := leAt b (64 + 4640 * j) 2

/-- Check 1 of R448; `kinds` are the KINDs that the way of arrival allows. -/
def memberFormat (b : List Byte) (kinds : List Nat) : Bool :=
  let n := memberNsig b
  leAt b 0 4 == 0x4D454D42 && kinds.contains (memberKind b) && decide (1 ≤ n) && decide (n ≤ 16)
    && b.length == 64 + 4640 * n && leAt b 6 2 == 0 && leAt b 20 44 == 0
    && ((List.range n).all fun j => leAt b (64 + 4640 * j + 2) 6 == 0 && leAt b (64 + 4640 * j + 4635) 5 == 0)
    && (memberTarget b != 0xFFFF || memberKind b == 1)

/-- Would the engine adopt NEW_EPOCH (R449)? -/
def State.adopts (s : State) (b : List Byte) : Bool :=
  let mine := memberTarget b == s.ident
  match memberKind b with
  | 1 => mine || memberTarget b == 0xFFFF
  | 2 => !mine
  | _ => true

/-- Is the command set aside (R448)? -/
def State.setAside (s : State) (b : List Byte) : Bool :=
  memberTarget b != s.ident && (!s.adopts b || s.hng.fenced)

/-- Check 2 of R448: K of the N manager keys of the owner record. -/
def State.quorum (s : State) (b : List Byte) : Bool :=
  let r := s.owner
  let n := leAt r 9 1
  let signers := (List.range (memberNsig b)).map (memberSigner b)
  s.owned && decide (1 ≤ n) && decide (leAt r 8 1 ≤ memberNsig b) && signers.all (fun i => decide (i < n))
    && decide signers.Nodup && (List.range (memberNsig b)).all fun j =>
      Config.mlDsaVerify (slice r (13088 + 2592 * memberSigner b j) 2592) (b.take 64) "LW2-MEMBER"
        (slice b (64 + 4640 * j + 8) 4627)

/-- The failing cause of R448 after the FORMAT check, 0 when every check passes. -/
def State.memberCause (s : State) (b : List Byte) : Nat :=
  let mine := memberTarget b == s.ident
  if !s.quorum b then 2
  else if memberSerial b ≤ s.hng.serial.toNat then 3
  else if s.adopts b && !older s.hng.epoch (memberEpoch b) then 4
  else if mine && ((memberKind b == 3 && !s.hng.fenced) || (memberKind b == 1 && s.hng.fenced)) then 5
  else 0

/-- NEW_EPOCH adopted. REJECT frames of the epoch left no longer name this engine's own (R311). -/
def State.adoptEpoch (s : State) (e : Half) : State := { s with hng := { s.hng with epoch := e, rejects := [] } }

/-- An accepted command acts (R449); frames that waited for the first one may leave (R309). -/
def State.memberAct (s : State) (b : List Byte) : State :=
  let s := ({ s with hng := { s.hng with serial := BitVec.ofNat 64 (memberSerial b), epochSet := true } }).cause Reg.hngCause 8
  let mine := memberTarget b == s.ident
  let e := memberEpoch b
  let s :=
    if memberKind b = 2 ∧ mine then s.enterFenced Reg.hngCause 7 0xFFFF
    else if memberKind b = 3 ∧ mine then
      ((({ s with hng := { s.hng with fenced := false, probation := true } }).skip fun _ => true).adoptEpoch e).action 6 0
        0xFFFF e.toNat
    else s.adoptEpoch e
  s.pumpAll

/-- A command rejected: HNG_MEMBER and HNG_CAUSE.MEMBER_REJECT (R448, R454). -/
def State.memberReject (s : State) (b : List Byte) (cause : Nat) (ring : Bool) (source : Half) : State :=
  (s.setReg Reg.hngMember (memberKind b % 4 + cause * 2 ^ 2 + bit ring * 2 ^ 5 + 2 ^ 6 + source.toNat * 2 ^ 7)).cause
    Reg.hngCause 9

/-- The FENCE or READMIT that is in progress on ring 8 completes. -/
def State.memberDone (s : State) (status detail : Nat) : State :=
  match s.rings[(8 : Fin 9)].cmds.find? fun k => k.phase == .memberSerial with
  | some k => s.finish 8 k status detail
  | none => s

/-- Checks 2 to 5 of R448 and what follows; a serial above the ceiling waits for the flash. A ring command's outcome is its
completion. -/
def State.memberTry (s : State) (m : MemberCmd) : State :=
  let b := m.body
  let cause := s.memberCause b
  if cause ≠ 0 then
    let s := s.memberReject b cause m.ring m.source
    if m.ring then s.memberDone Status.verify cause else s
  else if s.flash.memberCeiling.toNat < memberSerial b then
    { s with hng := { s.hng with memberWait := s.hng.memberWait ++ [m] } }
  else
    let s := s.memberAct b
    if m.ring then s.memberDone Status.ok 0 else s

/-- A membership command arrives whole (R447, R448); one that arrives while a ceiling is written waits for it. -/
def State.member (s : State) (m : MemberCmd) (kinds : List Nat) : State :=
  if !memberFormat m.body kinds then
    let s := s.memberReject m.body 1 m.ring m.source
    if m.ring then s.memberDone Status.verify 1 else s
  else if s.setAside m.body then (if m.ring then s.memberDone Status.ok 0 else s)
  else if !s.hng.memberWait.isEmpty then { s with hng := { s.hng with memberWait := s.hng.memberWait ++ [m] } }
  else s.memberTry m

/-- The ceiling of a counter or serial, in blocks of 2^20 (R331, R448); one of more than 64 bits is 2^64 - 1. DESIGN CHOICE,
log 42. -/
def ceilingOf (n : Nat) : Nat := min ((n / 2 ^ 20 + 1) * 2 ^ 20) (2 ^ 64 - 1)

/-- The ceiling that a waiting command asked for stands in flash: it and those behind it are checked in turn, as the engine
stands now (R448, R449). -/
def State.memberCeilingWritten (s : State) : State :=
  match s.hng.memberWait with
  | [] => s
  | m :: rest =>
    let s := { s with
      flash := { s.flash with memberCeiling := BitVec.ofNat 64 (ceilingOf (memberSerial m.body)) }
      hng := { s.hng with memberWait := [] } }
    (m :: rest).foldl (fun (s : State) m =>
      if !s.hng.memberWait.isEmpty then { s with hng := { s.hng with memberWait := s.hng.memberWait ++ [m] } }
      else if s.setAside m.body then (if m.ring then s.memberDone Status.ok 0 else s)
      else s.memberTry m) s

/-- REJECT frames within 1 s from enough engines fence this one (R311). -/
def State.rejected (s : State) (source theirs ours : Half) : State :=
  if ours ≠ s.hng.epoch ∨ !older s.hng.epoch theirs then s
  else
    let recent := (s.hng.rejects.filter fun (e : Half × Nat) => e.1 != source && decide (s.phys < e.2 + 1000000000)) ++ [(source, s.phys)]
    let s := { s with hng := { s.hng with rejects := recent } }
    if s.rfld Reg.fabCtrl 0 5 ≤ recent.length then s.enterFenced Reg.fabCause 4 0x804 else s

/-! ### Command keys (R478 to R481) -/

/-- Measurement 2 (R470): SHA3-512 of the running copy. -/
def State.measurement2 (s : State) : List Byte := sha3_512 s.flash.fw[s.boot.copy].image

/-- The seeds of the alias and encapsulation keys, which hold from order 4 of bring-up to the next cold reset (R468). -/
def State.aliasSeed (s : State) : List Byte := kmac256 Config.pufSeed s.measurement2 "LW2-ALIAS"
def State.kemSeed (s : State) : List Byte := kmac256 Config.pufSeed s.measurement2 "LW2-KEM"

/-- Exclusive-or of byte strings. -/
def xorBytes (a b : List Byte) : List Byte := List.zipWith (· ^^^ ·) a b

/-- The key that a blob wraps (R479). -/
def State.unwrap (s : State) (b : List Byte) : List Byte :=
  let ss := Config.mlKemDecap s.kemSeed (slice b 64 1568)
  xorBytes (slice b 24 32) (kmac256 ss (b.take 24) "LW2-WRAP")

/-- The failing cause of R479 for a blob meant for a ring, 0 when it passes. -/
def State.blobCause (s : State) (ring : Fin 9) (b : List Byte) : Nat :=
  if b.length ≠ 6272 ∨ leAt b 0 4 ≠ 0x59454B43 ∨ leAt b 4 1 ≠ ring.1 ∨ leAt b 5 3 ≠ 0 ∨ leAt b 12 4 ≠ 0 ∨ leAt b 6259 13 ≠ 0 then 1
  else if !s.owned ∨ leAt b 8 4 ≠ ownerSerial s.owner then 2
  else if !Config.mlDsaVerify (slice s.owner 128 2592) (sha3_512 (b.take 1632)) "LW2-KEY" (slice b 1632 4627) then 3
  else if leAt b 16 8 ≤ s.flash.keySerials[ring].toNat then 4
  else if (kmac256 (s.unwrap b) [] "LW2-KCV").take 8 ≠ slice b 56 8 then 5
  else 0

/-- A blob rejected: SEC_CAUSE.KEY_REJECT and the cause (R480, R484). -/
def State.blobReject (s : State) (cause : Nat) : State :=
  { s with sec := { s.sec with lastCause := cause } }.cause Reg.secCause 3

/-- A blob that passes waits for its KEY_SERIAL to stand in flash (R481). -/
def State.blobAccept (s : State) (ring : Fin 9) (b : List Byte) (via : Option Transport) : State :=
  { s with sec := { s.sec with
    keyWait := s.sec.keyWait ++ [(ring, BitVec.ofNat 64 (leAt b 16 8), s.unwrap b, via)] } }

end Sys2Proof.Machine
end

