-- ==== Sys2Proof/Machine/Commands.lean ====
section
/-! DEFINITION. The command server (R325 to R343): consuming ring entries, the order commands start in, the checks of
critical commands, and what each command does when it starts. -/

namespace Sys2Proof.Machine

/-! ### The command set (R332) -/

/-- Opcodes of ring 8, and of rings 0 to 7. -/
def opAllowed (r : Fin 9) (op : Nat) : Bool :=
  op == 0x19 || op == 0x1A || (if r = 8 then decide (1 ≤ op) && decide (op ≤ 0x0A) else decide (0x10 ≤ op) && decide (op ≤ 0x18))

/-- The critical opcodes. -/
def opCritical (op : Nat) : Bool := [0x10, 0x17, 0x1A, 0x02, 0x03, 0x04, 0x05, 0x06, 0x07].contains op

/-- The opcodes of class CONCURRENT. -/
def opConcurrent (op : Nat) : Bool := [0x13, 0x14, 0x15, 0x16, 0x19].contains op

/-- The context of a ring: rings 0 to 7. -/
def ctxOfRing (r : Fin 9) : Fin 8 := finOf 8 r.1

/-- LOAD_SCROLL or RESTORE. -/
def Cmd.reloads (k : Cmd) : Bool := k.entry.opcode == 0x10 || k.entry.opcode == 0x17

/-- Does a consumed command start ahead of its ring's order (R332, R339, R340, R436)? -/
def State.startsEarly (s : State) (r : Fin 9) (op : Nat) : Bool :=
  let st := (s.ctx (ctxOfRing r)).state
  if r = 8 then if s.hng.running then [0x02, 0x03, 0x06, 0x19].contains op else op == 0x0A
  else op == 0x18 || ((op == 0x10 || op == 0x17) && (st == .running || st == .held))

/-- An entry is consumed (R326, R332); a disabled ring, a host out of reach (R477), and a reset in progress leave it where it
stands (R436). -/
def State.consume (s : State) (r : Fin 9) (e : RawEntry) : State :=
  if !s.rings[r].en || !s.hostReady || (s.hng.running && r != 8) then s
  else
    let s := s.modRing r fun x => { x with head := x.head + 1 }
    if !opAllowed r e.opcode then s.record r e Status.badOpcode 0
    else s.modRing r fun x => { x with cmds := x.cmds ++ [{ entry := e, early := s.startsEarly r e.opcode }] }

/-- May command `i` of a ring's list start (R332, R339, R340, R436)? A LOAD_SCROLL or RESTORE that goes ahead of its ring still
waits for one in progress, both being SERIAL; what was consumed before it waits for its completion. -/
def State.mayStart (s : State) (r : Fin 9) (l : List Cmd) (i : Nat) (k : Cmd) : Bool :=
  if s.hng.running then r == 8 && k.early
  else if k.early then
    !k.reloads || (!(s.ctx (ctxOfRing r)).ckpt.holding && !((l.take i).any fun j => j.begun && j.reloads))
  else if (l.drop (i + 1)).any fun j => j.early && j.reloads then false
  else if opConcurrent k.entry.opcode then (l.take i).all Cmd.begun
  else i == 0

/-- The first command of a ring that may start. -/
def State.startable (s : State) (r : Fin 9) : Option (Nat × Cmd) :=
  let l := s.rings[r].cmds
  (List.range l.length).findSome? fun i =>
    match l[i]? with
    | some k => if !k.begun && s.mayStart r l i k then some (i, k) else none
    | none => none

/-! ### What each command does -/

/-- Stacked memory that contexts and staging slots may take, in GiB (R220, R324, R464). -/
def State.pool (s : State) : Nat := 1530 - 128 * ((fins 12).filter fun k => s.boot.stackFail.getLsbD k.1).length

/-- Stacked memory taken: quotas and staging slots, in GiB (R324). -/
def State.taken (s : State) : Nat :=
  ((fins 8).map fun c => if (s.ctx c).state = .free then 0 else (s.ctx c).stacked).sum
    + 2 * (s.windows.toList.filter fun w => w.kind == 1).length

/-- Route entry `n` of a region is free (R334): granted to no context, and used by no route of the region's tiles. -/
def State.entryFree (s : State) (f : Fin 48) (n : Nat) : Bool :=
  !((fins 8).any fun d => (s.ctx d).grantHas f.1 n)
    && s.tiles.all fun e => regionOf (finOf 786432 e.1) != f || e.2.routes[finOf 32 n] == 0

/-- The lowest index of the highest run of `n` free entries of a region (R334; log 33). -/
def State.grantAt (s : State) (f : Fin 48) (n : Nat) : Option Nat :=
  ((List.range (33 - n)).map fun i => 32 - n - i).find? fun lo => (List.range n).all fun j => s.entryFree f (lo + j)

/-- CREATE (R333, R334, R380, R463). -/
def State.startCreate (s : State) (k : Cmd) : State :=
  let e := k.entry
  let n := e.par 0 1
  let c := finOf 8 n
  let b := fun i => e.par i 1
  let q : Rect := { fx0 := finOf 8 (b 1), fy0 := finOf 6 (b 2), fx1 := finOf 8 (b 3), fy1 := finOf 6 (b 4) }
  let stacked := e.par 8 4
  let remote := e.par 12 4
  let transit := BitVec.ofNat 48 (e.par 16 6)
  let fs := (fins 48).filter fun f => transit.getLsbD f.1
  let lows := fs.map fun f => s.grantAt f (b 6)
  if 7 < n ∨ 7 < b 3 ∨ 5 < b 4 ∨ b 3 < b 1 ∨ b 4 < b 2 ∨ b 5 < 1 ∨ 64 < b 5 ∨ 8 < b 6 ∨ stacked < 1 ∨ 1530 < stacked ∨ 2 ^ 27 < remote then
    s.finish 8 k Status.badParam
  else if (s.ctx c).state ≠ .free then s.finish 8 k Status.state
  else if q.regions.any (fun f => (s.ctxOfRegion f).isSome || s.fret.lost.getLsbD f.1 || s.reserved f || transit.getLsbD f.1)
      ∨ (q.regions ++ fs).any (fun f => s.regions[f].silentAtBoot)
      ∨ s.pool < s.taken + stacked ∨ lows.any Option.isNone then s.finish 8 k Status.resource
  else
    let gs := (fs.zip lows).map fun (g : Fin 48 × Option Nat) => (g.1.1, (if b 6 = 0 then 0 else g.2.getD 0, b 6))
    let s := s.modCtx c fun x => { gen := x.gen, state := .created, rect := q, hquota := b 5, tentries := b 6
                                   stacked := stacked, remote := remote, transit := transit, grants := gs }
    s.settleRegions.finish 8 k Status.ok (leNat ((gs.take 8).map fun (g : Nat × Nat × Nat) => BitVec.ofNat 8 g.2.1))

/-- The image of a firmware copy is valid (R457). -/
def fwValid (minSvn : Nat) (image : List Byte) : Bool :=
  sha3_512 (Config.firmwareSigner image) == sha3_512 Config.firmwareKey
    && Config.firmwareDigest image == sha3_512 (Config.firmwareBody image)
    && Config.mlDsaVerify (Config.firmwareSigner image) (Config.firmwareDigest image) "" (Config.firmwareSignature image)
    && decide (minSvn ≤ (Config.firmwareSvn image).toNat)

/-- A firmware copy that holds a verified image. -/
def FwCopy.ofImage (image : List Byte) : FwCopy :=
  { version := Config.firmwareVersion image, svn := Config.firmwareSvn image, image := image, valid := true }

/-- FW_UPDATE (R458). -/
def State.startFwUpdate (s : State) (k : Cmd) : State :=
  let slot := k.entry.par 0 1
  let len := k.entry.par 8 8
  let w := s.windows[finOf 32 slot]
  if 31 < slot ∨ w.kind ≠ 1 ∨ 2 ^ 31 < len then s.finish 8 k Status.badParam
  else
    let image := Memory.readBytes w.staging 0 len
    if !fwValid s.flash.minSvn.toNat image then s.finish 8 k Status.verify
    else
      let i := s.flash.active + 1
      { s with flash := { s.flash with
          fw := vset s.flash.fw i (FwCopy.ofImage image), pendingCopy := some i, tried := false } }.finish 8 k Status.ok

/-- TIME_ROLE (R316, R332). An engine whose role changes follows nothing until its next measurement (log 38). -/
def State.startTimeRole (s : State) (k : Cmd) : State :=
  let on := bitAt (k.entry.par 0 1) 0
  let st := if on == s.time.grandmaster then s.time.state else .free
  { s with time := { s.time with grandmaster := on, state := st, sync := none, req := none } }.finish 8 k Status.ok

/-- POWER_LIMIT (R384): it waits for the budget loop. -/
def State.startPowerLimit (s : State) (k : Cmd) : State :=
  let w := k.entry.par 0 4
  if w < 10000 ∨ 42000 < w then s.finish 8 k Status.badParam
  else { s with budget := { s.budget with pendingLimit := some w } }

/-- MAP_WINDOW (R322, R324; log 33). -/
def State.startMapWindow (s : State) (k : Cmd) : State :=
  let slot := k.entry.par 0 1
  let kind := k.entry.par 1 1
  let ctx := k.entry.par 2 1
  let base := k.entry.par 8 8
  let i := finOf 32 slot
  let c := finOf 8 ctx
  let put := fun (w : Window) => { s with windows := vset s.windows i w }.finish 8 k Status.ok
  if 31 < slot ∨ 3 < kind ∨ (kind = 2 ∧ (7 < ctx ∨ base % 2 ^ 21 ≠ 0)) ∨ (kind = 3 ∧ base ≠ 0 ∧ base ≠ 2 ^ 31) then
    s.finish 8 k Status.badParam
  else if kind = 0 then put {}
  else if kind = 1 then
    let freed := if s.windows[i].kind = 1 then 2 else 0
    if s.pool < s.taken - freed + 2 then s.finish 8 k Status.resource else put { kind := 1 }
  else if kind = 3 then put { kind := 3, base := base }
  else
    match s.scroll? c with
    | none => s.finish 8 k Status.state
    | some q =>
      if (s.ctx c).state = .created ∨ (s.ctx c).state = .tearing then s.finish 8 k Status.state
      else if !q.pinned base (2 ^ 31) then s.finish 8 k Status.badParam
      else put { kind := 2, ctx := c, base := base }

/-- The state of a context as its status block codes it (R343). -/
def CtxState.code : CtxState → Nat
  | .free => 0 | .created => 1 | .loaded => 2 | .running => 3 | .held => 4 | .tearing => 5

/-- The status block of a context's ring (R343). -/
def State.ctxStatus (s : State) (c : Fin 8) : List Byte :=
  let x := s.ctx c
  let head := leBytes 1 x.state.code ++ leBytes 1 x.gen.toNat
    ++ leBytes 1 (bit x.hostHold + 2 * bit x.capoHold + 4 * bit x.faultHold) ++ leBytes 1 (bit x.armed) ++ leBytes 4 0
    ++ leBytes 8 x.curStep.toNat ++ leBytes 8 x.curPos.toNat ++ leBytes 8 x.stepsDone.toNat
    ++ leBytes 4 ((x.current.map fun (b : Fin 2) => (x.banks[b]).version).getD 0).toNat ++ leBytes 4 x.charged
    ++ leBytes 4 ((x.scroll.map Scroll.remotePages).getD 0) ++ leBytes 20 0
  slice (head ++ slice ((x.scroll.map (·.digest)).getD []) 0 64) 0 4096

/-- The status block of ring 8 (R343): one byte for the engine and one for each context (log 33). -/
def State.engineStatus (s : State) : List Byte :=
  slice (leBytes 1 s.engine ++ (fins 8).map fun c => BitVec.ofNat 8 (s.ctx c).state.code) 0 4096

/-- READ_STATUS (R343). -/
def State.startReadStatus (s : State) (r : Fin 9) (k : Cmd) : State :=
  let a := k.entry.par 0 8
  if a % 4096 ≠ 0 then s.finish r k Status.badParam
  else (s.hostWrite a (if r = 8 then s.engineStatus else s.ctxStatus (ctxOfRing r))).finish r k Status.ok

/-- A started command enters a phase. -/
def State.setPhase (s : State) (r : Fin 9) (k : Cmd) (ph : CmdPhase) : State :=
  s.modRing r fun x => { x with cmds := x.cmds.map fun j => if j = k then { k with phase := ph } else j }

/-- KEY_CHANGE (R479 to R481). -/
def State.startKeyChange (s : State) (r : Fin 9) (k : Cmd) : State :=
  let blob := slice k.entry.host 0 (k.entry.par 8 4)
  let cause := s.blobCause r blob
  if cause ≠ 0 then (s.blobReject cause).finish r k Status.verify cause
  else (s.setPhase r k .keySerial).blobAccept r blob none

/-- FENCE and READMIT (R447). -/
def State.startMember (s : State) (k : Cmd) (kinds : List Nat) : State :=
  let s := s.setPhase 8 k .memberSerial
  s.member { body := slice k.entry.host 0 (k.entry.par 8 4), ring := true, source := 0xFFFF } kinds

/-- RECOVERY_RESET (R435): it completes as the reset ends. -/
def State.startRecoveryReset (s : State) : State := s.requestReset 4 []

/-! ### Power states (R396, R397) -/

/-- Every UP port goes QUIET (R305, R396). -/
def State.portsQuiet (s : State) : State :=
  ((fins 64).filter fun p => s.ports[p].state == .up).foldl (fun (s : State) p =>
    (s.linkFrame p 4 0).modPort p fun pt => { pt with state := .quiet }) s

/-- Every QUIET port wakes and sends what waits (R305). -/
def State.portsWake (s : State) : State :=
  (((fins 64).filter fun p => s.ports[p].state == .quiet).foldl (fun (s : State) p =>
    (s.linkFrame p 5 0).modPort p fun pt => { pt with state := .up }) s).pumpAll

/-- The array loses its state with its supply (R397). -/
def State.darkenArray (s : State) : State :=
  { s with tiles := [], mesh := [], routers := [], selections := [], budget := { s.budget with arrayLost := true } }

/-- A LOADED context reloaded on return from PARK: no scratchpad image and no deep-range page is written (R397). The reload
reads the scroll copy from stacked memory; where the copy lies is not architectural, so with a stack out of lock a free
value says whether it can be read. Without it the context is CREATED. DESIGN CHOICE, log 31. -/
def State.parkReload (s : State) (c : Fin 8) : State :=
  match s.scroll? c with
  | none => s
  | some q =>
    let (lost, s) := if (fins 12).any s.stackLost then let r := s.freeWord; (r.1.getLsbD 0, r.2) else (false, s)
    if (s.ctx c).state ≠ .loaded then s
    else if lost then (s.unmapWindows c).modCtx c fun x => { x.wipe with state := .created }
    else ((s.writeRoutes c q).installTiles c q false).modCtx c fun x => { x with reload := true }

/-- The engine returns to ACTIVE (R396, R397). -/
def State.toActive (s : State) : State :=
  let parked := s.budget.arrayLost
  let s := { s with budget := { s.budget with arrayLost := false } }
  let s := ({ s with power := .active }.settleRegions).skip fun _ => true
  -- a drain that was paused goes on from here (R428)
  let s := { s with ctxs := s.ctxs.map fun x => { x with ckpt := { x.ckpt with
    drain := x.ckpt.drain.map fun d => { d with progressAt := s.phys } } } }
  (if parked then (fins 8).foldl State.parkReload s else s).portsWake

/-- POWER_STATE (R396, R397). -/
def State.startPowerState (s : State) (k : Cmd) : State :=
  let any := fun (l : List CtxState) => (fins 8).any fun c => l.contains (s.ctx c).state
  let to_ := k.entry.par 0 1
  let done := fun (s : State) => (s.cause Reg.pwrCause 5).finish 8 k Status.ok
  if 2 < to_ then s.finish 8 k Status.badParam
  else if to_ = 0 then
    if s.power = .active then s.finish 8 k Status.ok else done s.toActive
  else if to_ = 1 then
    if s.power = .rest then s.finish 8 k Status.ok
    else if any [.running, .tearing] then s.finish 8 k Status.state
    else done ({ s with power := .rest }.settleRegions.portsQuiet)
  else if s.power = .park then s.finish 8 k Status.ok
  else if any [.running, .held, .tearing] then s.finish 8 k Status.state
  else done ({ s with power := .park }.settleRegions.portsQuiet.darkenArray)

/-! ### Teardown (R340 to R342) -/

/-- Teardown of a context starts: orders 1 to 3. `r` is the ring of the command. Another teardown waiting in the ring is left to
complete with STATE (R342); a load's retirement in progress starts again as the teardown's, with an increment and 200 ms of
its own. -/
def State.startTeardown (s : State) (r : Fin 9) (k : Cmd) (c : Fin 8) : State :=
  if (s.ctx c).state = .free ∨ (s.ctx c).state = .tearing then s.finish r k Status.state
  else
    let run := (s.ctx c).stepsRun
    let s := (s.rings[ringOf c].cmds.filter fun j => j != k && j.entry.opcode != 0x18).foldl (fun (s : State) j =>
      s.finish (ringOf c) j Status.aborted (if j.isStep then run else 0)) s
    let s := { s.unmapWindows c with
      sec := { s.sec with keyWait := s.sec.keyWait.filter fun w => w.1 != ringOf c || w.2.2.2.isSome } }
    (s.modCtx c fun x => { x with state := .tearing, load := none }).retireStart c false

/-- Order 8 of R340: the context is FREE. -/
def State.freeContext (s : State) (c : Fin 8) : State :=
  let s := s.modCtx c fun x => { gen := x.gen }
  let s := s.modRing (ringOf c) fun x => { x with key := none }
  let s := if (fins 8).all fun d => (s.ctx d).state == .free then { s with plan := none } else s
  let s := s.settleRegions
  let s := s.finishOp c 0x18 Status.ok
  s.finishAll 8 (fun k => k.isOp 0x0A && k.entry.par 0 1 == c.1) Status.ok

/-! ### Steps, holds and cuts (R336 to R339, R408, R422) -/

/-- START_REDUCTION (R336). -/
def State.startReduction (s : State) (c : Fin 8) (q : Scroll) (k : Cmd) : State :=
  if !q.reduces then s.finish (ringOf c) k Status.state
  else (s.modCtx c fun x => { x with armed := true, stepNo := BitVec.ofNat 64 (k.entry.par 0 8) }).finish (ringOf c) k Status.ok

/-- The load state's record is fixed by the first STEP_START (R519). -/
def Ctx.fixRecord (x : Ctx) : Ctx :=
  if x.ckpt.cut.number = 0 ∧ x.ckpt.cut.series.isNone then
    { x with ckpt := { x.ckpt with cut := { x.ckpt.cut with
        series := x.series, step := x.stepNo, armed := x.armed
        current := x.current.map fun (b : Fin 2) => (x.banks[b]).version
        pending := x.pending, vmode := x.vmode } } }
  else x

/-- STEP_START (R336, R337, R374, R421, R422, R441, R446). -/
def State.startSteps (s : State) (c : Fin 8) (q : Scroll) (k : Cmd) : State :=
  let x := s.ctx c
  if x.stale then s.finish (ringOf c) k Status.verify
  else if s.degraded || s.hng.fenced || x.needRestore || x.faultHold || (q.reduces && !x.armed) then
    s.finish (ringOf c) k Status.state
  else
    let n := k.entry.par 0 4
    let z : Series := ⟨BitVec.ofNat 64 (k.entry.par 16 8), BitVec.ofNat 64 (k.entry.par 8 8), 0⟩
    s.modCtx c fun x => ({ x with
      state := .running
      starting := true
      stepsLeft := if n = 0 then none else some n
      stepsRun := 0
      series := some (if x.seriesKept then x.series.getD z else z)
      seriesKept := false } : Ctx).fixRecord.settleState

/-- A context at a step boundary where a cut can be taken (R409): LOADED, or between steps and not held by a fault. -/
def State.atBoundary (s : State) (c : Fin 8) : Bool :=
  let x := s.ctx c
  !s.hng.running && x.load.isNone && x.ckpt.restore.isNone &&
    (x.state == .loaded || ((x.state == .running || x.state == .held) && !x.inStep && !x.faultHold))

/-- A cut that is due is taken as soon as the context is at a boundary. -/
def State.tryCapo (s : State) (c : Fin 8) : State :=
  if (s.ctx c).ckpt.due.isSome && s.atBoundary c then (s.capoAt c).modCtx c Ctx.settleState else s

/-- HOLD (R338): at once between steps. -/
def State.startHold (s : State) (c : Fin 8) : State := if (s.ctx c).inStep then s else s.boundary c

/-- RESUME (R338). -/
def State.startResume (s : State) (c : Fin 8) (k : Cmd) : State :=
  if !(s.ctx c).hostHold then s.finish (ringOf c) k Status.state
  else (s.modCtx c fun x => ({ x with hostHold := false } : Ctx).settleState).finish (ringOf c) k Status.ok

/-- SWITCH_VERSION (R269); a scroll without WEIGHTS, and a BAD version, are refused with STATE (log 33). -/
def State.startSwitch (s : State) (c : Fin 8) (q : Scroll) (k : Cmd) : State :=
  if (q.sec? 0xD).isNone then s.finish (ringOf c) k Status.state
  else
    let r := s.switchTo c q (BitVec.ofNat 32 (k.entry.par 0 4)) (k.entry.parBytes 8 64)
    r.2.finish (ringOf c) k (if r.1 then Status.ok else Status.state)

/-- CAPO (R408): an earlier one whose hold has not begun is replaced; a periodic cut that is pending stays. -/
def State.startCapo (s : State) (c : Fin 8) (q : Scroll) (k : Cmd) : State :=
  if (q.sec? 0x10).isNone then s.finish (ringOf c) k Status.state
  else
    let t := k.entry.par 0 8
    let s := if (s.ctx c).ckpt.holding then s
      else s.finishAll (ringOf c) (fun j => j.isCapo && j != k) Status.aborted
    let s := s.modCtx c fun x => { x with ckpt := { x.ckpt with
      pendingAt := some t
      due :=
        let due := if x.ckpt.holding then x.ckpt.due else x.ckpt.due.bind fun _ => if x.ckpt.periodicDue then some x.ckpt.lastPeriodic else none
        if t ≤ s.ns then some (due.getD t) else due } }
    s.tryCapo c

/-- RESTORE (R339, R420). -/
def State.startRestore (s : State) (c : Fin 8) (q : Scroll) (k : Cmd) : State :=
  let src := k.entry.par 0 1
  if 2 < src ∨ (src = 2 ∧ 1 < k.entry.par 1 1) then s.finish (ringOf c) k Status.badParam
  else
    let x := s.ctx c
    let s := if x.state = .loaded then s else s.stopSteps c
    s.restoreStart c q (finOf 3 src) (k.entry.parBytes 8 64)

/-- LOAD_SCROLL (R339, R345, R366): a bad slot changes nothing, and a step in progress goes on. -/
def State.startLoad (s : State) (c : Fin 8) (k : Cmd) : State :=
  let x := s.ctx c
  (if (x.state = .running ∨ x.state = .held) ∧ !s.badSlot k then s.stopSteps c else s).loadStart c k

/-! ### Starting a command -/

/-- The states in which a context's command is allowed (R335). -/
def opStates (op : Nat) : List CtxState :=
  if op = 0x10 then [.created, .loaded, .running, .held]
  else if op = 0x11 ∨ op = 0x12 then [.loaded]
  else if op = 0x13 then [.running, .held]
  else if op = 0x14 then [.held]
  else [.loaded, .running, .held]

/-- A command of rings 0 to 7 takes effect. -/
def State.dispatchCtx (s : State) (c : Fin 8) (k : Cmd) : State :=
  let op := k.entry.opcode
  if op = 0x18 then s.startTeardown (ringOf c) k c
  else if !(opStates op).contains (s.ctx c).state then s.finish (ringOf c) k Status.state
  else if op = 0x10 then s.startLoad c k
  else
    match s.scroll? c with
    | none => s.finish (ringOf c) k Status.state
    | some q =>
      match op with
      | 0x11 => s.startReduction c q k
      | 0x12 => s.startSteps c q k
      | 0x13 => s.startHold c
      | 0x14 => s.startResume c k
      | 0x15 => s.startSwitch c q k
      | 0x16 => s.startCapo c q k
      | _ => s.startRestore c q k

/-- A command of ring 8 takes effect. -/
def State.dispatchEngine (s : State) (k : Cmd) : State :=
  match k.entry.opcode with
  | 0x01 => s.startCreate k
  | 0x02 => s.startMember k [1, 2]
  | 0x03 => s.startMember k [3]
  | 0x04 => s.startFwUpdate k
  | 0x05 => s.startTimeRole k
  | 0x06 => s.startRecoveryReset
  | 0x07 => s.startPowerLimit k
  | 0x08 => s.startMapWindow k
  | 0x09 => s.startPowerState k
  | _ => if 7 < k.entry.par 0 1 then s.finish 8 k Status.badParam else s.startTeardown 8 k (finOf 8 (k.entry.par 0 1))

/-- Opcodes that REST and PARK still complete (R396, R397). -/
def opInRest (op : Nat) : Bool := [0x09, 0x19, 0x1A, 0x02, 0x03, 0x18, 0x0A].contains op

/-- A command that has passed its checks takes effect. -/
def State.dispatch (s : State) (r : Fin 9) (k : Cmd) : State :=
  let op := k.entry.opcode
  if s.power ≠ .active ∧ !opInRest op then s.finish r k Status.state
  else if op = 0x19 then s.startReadStatus r k
  else if op = 0x1A then s.startKeyChange r k
  else if r = 8 then s.dispatchEngine k
  else s.dispatchCtx (ctxOfRing r) k

/-- Check 4 of R330 and the ceiling of R331. -/
def State.acceptCounter (s : State) (r : Fin 9) (k : Cmd) : State :=
  let n := k.entry.counter
  if n ≤ s.rings[r].counter.toNat then (s.cause Reg.cmdCause 1).finish r k Status.staleCounter
  else if s.flash.ceilings[r].toNat < n then
    (s.setPhase r k .ceiling).modRing r fun x => { x with
      ceilingTo := some (x.ceilingTo.getD (BitVec.ofNat 64 (ceilingOf n))) }
  else
    let s := s.setPhase r k .started
    let k := { k with phase := .started }
    (s.modRing r fun x => { x with counter := BitVec.ofNat 64 n }).dispatch r k

/-- Commands of a ring whose ceiling has been written are accepted or wait for the next one (R331); while the engine is
RECOVERING only those that R436 lets start. -/
def State.acceptWaiting (s : State) (r : Fin 9) : State :=
  if s.rings[r].ceilingTo.isSome then s
  else (s.rings[r].cmds.filter fun k => k.phase == .ceiling && (!s.hng.running || (r == 8 && k.early))).foldl
    (fun (s : State) k => s.acceptCounter r k) s

/-- The checks of a critical command (R330), in order. -/
def State.authenticate (s : State) (r : Fin 9) (k : Cmd) : State :=
  match s.rings[r].key with
  | none => s.finish r k Status.noKey
  | some key =>
    if kmac256 key (k.entry.bytes.take 96 ++ [BitVec.ofNat 8 r.1]) "LW2-CMD" ≠ k.entry.tag then
      (s.cause Reg.cmdCause 1).finish r k Status.badTag
    else s.acceptCounter r k

/-- A command starts (R330, R332). -/
def State.startCmd (s : State) (r : Fin 9) (i : Nat) (k : Cmd) : State :=
  let k := { k with phase := .started }
  let s := s.modRing r fun x => { x with cmds := modNth x.cmds i fun _ => k }
  let crit := opCritical k.entry.opcode
  if crit != bitAt k.entry.flags 0 then s.finish r k Status.badParam
  else if crit then s.authenticate r k
  else s.dispatch r k

/-- Commands start as long as one may; `fuel` bounds them. -/
def State.serveRings : Nat → State → State
  | 0, s => s
  | fuel + 1, s =>
    match (fins 9).findSome? fun r => (s.startable r).map fun k => (r, k) with
    | some (r, i, k) => State.serveRings fuel (s.startCmd r i k)
    | none => s

/-- What any event may have enabled: cuts that waited for a boundary, and commands that waited in their rings. -/
def State.serve (s : State) : State :=
  let s := (fins 8).foldl State.tryCapo s
  State.serveRings (((fins 9).map fun r => s.rings[r].cmds.length).sum + 1) s

end Sys2Proof.Machine
end

