-- ==== Sys2Proof/Machine/CommandRows.lean ====
section
/-! DEFINITION. The rows of ring commands, rings and the window (R320 to R343, R366, R340), and of power states and
checkpoints as commands (R396, R408, R420). A ring row is the consumption of one entry of that opcode. -/

namespace Sys2Proof.Machine

/-! ### Rings (R325, R326, R331) -/

/-- The host reaches BAR0 and the window. -/
def State.bar0 (s : State) : Bool := s.pins.linkUp

/-- A ring stops (R325): no further entry is fetched, and the tail line is released. -/
def State.stopRing (s : State) (r : Fin 9) : State :=
  if s.rings[r].en then (s.modRing r fun x => { x with en := false }).emit (.releaseTailLine r) else s

/-- EN set from 0 (R325, R326): HEAD and the completion count start at 0 and the tail line is read; of rings 0 to 7 once
RECOVERING is over (R436). -/
def State.startRing (s : State) (r : Fin 9) : State :=
  if s.rings[r].en then s
  else
    let s := s.modRing r fun x => { x with en := true, head := 0, completions := 0 }
    if s.hostReady && !(s.hng.running && r != 8) then s.emit (.readTailLine r) else s

/-- RING_ENABLE (R325). -/
def execRingEnable (ring : Fin 9) (s : State) : Host.Outcome State Fault Refusal :=
  act (fun s => if s.bar0 then s.startRing ring else s) s

/-- RING_DISABLE (R325). -/
def execRingDisable (ring : Fin 9) (s : State) : Host.Outcome State Fault Refusal :=
  act (fun s => if s.bar0 then s.stopRing ring else s) s

/-- Entries fetched in order; a poisoned one disables the ring (R344). -/
def State.fetchEntries (r : Fin 9) : List (Option RawEntry) → State → State
  | [], s => s
  | none :: _, s => (s.cause Reg.cmdCause 5).stopRing r
  | some e :: rest, s => State.fetchEntries r rest (s.consume r e)

/-- TAIL_LINE_WRITE (R326, R344, R477, R436). -/
def execTailLineWrite (ring : Fin 9) (tail : Word) (entries : List (Option RawEntry)) (poisoned : Bool) (s : State) :
    Host.Outcome State Fault Refusal :=
  actIf (Instr.wf (.tailLineWrite ring tail entries poisoned)) (fun s =>
    let x := s.rings[ring]
    if !x.en || !s.hostReady || (s.hng.running && ring != 8) then s
    else
      let s := s.emit (.readTailLine ring)
      let n := (tail - x.head).toNat
      if poisoned then (s.cause Reg.cmdCause 5).stopRing ring
      else if 512 < n then (s.cause Reg.cmdCause 2).stopRing ring
      else (State.fetchEntries ring (entries.take n) s).serve) s

/-- COUNTER_CEILING_WRITTEN (R331, R436): commands that waited for the write are accepted or wait for the next one. -/
def execCounterCeilingWritten (ring : Fin 9) (s : State) : Host.Outcome State Fault Refusal :=
  act (fun s =>
    match s.rings[ring].ceilingTo with
    | none => s
    | some n =>
      let s := { s with flash := { s.flash with
        ceilings := vset s.flash.ceilings ring (BitVec.ofNat 64 (max n.toNat s.flash.ceilings[ring].toNat)) } }
      ((s.modRing ring fun x => { x with ceilingTo := none }).acceptWaiting ring).serve) s

/-! ### The window (R322, R323, R477) -/

/-- Slot of a window line, and its byte offset in the slot. -/
def slotOf (line : Fin 1073741824) : Fin 32 × Nat := (finOf 32 (line.1 / 2 ^ 25), 64 * (line.1 % 2 ^ 25))

/-- The window is closed by R477. -/
def State.windowClosed (s : State) : Bool := s.ownerFlag 1 && !(s.sec.ideIo && s.sec.ideCm)

/-- HDM_READ (R322). A read that must wait leaves the state as it is (log 34). -/
def execHdmRead (line : Fin 1073741824) (s : State) : Host.Outcome State Fault Refusal :=
  act (fun s =>
    let (i, off) := slotOf line
    let w := s.windows[i]
    let bad := s.emit (.hdmData line.1 (List.replicate 64 0) true)
    if !s.pins.linkUp then s
    else if s.windowClosed then bad
    else
      match w.kind with
      | 0 => bad
      | 1 => s.emit (.hdmData line.1 (Memory.readBytes w.staging off 64) false)
      | 2 =>
        match s.scroll? w.ctx with
        | none => bad
        | some q =>
          match s.touchRead w.ctx q none (w.base + off) with
          | (.ok, s) => s.emit (.hdmData line.1 (Memory.readBytes (s.ctx w.ctx).mem (w.base + off) 64) false)
          | (.stop _, s) => s
          | (.fail code, s) =>
            -- a host read that a stack's error ends is a request ended with code STACK (R242)
            let s := if code = 4 then
                s.memError w.ctx 4 (w.base + off) ((s.ctx w.ctx).page q (pageOf (w.base + off))).stack.1
              else s
            s.emit (.hdmData line.1 (List.replicate 64 0) true)
      | 3 => s.emit (.hdmData line.1 (Memory.readBytes s.replayRing (w.base + off) 64) false)) s

/-- HDM_WRITE (R205, R322). A write that must wait leaves the line as it is (log 34). -/
def execHdmWrite (line : Fin 1073741824) (bytes : List Byte) (s : State) : Host.Outcome State Fault Refusal :=
  actIf (Instr.wf (.hdmWrite line bytes)) (fun s =>
    let (i, off) := slotOf line
    let w := s.windows[i]
    if !s.pins.linkUp || s.windowClosed then s
    else
      match w.kind with
      | 0 => s.cause Reg.cmdCause 4
      | 1 => { s with windows := vset s.windows i { w with staging := Memory.writeBytes w.staging off bytes } }
      | 2 =>
        match s.scroll? w.ctx with
        | none => s
        | some q =>
          if (q.wideOf (w.base + off)).isSome then s.cause Reg.bwdCause 1
          else
            match s.touchWrite w.ctx q none (w.base + off) with
            | (.ok, s) => s.modCtx w.ctx fun x => x.putLine q (w.base + off) bytes
            | (_, s) => s
      | 3 => s.cause Reg.cmdCause 4) s

/-! ### Commands of rings 0 to 7 -/

/-- One entry consumed, and what may start then does. -/
def State.entry (s : State) (ring : Fin 9) (h : EntryHead) (op : Nat) (params : List Byte) (host : List Byte := []) : State :=
  (s.consume ring (h.entry op params host)).serve

/-- LOAD_SCROLL (R345, R366). -/
def execLoadScroll (ring : Fin 9) (h : EntryHead) (slot : Byte) (length : DWord) (s : State) :
    Host.Outcome State Fault Refusal :=
  actIf h.wf (fun s => s.entry ring h 0x10 ([slot] ++ leBytes 7 0 ++ leBytes 8 length.toNat)) s

/-- LOAD_SCROLL_COMMIT (order 4 of R366, then 5 to 7 once the previous scroll is retired). -/
def execLoadScrollCommit (c : Fin 8) (s : State) : Host.Outcome State Fault Refusal :=
  act (fun s =>
    match (s.ctx c).load with
    | none => s
    | some l =>
      if s.hng.running then s
      else if l.order = 3 then
        let had := (s.scroll? c).isSome
        let s := s.commitLoad c l.scroll
        if had then s.retireStart c true
        -- the retirement of a load that a recovery reset has aborted may still be under way (R369)
        else if (s.ctx c).retire.isSome then s
        else s.installScroll c l.scroll
      else if l.order = 4 ∧ (s.ctx c).retire.isNone then s.installScroll c l.scroll
      else s) s

/-- The index of the first segment with a page whose fetch before the load completes has failed: a PINNED one, or one that holds
mask bits (R216, R367; log 28). -/
def State.homeFailed (s : State) (c : Fin 8) (q : Scroll) : Option Nat :=
  (q.segments.zipIdx.find? fun (e : Segment × Nat) => e.1.init == 1 &&
    (List.range e.1.pages).any fun i =>
      let p := e.1.base / 2 ^ 21 + i
      (e.1.cls == 0 || q.mapPages.contains p) && ((s.ctx c).page q p).poison).map (·.2)

/-- LOAD_SCROLL_COMPLETE (order 8 of R366, R200, R216, R243, R367, R374, R380, R413, R416). -/
def execLoadScrollComplete (c : Fin 8) (s : State) : Host.Outcome State Fault Refusal :=
  act (fun s =>
    match (s.ctx c).load, s.scroll? c with
    | some l, some q =>
      if l.order ≠ 7 ∨ s.hng.running then s
      else
        match s.homeFailed c q with
        | some i =>
          let s := s.modCtx c fun x => { x with load := none }.wipe
          (s.finishOp c 0x10 Status.verify (failDetail (9, 0xC, i))).serve
        | none =>
          if !((q.homePages ++ q.mapPages).all fun p => ((s.ctx c).page q p).state == .resident) then s.fetchMaps c q
          else
            match leastFail (q.lateFails (s.ctx c).mem) with
            | some f =>
              let s := s.modCtx c fun x => { x with load := none }.wipe
              (s.finishOp c 0x10 (failStatus f.1) (failDetail f)).serve
            | none =>
              let s := s.sendSeals c q false 0 s.ns q.homeServers
              let s := q.ckptPeers.foldl (fun (s : State) e => s.grant s.ckptPort c e [((0, 5, 0), 256)]) s
              let stale := !s.fits q
              let s := s.modCtx c fun x => { x with
                state := .loaded, load := none, stale := stale
                ckpt := { x.ckpt with cut := { x.ckpt.cut with time := s.ns } } }
              let s := (s.ctx c).rect.regions.foldl (fun (s : State) r =>
                if s.regions[r].state = .active then
                  s.setPeg r (s.activePeg r (min (s.rfld Reg.pwrCtrl 0 10) 720))
                else s) s
              (s.finishOp c 0x10 Status.ok).abortStanding.serve
    | _, _ => s) s

/-- START_REDUCTION (R336). -/
def execStartReduction (ring : Fin 9) (h : EntryHead) (step : DWord) (s : State) : Host.Outcome State Fault Refusal :=
  actIf h.wf (fun s => s.entry ring h 0x11 (leBytes 8 step.toNat)) s

/-- STEP_START (R336, R337). -/
def execStepStart (ring : Fin 9) (h : EntryHead) (steps : Word) (pos seed : DWord) (s : State) :
    Host.Outcome State Fault Refusal :=
  actIf h.wf (fun s =>
    s.entry ring h 0x12 (leBytes 4 steps.toNat ++ leBytes 4 0 ++ leBytes 8 pos.toNat ++ leBytes 8 seed.toNat)) s

/-- HOLD without END (R338). -/
def execHold (ring : Fin 9) (h : EntryHead) (s : State) : Host.Outcome State Fault Refusal :=
  actIf h.wf (fun s => s.entry ring h 0x13 [0]) s

/-- HOLD with END (R338). -/
def execHoldEnd (ring : Fin 9) (h : EntryHead) (s : State) : Host.Outcome State Fault Refusal :=
  actIf h.wf (fun s => s.entry ring h 0x13 [1]) s

/-- RESUME (R338). -/
def execResume (ring : Fin 9) (h : EntryHead) (s : State) : Host.Outcome State Fault Refusal :=
  actIf h.wf (fun s => s.entry ring h 0x14 []) s

/-- SWITCH_VERSION (R269). -/
def execSwitchVersion (ring : Fin 9) (h : EntryHead) (version : Word) (digest : List Byte) (s : State) :
    Host.Outcome State Fault Refusal :=
  actIf (Instr.wf (.switchVersion ring h version digest)) (fun s =>
    s.entry ring h 0x15 (leBytes 4 version.toNat ++ leBytes 4 0 ++ digest)) s

/-- CAPO (R408). -/
def execCapo (ring : Fin 9) (h : EntryHead) (time : DWord) (s : State) : Host.Outcome State Fault Refusal :=
  actIf h.wf (fun s => s.entry ring h 0x16 (leBytes 8 time.toNat)) s

/-- RESTORE from MEMORY (R420). -/
def execRestoreMemory (ring : Fin 9) (h : EntryHead) (digest : List Byte) (s : State) : Host.Outcome State Fault Refusal :=
  actIf (Instr.wf (.restoreMemory ring h digest)) (fun s => s.entry ring h 0x17 ([0] ++ leBytes 7 0 ++ digest)) s

/-- RESTORE from BUDDY (R420). -/
def execRestoreBuddy (ring : Fin 9) (h : EntryHead) (digest : List Byte) (s : State) : Host.Outcome State Fault Refusal :=
  actIf (Instr.wf (.restoreBuddy ring h digest)) (fun s => s.entry ring h 0x17 ([1] ++ leBytes 7 0 ++ digest)) s

/-- RESTORE from DURABLE (R420). -/
def execRestoreDurable (ring : Fin 9) (h : EntryHead) (slot : Byte) (digest : List Byte) (s : State) :
    Host.Outcome State Fault Refusal :=
  actIf (Instr.wf (.restoreDurable ring h slot digest)) (fun s => s.entry ring h 0x17 ([2, slot] ++ leBytes 6 0 ++ digest)) s

/-- TEARDOWN (R340). -/
def execTeardown (ring : Fin 9) (h : EntryHead) (s : State) : Host.Outcome State Fault Refusal :=
  actIf h.wf (fun s => s.entry ring h 0x18 []) s

/-- READ_STATUS (R343). -/
def execReadStatus (ring : Fin 9) (h : EntryHead) (addr : DWord) (s : State) : Host.Outcome State Fault Refusal :=
  actIf h.wf (fun s => s.entry ring h 0x19 (leBytes 8 addr.toNat)) s

/-- KEY_CHANGE (R479, R480). `blob` is the host memory the address names. -/
def execKeyChange (ring : Fin 9) (h : EntryHead) (addr : DWord) (length : Word) (blob : List Byte) (s : State) :
    Host.Outcome State Fault Refusal :=
  actIf h.wf (fun s => s.entry ring h 0x1A (leBytes 8 addr.toNat ++ leBytes 4 length.toNat) blob) s

/-! ### Commands of ring 8 -/

/-- CREATE (R333). -/
def execCreate (ring : Fin 9) (h : EntryHead) (p : CreateParams) (s : State) : Host.Outcome State Fault Refusal :=
  actIf h.wf (fun s => s.entry ring h 0x01 ([p.ctx, p.fx0, p.fy0, p.fx1, p.fy1, p.hquota, p.tentries, 0]
    ++ leBytes 4 p.stacked.toNat ++ leBytes 4 p.remote.toNat ++ leBytes 6 p.transit.toNat)) s

/-- FENCE (R447). -/
def execFence (ring : Fin 9) (h : EntryHead) (addr : DWord) (length : Word) (command : List Byte) (s : State) :
    Host.Outcome State Fault Refusal :=
  actIf h.wf (fun s => s.entry ring h 0x02 (leBytes 8 addr.toNat ++ leBytes 4 length.toNat) command) s

/-- READMIT (R447). -/
def execReadmit (ring : Fin 9) (h : EntryHead) (addr : DWord) (length : Word) (command : List Byte) (s : State) :
    Host.Outcome State Fault Refusal :=
  actIf h.wf (fun s => s.entry ring h 0x03 (leBytes 8 addr.toNat ++ leBytes 4 length.toNat) command) s

/-- FW_UPDATE (R458). -/
def execFwUpdate (ring : Fin 9) (h : EntryHead) (slot : Byte) (length : DWord) (s : State) :
    Host.Outcome State Fault Refusal :=
  actIf h.wf (fun s => s.entry ring h 0x04 ([slot] ++ leBytes 7 0 ++ leBytes 8 length.toNat)) s

/-- TIME_ROLE (R316). -/
def execTimeRole (ring : Fin 9) (h : EntryHead) (grandmaster : Bool) (s : State) : Host.Outcome State Fault Refusal :=
  actIf h.wf (fun s => s.entry ring h 0x05 (leBytes 1 (bit grandmaster))) s

/-- RECOVERY_RESET (R435). -/
def execRecoveryReset (ring : Fin 9) (h : EntryHead) (s : State) : Host.Outcome State Fault Refusal :=
  actIf h.wf (fun s => s.entry ring h 0x06 []) s

/-- POWER_LIMIT (R384). -/
def execPowerLimit (ring : Fin 9) (h : EntryHead) (watts : Word) (s : State) : Host.Outcome State Fault Refusal :=
  actIf h.wf (fun s => s.entry ring h 0x07 (leBytes 4 watts.toNat)) s

/-- MAP_WINDOW (R322, R324). -/
def execMapWindow (ring : Fin 9) (h : EntryHead) (slot kind ctx : Byte) (base : DWord) (s : State) :
    Host.Outcome State Fault Refusal :=
  actIf h.wf (fun s => s.entry ring h 0x08 ([slot, kind, ctx] ++ leBytes 5 0 ++ leBytes 8 base.toNat)) s

/-- POWER_STATE with ACTIVE (R396, R397). -/
def execPowerStateActive (ring : Fin 9) (h : EntryHead) (s : State) : Host.Outcome State Fault Refusal :=
  actIf h.wf (fun s => s.entry ring h 0x09 [0]) s

/-- POWER_STATE with REST (R396). -/
def execPowerStateRest (ring : Fin 9) (h : EntryHead) (s : State) : Host.Outcome State Fault Refusal :=
  actIf h.wf (fun s => s.entry ring h 0x09 [1]) s

/-- POWER_STATE with PARK (R397). -/
def execPowerStatePark (ring : Fin 9) (h : EntryHead) (s : State) : Host.Outcome State Fault Refusal :=
  actIf h.wf (fun s => s.entry ring h 0x09 [2]) s

/-- TEARDOWN_CTX (R340). -/
def execTeardownCtx (ring : Fin 9) (h : EntryHead) (ctx : Byte) (s : State) : Host.Outcome State Fault Refusal :=
  actIf h.wf (fun s => s.entry ring h 0x0A [ctx]) s

/-! ### Teardown (R340, R341) -/

/-- TEARDOWN_DRAIN_TIMEOUT (R340): the fence is forced 50 ms after order 3. -/
def execTeardownDrainTimeout (c : Fin 8) (s : State) : Host.Outcome State Fault Refusal :=
  act (fun s =>
    match (s.ctx c).retire with
    | some r => if r.order = 4 then (s.fenceDone c).cause Reg.cmdCause 3 else s
    | none => s) s

/-- EDGE_DRAIN_ACK (R341): an edge acknowledges once it holds no frame of the context. -/
def execEdgeDrainAck (c : Fin 8) (edge : Fin 5) (s : State) : Host.Outcome State Fault Refusal :=
  act (fun s =>
    match (s.ctx c).retire with
    | none => s
    | some r =>
      if 5 < r.order ∨ !s.edgeClear c edge then s
      else
        let s := if r.order = 4 then s.fenceDone c else s
        s.modCtx c fun x => { x with retire := x.retire.map fun r => { r with acks := r.acks ||| BitVec.ofNat 5 (2 ^ edge.1) } }) s

/-- QUARANTINE_END (R340): the later of every acknowledgement and 200 ms after order 3. -/
def execQuarantineEnd (c : Fin 8) (s : State) : Host.Outcome State Fault Refusal :=
  act (fun s =>
    match (s.ctx c).retire with
    | none => s
    | some r =>
      if r.order = 5 ∧ r.acks = BitVec.allOnes 5 ∧ r.start + 200000000 ≤ s.phys then
        s.modCtx c fun x => { x with retire := some { r with order := 6 } }
      else s) s

/-- TEARDOWN_ZERO_DONE (orders 7 and 8 of R340; order 7 for the scroll that a load replaces, R366). -/
def execTeardownZeroDone (c : Fin 8) (s : State) : Host.Outcome State Fault Refusal :=
  act (fun s =>
    match (s.ctx c).retire with
    | none => s
    | some r =>
      if r.order ≠ 6 then s
      else
        let s := (s.zeroContext c).modCtx c fun x => { x with retire := none }
        if r.forLoad then s else (s.freeContext c).serve) s

end Sys2Proof.Machine
end

