-- ==== Sys2Proof/Machine/StepRows.lean ====
section
/-! DEFINITION. The rows of steps and cuts: starting and finishing steps (R62, R117, R118), cut times (R408), replay control
(R426), and the CKPT frames that end a restore (R420, R421). -/

namespace Sys2Proof.Machine

/-- TILE_STEP_FINISH (R118). -/
def execTileStepFinish (t : TileId) (s : State) : Host.Outcome State Fault Refusal :=
  act (fun s => (s.tileFinish t).serve) s

/-- CONTEXT_STEP_BEGIN (R62, R337). -/
def execContextStepBegin (c : Fin 8) (s : State) : Host.Outcome State Fault Refusal :=
  act (fun s => (s.stepBegin c).serve) s

/-- RERUN_RESTART (R121, R123). -/
def execRerunRestart (c : Fin 8) (s : State) : Host.Outcome State Fault Refusal := act (fun s => s.rerunRestart c) s

/-- The latest periodic cut time not after now (R408): a whole multiple of PERIOD seconds. -/
def Scroll.lastPeriod (q : Scroll) (now : Nat) : Nat := now / (q.period * 1000000000) * (q.period * 1000000000)

/-- CUT_TIME_REACHED (R408, R409): a CAPO's time or a periodic time has come. -/
def execCutTimeReached (c : Fin 8) (s : State) : Host.Outcome State Fault Refusal :=
  act (fun s =>
    match s.scroll? c with
    | none => s
    | some q =>
      let k := (s.ctx c).ckpt
      let capo := k.pendingAt.filter fun t => decide (t ≤ s.ns)
      let t := q.lastPeriod s.ns
      let periodic := q.period != 0 && decide (k.lastPeriodic < t) && (s.ctx c).load.isNone && (s.ctx c).state != .created
        && (s.ctx c).state != .tearing
      let due := k.due.or (capo.or (if periodic then some t else none))
      let s := s.modCtx c fun x => { x with ckpt := { x.ckpt with
        due := due, periodicDue := k.periodicDue || periodic, lastPeriodic := if periodic then t else x.ckpt.lastPeriodic } }
      s.serve) s

/-- RPL_CTRL_WRITE (R426, R430): refused unless the context it names is LOADED. -/
def State.writeRplCtrl (s : State) (v : Word) : State :=
  let now := (s.ctx (finOf 8 (s.rfld Reg.rplCtrl 0 3))).state
  let new := (s.ctx (finOf 8 (fld v.toNat 0 3))).state
  if new ≠ .loaded ∨ (s.rfld Reg.rplCtrl 3 1 = 1 ∧ now ≠ .loaded) then s.cause Reg.rplCause 4
  else s.setReg Reg.rplCtrl (fld v.toNat 0 10)

/-- RPL_CTRL_WRITE (R426). -/
def execRplCtrlWrite (v : Word) (s : State) : Host.Outcome State Fault Refusal :=
  act (fun s => if s.bar0 then s.writeRplCtrl v else s) s

/-- CKPT_FETCH_DATA (R420). -/
def execCkptFetchData (p : Fin 64) (f : Frame) (s : State) : Host.Outcome State Fault Refusal :=
  actIf f.wf (fun s => (s.onCkptFetchData p f).serve) s

/-- CKPT_ABSENT (R421). -/
def execCkptAbsent (p : Fin 64) (f : Frame) (s : State) : Host.Outcome State Fault Refusal :=
  actIf f.wf (fun s => (s.onCkptAbsent p f).serve) s

/-- CKPT_SEAL_ACK (R412, R420). -/
def execCkptSealAck (p : Fin 64) (f : Frame) (s : State) : Host.Outcome State Fault Refusal :=
  actIf f.wf (fun s => (s.onCkptSealAck p f).serve) s

/-- RESTORE_BUDDY_SILENT (R421). -/
def execRestoreBuddySilent (c : Fin 8) (s : State) : Host.Outcome State Fault Refusal :=
  act (fun s => (s.buddySilent c).serve) s

/-! ### Membership frames (R311, R447, R448) -/

/-- Kinds that an MGMT frame may carry: the body's KIND equals STREAM. -/
def mgmtKinds (f : Frame) : List Nat := if 1 ≤ f.stream.toNat ∧ f.stream.toNat ≤ 3 then [f.stream.toNat] else []

/-- A piece of a membership command (R447). -/
def State.mgmtPiece (s : State) (f : Frame) : State :=
  let off := leAt f.payload 0 4
  let total := leAt f.payload 4 4
  let bytes := f.payload.drop 8
  let rest := s.hng.assemblies.filter fun (a : Assembly) => a.source != f.source
  let old := s.hng.assemblies.find? fun (a : Assembly) => a.source == f.source
  let put := fun (l : List Assembly) => { s with hng := { s.hng with assemblies := l } }
  let next := fun (a : Assembly) =>
    if f.isEnd then
      (put rest).member { body := a.bytes, ring := false, source := f.source }
        (if a.bytes.length = total then mgmtKinds { f with stream := a.kind } else [])
    else put (rest ++ [a])
  if off = 0 then next { source := f.source, total := total, bytes := bytes, kind := f.stream }
  else
    match old with
    | none => s
    | some a =>
      if off ≠ a.bytes.length ∨ total ≠ a.total then put rest
      else next { a with bytes := a.bytes ++ bytes }

/-- MGMT (R303, R447). -/
def execMgmt (p : Fin 64) (f : Frame) (s : State) : Host.Outcome State Fault Refusal :=
  actIf f.wf (fun s => (s.arrive p { f with type := 0x60 } fun s => s.mgmtPiece f).serve) s

/-- MGMT_ASSEMBLY_TIMEOUT (R447): 1 s after the last piece. -/
def execMgmtAssemblyTimeout (source : Half) (s : State) : Host.Outcome State Fault Refusal :=
  act (fun s => { s with hng := { s.hng with
    assemblies := s.hng.assemblies.filter fun (a : Assembly) => a.source != source } }) s

/-- REJECT (R309, R311). -/
def execReject (p : Fin 64) (f : Frame) (s : State) : Host.Outcome State Fault Refusal :=
  actIf f.wf (fun s => (s.arrive p { f with type := 0x61 } fun s =>
    s.rejected f.source (BitVec.ofNat 16 (leAt f.payload 0 2)) (BitVec.ofNat 16 (leAt f.payload 2 2))).serve) s

/-- SERIAL_CEILING_WRITTEN (R448). -/
def execSerialCeilingWritten (s : State) : Host.Outcome State Fault Refusal := act (fun s => s.memberCeilingWritten.serve) s

/-- PROBATION_TIMER (R451): the full term has run. -/
def execProbationTimer (s : State) : Host.Outcome State Fault Refusal :=
  act (fun s =>
    if s.hng.probation then { s with hng := { s.hng with probation := false } }.cause Reg.hngCause 10 else s) s

/-- KEY_SERIAL_WRITTEN (R480, R481): the key is installed, its request answered or its command completed. -/
def execKeySerialWritten (ring : Fin 9) (s : State) : Host.Outcome State Fault Refusal :=
  act (fun s =>
    match s.sec.keyWait.find? fun w => w.1 == ring with
    | none => s
    | some w =>
      let s := { s with
        flash := { s.flash with keySerials := vset s.flash.keySerials ring w.2.1 }
        sec := { s.sec with keyWait := s.sec.keyWait.erase w } }
      let s := (s.modRing ring fun x => { x with key := some w.2.2.1 }).cause Reg.secCause 2
      match w.2.2.2 with
      | some via => s.emit (.spdm via (.vendor 0x83 0 []))
      | none => (s.finishAll ring (fun k => k.phase == .keySerial) Status.ok).serve) s

end Sys2Proof.Machine
end

