-- ==== Sys2Proof/Machine/PowerRows.lean ====
section
/-! DEFINITION. The budget loop (R382 to R387), and the rows of sensors (R389 to R393) and of the health score (R401 to
R403, R451). -/

namespace Sys2Proof.Machine

/-- SENSOR_SAMPLE (R389 to R393); a cut that waited for a stall's end may be taken (R398). -/
def execSensorSample (unit : Fin 60) (readings : List Int) (s : State) : Host.Outcome State Fault Refusal :=
  act (fun s => (s.sample unit readings).serve) s

/-- HEALTH_SCORE (R401 to R403); during probation a score that falls below THRESH fences the engine (R451). -/
def execHealthScore (s : State) : Host.Outcome State Fault Refusal :=
  act (fun s =>
    let t := s.healthScore
    let thresh := s.rfld Reg.ckpCtrl 0 10
    (if t.health.score < thresh ∧ thresh ≤ s.health.score then t.probationFail else t).serve) s

/-! ### The power model (R43, R385) -/

/-- The points of R43: mV and M/s. -/
def ratePoints : List (Nat × Nat) := [(480, 400), (560, 580), (600, 700), (720, 1050), (820, 1250), (850, 1300)]

/-- Rate at a voltage in k/s, linear between the points of R43. -/
def rateAt (mv : Nat) : Nat :=
  ((ratePoints.zip ratePoints.tail).foldl (fun (r : Nat) (e : (Nat × Nat) × Nat × Nat) =>
    if e.1.1 ≤ mv then e.1.2 * 1000 + (min mv e.2.1 - e.1.1) * (e.2.2 - e.1.2) * 1000 / (e.2.1 - e.1.1) else r) 0)

/-- Power scales with the square of the voltage times the rate (R385): the rate is the monitors' reading (R382), and at
another voltage the reading scaled as the points of R43 are. A region without a reading has the rate of the points.
DESIGN CHOICE, log 31. -/
def scalePower (p reading from_ to_ : Nat) : Nat :=
  let now := if reading = 0 then rateAt from_ else 1000 * reading
  let then_ := now * rateAt to_ / max 1 (rateAt from_)
  p * (to_ * to_ * then_) / max 1 (from_ * from_ * now)

/-- Current of a region for budgeting: a silent link counts as 1,400 A at its last target (R379). -/
def Region.draw (x : Region) : Nat × Nat := if x.noLink then (x.peg, 1400) else (x.mv, x.amps)

/-- Power of a region in W. -/
def Region.watts (x : Region) : Nat := x.draw.1 * x.draw.2 / 1000

/-- A hot spot of a unit is near its limit. -/
def State.nearUnit (s : State) (u : Nat) : Bool := s.thermal[finOf 60 u].near != 0

/-- A context's regions violate limit 3 or 4 (R383), its stacks' hot spots included. -/
def State.violates (s : State) (c : Fin 8) : Bool :=
  (s.ctx c).rect.regions.any (fun r => decide (1300 < (s.regions[r].draw).2) || s.nearUnit r.1)
    || (match s.scroll? c with | some q => q.stacks.any fun k => s.nearUnit (48 + k.1) | none => false)

/-- Does the model say that lowering a context's pegs by `d` restores the limits? -/
def State.restores (s : State) (c : Fin 8) (excess d : Nat) : Bool :=
  let rs := (s.ctx c).rect.regions.filter fun r => s.regions[r].state == .active
  let saved := (rs.map fun r =>
    let x := s.regions[r]
    x.watts - scalePower x.watts x.rate x.peg (max 600 (x.peg - d))).sum
  decide (excess ≤ saved) && rs.all fun r =>
    let x := s.regions[r]
    !s.nearUnit r.1 && decide (scalePower x.draw.2 x.rate x.peg (max 600 (x.peg - d)) * x.peg ≤ 1300 * max 600 (x.peg - d))

/-- Every ACTIVE peg of a context moved towards `f` of it within R380, by at most 50 mV (R381); a blind region holds 0.60 V
(R391). -/
def State.movePegs (s : State) (c : Fin 8) (f : Nat → Nat) : State :=
  ((s.ctx c).rect.regions.filter fun r => s.regions[r].state == .active).foldl (fun (s : State) r =>
    let old := s.regions[r].peg
    s.setPeg r (max (old - 50) (s.activePeg r (min (s.rfld Reg.pwrCtrl 0 10) (f old))))) s

/-- A phase of the context runs whose release was deferred (R385). -/
def State.lateRuns (s : State) (c : Fin 8) : Bool :=
  match s.scroll? c with
  | none => false
  | some q => q.phases.any fun p => s.budget.deferred.contains (c, p.num) && (s.ctx c).released.has p.num && !s.phaseDone c p

/-- The pegs of a context are as low as the loop can bring them: a silent link's peg does not move (R379). -/
def State.pegsLow (s : State) (c : Fin 8) : Bool :=
  (s.ctx c).rect.regions.all fun r =>
    let x := s.regions[r]
    x.state != .active || x.noLink || decide (x.peg ≤ 600)

/-- One context of the loop (R385); the present headroom stands for the forecast one. DESIGN CHOICE, log 31. Once its
pegs are as low as they go and a limit 3 or 4 is still violated, its deferrable phases are held back: the worst action
of R383. -/
def State.budgetCtx (s : State) (c : Fin 8) (headroom : Int) : State :=
  if (s.ctx c).state = .free then s
  else
    let violated := s.violates c || decide (headroom < 0)
    let worst := s.violates c && s.pegsLow c
    let s := { s with budget := { s.budget with held := s.budget.held.filter (· != c) ++ (if worst then [c] else []) } }
    let s :=
      if violated then
        let d := (((List.range 10).map fun i => 5 * (i + 1)).find? fun d => s.restores c (-headroom).toNat d).getD 50
        s.movePegs c fun mv => mv - d
      else if s.lateRuns c || decide (500 ≤ headroom) then s.movePegs c fun mv => mv + 5
      else s.movePegs c fun mv => mv
    s.releasePhases c

/-- Nothing that the loop can do cools a unit further (R383): the contexts that hold the region, or whose segments may use the
stack, have their pegs low and their deferrable phases held back. -/
def State.worstDone (s : State) (u : Fin 60) : Bool :=
  (fins 8).all fun c =>
    let uses := if u.1 < 48 then (s.ctx c).holds (finOf 48 u.1)
      else match s.scroll? c with | some q => q.stacks.contains (finOf 12 (u.1 - 48)) | none => false
    (s.ctx c).state == .free || !uses || (s.pegsLow c && s.budget.held.contains c)

/-- A hot spot that the loop's worst action, in force on its unit since the last iteration, leaves near its limit has R393
applied to it (R383). -/
def State.stallHot (s : State) (units : List (Fin 60)) : State :=
  units.foldl (fun (s : State) u =>
    (List.range (spots u)).foldl (fun (s : State) h =>
      if s.thermal[u].near.getLsbD h && (s.thermal[u].reading h).isSome then s.setStall u h true else s) s) s

/-- The lowest of a region's four rate monitors (R382). -/
def lowestRate (m : Vector Nat 4) : Nat := min (min m[0] m[1]) (min m[2] m[3])

/-- The budget before the pegs move (R382 to R384): rates, power, allowance, a POWER_LIMIT that waits. -/
def State.budgetRead (s : State) (otherWatts : Nat) (rates : List (Fin 48 × Vector Nat 4)) : State :=
  let s := (fins 48).foldl (fun (s : State) r =>
    s.modRegion r fun x => { x with rate := ((rates.find? fun e => e.1 == r).map fun e => lowestRate e.2).getD 0 }) s
  let now := otherWatts + (s.regions.toList.map Region.watts).sum
  let b := s.budget
  let limit := b.pendingLimit.getD b.limit
  let met := b.pendingLimit.isSome && decide (now ≤ limit)
  let marks := if met then [] else (decide (limit < now) :: b.burst).take 10000
  let spent := decide (2000 ≤ (marks.filter id).length)
  let s := s.causeIf (spent && !b.spent) Reg.pwrCause 4
  let s := { s with budget := { b with
    limit := limit, now := now, history := (now :: b.history).take 1000, burst := marks, spent := spent
    pendingLimit := if met then none else b.pendingLimit } }
  if met then (s.cause Reg.pwrCause 3).finishAll 8 (Cmd.isOp 0x07) Status.ok else s

/-- BUDGET_LOOP (R381 to R387): one iteration. In REST and PARK pegs stand as R380 has them. -/
def execBudgetLoop (otherWatts : Nat) (rates : List (Fin 48 × Vector Nat 4)) (s : State) : Host.Outcome State Fault Refusal :=
  act (fun s =>
    let s := s.budgetRead otherWatts rates
    if s.power ≠ .active ∨ s.boot.order < 9 then s.serve
    else
      -- a limit that a POWER_LIMIT has set is met before any burst (R384, R398)
      let ceiling := if s.budget.spent || s.budget.pendingLimit.isSome then s.budget.limit else min 48000 (s.budget.limit + 6000)
      let headroom : Int := (ceiling : Int) - (s.budget.now : Int)
      let binding := decide (headroom < 0) || (fins 8).any fun c => (s.ctx c).state != .free && s.violates c
      let s := { s with budget := { s.budget with binding := binding, room := headroom } }
      let worst := (fins 60).filter s.worstDone
      (((fins 8).foldl (fun (s : State) c => s.budgetCtx c headroom) s).stallHot worst).serve) s

end Sys2Proof.Machine
end

