-- ==== Sys2Proof/Machine/Fret.lean ====
section
/-! DEFINITION. The fret map (R370 to R375): placement, the dead list, its image; the votes of the neighbour self-test
(R460 to R462) and the condemnation of cores (R439, R463). -/

namespace Sys2Proof
open Machine

/-- The row segment of a core, 128f + r (R21, R375). -/
def Core.seg (k : Core) : Nat := 128 * k.region.1 + k.row.1

/-- Segment and column of a core. -/
def Core.key (k : Core) : Nat × Nat := (k.seg, k.pcol.1)

/-- The core that a core faces during the test, across seams (R460). -/
def Core.facing (k : Core) (d : Dir) : Option Core :=
  let gx := k.region.1 % 8 * 130 + k.pcol.1
  let gy := k.region.1 / 8 * 128 + k.row.1
  let core := fun (x y : Nat) => some (Core.mk (finOf 48 (y / 128 * 8 + x / 130)) (finOf 128 (y % 128)) (finOf 130 (x % 130)))
  match d with
  | .north => if gy = 0 then none else core gx (gy - 1)
  | .south => if gy = 767 then none else core gx (gy + 1)
  | .west => if gx = 0 then none else core (gx - 1) gy
  | .east => if gx = 1039 then none else core (gx + 1) gy

end Sys2Proof

namespace Sys2Proof.Machine

/-! ### Placement (R371) -/

/-- D0 and D1 of a segment, from its condemned columns in the order of condemnation. -/
def placeOf (k : SegRec) : Option Nat × Option Nat :=
  match k with
  | [] => (none, none)
  | [a] => if a ≤ 64 then (some a, none) else (none, some a)
  | a :: b :: _ => (some (min a b), some (max a b))

/-- The physical column of a logical column. -/
def physOf (d : Option Nat × Option Nat) (c : Nat) : Nat :=
  if d.1.any fun k => decide (c + 1 ≤ k) then c
  else if d.2.any fun k => decide (k ≤ c + 1) then c + 2
  else c + 1

/-- The tile of logical column `c` in a segment. -/
def segTile (seg c : Nat) : Option TileId :=
  tileAt (128 * (seg / 128 % 8) + c) (128 * (seg / 1024) + seg % 128)

/-- The tile that a physical column of a segment holds under a placement. -/
def colTile (k : SegRec) (seg col : Nat) : Option TileId :=
  ((List.range 128).find? fun c => physOf (placeOf k) c == col).bind (segTile seg)

/-- The physical core of a tile under the placement in force. -/
def Fret.coreOf (f : Fret) (t : TileId) : Core :=
  let r := regionOf t
  let row := tileY t % 128
  { region := r, row := finOf 128 row
    pcol := finOf 130 (physOf (placeOf (f.placed.getD (128 * r.1 + row) [])) (tileX t % 128)) }

/-- The tile that a physical core holds under the placement in force: none for a spare that holds no tile. -/
def Fret.tileOf (f : Fret) (k : Core) : Option TileId := colTile (f.placed.getD k.seg []) k.seg k.pcol.1

/-- Every condemned core in the order of the records: factory map, then field records. -/
def Fret.order (f : Fret) : List (Nat × Nat) :=
  (f.factory.flatMap fun (e : Nat × SegRec) => e.2.map fun c => (e.1, c)) ++ f.fieldCores

/-- Is the core condemned? -/
def Fret.condemned (f : Fret) (k : Core) : Bool := (f.cores k.seg).contains k.pcol.1

/-- Does the region of a segment stand in the lost mask? -/
def Fret.segLost (f : Fret) (seg : Nat) : Bool := f.lost.getLsbD (seg / 128)

/-- The tile that a condemned core makes DEAD: the third of its segment and those after it (R371). -/
def Fret.deadTile (f : Fret) (e : Nat × Nat) : Option TileId :=
  let k := f.cores e.1
  if (k.drop 2).contains e.2 then colTile k e.1 e.2 else none

/-- Placement recomputed (R370, R371, R373). DEAD tiles are taken in the order of condemnation; the one that would be the
4,097th loses its region. `fresh` are the records just added (R446). -/
def State.place (s : State) (fresh : List (Nat × Nat)) (cause_ : Nat := 0xFFFF) : State :=
  let f := s.fret
  let segs := ((f.order.map (·.1)).eraseDups).filter fun g => !f.segLost g
  let s := { s with fret := { f with placed := segs.foldl (fun (p : Tab SegRec) g => p.set g (f.cores g)) f.placed } }
  let s := f.order.foldl (fun (s : State) e =>
    match s.fret.deadTile e with
    | none => s
    | some t =>
      if s.fret.lost.getLsbD (regionOf t).1 || s.fret.dead.has t.1 then s
      else if 4096 ≤ s.fret.dead.length then s.loseRegion (regionOf t) cause_
      else { s with fret := { s.fret with
        dead := s.fret.dead.add t.1, openRecord := s.fret.openRecord || fresh.contains e } }) s
  let s := { s with tiles := s.tiles.keep fun k _ => !s.fret.dead.has k }
  s.markStale.abortStanding

/-! ### The votes (R460 to R462) -/

/-- May a core vote, and be tested? Cores of `off` regions have no supply (R463). -/
def Fret.tests (f : Fret) (off : List (Fin 48)) (k : Core) : Bool :=
  !f.condemned k && !f.lost.getLsbD k.region.1 && !off.contains k.region

/-- FAIL votes on a core and its eligible testers (R460, R461). -/
def Fret.votes (f : Fret) (off : List (Fin 48)) (v : Votes) (k : Core) : Nat × Nat :=
  let dirs := [Dir.north, .east, .south, .west].filter fun d => (k.facing d).any (f.tests off)
  let fails := (dirs.filter fun d => v.silent.contains k || v.fails.contains (k, d)).length
  let own := decide (dirs.length < 2) && (v.builtin.contains k || v.silent.contains k)
  (fails + bit own, dirs.length)

/-- The verdict of R461. -/
def condemns (v : Nat × Nat) : Bool := if v.2 = 0 then decide (1 ≤ v.1) else decide (2 ≤ v.1)

/-- Cores ascending, without repeats. -/
def sortCores (l : List Core) : List Core :=
  sortBy (fun (a b : Core) => decide (a.seg < b.seg) || (a.seg == b.seg && decide (a.pcol.1 < b.pcol.1))) l.eraseDups

/-- The cores with a vote against them, ascending. -/
def against (v : Votes) : List Core := sortCores (v.fails.map (·.1) ++ v.silent ++ v.builtin)

/-! ### Condemnation (R439, R463) -/

/-- New field records, in the order given (log 35), with their entries in the action log (R491); then placement. -/
def State.condemn (s : State) (ks : List Core) (cause_ : Nat) : State :=
  let s := ks.foldl (fun (s : State) k =>
    match s.fret.tileOf k with
    | some t => s.action 4 k.region.1 cause_ t.1
    | none =>
      let (w, s) := s.freeWord
      s.action 4 k.region.1 cause_ (w.toNat % 2 ^ 31)) s
  let s := { s with fret := { s.fret with
    fieldCores := s.fret.fieldCores ++ ks.map Core.key, revision := s.fret.revision + BitVec.ofNat 32 ks.length } }
  s.place (ks.map Core.key) cause_

/-- The image of R375, by word. -/
def Fret.image (f : Fret) (a : Nat) : Nat :=
  if a = 0 then 0x54455246
  else if a = 4 then 1
  else if a = 8 then f.revision.toNat
  else if a = 12 then f.dead.length
  else if a = 16 then f.lost.toNat % 2 ^ 32
  else if a = 20 then f.lost.toNat / 2 ^ 32
  else if 64 ≤ a ∧ a < 24640 then
    let seg := (a - 64) / 4
    let d := placeOf (f.placed.getD seg [])
    d.1.getD 0xFF + d.2.getD 0xFF * 2 ^ 8 + min 130 (f.cores seg).length * 2 ^ 16
  else if 24640 ≤ a ∧ a < 41024 then
    match f.dead[(a - 24640) / 4]? with
    | some t => t
    | none => 2 ^ 32 - 1
  else 0

end Sys2Proof.Machine
end

