-- ==== Sys2Proof/Machine/Recovery.lean ====
section
/-! DEFINITION. Hang detection (R431 to R434), the recovery reset (R435 to R442) with its sample (R437), the watchdog
(R442, R443) and the clock domains (R30, R32). -/

namespace Sys2Proof.Machine

/-! ### The queues of the detector (R431) -/

/-- A member's transfer is demanded or staged, or the member stands at a mark. -/
def Member.waits (y : Member) : Bool :=
  y.cur.isSome || !y.arrived.isEmpty || y.asm.isSome || !y.staged.isEmpty
    || !(y.stop == .none || y.stop == .unarmed || y.stop == .ahead || y.stop == .noSend)

/-- A blocked member waits on fabric input; at a PHASE mark it waits inside, whatever its KIND. -/
def State.onFabric (s : State) (c : Fin 8) (side stream m : Nat) : Bool :=
  let own := (s.edgeOf c side stream).kind == 3
  match ((s.ctx c).member side stream m).stop with
  | .phaseMark _ => false
  | .fetch _ | .source _ _ | .fabric => true
  | .waitMark sd st => own || (s.edgeOf c sd.1 st).kind == 3
  | _ => own

/-- The next block of an entry at a level waits on a peer (R287). -/
def State.blockAwaited (s : State) (c : Fin 8) (q : Scroll) (l : Fin 2) (t : Target) (entry : Nat) : Bool :=
  let r := (s.ctx c).red l entry
  match (s.ctx c).sliceOf q t r.next with
  | none => false
  | some sl =>
    if s.solo c || !(s.ctx c).maskReady q t || !s.inLevel q t l sl || (s.ownValues c q l t entry r.next).isNone then false
    else
      let place := pathPlace (q.ring l).length (s.ownerPos q t l sl) (s.ringPos q l)
      if place = 0 then (r.agreed.get? r.next).isNone
      else match (s.incoming c q l t entry r.next false (place == 1)).1 with
        | .wait => true
        | _ => false

/-- A reduction block is awaited. -/
def State.awaits (s : State) (c : Fin 8) (q : Scroll) : Bool :=
  (s.ctx c).inStep && q.targets.zipIdx.any fun (t, i) =>
    (fins 2).any fun l => decide (l ≤ q.finalLevel) && s.blockAwaited c q l t i

/-- The tiles of a context that are listed. -/
def State.listed (s : State) (c : Fin 8) : Tab Tile := s.tiles.keep fun k _ => (s.ctx c).holds (regionOf (finOf 786432 k))

/-- A tile's queues that are not empty: slots, units and strings of KIND 0. -/
def Tile.queued (x : Tile) : Bool :=
  (x.slots.toList.any fun z => z.state == .ready || z.state == .running || z.state == .blocked)
    || !x.tensorQ.isEmpty || !x.vectorQ.isEmpty || !x.functionQ.isEmpty
    || x.strs.toList.any fun z => z.kind == 0 && !(z.posts.all (·.done) && z.sends.all (·.read))

/-- A unit of a tile completed a handshake in the window: it holds a command, and is not among the stuck ones. -/
def Tile.unitMoved (x : Tile) (t : TileId) (stuck : List (TileId × UnitSel)) : Bool :=
  [UnitSel.tensor, .vector, .function].any fun u => !(x.queue u).isEmpty && !stuck.contains (t, u)

/-- Members of a context by side, stream and index. -/
def Ctx.allMembers (x : Ctx) : List (Nat × Nat × Nat × Member) :=
  x.members.flatMap fun e => e.2.map fun m => (e.1 / 16384, e.1 % 16384, m.1, m.2)

/-- A queue of the context advanced in the window. -/
def State.advancedIn (s : State) (c : Fin 8) (stuck : List (TileId × UnitSel)) : Bool :=
  let x := s.ctx c
  x.advanced || ((s.listed c).any fun e => e.2.advanced || e.2.unitMoved (finOf 786432 e.1) stuck)
    || x.allMembers.any fun e => e.2.2.2.advanced

/-- A queue of the context is not empty. -/
def State.busyCtx (s : State) (c : Fin 8) (q : Scroll) : Bool :=
  let x := s.ctx c
  let mine := fun k => x.holds (finOf 48 (k / 16))
  x.waitVersion || ((s.listed c).any fun e => e.2.queued) || (x.allMembers.any fun e => e.2.2.2.waits)
    || (s.routers.any fun e => mine e.1 && !e.2.subs.isEmpty) || (s.selections.any fun e => mine e.1 && !e.2.isEmpty)
    || s.awaits c q

/-- A slot BLOCKED on an edge string waits as the string's member. -/
def State.slotOnFabric (s : State) (c : Fin 8) (t : TileId) (x : Tile) (z : Slot) : Bool :=
  if z.state ≠ .blocked ∨ (z.reason ≠ .inp ∧ z.reason ≠ .out) ∨ 32 ≤ z.object.toNat then false
  else
    let st := x.strs[finOf 32 z.object.toNat]
    st.kind != 0 && match (s.edgeOf c st.side.1 st.stream).memberOf t with
      | some m => s.onFabric c st.side.1 st.stream m
      | none => false

/-- At least one blocked queue of the context waits on fabric input (R433). -/
def State.fabricWait (s : State) (c : Fin 8) (q : Scroll) : Bool :=
  let x := s.ctx c
  x.waitVersion || (x.allMembers.any fun e => e.2.2.2.waits && s.onFabric c e.1 e.2.1 e.2.2.1)
    || ((s.listed c).any fun e => e.2.slots.toList.any fun z => s.slotOnFabric c (finOf 786432 e.1) e.2 z) || s.awaits c q

/-! ### The window (R432 to R434) -/

/-- The suspects of a silent window (R434): slots READY throughout, and units with a command and no handshake. -/
def State.windowSuspects (s : State) (c : Fin 8) (stuck : List (TileId × UnitSel)) : List Suspect :=
  (s.listed c).filterMap fun e =>
    let t : TileId := finOf 786432 e.1
    if e.2.slots.toList.any fun z => z.state == .ready && z.readyWhole then some ⟨t, 1⟩
    else if [UnitSel.tensor, .vector, .function].any fun u => !(e.2.queue u).isEmpty && stuck.contains (t, u) then
      some ⟨t, 2⟩
    else none

/-- HNG_LAST of a hang: the first suspect, of those known since the last test and those of this window; a free tile where
there is none (R433, R434, R454). -/
def State.recordHang (s : State) (c : Fin 8) (sus : List Suspect) : State :=
  let base := c.1 * 2 ^ 20 + 2 ^ 25
  match sus.head? with
  | some k => s.setReg Reg.hngLast (tileX k.tile + tileY k.tile * 2 ^ 10 + k.reason * 2 ^ 23 + base)
  | none =>
    let (w, s) := s.freeWord
    s.setReg Reg.hngLast (w.toNat % 2 ^ 20 + base)

/-- Suspects are remembered for the next test (R434). -/
def State.suspectsFound (s : State) (sus : List Suspect) : State :=
  let new := sus.filter fun x => !(s.hng.suspects.any fun y => y.tile == x.tile)
  { s with hng := { s.hng with suspects := s.hng.suspects ++ new } }

/-- HANG or STARVED after two consecutive silent windows, reported once for each episode (R433). -/
def State.silentTwice (s : State) (c : Fin 8) (q : Scroll) (stuck : List (TileId × UnitSel)) : State :=
  if s.fabricWait c q then
    if (s.ctx c).starved then s
    else (s.modCtx c fun x => { x with starved := true }).cause Reg.hngCause 1
  else if (s.ctx c).hung then s
  else
    let sus := s.windowSuspects c stuck
    let s := ((s.modCtx c fun x => { x with hung := true }).cause Reg.hngCause 0).count Reg.hngCounts 0 16 1
    let known := s.hng.suspects.filter fun k => (s.ctx c).holds (regionOf k.tile)
    let s := (s.recordHang c (known ++ sus)).suspectsFound sus
    if s.rfld Reg.hngCtrl 7 1 = 1 then s.requestReset 0 [] else s

/-- The verdict of a window for a context (R432, R433): progress ends an episode even in a window that is skipped. -/
def State.verdict (s : State) (c : Fin 8) (stuck : List (TileId × UnitSel)) : State :=
  let x := s.ctx c
  let skipped := x.skipWindow || s.usesStalled c || s.power != .active || s.hng.running || s.hng.fenced
  match s.scroll? c with
  | none => s
  | some q =>
    if s.advancedIn c stuck then s.modCtx c fun x => { x with silentRun := 0, hung := false, starved := false }
    else if x.state ≠ .running ∨ skipped ∨ !s.busyCtx c q then s.modCtx c fun x => { x with silentRun := 0 }
    else
      let s := s.modCtx c fun x => { x with silentRun := min 2 (x.silentRun + 1) }
      if (s.ctx c).silentRun = 2 then s.silentTwice c q stuck else s

/-- The next window starts: progress counts from zero, and the slots that stand READY are marked. -/
def State.openWindow (s : State) : State :=
  let s := { s with tiles := s.tiles.mapVals fun _ (x : Tile) => { x with
    advanced := false, slots := x.slots.map fun (z : Slot) => { z with readyWhole := z.state == SlotState.ready } } }
  { s with ctxs := s.ctxs.map fun (x : Ctx) => { x with
    advanced := false, skipWindow := false
    members := x.members.mapVals fun _ ms => ms.mapVals fun _ (y : Member) => { y with advanced := false } } }

/-- HANG_WINDOW (R432 to R434). -/
def execHangWindow (stuck : List (TileId × UnitSel)) (s : State) : Host.Outcome State Fault Refusal :=
  act (fun s => ((fins 8).foldl (fun (s : State) c => s.verdict c stuck) s).openWindow) s

/-- A silent spare that holds no tile is remembered for the next test, or joins the one that has not begun (R434, R435). -/
def State.spareFound (s : State) (k : Core) : State :=
  if (s.hng.running && s.hng.tested) || s.hng.spares.contains k then s
  else { s with hng := { s.hng with spares := s.hng.spares ++ [k] } }

/-- CONTROL_TREE_TIMEOUT (R28, R434, R435): a physical core that is silent is a suspect, a spare included; in a step of a
RUNNING context it starts a reset. -/
def execControlTreeTimeout (k : Core) (s : State) : Host.Outcome State Fault Refusal :=
  act (fun s =>
    let inStep := (fins 8).any fun c => (s.ctx c).state == .running && (s.ctx c).inStep
    match s.fret.tileOf k with
    | some t => if inStep then (s.cause Reg.hngCause 12).requestReset 3 [⟨t, 3⟩] else s.suspectsFound [⟨t, 3⟩]
    | none => (if inStep then (s.cause Reg.hngCause 12).requestReset 3 [] else s).spareFound k) s

/-! ### The status block of a tile (R70 to R72) -/

/-- Codes of slot states and reasons (R71). -/
def SlotState.code : SlotState → Nat
  | .free => 0 | .ready => 1 | .running => 2 | .blocked => 3 | .done => 4 | .faulted => 5
def BlockReason.code : BlockReason → Nat
  | .inp => 0 | .out => 1 | .unit => 2 | .wait => 3

/-- A word of a tile's status block (R70 to R72). -/
def Tile.status (x : Tile) (o : Nat) : Nat :=
  if o < 0x20 then
    let z := x.slots[finOf 8 (o / 4)]
    z.state.code + z.reason.code * 2 ^ 3 + z.object.toNat * 2 ^ 5 + z.pc.toNat * 2 ^ 12 + z.progress.toNat * 2 ^ 24
  else if o = 0x20 then x.err.toNat
  else if o = 0x24 then x.fault.toNat
  else if o = 0x28 then x.steps.toNat
  else if o = 0x2C then x.loaded.toNat
  else 0

/-- The 64 bytes of a status block. -/
def Tile.statusBytes (x : Tile) : List Byte := (List.range 16).flatMap fun i => leBytes 4 (x.status (4 * i))

/-! ### The sample (R437) -/

/-- The cause that provoked a reset, as the action log names it (R490). -/
def triggerCause (t : Nat) : Nat :=
  match t with
  | 0 => 0xD00
  | 1 => 0x303
  | 2 => 0x700
  | 3 => 0xD0C
  | _ => 0xFFFF

/-- A tile that is DEAD, in a lost region, or without supply in PARK (R437, R452). -/
def State.unsampled (s : State) (t : TileId) : Bool := s.tileGone t || s.power == .park

/-- A luthier or debug read of word `w` of a scratchpad over the control tree (R28, R120): its bytes, and the error flag, which
is all that a parity event does there. -/
def Tile.debugRead (x : Tile) (w : Nat) : List Byte × Bool := (Memory.readBytes x.pad (4 * w) 4, x.badWords.has w)

/-- A tile's part of the sample, whose read of bytes 0 to 255 checks parity as a debug read does (R119, R120); the bytes of a
silent core are free values. -/
def State.sampleTile (s : State) (seen : ResetSeen) (k : Nat) : State :=
  let t : TileId := finOf 786432 k
  let put := fun (s : State) (a : Nat) (bs : List Byte) => { s with hng := { s.hng with sample := Memory.writeBytes s.hng.sample a bs } }
  let flagsAt := 201330688 + 64 * k + 0x30
  if s.unsampled t then put s flagsAt [4]
  else
    let silent := seen.votes.silent.contains (s.fret.coreOf t) || s.hng.suspects.any fun x => x.tile == t && x.reason == 3
    let suspect := s.hng.suspects.any fun x => x.tile == t
    let words := (List.range 64).map (s.tile t).debugRead
    let parity := seen.sampleParity.contains t || (!silent && words.any (·.2))
    let flags := BitVec.ofNat 8 (bit parity + 2 * bit silent + 8 * bit suspect)
    let (pad, block, s) :=
      if silent then
        let (b, s) := s.freeBytes
        (slice b 0 256, slice b 256 64, s)
      else (words.flatMap (·.1), (s.tile t).statusBytes, s)
    put (put (put s (4096 + 256 * k) pad) (201330688 + 64 * k) block) flagsAt [flags]

/-- The tiles whose part of the sample is not zero: listed, flagged or unsampled ones. -/
def State.sampledTiles (s : State) (seen : ResetSeen) : List Nat :=
  if s.power = .park then List.range 786432
  else
    let lost := ((fins 48).filter fun r => s.fret.lost.getLsbD r.1).flatMap fun r =>
      (List.range 16384).map fun i => (tileIn r i).1
    (s.tiles.map (·.1) ++ s.fret.dead ++ lost ++ s.hng.suspects.map (·.tile.1) ++ seen.sampleParity.map (·.1)
      ++ seen.votes.silent.filterMap fun k => (s.fret.tileOf k).map (·.1)).eraseDups

/-- The sample of order 3. -/
def State.writeSample (s : State) (seen : ResetSeen) : State :=
  let hung := ((fins 8).map fun c => if (s.ctx c).hung then 2 ^ c.1 else 0).sum
  let head := leBytes 4 0x4C504D53 ++ leBytes 4 (s.rfld Reg.hngCounts 16 16 + 1) ++ leBytes 8 s.hng.startTime
    ++ leBytes 1 s.hng.trigger ++ leBytes 1 hung
  let s := { s with hng := { s.hng with sample := Memory.writeBytes [] 0 head } }
  (s.sampledTiles seen).foldl (fun (s : State) k => s.sampleTile seen k) s

/-! ### The contexts (R440) -/

/-- A drain whose frames were abandoned sends them again: the SEALs, the page not yet acknowledged, records and manifest. -/
def Drain.resume (d : Drain) : Drain :=
  { d with
    sealed := d.sealed && d.sealWait.isEmpty, sealWait := []
    nextPage := (d.unacked.head?).getD d.nextPage, unacked := []
    recordsSent := d.manifestAcked, manifestSent := d.manifestAcked }

/-- What a recovery reset abandons of a context (R232, R273, R428, R436). -/
def Ctx.abandonAll (x : Ctx) (q : Scroll) : Ctx :=
  let x := (x.pages.filter fun e => e.2.state == .moving && e.2.move == .fetch).foldl
    (fun (x : Ctx) e => x.dropFrame q e.1) x
  { x with
    pages := x.pages.mapVals fun _ y => { y with
      flying := 0, flying1 := 0, fresh := 0, cutSent := 0
      state := if y.state = .moving ∧ y.move = .evict then .resident else y.state }
    banks := x.banks.map fun (b : Bank) => { b with services := 0 }
    members := [], reds := [], units := [], obtains := [], pushes := [], fetches := [], released := [], refetchTiles := []
    inStep := false, rerunning := false, waitVersion := false, committed := false, capoHold := false
    ckpt := { x.ckpt with
      due := none, periodicDue := false, pendingAt := none, holding := false, restore := none, rollDue := false, rollWait := [], sealsOut := [], drain := x.ckpt.drain.map Drain.resume } }

/-- Building versions go on with what they have not stored (R273). -/
def State.rebuild (s : State) (c : Fin 8) (q : Scroll) : State :=
  let s := (s.bankFreed c)
  (fins 2).foldl (fun (s : State) b =>
    let k : Bank := (s.ctx c).banks[b]
    if k.state ≠ .building then s
    else if k.verified then State.build c q b (q.storeShards.length + 1) s
    else s.startBuild c q b k.version k.digest) s

/-- A LOADED, RUNNING or HELD context whose scroll fits is reloaded and restored (R419, R422, R440, R441, R446). -/
def State.resetRestore (s : State) (c : Fin 8) (q : Scroll) (keep repeated : Bool) : State :=
  let k := (s.ctx c).ckpt.cut
  let s := if (q.sec? 0x10).isNone ∨ k.number = 0 then ((s.reloadScroll c q).modCtx c fun x => { x with
      ckpt := { x.ckpt with rollWait := q.homeServers } }).background c
    else ((s.writeRoutes c q).installTiles c q true).backToCut c q
  let s := (s.applyRecord c q k true).rebuild c q
  let n := match s.rings[ringOf c].cmds.find? Cmd.isStep with
    | some j => j.entry.par 0 4
    | none => 0
  let s := s.modCtx c fun x => ({ x with
    needRestore := keep
    faultHold := x.faultHold || repeated
    seriesKept := x.seriesKept && !x.starting
    stepsLeft := if x.starting then (if n = 0 then none else some n) else x.stepsLeft
    stepsRun := if x.starting then 0 else x.stepsRun } : Ctx).settleState
  if (s.ctx c).starting && s.degraded then s.endSteps c Status.aborted else s

/-- Orders 7 and 8 for a context that holds a scroll. -/
def State.resetLoaded (s : State) (c : Fin 8) (repeated : Bool) : State :=
  match s.scroll? c with
  | none => s
  | some q =>
    let x := s.ctx c
    if !(x.state == .loaded || x.state == .running || x.state == .held) then s
    else
      let wrote := match x.ckpt.restore with | some r => r.wrote | none => false
      let s := (s.finishOp c 0x16 Status.aborted).finishOp c 0x17 Status.aborted
      let s := s.modCtx c fun x => x.abandonAll q
      if x.stale then ((s.endSteps c Status.aborted).modCtx c fun x => { x with needRestore := true }).rebuild c q
      else s.resetRestore c q (x.needRestore || wrote || s.hng.fenced) repeated

/-- Orders 7 and 8 for a context (R369, R440): a load before its copy is complete ends ABORTED, a later one restarts. -/
def State.resetCtx (s : State) (c : Fin 8) (repeated : Bool) : State :=
  match (s.ctx c).load with
  | some l =>
    if l.order = 7 then s.installScroll c l.scroll
    else
      let s := (s.modCtx c fun x => { x with load := none }).finishOp c 0x10 Status.aborted
      s.resetLoaded c repeated
  | none => s.resetLoaded c repeated

/-! ### The recovery reset (R435 to R441) -/

/-- Settings that return (R453). -/
def State.resetSettings (s : State) : State :=
  [Reg.grdDigSel, Reg.thmSel, Reg.rplCtrl, Reg.samplePage].foldl (fun (s : State) o => s.setReg o 0) s

/-- Order 1: the trigger accepted (R436, R441, R451). A CXL_PERST_N that is low keeps the host link down until the reset ends
too (R511). -/
def State.resetBegins (s : State) : State :=
  let t := s.hng.request.getD 4
  let again := decide (0 < s.rfld Reg.hngCounts 16 16) && !s.hng.stepSince
  let s := { s with
    hng := { s.hng with
      request := none, running := true, tested := false, trigger := t, startTime := s.ns
      repeats := if again then min 7 (s.hng.repeats + 1) else 0 }
    pins := { s.pins with perstInReset := !s.pins.perstN } }
  ((s.cause Reg.hngCause 2).action 7 0 (triggerCause t) t).probationFail

/-- Orders 2 to 4: issue stops, frames and replay buffers are abandoned, the array and the edge logic are reset. A region
in REST or PARK returns to its state in ACTIVE (R398, R453). -/
def State.resetArray (s : State) : State :=
  let s := s.causeIf (s.power != .active) Reg.pwrCause 5
  { s.resetSettings with
    tiles := [], mesh := [], routers := [], selections := [], power := .active
    budget := { s.budget with deferred := [], arrayLost := false } }.settleRegions

/-- Order 5: suspect cores tested once and condemned (R439, R462). -/
def State.testSuspects (s : State) (v : Votes) : State :=
  let off := (fins 48).filter fun r => s.regions[r].silentAtBoot
  let cores := (s.hng.suspects.map fun x => s.fret.coreOf x.tile) ++ s.hng.spares
  let bad := (sortCores cores).filter fun k => s.fret.tests off k && condemns (s.fret.votes off v k)
  let s := { s with hng := { s.hng with tested := true, suspects := [], spares := [] } }
  if bad.isEmpty then s else (s.condemn bad (triggerCause s.hng.trigger)).cause Reg.hngCause 5

/-- Order 6 for a port: it leaves UP, its numbering starts again, and it trains unless its training fails (R300, R305). -/
def State.retrain (s : State) (fails : DWord) (p : Fin 64) : State :=
  let partner := s.ports[p].partner
  let was := s.ports[p].state
  let s := (s.portDown p).modPort p fun _ => { partner := partner, tried := true }
  if (was = .up ∨ was = .quiet) ∧ s.mayTrain p ∧ !fails.getLsbD p.1 then s.trained p partner else s

/-- Orders 1 to 8 of R436, in one command. DEDUCED, log 36. -/
def State.recoveryReset (s : State) (seen : ResetSeen) : State :=
  let s := (s.resetBegins.writeSample seen).resetArray.testSuspects seen.votes
  let s := (fins 64).foldl (fun (s : State) p => s.retrain seen.portFail p) s
  let repeated := decide (s.rfld Reg.hngCtrl 8 3 ≤ s.hng.repeats)
  let s := s.causeIf repeated Reg.hngCause 4
  ((fins 8).foldl (fun (s : State) c => s.resetCtx c repeated) s).serve

/-- RECOVERY_RESET_START (R435, R436): orders 1 to 8, once a trigger stands. -/
def execRecoveryResetStart (seen : ResetSeen) (s : State) : Host.Outcome State Fault Refusal :=
  act (fun s => if s.hng.request.isSome && !s.hng.running then s.recoveryReset seen else s) s

/-- Enabled tail lines are read again (R326, R436, R505). -/
def State.readTails (s : State) (rs : List (Fin 9)) : State :=
  rs.foldl (fun (s : State) r => if s.rings[r].en && s.hostReady then s.emit (.readTailLine r) else s) s

/-- A context whose scroll is STALE as RECOVERING ends, that of a region lost after order 1 included (R440, R452): its
STEP_START ends ABORTED, and it is LOADED with NEED_RESTORE. -/
def State.resetStale (s : State) (c : Fin 8) : State :=
  let x := s.ctx c
  if !x.stale || !(x.state == .loaded || x.state == .running || x.state == .held) then s
  else
    let s := if x.starting then s.endSteps c Status.aborted else s
    s.modCtx c fun x => { x with needRestore := true }

/-- RECOVERY_RESET_END (order 9 of R436): frames leave again, RECOVERY_RESET commands complete, commands that waited start, and
rings 0 to 7 are read. -/
def execRecoveryResetEnd (s : State) : Host.Outcome State Fault Refusal :=
  act (fun s =>
    if !s.hng.running then s
    else
      let s := { s with
        hng := { s.hng with running := false, tested := false, stepSince := false }
        pins := { s.pins with perstInReset := false } }
      let s := ((s.skip fun _ => true).cause Reg.hngCause 3).count Reg.hngCounts 16 16 1
      let s := s.finishAll 8 (fun k => k.isOp 0x06 && k.phase == .started) Status.ok
      let s := ((fins 8).foldl State.resetStale s).abortStanding
      let s := (fins 9).foldl State.acceptWaiting s
      ((s.readTails (fins 9)).pumpAll).serve) s

/-- WATCHDOG_EXPIRY (R442, R443): the heartbeat watchdog runs from order 3 of bring-up (R465). -/
def execWatchdogExpiry (s : State) : Host.Outcome State Fault Refusal :=
  act (fun s => if s.boot.order < 3 then s else s.enterFailed) s

/-- The host link goes down (R505): tail lines and the window are out of reach, and a message waits as the pending bit. -/
def State.linkDown (s : State) : State := { s with pins := { s.pins with linkUp := false } }

end Sys2Proof.Machine
end

