-- ==== Sys2Proof/Machine/TimeRows.lean ====
section
/-! DEFINITION. String modules (R312 to R314) and time (R315 to R318). -/

namespace Sys2Proof.Machine

/-! ### String modules (R312 to R314) -/

/-- Key of the life counters kept for a slot and serial number (R314). -/
def lifeKey (slot : Fin 16) (serial : Nat) : Nat := 16 * serial + slot.1

/-- Minutes of laser-on time recorded for a serial number in any slot (R313). -/
def Flash.minutesOf (f : Flash) (serial : Nat) : Nat :=
  ((f.lives.filter fun e => e.1 / 16 == serial).map fun (e : Nat × Life) => e.2.minutes).foldl max 0

/-- The larger of the engine's counters and the module's (R314). `new` counts an insertion. -/
def Life.merge (l : Life) (m : ModuleId) (new : Bool) : Life :=
  { l with
    minutes := max l.minutes (60 * m.hours)
    insertions := max (l.insertions + bit new) m.insertions
    hotMinutes := max l.hotMinutes (60 * m.overTemp) }

/-- The pages read of a module (R312): the lower page with page 00h, pages 01h, 02h and 11h, and the pieces of its certificate
chain from B0h to B7h in turn. -/
def moduleReads (slot : Fin 16) (m : ModuleId) : List Output :=
  [.moduleRead slot 0x00 0, .moduleRead slot 0x00 1, .moduleRead slot 0x01 1, .moduleRead slot 0x02 1, .moduleRead slot 0x11 1]
    ++ (List.range ((m.chain.length + 127) / 128)).map fun i => .moduleRead slot (0xB0 + i % 8) i

/-- A module verified (R313): chain, signature over the challenge and the serial number, and hour counter. Only then do its
lasers come on; a refused module's stay off. The challenge, a free value, is written to page B8h, where the signature is
read; page B9h holds the counters. `new`: an insertion, not bring-up. -/
def State.insertModule (s : State) (slot : Fin 16) (m : ModuleId) (new : Bool) : State :=
  if s.slots[slot].state ≠ .empty then s
  else
    let (c, s) := s.freeBytes
    let c := slice c 0 32
    let s := { s with out := s.out ++ moduleReads slot m ++
      ([.moduleChallenge slot c, .moduleRead slot 0xB8 1, .moduleRead slot 0xB9 1] : List Output) }
    let good := Config.chainVerifies m.chain
      && Config.mlDsaVerify (Config.chainKey m.chain) (c ++ leBytes 16 m.serial) "" m.signature
      && decide (s.flash.minutesOf m.serial ≤ 60 * m.hours + 59)
    let life := (s.flash.lives.getD (lifeKey slot m.serial) {}).merge m new
    let x : ModSlot := {
      state := if good then .enabled else .refused, serial := m.serial, chain := m.chain, life := life
      capabilities := m.capabilities, thresholds := m.thresholds, laneStatus := m.laneStatus }
    let s := { s with slots := vset s.slots slot x }
    if good then s.emit (.moduleLaser slot true) else s.cause Reg.fabCause 5

/-- The counters of a slot's module stored in flash. -/
def State.storeLife (s : State) (slot : Fin 16) : State :=
  let x := s.slots[slot]
  if x.state = .empty then s
  else { s with flash := { s.flash with lives := s.flash.lives.set (lifeKey slot x.serial) x.life } }

/-- The ports of a slot's chiplet (R26). -/
def slotPorts (slot : Fin 16) : List (Fin 64) := (fins 64).filter fun p => p.1 / 4 == slot.1

/-- MODULE_INSERT (R313); before order 9 the module is verified with the others (R466). -/
def execModuleInsert (slot : Fin 16) (m : ModuleId) (s : State) : Host.Outcome State Fault Refusal :=
  act (fun s => s.insertModule slot m true) s

/-- MODULE_REMOVE (R300, R313): the ports of an enabled module go DOWN. Its counters are kept (log 37). -/
def execModuleRemove (slot : Fin 16) (s : State) : Host.Outcome State Fault Refusal :=
  act (fun s =>
    let s := s.storeLife slot
    let s := if s.slots[slot].state = .enabled then (slotPorts slot).foldl (fun (s : State) p => s.portDown p) s else s
    { s with slots := vset s.slots slot {} }) s

/-- The greatest number below 2^k whose tenth power is at most `n`: its bits are set from the highest down where they fit. -/
def tenthRoot (k n : Nat) : Nat :=
  (List.range k).foldl (fun r i => if (r + 2 ^ (k - 1 - i)) ^ 10 ≤ n then r + 2 ^ (k - 1 - i) else r) 0

/-- 2^((T - 65) / 10) in units of 2^-20 (R314), rounded down (log 22): the tenth root of 2^(200 + T - 65). -/
def lifeFactorOf (t : Int) : Nat :=
  let e := (t + 135).toNat
  if t < -135 then 0 else tenthRoot (e / 10 + 1) (2 ^ e)

/-- The predicted remaining time in minutes (R314), if the last 24 h show a factor. -/
def ModSlot.remaining (x : ModSlot) : Option Nat :=
  let total := x.factors.sum
  if total = 0 then none else some ((40000 * 60 * 2 ^ 20 - x.life.equiv) * x.factors.length / total)

/-- LIFE_COUNTER_MINUTE (R314). -/
def execLifeCounterMinute (slot : Fin 16) (temp : Int) (s : State) : Host.Outcome State Fault Refusal :=
  act (fun s =>
    let x := s.slots[slot]
    if x.state ≠ .enabled then s
    else
      let f := lifeFactorOf temp
      let hot := decide (70 < temp)
      let y := { x with
        hot := hot
        factors := (x.factors ++ [f]).drop (x.factors.length + 1 - 1440)
        life := { x.life with
          minutes := x.life.minutes + 1, hotMinutes := x.life.hotMinutes + bit hot, equiv := x.life.equiv + f } }
      let eol := match y.remaining with
        | some n => decide (n < 6000 * s.rfld Reg.fabCtrl 5 7)
        | none => x.eol
      ({ s with slots := vset s.slots slot { y with eol := eol } }).causeIf (eol && !x.eol) Reg.fabCause 6) s

/-- LIFE_COUNTER_FLASH (R314). -/
def execLifeCounterFlash (s : State) : Host.Outcome State Fault Refusal :=
  act (fun s => (fins 16).foldl State.storeLife s) s

/-! ### The time base (R315) -/

/-- Does a context hold a scroll (R315)? -/
def State.anyLoaded (s : State) : Bool := (fins 8).any fun c => (s.ctx c).scroll.isSome

/-- TIM_OFFSET (R319): signed and saturating. -/
def satOffset (x : Int) : Nat := unsigned 32 (max (-(2 ^ 31)) (min (2 ^ 31 - 1) x))

/-- A measured offset from the source in ns: LOCKED; a step on the first lock or with no context loaded, but none backward
while a context is loaded, else a rate correction of at most 100 ppm. How the engine chooses the rate is not stated: a free
value within the bound (log 38). -/
def State.measured (s : State) (off : Int) : State :=
  let t := s.time
  let s := s.causeIf (t.state != .locked) Reg.timCause 0
  if !s.anyLoaded || (!t.everLocked && decide (off ≤ 0)) then
    let s := s.causeIf (off != 0) Reg.timCause 2
    let now := (((t.now : Int) - off * 2 ^ 32) % 2 ^ 96).toNat
    let edge := t.ppsLast.map fun m => ((m : Int) - off).toNat
    { s with time := { t with state := .locked, everLocked := true, offset := off, now := now, ppsLast := edge } }
  else
    let (w, s) := s.freeWord
    { s with time := { t with
        state := .locked, everLocked := true, offset := off, rate := max (-8589934) (min 8589934 (signed 32 w.toNat)) } }

/-! ### TIME frames (R316, R317) -/

/-- A TIME frame queued on a port. -/
def State.timeFrame (s : State) (p : Option (Fin 64)) (dest : Half) (m : PtpMsg) (requester : List Byte := []) : State :=
  s.enqueue p (s.ptpFrame dest m requester) none none

/-- The source followed (R316): a grandmaster has none. -/
def State.timeSource (s : State) : Option Half :=
  let e := s.rfld Reg.timSrc 0 16
  if s.time.grandmaster || e == 0xFFFF then none else some (BitVec.ofNat 16 e)

/-- A message processed: a Delay_Req is answered; Sync, Follow_Up and Delay_Resp of the source make a measurement. -/
def State.ptp (s : State) (p : Fin 64) (f : Frame) (m : PtpMsg) (stamp : Nat) : State :=
  let mine := s.timeSource == some f.source
  match m.kind with
  | .delayReq => s.timeFrame (some p) f.source ⟨.delayResp, m.seqId, stamp⟩ (slice f.payload 20 10)
  | .sync => if mine then { s with time := { s.time with sync := some (m.seqId, stamp) } } else s
  | .followUp =>
    match s.time.sync with
    | some (n, t2) =>
      if !mine || n != m.seqId then s
      else
        let k := s.time.seqId
        let s := { s with time := { s.time with sync := none, req := some (k, m.stamp, t2, s.ns), seqId := k + 1 } }
        s.timeFrame (s.anyPort f.source) f.source ⟨.delayReq, k, 0⟩
    | none => s
  | .delayResp =>
    match s.time.req with
    | some (n, t1, t2, t3) =>
      if !mine || n != m.seqId then s
      else ({ s with time := { s.time with req := none } }).measured
        ((((t2 : Int) - t1) - ((m.stamp : Int) - t3)) / 2)
    | none => s
  | .announce => s

/-- TIME (R316). -/
def execTime (p : Fin 64) (f : Frame) (m : PtpMsg) (stamp : Nat) (s : State) : Host.Outcome State Fault Refusal :=
  actIf f.wf (fun s => s.arrive p { f with type := 0x50 } fun s => s.ptp p f m stamp) s

/-- The weight servers that the loaded scrolls name (R317). -/
def State.timeServers (s : State) : List Half :=
  ((fins 8).flatMap fun c =>
    match s.scroll? c with
    | some q => q.homeServers ++ (List.range (min 256 (q.su 0xD 4 4))).flatMap fun l =>
        ((q.sources l).1.filter fun e => e.1 == 2).map (·.2)
    | none => []).eraseDups

/-- Sync to an engine; its Follow_Up goes out after it (`State.stamped`). -/
def State.syncTo (s : State) (p : Option (Fin 64)) (dest : Half) : State := s.timeFrame p dest ⟨.sync, s.time.seqId, 0⟩

/-- SYNC_SEND (R317): to every weight server named, and by broadcast, on every UP port, to the engines that follow this one
(log 38). -/
def execSyncSend (s : State) : Host.Outcome State Fault Refusal :=
  act (fun s =>
    let s := s.timeServers.foldl (fun (s : State) e => s.syncTo (s.anyPort e) e) s
    let s := ((fins 64).filter fun p => s.ports[p].state == .up).foldl (fun (s : State) p => s.syncTo (some p) 0xFFFF) s
    { s with time := { s.time with seqId := s.time.seqId + 1 } }) s

/-- TIME_MODULE_WRITE (R317). -/
def execTimeModuleWrite (s : State) : Host.Outcome State Fault Refusal :=
  act (fun s =>
    let n := s.ns
    let s := ((fins 16).filter fun k => s.slots[k].state == .enabled).foldl (fun (s : State) k => s.emit (.moduleTime k n)) s
    (fins 48).foldl (fun (s : State) r => s.emit (.regulatorTime r n)) s) s

/-- TIME_SOURCE_SILENT (R315). -/
def execTimeSourceSilent (s : State) : Host.Outcome State Fault Refusal :=
  act (fun s =>
    if s.time.state = .locked then { s with time := { s.time with state := .holdover } }.cause Reg.timCause 1 else s) s

/-! ### PPS (R318) -/

/-- Signed distance in ns of a time from the nearest whole second. -/
def fromSecond (n : Nat) : Int :=
  let r := n % 1000000000
  if r < 500000000 then (r : Int) else (r : Int) - 1000000000

/-- PPS_IN failed: the input is ignored until ten consecutive edges agree. -/
def State.ppsMiss (s : State) : State :=
  { s with time := { s.time with ppsIgnore := true, ppsGood := 0 } }.cause Reg.timCause 3

/-- A grandmaster is LOCKED to PPS_IN (R316). -/
def State.ppsLock (s : State) : State := if s.time.grandmaster then s.measured (fromSecond s.ns) else s

/-- PPS_IN_EDGE (R318). While the input is ignored an edge agrees when it follows the one before by whole seconds within
1 ms (log 38). -/
def execPpsInEdge (s : State) : Host.Outcome State Fault Refusal :=
  act (fun s =>
    if s.rfld Reg.timCtrl 3 1 = 0 then s
    else
      let n := s.ns
      let near := fun (d : Int) => decide (-1000000 ≤ d) && decide (d ≤ 1000000)
      let agrees := match s.time.ppsLast with
        | some m => near (fromSecond (n - m)) && decide (m + 500000000 < n)
        | none => false
      let s := { s with time := { s.time with ppsLast := some n } }
      if s.time.ppsIgnore then
        let good := if agrees then s.time.ppsGood + 1 else 0
        if 10 ≤ good then ({ s with time := { s.time with ppsIgnore := false, ppsGood := 0 } }).ppsLock
        else { s with time := { s.time with ppsGood := good } }
      else if near (fromSecond n) then s.ppsLock
      else s.ppsMiss) s

/-- PPS_SECOND (R318): PPS_OUT rises; a second that had no edge is a miss. -/
def execPpsSecond (s : State) : Host.Outcome State Fault Refusal :=
  act (fun s =>
    let s := s.emit .pps
    let seen := match s.time.ppsLast with
      | some m => decide (s.ns ≤ m + 1001000000)
      | none => false
    if s.rfld Reg.timCtrl 3 1 = 1 ∧ !s.time.ppsIgnore ∧ !seen then s.ppsMiss else s) s

end Sys2Proof.Machine
end

