-- ==== Sys2Proof/Machine/Security.lean ====
section
/-! DEFINITION. Security (R468 to R483): measurements, the SPDM responder, the owner record, command keys by SET_CMD_KEY,
and CXL IDE; the host link (R326, R505) and the clock domains (R32). Message sequence and error codes are those of SPDM 1.3 (log 40). -/

namespace Sys2Proof.Machine

/-! ### Measurements (R470) -/

/-- The image of R375 as bytes. -/
def Fret.imageBytes (f : Fret) : List Byte := (List.range 10256).flatMap fun i => leBytes 4 (f.image (4 * i))

/-- Indices of the measurements, ascending. -/
def measurementIndices : List Nat :=
  [1, 2, 3, 4, 5, 6] ++ (List.range 8).map (16 + ·) ++ (List.range 16).map (32 + ·)

/-- A measurement. -/
def State.measurement (s : State) (i : Nat) : Option (List Byte) :=
  let zeros : List Byte := List.replicate 64 0
  match i with
  | 1 => some (slice Config.bootRomHash 0 64)
  | 2 => some s.measurement2
  | 3 => some [(s.flash.fw[s.boot.copy]).svn, s.flash.minSvn]
  | 4 => some (slice Config.factoryHash 0 64)
  | 5 => some (if s.owned then sha3_512 s.owner else zeros)
  | 6 => some (sha3_512 s.fret.imageBytes)
  | i =>
    if 16 ≤ i ∧ i < 24 then
      some (match s.scroll? (finOf 8 (i - 16)) with | some q => slice q.digest 0 64 | none => zeros)
    else if 32 ≤ i ∧ i < 48 then
      let x := s.slots[finOf 16 (i - 32)]
      some (if x.state = .enabled then sha3_512 x.chain else zeros)
    else none

/-! ### The responder (R471, R472) -/

/-! Error codes of SPDM 1.3. -/
namespace SpdmError
def invalidRequest := 0x01
def invalidSession := 0x02
def busy := 0x03
def unexpectedRequest := 0x04
def decryptError := 0x06
def unsupportedRequest := 0x07
def sessionLimit := 0x0A
def largeResponse := 0x0F
end SpdmError

/-- Place of a transport's connection. -/
def viaIdx (via : Transport) : Fin 2 := if via = .doe then 0 else 1

/-- The connection of a transport. -/
def State.conn (s : State) (via : Transport) : SpdmConn := s.sec.conns[viaIdx via]

/-- The connection changed. -/
def State.modConn (s : State) (via : Transport) (f : SpdmConn → SpdmConn) : State :=
  { s with sec := { s.sec with conns := vmod s.sec.conns (viaIdx via) f } }

/-- A measurement block (R470): a digest, or for index 3 the raw security versions. -/
def measurementBlock (i : Nat) (m : List Byte) : List Byte :=
  leBytes 1 i ++ leBytes 1 1 ++ leBytes 2 (m.length + 3) ++ leBytes 1 (if i = 3 then 0x87 else 1) ++ leBytes 2 m.length ++ m

/-- A response as a message of SPDM 1.3; empty for one that is never divided (R471). PRESUMED, log 40. -/
def answerBytes (a : SpdmAnswer) : List Byte :=
  let head := fun (code p1 p2 : Nat) => leBytes 1 0x13 ++ leBytes 1 code ++ leBytes 1 p1 ++ leBytes 1 p2
  match a with
  | .version vs => leBytes 1 0x10 ++ leBytes 1 4 ++ leBytes 3 0 ++ leBytes 1 vs.length ++ vs.flatMap fun v => leBytes 2 (256 * v)
  | .capabilities flags size => head 0x61 0 0 ++ leBytes 4 0 ++ leBytes 4 flags ++ leBytes 4 size ++ leBytes 4 (2 ^ 32 - 1)
  | .algorithms asym hash ext =>
    head 0x63 0 0 ++ leBytes 2 (36 + 4 * ext.length) ++ leBytes 1 1 ++ leBytes 1 0 ++ leBytes 4 0x40 ++ leBytes 4 asym ++ leBytes 4 hash
      ++ leBytes 12 0 ++ leBytes 1 ext.length ++ leBytes 3 0 ++ ext.flatMap fun e => leBytes 2 e.1 ++ leBytes 2 e.2
  | .digests d => head 1 0 1 ++ d
  | .certificate p r => head 2 0 0 ++ leBytes 2 p.length ++ leBytes 2 r ++ p
  | .challengeAuth chain nonce sig => head 3 0 1 ++ chain ++ nonce ++ leBytes 2 0 ++ sig
  | .measurements blocks nonce sig =>
    let rec_ := blocks.flatMap fun e => measurementBlock e.1 e.2
    head 0x60 0 0 ++ leBytes 1 blocks.length ++ leBytes 3 rec_.length ++ rec_ ++ nonce ++ leBytes 2 0 ++ sig
  | .vendor code status bytes =>
    head 0x7E 0 0 ++ leBytes 2 3 ++ leBytes 1 2 ++ leBytes 2 Config.vendorId ++ leBytes 2 (2 + bytes.length)
      ++ leBytes 1 code ++ leBytes 1 status ++ bytes
  | _ => []

/-- A response, or, of one above the transport's size, the announcement of its chunks (R471). -/
def State.answer (s : State) (via : Transport) (a : SpdmAnswer) : State :=
  let bs := answerBytes a
  if bs.length ≤ Config.transportSize (via == .doe) then s.emit (.spdm via a)
  else (s.modConn via fun x => { x with large := bs, largeNext := 0 }).emit (.spdm via (.error SpdmError.largeResponse))

/-- A signature under the alias key (R468, R471) over the transcript of which the rows show some bytes. -/
def State.signed (s : State) (shown : List Byte) : List Byte × State :=
  let (g, s) := s.freeBytes
  (slice (Config.mlDsaSign s.aliasSeed (Config.transcript shown) g) 0 4627, s)

/-- A request is served: DOE needs the host link, the sideband the keys of order 4 (R468). -/
def State.serves (s : State) (via : Transport) : Bool :=
  match via with
  | .doe => s.pins.linkUp
  | .sideband => decide (4 ≤ s.boot.order)

/-- A request processed. -/
def spdm (via : Transport) (f : State → State) (s : State) : Host.Outcome State Fault Refusal :=
  act (fun s => if s.serves via then f s else s) s

/-- A request that needs the algorithms agreed. -/
def spdmAgreed (via : Transport) (f : State → State) (s : State) : Host.Outcome State Fault Refusal :=
  spdm via (fun s => if (s.conn via).algs then f s else s.answer via (.error SpdmError.unexpectedRequest)) s

/-- IDE stops on a protocol (R477); `b` is the bit of SEC_CAUSE. -/
def State.ideStop (s : State) (p : IdeProtocol) (b : Nat) : State :=
  match p with
  | .io =>
    if s.sec.ideIo then { s with sec := { s.sec with ideIo := false, ideIoKey := none, ideIoKeys := [] } }.cause Reg.secCause b else s
  | .cacheMem =>
    if s.sec.ideCm then { s with sec := { s.sec with ideCm := false, ideCmKey := none, ideCmKeys := [] } }.cause Reg.secCause b else s

/-- A session ends: IDE that it keyed stops (R477). -/
def State.sessionEnds (s : State) (via : Transport) : State :=
  let s := s.modConn via fun x => { x with session := none, established := false, secret := [], transcript := [], reqSecret := [], rspSecret := [] }
  let s := if s.sec.ideIoKey = some via then s.ideStop .io 6 else s
  if s.sec.ideCmKey = some via then s.ideStop .cacheMem 6 else s

/-- GET_VERSION: the connection starts again; 1.3 is the only version (R471). -/
def execGetVersion (via : Transport) (s : State) : Host.Outcome State Fault Refusal :=
  spdm via (fun s => ((s.sessionEnds via).modConn via fun _ => { version := true }).answer via (.version [0x13])) s

/-- The capabilities that R471 supports, as flags of SPDM 1.3 (log 40): CERT, CHAL, MEAS with signature, MEAS_FRESH,
ENCRYPT, MAC, KEY_EX, HBEAT, KEY_UPD, CHUNK, ALIAS_CERT. -/
def capabilityFlags : Nat :=
  2 ^ 1 + 2 ^ 2 + 2 ^ 4 + 2 ^ 5 + 2 ^ 6 + 2 ^ 7 + 2 ^ 9 + 2 ^ 13 + 2 ^ 14 + 2 ^ 17 + 2 ^ 18

/-- GET_CAPABILITIES. -/
def execGetCapabilities (via : Transport) (s : State) : Host.Outcome State Fault Refusal :=
  spdm via (fun s =>
    if (s.conn via).version then (s.modConn via fun x => { x with caps := true }).answer via
        (.capabilities capabilityFlags (Config.transportSize (via == .doe)))
    else s.answer via (.error SpdmError.unexpectedRequest)) s

/-- NEGOTIATE_ALGORITHMS (R471): SHA3-512 as the base hash and ML-DSA-87 as an extended asymmetric algorithm, the base
asymmetric field empty, or nothing. -/
def execNegotiateAlgorithms (via : Transport) (sha3 mldsa : Bool) (s : State) : Host.Outcome State Fault Refusal :=
  spdm via (fun s =>
    if !(s.conn via).caps then s.answer via (.error SpdmError.unexpectedRequest)
    else if sha3 && mldsa then (s.modConn via fun x => { x with algs := true }).answer via
        (.algorithms 0 0x20 [Config.signatureEntry])
    else s.answer via (.error SpdmError.invalidRequest)) s

/-- The certificate chain of slot 0 (R469). -/
def State.chain (s : State) : List Byte := Config.certChain s.measurement2

/-- GET_DIGESTS. -/
def execGetDigests (via : Transport) (s : State) : Host.Outcome State Fault Refusal :=
  spdmAgreed via (fun s => s.answer via (.digests (sha3_512 s.chain))) s

/-- GET_CERTIFICATE (R469): slots 1 to 7 are empty. -/
def execGetCertificate (via : Transport) (slot : Byte) (offset length : Nat) (s : State) : Host.Outcome State Fault Refusal :=
  spdmAgreed via (fun s =>
    let c := s.chain
    if slot ≠ 0 ∨ c.length ≤ offset then s.answer via (.error SpdmError.invalidRequest)
    else
      let p := (c.drop offset).take length
      s.answer via (.certificate p (c.length - offset - p.length))) s

/-- CHALLENGE. -/
def execChallenge (via : Transport) (slot : Byte) (nonce : List Byte) (s : State) : Host.Outcome State Fault Refusal :=
  spdmAgreed via (fun s =>
    if slot ≠ 0 then s.answer via (.error SpdmError.invalidRequest)
    else
      let (g, s) := s.signed (sha3_512 s.chain ++ nonce)
      s.answer via (.challengeAuth (sha3_512 s.chain) nonce g)) s

/-- GET_MEASUREMENTS (R470): index 0 asks for their number, 0xFF for all. -/
def execGetMeasurements (via : Transport) (index : Byte) (nonce : List Byte) (s : State) : Host.Outcome State Fault Refusal :=
  spdmAgreed via (fun s =>
    if index = 0 then s.answer via (.measurementCount measurementIndices.length)
    else
      let want := if index = 0xFF then measurementIndices else [index.toNat]
      let blocks := want.filterMap fun i => (s.measurement i).map fun m => (i, m)
      if blocks.isEmpty then s.answer via (.error SpdmError.invalidRequest)
      else
        let (g, s) := s.signed (blocks.flatMap (fun e => measurementBlock e.1 e.2) ++ nonce)
        s.answer via (.measurements blocks nonce g)) s

/-! The key schedule of SPDM 1.3 with SHA3-512 (R472; log 40). -/

/-- The handshake secret. -/
def spdmHandshake (shared : List Byte) : List Byte := hmac3 (List.replicate 64 0) shared

/-- The MAC that FINISH must carry. -/
def spdmFinishMac (x : SpdmConn) : List Byte :=
  let req := spdmExpand (spdmHandshake x.secret) "req hs data" x.transcript 64
  hmac3 (spdmExpand req "finished" [] 64) (Config.transcript x.transcript)

/-- The session's secrets for either direction, from the transcript with FINISH in it. -/
def spdmData (x : SpdmConn) (mac : List Byte) : List Byte × List Byte :=
  let master := hmac3 (spdmExpand (spdmHandshake x.secret) "derived" [] 64) (List.replicate 64 0)
  let th := Config.transcript (x.transcript ++ mac)
  (spdmExpand master "req app data" th 64, spdmExpand master "rsp app data" th 64)

/-- AES-256-GCM key and initialisation vector of a direction. -/
def spdmMessageKey (secret : List Byte) : List Byte × List Byte := (spdmExpand secret "key" [] 32, spdmExpand secret "iv" [] 12)

/-- KEY_EXCHANGE (R472): one session per transport. Its number is a free value. -/
def State.keyExchange (s : State) (via : Transport) (ciphertext : List Byte) : State :=
  if (s.conn via).session.isSome then s.answer via (.error SpdmError.sessionLimit)
  else
    let (w, s) := s.freeWord
    let ct := slice ciphertext 0 1568
    let th := Config.transcript (sha3_512 s.chain ++ ct ++ leBytes 4 w.toNat)
    (s.modConn via fun x => { x with
      session := some w.toNat, established := false, secret := Config.mlKemDecap s.kemSeed ct, transcript := th
      reqSecret := [], rspSecret := [] }).answer via (.keyExchange w.toNat)

/-- KEY_EXCHANGE. -/
def execKeyExchange (via : Transport) (ciphertext : List Byte) (s : State) : Host.Outcome State Fault Refusal :=
  spdmAgreed via (fun s => s.keyExchange via ciphertext) s

/-- FINISH (R472). -/
def execFinish (via : Transport) (session : Nat) (mac : List Byte) (s : State) : Host.Outcome State Fault Refusal :=
  spdmAgreed via (fun s =>
    let x := s.conn via
    if x.session ≠ some session ∨ x.established then s.answer via (.error SpdmError.invalidSession)
    else if mac = spdmFinishMac x then
      (s.modConn via fun y => { y with
        established := true, reqSecret := (spdmData x mac).1, rspSecret := (spdmData x mac).2 }).answer via .finish
    else (s.sessionEnds via).answer via (.error SpdmError.decryptError)) s

/-- A request inside an established session. -/
def inSession (via : Transport) (session : Nat) (f : State → State) (s : State) : Host.Outcome State Fault Refusal :=
  spdmAgreed via (fun s =>
    if (s.conn via).session = some session ∧ (s.conn via).established then f s
    else s.answer via (.error SpdmError.invalidSession)) s

/-- END_SESSION (R472, R477). -/
def execEndSession (via : Transport) (session : Nat) (s : State) : Host.Outcome State Fault Refusal :=
  inSession via session (fun s => (s.sessionEnds via).answer via .endSession) s

/-- HEARTBEAT. -/
def execHeartbeat (via : Transport) (session : Nat) (s : State) : Host.Outcome State Fault Refusal :=
  inSession via session (fun s => s.answer via .heartbeat) s

/-- KEY_UPDATE: both directions go on with new secrets (log 40). -/
def execKeyUpdate (via : Transport) (session : Nat) (s : State) : Host.Outcome State Fault Refusal :=
  let next := fun (k : List Byte) => spdmExpand k "traffic upd" [] 64
  inSession via session (fun s =>
    (s.modConn via fun x => { x with reqSecret := next x.reqSecret, rspSecret := next x.rspSecret }).answer via .keyUpdate) s

/-! ### The owner record (R473 to R475) -/

/-- Every byte of a part is zero. -/
def zeroAt (r : List Byte) (a n : Nat) : Bool := (slice r a n).all (· == 0)

/-- Check 1 of R475. -/
def ownerFormat (r : List Byte) : Bool :=
  let k := leAt r 8 1
  let n := leAt r 9 1
  let slots := leAt r 10 1
  let release := zeroAt r 128 2592
  r.length == 59392 && leAt r 0 4 == 0x524E574F && zeroAt r 12 4 && zeroAt r 80 48 && zeroAt r 59187 205
    && decide (slots < 16) && decide (leAt r 11 1 < 8)
    && (if release then k == 0 && n == 0 && slots == 0 && leAt r 11 1 == 0
        else decide (1 ≤ k) && decide (k ≤ n) && decide (n ≤ 16))
    && ((List.range 4).all fun i => bitAt slots i || zeroAt r (2720 + 2592 * i) 2592)
    && (List.range 16).all fun i => decide (i < n) || zeroAt r (13088 + 2592 * i) 2592

/-- The failing cause of R475, 0 when every check passes. -/
def State.ownerCause (s : State) (r : List Byte) : Nat :=
  let key := if s.owned then slice s.owner 128 2592 else Config.ownershipKey
  if !ownerFormat r then 1
  else if slice r 16 64 ≠ slice Config.identityHash 0 64 then 2
  else if !Config.mlDsaVerify key (sha3_512 (r.take 54560)) "LW2-OWNER" (slice r 54560 4627) then 3
  else if ownerSerial r ≤ ownerSerial s.owner then 4
  else if (fins 8).any fun c => (s.ctx c).state != .free then 5
  else 0

/-- SET_OWNER (R475, R483): an accepted record waits for its flash write; one that meets that write is told Busy (log 39). -/
def State.setOwner (s : State) (via : Transport) (r : List Byte) : State :=
  if s.hng.running || s.sec.ownerWait.isSome then s.answer via (.error SpdmError.busy)
  else
    let cause := s.ownerCause r
    if cause ≠ 0 then
      (({ s with sec := { s.sec with lastCause := cause } }).cause Reg.secCause 1).answer via (.vendor 0x82 cause [])
    else { s with sec := { s.sec with ownerWait := some (r, via) } }

/-- SET_OWNER. -/
def execSetOwner (via : Transport) (record : List Byte) (s : State) : Host.Outcome State Fault Refusal :=
  spdm via (fun s => s.setOwner via record) s

/-- GET_OWNER (R473): the record in force. -/
def execGetOwner (via : Transport) (s : State) : Host.Outcome State Fault Refusal :=
  spdm via (fun s => s.answer via (.vendor 0x81 0 s.owner)) s

/-- The host can be reached again: tail lines are read, and what waited leaves (R477, R505). -/
def State.hostBack (s : State) : State := ((s.readTails (fins 9)).flushHost).release

/-- What the engine may serve changed from `s`. -/
def hostAfter (s t : State) : State := if !s.hostReady && t.hostReady then t.hostBack else t

/-- A key that waits for its serial's flash write as another record comes into force is not installed (R474): it was wrapped for
the former owner, cause 2 of R479. DESIGN CHOICE, log 39. -/
def State.dropKeyWaits (s : State) : State :=
  let waits := s.sec.keyWait
  let s := { s with sec := { s.sec with keyWait := [] } }
  waits.foldl (fun (s : State) w =>
    let s := s.blobReject 2
    match w.2.2.2 with
    | some via => s.answer via (.vendor 0x83 2 [])
    | none => s.finishAll w.1 (fun k => k.phase == .keySerial) Status.verify 2) s

/-- OWNER_RECORD_WRITTEN (R475): the record is in force, every command key erased, the request answered. -/
def execOwnerRecordWritten (s : State) : Host.Outcome State Fault Refusal :=
  act (fun s =>
    match s.sec.ownerWait with
    | none => s
    | some (r, via) =>
      let held : Fin 2 := if ownerSerial s.flash.owner[(0 : Fin 2)] < ownerSerial s.flash.owner[(1 : Fin 2)] then 1 else 0
      let t := { s with
        flash := { s.flash with
          owner := vset s.flash.owner (held + 1) r, ownerCrc := vset s.flash.ownerCrc (held + 1) (crc32c r) }
        sec := { s.sec with ownerWait := none }
        rings := s.rings.map fun (x : Ring) => { x with key := none } }
      hostAfter s (((t.cause Reg.secCause 0).answer via (.vendor 0x82 0 [])).dropKeyWaits).serve) s

/-! ### SET_CMD_KEY (R480) -/

/-- SET_CMD_KEY: cause 6 STATE before any check of the blob. -/
def State.setCmdKey (s : State) (via : Transport) (ring : Byte) (blob : List Byte) : State :=
  let r := finOf 9 ring.toNat
  let reject := fun (cause : Nat) => (s.blobReject cause).answer via (.vendor 0x83 cause [])
  let st := (s.ctx (ctxOfRing r)).state
  if s.hng.running then s.answer via (.error SpdmError.busy)
  else if 8 < ring.toNat then reject 1
  else if s.rings[r].key.isSome || (r != 8 && (st == .free || st == .tearing)) then reject 6
  else if s.sec.keyWait.any fun w => w.1 == r then s.answer via (.error SpdmError.busy)
  else
    let cause := s.blobCause r blob
    if cause ≠ 0 then reject cause else s.blobAccept r blob (some via)

/-- SET_CMD_KEY. -/
def execSetCmdKey (via : Transport) (ring : Byte) (blob : List Byte) (s : State) : Host.Outcome State Fault Refusal :=
  spdm via (fun s => s.setCmdKey via ring blob) s

/-! ### Chunks (R471) -/

/-- A request put together from its chunks: a vendor-defined request of R473, of the PCI-SIG registry (3) under the
engine's vendor identifier, or KEY_EXCHANGE. The request's own places are those of SPDM 1.3; the ring of SET_CMD_KEY is
payload byte 1 (log 40). -/
def State.largeRequest (s : State) (via : Transport) (b : List Byte) : State :=
  let code := leAt b 1 1
  if code = 0xFE ∧ leAt b 4 2 = 3 ∧ leAt b 6 1 = 2 ∧ leAt b 7 2 = Config.vendorId then
    let p := b.drop 11
    match leAt p 0 1 with
    | 0x01 => s.answer via (.vendor 0x81 0 s.owner)
    | 0x02 => s.setOwner via (p.drop 1)
    | 0x03 => s.setCmdKey via (BitVec.ofNat 8 (leAt p 1 1)) (p.drop 2)
    | _ => s.answer via (.error SpdmError.unsupportedRequest)
  else if code = 0xE4 then s.keyExchange via (slice b 40 1568)
  else s.answer via (.error SpdmError.unsupportedRequest)

/-- CHUNK_SEND: chunks in order, the first numbered 0. -/
def execChunkSend (via : Transport) (last : Bool) (seqNo : Nat) (chunk : List Byte) (s : State) :
    Host.Outcome State Fault Refusal :=
  spdmAgreed via (fun s =>
    let x := s.conn via
    if seqNo ≠ 0 ∧ seqNo ≠ x.chunkNext then
      (s.modConn via fun x => { x with chunks := [], chunkNext := 0 }).answer via (.error SpdmError.invalidRequest)
    else
      let bytes := (if seqNo = 0 then [] else x.chunks) ++ chunk
      if last then
        ((s.modConn via fun x => { x with chunks := [], chunkNext := 0 }).answer via (.chunkAck seqNo)).largeRequest via bytes
      else (s.modConn via fun x => { x with chunks := bytes, chunkNext := seqNo + 1 }).answer via (.chunkAck seqNo)) s

/-- CHUNK_GET: the next part of a large response. -/
def execChunkGet (via : Transport) (seqNo : Nat) (s : State) : Host.Outcome State Fault Refusal :=
  spdmAgreed via (fun s =>
    let x := s.conn via
    let n := max 1 (Config.transportSize (via == .doe))
    if x.large.isEmpty ∨ seqNo ≠ x.largeNext then s.answer via (.error SpdmError.invalidRequest)
    else
      let rest := x.large.drop n
      (s.modConn via fun x => { x with large := rest, largeNext := seqNo + 1 }).answer via
        (.chunk seqNo rest.isEmpty (x.large.take n))) s

/-! ### CXL IDE (R476, R477) -/

/-- The transport whose established session has a number. -/
def State.sessionOf (s : State) (session : Nat) : Option Transport :=
  [Transport.doe, .sideband].find? fun v => (s.conn v).session == some session && (s.conn v).established

/-- IDE_KEY_MGMT: taken only inside a session; keys come in pairs of 256 bits, one for either direction, and refresh those in
use. Active on all three protocols sets IDE_UP. -/
def execIdeKeyMgmt (session : Nat) (protocol : IdeProtocol) (msg : IdeMsg) (s : State) : Host.Outcome State Fault Refusal :=
  act (fun s =>
    match s.sessionOf session, msg with
    | none, _ => s
    | some _, .stop => s.ideStop protocol 6
    | some via, .keys ks skid =>
      let was := s.sec.ideIo && s.sec.ideCm
      let t := match protocol with
        | .io => { s with sec := { s.sec with ideIo := true, ideIoKey := some via, ideIoKeys := slice ks 0 64 } }
        | .cacheMem => { s with sec := { s.sec with ideCm := true, ideCmKey := some via, ideCmKeys := slice ks 0 64, ideSkid := skid } }
      let t := t.causeIf (!was && t.sec.ideIo && t.sec.ideCm) Reg.secCause 5
      hostAfter s t) s

/-- IDE_INTEGRITY_FAIL. -/
def execIdeIntegrityFail (protocol : IdeProtocol) (s : State) : Host.Outcome State Fault Refusal :=
  act (fun s => s.ideStop protocol 4) s

/-- IDE_LOSS. -/
def execIdeLoss (protocol : IdeProtocol) (s : State) : Host.Outcome State Fault Refusal :=
  act (fun s => s.ideStop protocol 6) s

/-! ### The IEEE 1149.1 port (R482) -/

/-- The instructions of the port. -/
inductive JtagInstr where
  | bypass | idcode | samplePreload | extest | debug
  deriving DecidableEq, Repr

/-- Does the port offer an instruction: the luthier's debug instructions need DEBUG set. -/
def State.jtagOffers (s : State) (i : JtagInstr) : Bool := i != .debug || s.ownerFlag 2

/-! ### The host link (R326, R495, R505) -/

/-- The host link goes down: IDE stops with it (R477). -/
def State.linkLost (s : State) : State := (s.linkDown.ideStop .io 6).ideStop .cacheMem 6

/-- CXL_PERST_ASSERT (R505, R511). -/
def execCxlPerstAssert (s : State) : Host.Outcome State Fault Refusal :=
  let low := fun (s : State) => { s with pins := { s.pins with
    perstN := false, perstInReset := s.pins.perstInReset || s.hng.running } }
  actOr (fun s => (low s).linkDown) (fun s => (low s).linkLost) s

/-- CXL_PERST_RELEASE (R505). -/
def execCxlPerstRelease (s : State) : Host.Outcome State Fault Refusal :=
  let high := fun (s : State) => { s with pins := { s.pins with perstN := true } }
  actOr high high s

/-! ### Clock domains (R30, R32) -/

/-- PLL_LOCK_LOST (R32). In OFF and FAILED no cause is recorded (R443), and the host link still goes down with its domains. -/
def execPllLockLost (d : Fin 40) (s : State) : Host.Outcome State Fault Refusal :=
  let out := fun (s : State) => { s with clkLost := s.clkLost ||| BitVec.ofNat 40 (2 ^ d.1) }
  actOr (fun s => if d = 28 ∨ d = 29 then (out s).linkDown else out s) (fun s =>
    let s := (out s).cause Reg.engCause 1
    if 12 ≤ d.1 ∧ d.1 < 28 then
      ((fins 64).filter fun p => serdesDomain p == d.1).foldl (fun (s : State) p => s.portDown p) s
    else if d = 28 ∨ d = 29 then s.linkLost
    else if d = 30 ∨ d = 31 ∨ d = 39 then s.enterFailed
    else s) s

/-- PLL_LOCK_REGAINED (R32): ports and link may train again. -/
def execPllLockRegained (d : Fin 40) (s : State) : Host.Outcome State Fault Refusal :=
  let in_ := fun (s : State) => { s with clkLost := s.clkLost &&& ~~~(BitVec.ofNat 40 (2 ^ d.1)) }
  actOr in_ in_ s

/-- MSIX_UNMASK (R495, R443, R500): the driver unmasks the vector, in its entry and by the function mask; a pending message
leaves if its condition still holds. DESIGN CHOICE, log 41. -/
def execMsixUnmask (s : State) : Host.Outcome State Fault Refusal :=
  .next (if s.boot.order = 0 ∨ !s.pins.linkUp then s
    else { s with pins := { s.pins with vectorMasked := false, functionMasked := false } }.release)

end Sys2Proof.Machine
end

