-- ==== Sys2Proof/Machine/Boot.lean ====
section
/-! DEFINITION. Bring-up and self-test (R455 to R466), cold reset and power loss (R503, R504), and the end of bring-up
when the host link comes up (R455, R457, R326). COLD_RESET_RELEASE performs orders 1 to 8; order 9 follows when no port's
first attempt is left, order 10 with CXL_LINK_UP (log 2). -/

namespace Sys2Proof.Machine

/-! ### Cold reset (R503, R504) -/

/-- What a cold reset leaves: the fret map, the flash, the pins that others drive, and what has left the interfaces.
Wear counts survive it (R395); REG_OFF_N falls. -/
def State.cold (s : State) : State :=
  { State.reset with
    pending := s.pending
    out := s.out
    freeCtr := s.freeCtr
    flash := s.flash
    fret := { s.fret with openRecord := false }
    thermal := s.thermal.map fun (x : Thermal) => { cyc10 := x.cyc10, cyc40 := x.cyc40, wear := x.wear }
    pins := { State.reset.pins with perstN := s.pins.perstN, coldResetN := s.pins.coldResetN } }

/-- COLD_RESET_ASSERT (R504). -/
def execColdResetAssert (s : State) : Host.Outcome State Fault Refusal :=
  .next { s.cold with pins := { s.cold.pins with coldResetN := false } }

/-- POWER_LOSS (R503): what has not been written to flash is lost with the rails, and no pin of the board's is driven. -/
def execPowerLoss (s : State) : Host.Outcome State Fault Refusal :=
  .next { s.cold with
    pins := { s.cold.pins with coldResetN := false }
    thermal := s.cold.thermal.mapFinIdx fun i _ h =>
      { cyc10 := s.flash.cyc10[i], cyc40 := s.flash.cyc40[i], wear := s.flash.wear[i] } }

/-! ### Orders 3 and 4 (R457 to R459) -/

/-- Is a firmware copy valid (R457)? -/
def Flash.copyValid (f : Flash) (i : Fin 2) : Bool := f.fw[i].valid && decide (f.minSvn.toNat ≤ f.fw[i].svn.toNat)

/-- The pending copy's trial, if it has one now: whether it boots, and whether this boot falls back from it. -/
def Flash.trial (f : Flash) : Option (Fin 2) × Bool :=
  match f.pendingCopy with
  | none => (none, false)
  | some p => if !f.tried && f.copyValid p then (some p, false) else (none, true)

/-- Order 3: the copy selected; none: FW_WAIT (R458). A boot that fell back keeps FALLBACK through a repeated order 3. -/
def State.bootSelect (s : State) : State :=
  let f := s.flash
  let run := fun (s : State) (i : Fin 2) (trial back : Bool) =>
    { s with boot := { s.boot with order := 3, fwWait := false, copy := i, trial := trial, fallback := s.boot.fallback || back } }
  match f.trial with
  | (some p, _) => run { s with flash := { f with tried := true } } p true false
  | (none, back) =>
    let s := if back then { s with flash := { f with pendingCopy := none, tried := false } } else s
    if f.copyValid f.active then run s f.active false back
    else if f.copyValid (f.active + 1) then run { s with flash := { s.flash with active := f.active + 1 } } (f.active + 1) false back
    else { s with boot := { s.boot with order := 2, fwWait := true, fallback := s.boot.fallback || back } }

/-- Bring-up fails (R443, R467). -/
def State.bootFail (s : State) (code : Nat) : State := { s with boot := { s.boot with fail := code } }.enterFailed

/-- Order `n` reached. -/
def State.reached (s : State) (n : Nat) : State := { s with boot := { s.boot with order := n } }

/-! ### Orders 5 to 8 (R460 to R464) -/

/-- The regions powered at order 5. -/
def State.powered (s : State) (b : BringUp) : List (Fin 48) :=
  (fins 48).filter fun r => !s.fret.lost.getLsbD r.1 && !b.silentRegulators.contains r

/-- Order 5: every region not lost brought to 0.72 V in TEST; a region whose regulator does not answer is
left out, one whose rail does not rise is lost (R380, R463). -/
def State.bootPower (s : State) (b : BringUp) : State :=
  let s := (fins 48).foldl (fun (s : State) r =>
    if s.fret.lost.getLsbD r.1 then s.modRegion r fun x => { x with state := .lost }
    else if b.silentRegulators.contains r then s.modRegion r fun x => { x with silentAtBoot := true }
    else (s.modRegion r fun x => { x with state := .test }).setPeg r 720) s
  let s := ((s.powered b).filter b.railFails.contains).foldl (fun (s : State) r => s.loseRegion r) s
  s.reached 5

/-- Orders 6 and 7: the neighbour self-test with its retest, the fret map, every region back to OFF (R460 to R463). -/
def State.bootTest (s : State) (b : BringUp) : State :=
  let off := b.silentRegulators
  let tested := (against b.first).filter (s.fret.tests off)
  let votes := fun k => s.fret.votes off b.first k
  let bad := tested.filter fun k => condemns (votes k) && condemns (s.fret.votes off b.retest k)
  let single := (tested.filter fun k => (votes k).1 == 1 && !condemns (votes k)).length
  let s := { s with boot := { s.boot with new := bad.length, single := min 63 single } }
  ((s.condemn bad 0xFFFF).settleRegions).reached 7

/-- Order 8 and the attempts of order 9: stacks, string modules, the first training of each port whose module is enabled. -/
def State.bootTrain (s : State) (b : BringUp) : State :=
  let s := { s with boot := { s.boot with stackFail := b.stackFail } }
  if b.stackFail = BitVec.allOnes 12 then s.bootFail 3
  else
    let s := (b.modules.foldl (fun (s : State) (m : Fin 16 × ModuleId) => s.insertModule m.1 m.2 false) s).reached 8
    (fins 64).foldl (fun (s : State) p =>
      if !s.mayTrain p then s
      else if b.portFail.getLsbD p.1 then s.modPort p fun x => { x with tried := true }
      else
        let s := s.modPort p fun x => { x with state := .training }
        { s with boot := { s.boot with portsLeft := s.boot.portsLeft ||| BitVec.ofNat 64 (2 ^ p.1) } }) s

/-- Field records that fail their CRC-32C are ignored, REVISION counts the valid ones, and placement follows those (R370,
R463). -/
def State.ignoreTorn (s : State) (b : BringUp) : State :=
  let f := s.fret
  let lost := b.tornRegions.foldl (fun (m : BitVec 48) r => m &&& ~~~(BitVec.ofNat 48 (2 ^ r.1))) f.lost
  let cores := f.fieldCores.filter fun e => !(b.tornCores.map Core.key).contains e
  let gone := (f.fieldCores.length - cores.length) + ((fins 48).filter fun r => f.lost.getLsbD r.1 && !lost.getLsbD r.1).length
  if gone = 0 then s
  else
    { s with fret := { f with
        fieldCores := cores, lost := lost, revision := f.revision - BitVec.ofNat 32 gone
        placed := f.placed.keep fun g _ => lost.getLsbD (g / 128)
        dead := [] } }.place []

/-- The factory fret map and trim records verify under the Flethar key (R459, R482). -/
def factoryOk (b : BringUp) : Bool :=
  b.factory.all fun r => r.2.length == 4627 && Config.mlDsaVerify Config.factoryKey (sha3_512 r.1) "" r.2

/-- Orders 3 to 8. -/
def State.bringUp (s : State) (b : BringUp) : State :=
  let s := s.bootSelect
  if s.boot.fwWait then { s with boot := { s.boot with input := some b } }
  else
    let s := { s with boot := { s.boot with input := none } }
    if 4 ≤ b.pufFailedReads then s.bootFail 1
    else if !factoryOk b then s.bootFail 2
    else (((s.reached 4).ignoreTorn b).bootPower b).bootTest b |>.bootTrain b

/-- The latches of CMD_RINGn_CTR and HNG_SERIAL, whose reset values come from flash (R321, R344, R454). -/
def Flash.latches (f : Flash) : Tab Word :=
  ((fins 9).map fun r => (ringReg r 0x24, BitVec.ofNat 32 (f.ceilings[r].toNat / 2 ^ 32)))
    ++ [(0x50001C, BitVec.ofNat 32 (f.memberCeiling.toNat / 2 ^ 32))]

/-- The copy of the owner record that flash returns: none where the CRC-32C trailer does not match (R475). -/
def Flash.ownerCopies (f : Flash) : Vector (List Byte) 2 :=
  f.owner.mapFinIdx fun i r h => if crc32c r = f.ownerCrc[i] then r else []

/-- The copy that FW_UPDATE wrote is not whole (R458, R466). -/
def Flash.tearFw (f : Flash) : Flash :=
  match f.pendingCopy with
  | some p => { f with fw := vset f.fw p { f.fw[p] with valid := false } }
  | none => f

/-- Orders 1 and 2: REG_OFF_N, low during cold reset, is released; the counters that flash keeps are read, engine time
starts at 0 (R331, R448, R455, R504). -/
def State.bootStart (s : State) (tornFw : Bool) : State :=
  let x := s.cold
  let f := { s.flash with owner := s.flash.ownerCopies }
  { x with
    flash := if tornFw then f.tearFw else f
    latch := s.flash.latches
    pins := { x.pins with coldResetN := true, regOffN := true }
    rings := x.rings.mapFinIdx fun i (r : Ring) h => { r with counter := s.flash.ceilings[i] }
    hng := { x.hng with serial := s.flash.memberCeiling }
    boot := { x.boot with order := 2 } }

/-- COLD_RESET_RELEASE (R455 to R464, R503): orders 1 to 8. -/
def execColdResetRelease (b : BringUp) (s : State) : Host.Outcome State Fault Refusal :=
  .next (if s.pins.coldResetN then s else settle (s.bootStart b.tornFw) ((s.bootStart b.tornFw).bringUp b))

/-- BRINGUP_WATCHDOG (R465): it does not run in FW_WAIT. -/
def execBringupWatchdog (s : State) : Host.Outcome State Fault Refusal :=
  act (fun s => if s.boot.order < 10 ∧ !s.boot.fwWait then s.bootFail 4 else s) s

/-- FW_WAIT_IMAGE (R458): a verified image becomes copy A, and order 3 is repeated. -/
def execFwWaitImage (image : List Byte) (s : State) : Host.Outcome State Fault Refusal :=
  act (fun s =>
    match s.boot.input with
    | some b =>
      if s.boot.fwWait && fwValid s.flash.minSvn.toNat image then
        { s with flash := { s.flash with fw := vset s.flash.fw 0 (FwCopy.ofImage image) } }.bringUp b
      else s
    | none => s) s

/-! ### Order 10 (R455 to R457, R326, R505) -/

/-- IDENTIFIED: a copy on trial becomes the active one (R457). -/
def State.identified (s : State) : State :=
  let s := s.reached 10
  if !s.boot.trial then s
  else
    { s with
      boot := { s.boot with trial := false }
      flash := { s.flash with
        active := s.boot.copy, pendingCopy := none, tried := false
        minSvn := if s.flash.minSvn.toNat < s.flash.fw[s.boot.copy].svn.toNat then s.flash.fw[s.boot.copy].svn else s.flash.minSvn } }

/-- May the host link train (R456, R505, R511, R30)? -/
def State.mayLink (s : State) : Bool :=
  decide (9 ≤ s.boot.order) && s.pins.perstN && !s.pins.perstInReset && !s.clkLost.getLsbD 28 && !s.clkLost.getLsbD 29

/-- CXL_LINK_UP (R326, R455, R505): order 10 at the first, then what waited for the host leaves and tail lines are read. In
FAILED a pending message leaves (R443). -/
def execCxlLinkUp (s : State) : Host.Outcome State Fault Refusal :=
  let up := fun (s : State) => { s with pins := { s.pins with linkUp := true } }
  actOr (fun s => if !s.mayLink || s.pins.linkUp then s else (up s).release) (fun s =>
    let s := s.bootPorts
    if !s.mayLink || s.pins.linkUp then s
    else
      let s := if s.boot.order = 9 then s.identified else s
      (hostAfter s (up s)).release) s

end Sys2Proof.Machine
end

