-- ==== Sys2Proof/Machine/RegView.lean ====
section
/-! DEFINITION. What each register of BAR0 reads (R485, R486), block by block: registers that are stored as they are, and
those that show other state. A wide register is given whole here; its words and latches follow in Regs. -/

namespace Sys2Proof.Machine

/-- The mask of contexts that satisfy `p`. -/
def State.ctxMask (s : State) (p : Ctx → Bool) : Nat := ((fins 8).map fun c => if p (s.ctx c) then 2 ^ c.1 else 0).sum

/-! ### ENG and IRQ (R467, R375, R376, R488, R490, R492, R497) -/

/-- ENG_BOOT.PHASE (R467). -/
def Boot.phase (b : Boot) : Nat :=
  if b.fwWait then 12 else if 10 ≤ b.order then 11 else if b.order = 0 then 0 else b.order + 1

/-- ENG_BOOT (R467). -/
def Boot.word (b : Boot) : Nat :=
  b.phase + b.fail * 2 ^ 4 + b.copy.1 * 2 ^ 7 + bit b.fallback * 2 ^ 8 + min 4095 (b.elapsed / 100000000) * 2 ^ 9

/-- ENG_FW_STAT (R467). -/
def Flash.fwStat (f : Flash) : Nat :=
  f.minSvn.toNat + bit f.pendingCopy.isSome * 2 ^ 8 + bit (f.copyValid 0) * 2 ^ 9 + bit (f.copyValid 1) * 2 ^ 10 + f.active.1 * 2 ^ 11

/-- ENG_STATE (R488). -/
def State.engState (s : State) : Nat :=
  s.engine + s.ctxMask (fun x => x.state == .running) * 2 ^ 8 + s.ctxMask (fun x => x.state == .held) * 2 ^ 16

/-- The action log's entry `n`, as the 128 bits of ENG_ACT_DATA (R490). -/
def State.actData (s : State) (n : Nat) : Nat :=
  let d := (s.actionCount + 2 ^ 32 - n % 2 ^ 32) % 2 ^ 32
  if d = 0 ∨ s.actions.length < d then 0
  else
    match s.actions[s.actions.length - d]? with
    | none => 0
    | some a => a.time % 2 ^ 64 + a.kind % 2 ^ 8 * 2 ^ 64 + a.unit % 2 ^ 8 * 2 ^ 72 + a.cause % 2 ^ 16 * 2 ^ 80
        + a.arg % 2 ^ 31 * 2 ^ 96 + 2 ^ 127

/-- Registers of the ENG block. -/
def State.viewEng (s : State) (o : Nat) : Nat :=
  if o = 0 then 0x4C57 + 2 * 2 ^ 16 + Config.stepping.toNat * 2 ^ 24
  else if o = 4 then s.engState
  else if o = 0xC then 8 + 64 * 2 ^ 4 + 12 * 2 ^ 11 + 0x7FFF * 2 ^ 15
  else if o = 0x10 then 1 + ((fins 48).filter fun r => !s.fret.lost.getLsbD r.1).length * 2 ^ 8
  else if o = 0x28 then s.clkLost.toNat
  else if o = 0x100 then s.actionCount
  else if o = 0x108 then s.actData (s.reg Reg.actSel)
  else if o = 0x400 then s.fret.revision.toNat
  else if o = 0x404 then s.fret.stat
  else if o = 0x408 then s.fret.lost.toNat
  else if o = 0x40C then s.fret.lost.toNat / 2 ^ 32
  else if o = 0x410 then s.staleMask
  else if o = 0x420 then s.boot.word
  else if o = 0x424 then s.boot.new % 2 ^ 14 + s.boot.single * 2 ^ 14 + s.boot.stackFail.toNat * 2 ^ 20
  else if o = 0x428 then s.flash.fw[s.boot.copy].version.toNat
  else if o = 0x42C then s.flash.fwStat
  else if 0x4000 ≤ o then s.fret.image (o - 0x4000)
  else s.reg o

/-- Registers of the IRQ block with the MSI-X table and pending bits. PRESUMED for the table's layout, log 41. -/
def State.viewIrq (s : State) (o : Nat) : Nat :=
  if o = 0x10000 then s.summary
  else if o = 0x1800C then bit s.pins.vectorMasked
  else if o = 0x19000 then bit s.pins.pendingBit
  else if 0x10010 ≤ o ∧ o < 0x10028 ∧ o % 8 = 0 then s.reg64 o
  else s.reg o

/-! ### CMD and SEC (R344, R518, R484) -/

/-- CMD_RINGn_CTX (R344). -/
def Ctx.word (x : Ctx) : Nat :=
  x.state.code + x.gen.toNat * 2 ^ 3 + x.rect.fx0.1 * 2 ^ 11 + x.rect.fx1.1 * 2 ^ 14 + x.rect.fy0.1 * 2 ^ 17
    + x.rect.fy1.1 * 2 ^ 20 + x.hquota * 2 ^ 23

/-- CMD_WINs (R344). -/
def Window.word (w : Window) : Nat :=
  w.kind.1 + (if w.kind = 2 then w.ctx.1 * 2 ^ 2 + w.base / 2 ^ 21 * 2 ^ 21 else 0)
    + (if w.kind = 3 then bit (w.base != 0) * 2 ^ 21 else 0)

/-- CMD_TGRANTn_f (R518). -/
def Ctx.grantWord (x : Ctx) (f : Nat) : Nat :=
  match x.grants.get? f with
  | some (lo, n) => lo + n * 2 ^ 5 + 2 ^ 9
  | none => 0

/-- Registers of a ring (R344). -/
def State.viewRing (s : State) (r : Fin 9) (o : Nat) : Nat :=
  let x := s.rings[r]
  if o < 0x18 then s.reg64 (ringReg r o)
  else if o = 0x18 then bit x.en + bit x.key.isSome * 2
  else if o = 0x1C then x.head.toNat
  else if o = 0x20 then x.counter.toNat
  else if o = 0x28 ∧ r.1 < 8 then (s.ctx (finOf 8 r.1)).word
  else 0

/-- Registers of the CMD block. -/
def State.viewCmd (s : State) (o : Nat) : Nat :=
  if 0x20100 ≤ o ∧ o < 0x20340 then s.viewRing (finOf 9 ((o - 0x20100) / 0x40)) ((o - 0x20100) % 0x40)
  else if 0x21000 ≤ o ∧ o < 0x21100 then s.windows[finOf 32 ((o - 0x21000) / 8)].word
  else if 0x22000 ≤ o ∧ o < 0x22800 ∧ o % 0x100 < 0xC0 then (s.ctx (finOf 8 ((o - 0x22000) / 0x100))).grantWord (o % 0x100 / 4)
  else s.reg o

/-- Registers of the SEC block (R484). -/
def State.viewSec (s : State) (o : Nat) : Nat :=
  if o = 0x30004 then
    bit s.owned + bit s.sec.ideIo * 2 + bit s.sec.ideCm * 2 ^ 2 + leAt s.owner 11 1 % 8 * 2 ^ 3 + s.sec.lastCause * 2 ^ 6
  else if o = 0x30008 then ownerSerial s.owner
  else if 0x30040 ≤ o ∧ o < 0x30080 then leAt Config.identityHash (o - 0x30040) 4
  else s.reg o

/-! ### STR, MEM, WST and GRD (R154, R242, R276, R298) -/

/-- STR_STALLS (R154): members at a WAIT or PHASE mark, and those that await `arm`. -/
def State.strStalls (s : State) : Nat :=
  let stops := (fins 8).flatMap fun c => (s.ctx c).allMembers.map fun e => e.2.2.2.stop
  let marked := (stops.filter fun p => match p with | .waitMark _ _ => true | .phaseMark _ => true | _ => false).length
  min 65535 marked + min 65535 (stops.filter (· == .unarmed)).length * 2 ^ 16

/-- MEM_CTXn registers (R242). -/
def State.viewMem (s : State) (o : Nat) : Nat :=
  if 0x100100 ≤ o ∧ o < 0x100140 then
    let c := finOf 8 ((o - 0x100100) / 8)
    if o % 8 = 0 then (s.ctx c).charged
    else match s.scroll? c with | some q => q.remotePages | none => 0
  else s.reg o

/-- Codes of version states (R267). -/
def VerState.code : VerState → Nat
  | .absent => 0 | .building => 1 | .ready => 2 | .current => 3 | .retiring => 4 | .bad => 5

/-- WST_CTXn registers (R276): CUR, PEND, STAT, BUILT. -/
def Ctx.viewWst (x : Ctx) (o : Nat) : Nat :=
  let cur : Option Bank := x.current.map fun b => x.banks[b]
  let pend : Option Bank := (x.pending.bind x.bankOf).map fun b => x.banks[b]
  if o = 0 then (match cur with | some k => k.version.toNat | none => 0)
  else if o = 4 then (match x.pending with | some v => v.toNat | none => 0)
  else if o = 8 then
    bit cur.isSome + bit x.pending.isSome * 2 + (match pend with | some k => k.state.code | none => 0) * 2 ^ 2
      + bit x.vmode * 2 ^ 5 + bit x.waitVersion * 2 ^ 6 + (match x.current with | some b => b.1 | none => 0) * 2 ^ 7
      + (match cur with | some k => min 255 k.pins | none => 0) * 2 ^ 8
  else if o = 12 then (match pend with | some k => k.stored.length | none => 0)
  else 0

/-- Registers of the WST block. -/
def State.viewWst (s : State) (o : Nat) : Nat :=
  if 0x180100 ≤ o ∧ o < 0x180180 then (s.ctx (finOf 8 ((o - 0x180100) / 16))).viewWst (o % 16) else s.reg o

/-- The digest that GRD_DIG_SEL chooses (R296, R298). -/
def State.digest (s : State) : Nat :=
  let v := s.reg Reg.grdDigSel
  match (s.ctx (finOf 8 (fld v 0 3))).lastDigests.get? (65536 * fld v 21 1 + fld v 3 16) with
  | some d => d[finOf 4 (fld v 19 2)].toNat
  | none => 0

/-- Registers of the GRD block. -/
def State.viewGrd (s : State) (o : Nat) : Nat :=
  if o = 0x200024 then (s.ctx (finOf 8 (s.rfld Reg.grdDigSel 0 3))).lastStep.toNat
  else if o = 0x200028 then s.digest
  else if o = 0x20002C then s.digest / 2 ^ 32
  else s.reg o

/-! ### FAB and TIM (R319) -/

/-- Codes of port states. -/
def PortState.code : PortState → Nat
  | .down => 0 | .training => 1 | .up => 2 | .quiet => 3

/-- Codes of slot and time states. -/
def SlotModule.code : SlotModule → Nat
  | .empty => 0 | .refused => 1 | .enabled => 2
def TimeState.code : TimeState → Nat
  | .free => 0 | .locked => 1 | .holdover => 2

/-- FAB_SLOTn_STAT and FAB_SLOTn_LIFE; without a factor in the last 24 h the spec states no prediction (log 22). -/
def ModSlot.view (x : ModSlot) (o : Nat) : Nat :=
  if o = 0 then x.state.code + bit x.eol * 2 ^ 2 + bit x.hot * 2 ^ 3 + x.life.insertions % 2 ^ 16 * 2 ^ 16
  else if o = 4 then
    if x.state = .empty then 0
    else
      let left := match x.remaining with | some n => n / 14400 | none => Config.remainUnstated x.serial
      x.life.equiv / (60 * 2 ^ 20) % 2 ^ 20 + min 4095 left * 2 ^ 20
  else 0

/-- FABn_STAT. -/
def State.viewPort (s : State) (p : Fin 64) : Nat :=
  let x := s.ports[p]
  x.state.code + s.role p * 2 ^ 2 + x.lanes.toNat * 2 ^ 4 + x.partner.toNat * 2 ^ 12

/-- Registers of the FAB block. -/
def State.viewFab (s : State) (o : Nat) : Nat :=
  if o < 0x2C0000 ∧ o % 0x1000 = 0 then s.viewPort (finOf 64 ((o - 0x280000) / 0x1000))
  else if o = 0x2C0008 then s.hng.epoch.toNat
  else if 0x2C1000 ≤ o ∧ o < 0x2C1100 then s.slots[finOf 16 ((o - 0x2C1000) / 16)].view (o % 16)
  else s.reg o

/-- Registers of the TIM block. -/
def State.viewTim (s : State) (o : Nat) : Nat :=
  if o = Reg.timCtrl then s.reg o / 8 * 8 + bit s.time.grandmaster + s.time.state.code * 2
  else if o = 0x300010 then s.time.now
  else if o = 0x30001C then satOffset s.time.offset
  else s.reg o

/-! ### PWR and THM (R399, R400, R510) -/

/-- Codes of region states (R399). -/
def RegionState.code : RegionState → Nat
  | .off => 0 | .transit => 1 | .active => 2 | .stall => 3 | .rest => 4 | .park => 5 | .lost => 6 | .test => 7

/-- Registers of a region. -/
def Region.view (x : Region) (o : Nat) : Nat :=
  if o = 0 then x.peg % 2 ^ 10 + x.state.code * 2 ^ 10 + bit x.noLink * 2 ^ 13
  else if o = 4 then min 1023 x.mv + min 2047 x.amps * 2 ^ 10
  else if o = 8 then min 4095 x.rate
  else if o = 12 then x.dips
  else 0

/-- Registers of the PWR block. -/
def State.viewPwr (s : State) (o : Nat) : Nat :=
  if o < 0x38C000 then s.regions[finOf 48 ((o - 0x380000) / 0x400)].view (o % 0x400)
  else if o = 0x38C008 then s.budget.limit
  else if o = 0x38C00C then
    min 65535 s.budget.now + min 65535 (s.budget.history.sum / max 1 s.budget.history.length) * 2 ^ 16
  else s.reg o

/-- A temperature as the THM block shows it (R400). -/
def shownTemp (t : Int) : Nat := min 255 (t + 40).toNat

/-- THM_SEL_ registers of a unit. -/
def Thermal.view (x : Thermal) (o : Nat) : Nat :=
  if o = 0xC then leNat (x.temps.take 4 |>.map fun t => BitVec.ofNat 8 (shownTemp t))
  else if o = 0x10 then
    x.suspect.toNat + x.disagree.toNat * 2 ^ 4 + x.blind.toNat * 2 ^ 6 + bit (x.stall != 0) * 2 ^ 8
      + (if x.temps.isEmpty then 0 else shownTemp x.forecast) * 2 ^ 9
  else if o = 0x14 then min 65535 (x.cyc10 / 2) + min 65535 (x.cyc40 / 2) * 2 ^ 16
  else if o = 0x18 then x.wear / 1600
  else 0

/-- Registers of the THM block. -/
def State.viewThm (s : State) (o : Nat) : Nat :=
  if 0x40000C ≤ o ∧ o < 0x40001C then s.thermal[finOf 60 (s.rfld Reg.thmSel 0 6)].view (o - 0x400000)
  else if o = 0x400020 then s.coolant.toNat
  else s.reg o

/-! ### CKP, RPL and HNG (R429, R430, R454) -/

/-- Codes of areas and slots (R429). -/
def AreaState.code : AreaState → Nat
  | .empty => 0 | .filling => 1 | .valid => 2 | .invalid => 3

/-- CKP_CTXn registers. -/
def State.viewCkpCtx (s : State) (c : Fin 8) (o : Nat) : Nat :=
  let x := s.ctx c
  let k := x.ckpt
  if o = 0 then
    bit k.due.isSome + (if k.holding then 1 else k.phase.1) * 2 + k.slots[0].code * 2 ^ 4 + k.slots[1].code * 2 ^ 6 + bit x.needRestore * 2 ^ 8
      + k.area.state.code * 2 ^ 9
  else if o = 4 then k.cut.number
  else if o = 8 then
    match k.drain, s.scroll? c with
    | some d, some q => if d.onlyHomes then 0 else d.unacked.length + ((s.ownPages q).filter fun n => decide (d.nextPage ≤ n)).length
    | _, _ => 0
  else 0

/-- Registers of the CKP block. -/
def State.viewCkp (s : State) (o : Nat) : Nat :=
  let h := s.health
  if o = 0x48000C then h.score % 2 ^ 10 + h.raw % 2 ^ 10 * 2 ^ 10 + h.top * 2 ^ 20
  else if o = 0x480010 then h.pens[0] + h.pens[1] * 2 ^ 10 + h.pens[2] * 2 ^ 20
  else if o = 0x480014 then h.pens[3] + h.pens[4] * 2 ^ 10 + h.pens[5] * 2 ^ 20
  else if 0x480100 ≤ o ∧ o < 0x480180 then s.viewCkpCtx (finOf 8 ((o - 0x480100) / 16)) (o % 16)
  else s.reg o

/-- Registers of the RPL block: RPL_DRAINED is RPL_HEAD before the first record that has not drained (R430). -/
def State.viewRpl (s : State) (o : Nat) : Nat :=
  if o = 0x580008 then s.replayHead
  else if o = 0x580010 then
    match s.replayLog.find? fun r => !r.drained with | some r => r.start | none => s.replayHead
  else s.reg o

/-- Registers of the HNG block, and the sample aperture at 0x540000. -/
def State.viewHng (s : State) (o : Nat) : Nat :=
  if o = Reg.hngStat then
    s.ctxMask (·.hung) + s.ctxMask (·.starved) * 2 ^ 8 + bit s.hng.probation * 2 ^ 16 + s.hng.repeats * 2 ^ 17
  else if o = 0x500018 then s.hng.serial.toNat
  else if 0x540000 ≤ o then Memory.readLE s.hng.sample (s.reg Reg.samplePage * 2 ^ 18 + (o - 0x540000)) 4
  else s.reg o

/-! ### The whole map (R485, R70) -/

/-- A register of BAR0, whole; zero where there is none (R486). -/
def State.view (s : State) (o : Nat) : Nat :=
  if o < 0x10000 then s.viewEng o
  else if o < 0x20000 then s.viewIrq o
  else if o < 0x30000 then s.viewCmd o
  else if o < 0x40000 then s.viewSec o
  else if o = 0x8000C then s.strStalls
  else if o < 0x100000 then s.reg o
  else if o < 0x180000 then s.viewMem o
  else if o < 0x200000 then s.viewWst o
  else if o < 0x280000 then s.viewGrd o
  else if o < 0x300000 then s.viewFab o
  else if o < 0x380000 then s.viewTim o
  else if o < 0x400000 then s.viewPwr o
  else if o < 0x480000 then s.viewThm o
  else if o < 0x500000 then s.viewCkp o
  else if o < 0x580000 then s.viewHng o
  else if o < 0x600000 then s.viewRpl o
  else if 0x1000000 ≤ o ∧ o < 0x4000000 then (s.tile (finOf 786432 ((o - 0x1000000) / 64))).status (o % 64)
  else 0

end Sys2Proof.Machine
end

