-- ==== Sys2Proof/Machine/Regs.lean ====
section
/-! DEFINITION. Register accesses (R10, R13, R321, R485 to R489, R494 to R497): which accesses reach the registers, reads
with the latches of wide registers, writes applied whole or rejected, and the rows of register accesses. -/

namespace Sys2Proof.Machine

/-! ### Reach (R321, R443, R487) -/

/-- The MSI-X table and pending-bit array (R497). -/
def isMsix (o : Nat) : Bool := (decide (0x18000 ≤ o) && decide (o < 0x18010)) || (decide (0x19000 ≤ o) && decide (o < 0x19008))

/-- Offsets that are read in FAILED: the ENG and HNG blocks and the MSI-X tables (R443). -/
def failedReads (o : Nat) : Bool := decide (o < 0x10000) || (decide (0x500000 ≤ o) && decide (o < 0x580000)) || isMsix o

/-- The blocks that the sideband reaches: ENG, IRQ, PWR and THM (R487). -/
def sideReads (o : Nat) : Bool := decide (o < 0x20000) || (decide (0x380000 ≤ o) && decide (o < 0x480000))

/-- Does a path reach the registers at all: BAR0 with the link up, the sideband from order 2 (R320, R487)? -/
def State.reaches (s : State) (path : RegPath) : Bool :=
  match path with
  | .bar0 => s.bar0
  | .sideband => decide (2 ≤ s.boot.order)

/-! ### Reads (R321) -/

/-- First word and number of words of the wide register that an offset belongs to. -/
def wideOf (o : Nat) : Option (Nat × Nat) :=
  if 0x28 ≤ o ∧ o < 0x30 then some (0x28, 2)
  else if 0x108 ≤ o ∧ o < 0x118 then some (0x108, 4)
  else if 0x10010 ≤ o ∧ o < 0x10028 then some (o / 8 * 8, 2)
  else if 0x20100 ≤ o ∧ o < 0x20340 then
    let k := (o - 0x20100) % 0x40
    if k < 0x18 ∨ (0x20 ≤ k ∧ k < 0x28) then some (o / 8 * 8, 2) else none
  else if 0x21000 ≤ o ∧ o < 0x21100 then some (o / 8 * 8, 2)
  else if 0x300010 ≤ o ∧ o < 0x30001C then some (0x300010, 3)
  else if 0x500018 ≤ o ∧ o < 0x500020 then some (0x500018, 2)
  else if 0x580008 ≤ o ∧ o < 0x580018 then some (o / 8 * 8, 2)
  else none

/-- Word `i` of a value. -/
def wordAt (v i : Nat) : Word := BitVec.ofNat 32 (v / 2 ^ (32 * i))

/-- The latches of a path. -/
def State.latchOf (s : State) (path : RegPath) : Tab Word := match path with | .bar0 => s.latch | .sideband => s.sideLatch

/-- The state with a path's latches replaced. -/
def State.setLatch (s : State) (path : RegPath) (t : Tab Word) : State :=
  match path with
  | .bar0 => { s with latch := t }
  | .sideband => { s with sideLatch := t }

/-- A read that a register answers (R321): the first word of a wide register latches the others, which are read from their
latches; an unset latch holds a reset value of zero. -/
def State.readReg (s : State) (path : RegPath) (o : Nat) : Word × State :=
  match wideOf o with
  | none => (wordAt (s.view o) 0, s)
  | some (base, n) =>
    if o = base then
      let v := s.view base
      let t := (List.range (n - 1)).foldl (fun (t : Tab Word) i => t.set (base + 4 * (i + 1)) (wordAt v (i + 1))) (s.latchOf path)
      (wordAt v 0, s.setLatch path t)
    else ((s.latchOf path).getD o 0, s)

/-- REG_READ_LATCH (R321, R443, R486, R487): a read of 32 bits. A misaligned one, one outside the map and, in FAILED, one
outside ENG and HNG returns zero, on both paths. -/
def execRegReadLatch (path : RegPath) (off : Nat) (s : State) : Host.Outcome State Fault Refusal :=
  .next (if !s.reaches path then s
    else if off % 4 ≠ 0 ∨ 0x4000000 ≤ off ∨ (if s.hng.failed then !failedReads off else path == .sideband && !sideReads off) then
      s.emit (.registerData path 0)
    else
      let (v, s) := s.readReg path off
      s.emit (.registerData path v))

/-! ### Settings and their ranges (R10, R13) -/

/-- A setting: its fields as (bit, width, least, most), and the cause bit of a rejected write. -/
structure Setting where
  fields : List (Nat × Nat × Nat × Nat)
  reject : Nat × Nat

/-- The settings that a plain 32-bit write sets, each from its table. -/
def settingOf (o : Nat) : Option Setting :=
  if o = Reg.actSel then some ⟨[(0, 32, 0, 2 ^ 32 - 1)], (0, 0)⟩
  else if o = Reg.irqMask then some ⟨[(0, 15, 0, 2 ^ 15 - 1)], (0, 0)⟩
  else if o = Reg.scrCtrl then some ⟨[(0, 3, 1, 7)], (Reg.scrCause, 4)⟩
  else if o = Reg.memCtrl then some ⟨[(0, 14, 0, 10000), (14, 7, 18, 64), (21, 8, 1, 255), (29, 1, 0, 1)], (Reg.memCause, 8)⟩
  else if o = Reg.wstCtrl then some ⟨[(0, 10, 1, 1000), (10, 10, 1, 1000), (20, 8, 1, 255)], (Reg.wstCause, 7)⟩
  else if o = Reg.grdDigSel then some ⟨[(0, 22, 0, 2 ^ 22 - 1)], (0, 0)⟩
  else if o = Reg.fabCtrl then some ⟨[(0, 5, 1, 16), (5, 7, 1, 100)], (Reg.fabCause, 7)⟩
  else if o = Reg.timCtrl then some ⟨[(3, 1, 0, 1), (4, 3, 0, 7)], (Reg.timCause, 4)⟩
  else if o = Reg.pwrCtrl then some ⟨[(0, 10, 600, 850)], (Reg.pwrCause, 6)⟩
  else if o = Reg.thmCtrl then some ⟨[(0, 4, 2, 15), (4, 5, 2, 20)], (Reg.thmCause, 5)⟩
  else if o = Reg.thmSel then some ⟨[(0, 6, 0, 59)], (Reg.thmCause, 5)⟩
  else if o = Reg.ckpCtrl then some ⟨[(0, 10, 100, 950), (10, 10, 20, 1000), (20, 11, 10, 1600)], (Reg.ckpCause, 8)⟩
  else if o = Reg.ckpWait then some ⟨[(0, 8, 1, 255)], (Reg.ckpCause, 8)⟩
  else if o = Reg.hngCtrl then some ⟨[(0, 7, 1, 100), (7, 1, 0, 1), (8, 3, 1, 7), (11, 11, 10, 1440)], (Reg.hngCause, 13)⟩
  else if o = Reg.samplePage then some ⟨[(0, 11, 0, 2047)], (0, 0)⟩
  else none

/-- Every field of a written value lies in its range. -/
def Setting.admits (x : Setting) (v : Nat) : Bool :=
  x.fields.all fun f => decide (f.2.2.1 ≤ fld v f.1 f.2.1) && decide (fld v f.1 f.2.1 ≤ f.2.2.2)

/-- The register's new value: its fields from the value written, everything else as it was. -/
def Setting.apply (x : Setting) (old v : Nat) : Nat := x.fields.foldl (fun w f => putFld w f.1 f.2.1 (fld v f.1 f.2.1)) old

/-- A grandmaster without PPS_IN runs free (R316). -/
def State.ppsOff (s : State) : State :=
  if s.time.grandmaster && s.rfld Reg.timCtrl 3 1 == 0 && s.time.state != .free then
    { s with time := { s.time with state := .free } }
  else s

/-- A setting written (R10): whole or not at all. -/
def State.writeSetting (s : State) (o : Nat) (x : Setting) (v : Nat) : State :=
  if x.admits v then
    let s := s.setReg o (x.apply (s.reg o) v)
    if o = Reg.timCtrl then s.ppsOff else s
  else s.cause x.reject.1 x.reject.2

/-- A new time source: nothing is followed until it has been measured (log 38). -/
def State.writeTimSrc (s : State) (v : Nat) : State :=
  if fld v 0 16 = s.rfld Reg.timSrc 0 16 then s
  else
    let s := s.setReg Reg.timSrc (fld v 0 16)
    if s.time.grandmaster then s else { s with time := { s.time with state := .free, sync := none, req := none } }

/-- GRD_CTXn_CTRL (R292, R298): DEADLINE needs a scroll with RSTAGE. -/
def State.writeGrdCtrl (s : State) (c : Fin 8) (v : Nat) : State :=
  let staged := match s.scroll? c with | some q => q.rstage != 0 | none => false
  if 8 < fld v 1 4 ∨ fld v 5 10 = 0 ∨ 1000 < fld v 5 10 ∨ (fld v 0 1 = 1 ∧ !staged) then s.cause Reg.grdCause 5
  else s.setReg (Reg.grdCtl c.1) (fld v 0 15)

/-! ### Cause and locator bits (R494, R496, R498) -/

/-- The recording registers of a leaf (R498): the bits of the leaf that they follow, the register, its VALID bit. -/
def recordsOf (o : Nat) : List (Nat × Nat × Nat) :=
  if o = Reg.scrCause then [(7, Reg.scrTile, 27)]
  else if o = Reg.strCause then [(3, Reg.strDropAt, 24)]
  else if o = Reg.svcCause then [(3, Reg.svcAt, 14)]
  else if o = Reg.memCause then [(0x3F, Reg.memErrAt, 7)]
  else if o = Reg.wstCause then [(2, Reg.wstHoldAt, 21)]
  else if o = Reg.grdCause then [(1, Reg.grdSkipAt, 5), (4, Reg.grdInvAt, 4)]
  else if o = Reg.bwdCause then [(1, Reg.bwdAt, 27)]
  else if o = Reg.engCause then [(8, Reg.engFaultAt, 26)]
  else []

/-- Is the offset a cause register (R493)? -/
def isLeaf (o : Nat) : Bool := leaves.any fun l => l.contains o

/-- A leaf written (R13, R494): 1 clears a bit. A recording register whose bits are clear records nothing any more: its
VALID clears (log 41). -/
def State.clearLeaf (s : State) (o v : Nat) : State :=
  let s := s.setReg o (s.reg o - (s.reg o &&& v))
  (recordsOf o).foldl (fun (s : State) r =>
    if s.reg o &&& r.1 = 0 then s.setReg r.2.1 (s.reg r.2.1 - (s.reg r.2.1 &&& 2 ^ r.2.2)) else s) s

/-- TILE_ERR written (R72): TILE_FAULT goes with its last bit. -/
def State.clearTileErr (s : State) (t : TileId) (v : Nat) : State :=
  let e := (s.tile t).err &&& ~~~(BitVec.ofNat 6 v)
  s.modTile t fun x => { x with err := e, fault := if e = 0 then 0 else x.fault }

/-! ### Wide writes (R321) -/

/-- Is the offset the low half of a 64-bit register that takes writes: a ring's addresses or a locator? -/
def isWideWrite (o : Nat) : Bool :=
  (decide (0x20100 ≤ o) && decide (o < 0x20340) && decide ((o - 0x20100) % 0x40 < 0x18) && o % 8 == 0)
    || (decide (0x10010 ≤ o) && decide (o < 0x10028) && o % 8 == 0)

/-- Address bits that a ring register does not keep: BASE 16, TAIL 6, CPL 12 (R344). -/
def ringAlign (o : Nat) : Nat :=
  let k := (o - 0x20100) % 0x40
  if k = 0 then 16 else if k = 8 then 6 else 12

/-- The low half of a 64-bit register written: stored without effect. -/
def State.writeLow (s : State) (o : Nat) (v : Word) : State := { s with lowHalf := s.lowHalf.set o v }

/-- Both halves of a locator written: 1 clears (R496). -/
def State.clearLocator (s : State) (o : Nat) (low high : Nat) : State :=
  (s.setReg o (s.reg o - (s.reg o &&& low))).setReg (o + 4) (s.reg (o + 4) - (s.reg (o + 4) &&& high))

/-- The high half written at `o + 4`: both halves are committed (R321). A ring's addresses stay while the ring is enabled
(R325). -/
def State.writeHigh (s : State) (o : Nat) (v : Word) : State :=
  let low := s.lowHalf.get? o
  let s := { s with lowHalf := s.lowHalf.erase o }
  if o < 0x20000 then s.clearLocator o (match low with | some w => w.toNat | none => 0) v.toNat
  else if s.rings[finOf 9 ((o - 0x20100) / 0x40)].en then s.cause Reg.cmdCause 6
  else
    let lo := (match low with | some w => w.toNat | none => s.reg o) / 2 ^ ringAlign o * 2 ^ ringAlign o
    (s.setReg o lo).setReg (o + 4) v.toNat

/-! ### Writes (R10, R321, R486, R487) -/

/-- The MSI-X table entry written (R497): address, data, and the vector's mask bit. -/
def State.writeMsix (s : State) (o : Nat) (v : Word) : State :=
  if o = 0x1800C then
    let s := { s with pins := { s.pins with vectorMasked := v.getLsbD 0 } }
    s.release
  else if o < 0x18010 then s.setReg o v.toNat
  else s

/-- An aligned write through BAR0. -/
def State.writeWord (s : State) (o : Nat) (v : Word) : State :=
  if isMsix o then s.writeMsix o v
  else if isLeaf o then s.clearLeaf o v.toNat
  else if isWideWrite o then s.writeLow o v
  else if 4 ≤ o ∧ isWideWrite (o - 4) then s.writeHigh (o - 4) v
  else if o = Reg.timSrc then s.writeTimSrc v.toNat
  else if o = Reg.rplCtrl then s.writeRplCtrl v
  else if 0x200100 ≤ o ∧ o < 0x200180 ∧ o % 16 = 0 then s.writeGrdCtrl (finOf 8 ((o - 0x200100) / 16)) v.toNat
  else if 0x20100 ≤ o ∧ o < 0x20340 ∧ (o - 0x20100) % 0x40 = 0x18 then
    let r := finOf 9 ((o - 0x20100) / 0x40)
    if v.getLsbD 0 then s.startRing r else s.stopRing r
  else if 0x1000000 ≤ o ∧ o < 0x4000000 ∧ o % 64 = 0x20 then s.clearTileErr (finOf 786432 ((o - 0x1000000) / 64)) v.toNat
  else
    match settingOf o with
    | some x => s.writeSetting o x v.toNat
    | none => s

/-- ENG_IDENT through the sideband (R489): the first value from 0 to 65,534, before order 9. -/
def State.writeIdent (s : State) (v : Word) : State :=
  if s.rfld Reg.engIdent 16 1 = 0 ∧ 2 ≤ s.boot.order ∧ s.boot.order < 9 ∧ v.toNat < 65535 then
    s.setReg Reg.engIdent (v.toNat + 2 ^ 16)
  else s

/-- A write by its path (R321, R487): a misaligned one is ignored; the sideband writes IRQ_MASK and ENG_IDENT only. -/
def State.writeBy (s : State) (path : RegPath) (o : Nat) (v : Word) : State :=
  if !s.reaches path ∨ o % 4 ≠ 0 then s
  else
    match path with
    | .bar0 => s.writeWord o v
    | .sideband => if o = Reg.irqMask then s.writeWord o v else if o = Reg.engIdent then s.writeIdent v else s

/-- REGISTER_WRITE (R10); in FAILED only the MSI-X table takes writes (R443). -/
def execRegisterWrite (path : RegPath) (off : Nat) (v : Word) (s : State) : Host.Outcome State Fault Refusal :=
  if s.hng.failed && isMsix off && path == .bar0 then .next (s.writeBy path off v) else act (fun s => s.writeBy path off v) s

/-- ENG_IDENT_WRITE (R489). -/
def execEngIdentWrite (v : Word) (s : State) : Host.Outcome State Fault Refusal :=
  act (fun s => s.writeBy .sideband Reg.engIdent v) s

/-- IRQ_MASK_WRITE (R495). -/
def execIrqMaskWrite (path : RegPath) (v : Word) (s : State) : Host.Outcome State Fault Refusal :=
  act (fun s => s.writeBy path Reg.irqMask v) s

/-- CAUSE_CLEAR (R494, R496, R72): a write to a leaf, a locator half or TILE_ERR. -/
def execCauseClear (off : Nat) (v : Word) (s : State) : Host.Outcome State Fault Refusal :=
  act (fun s => s.writeBy .bar0 off v) s

/-- REG_WRITE_LOW_HALF (R321). -/
def execRegWriteLowHalf (off : Nat) (v : Word) (s : State) : Host.Outcome State Fault Refusal :=
  act (fun s => if s.bar0 && isWideWrite off then s.writeLow off v else s) s

/-- REG_WRITE_HIGH_HALF (R321): `off` is the offset of the high half. -/
def execRegWriteHighHalf (off : Nat) (v : Word) (s : State) : Host.Outcome State Fault Refusal :=
  act (fun s => if s.bar0 && decide (4 ≤ off) && isWideWrite (off - 4) then s.writeHigh (off - 4) v else s) s

/-- GRD_CTRL_WRITE (R292). -/
def execGrdCtrlWrite (c : Fin 8) (v : Word) (s : State) : Host.Outcome State Fault Refusal :=
  act (fun s => s.writeBy .bar0 (Reg.grdCtl c.1) v) s

end Sys2Proof.Machine
end

