-- ==== Sys2Proof/Machine/Dispatch.lean ====
section
/-! DEFINITION. One arm per command: a direct call of its meaning. -/

namespace Sys2Proof.Machine

def exec (i : Instr) (s : State) : Host.Outcome State Fault Refusal :=
  match i with
  | .nop t f => Sys2Proof.Machine.execNop t f s
  | .br t f => Sys2Proof.Machine.execBr t f s
  | .bz t f => Sys2Proof.Machine.execBz t f s
  | .bnz t f => Sys2Proof.Machine.execBnz t f s
  | .yield t f => Sys2Proof.Machine.execYield t f s
  | .sig t f => Sys2Proof.Machine.execSig t f s
  | .wait t f => Sys2Proof.Machine.execWait t f s
  | .halt t f => Sys2Proof.Machine.execHalt t f s
  | .li t f => Sys2Proof.Machine.execLi t f s
  | .add t f => Sys2Proof.Machine.execAdd t f s
  | .sub t f => Sys2Proof.Machine.execSub t f s
  | .mul t f => Sys2Proof.Machine.execMul t f s
  | .and t f => Sys2Proof.Machine.execAnd t f s
  | .or t f => Sys2Proof.Machine.execOr t f s
  | .xor t f => Sys2Proof.Machine.execXor t f s
  | .shl t f => Sys2Proof.Machine.execShl t f s
  | .shr t f => Sys2Proof.Machine.execShr t f s
  | .cmp t f => Sys2Proof.Machine.execCmp t f s
  | .ld t f => Sys2Proof.Machine.execLd t f s
  | .st t f => Sys2Proof.Machine.execSt t f s
  | .recv t f => Sys2Proof.Machine.execRecv t f s
  | .send t f => Sys2Proof.Machine.execSend t f s
  | .arm t f => Sys2Proof.Machine.execArm t f s
  | .fin t f => Sys2Proof.Machine.execFin t f s
  | .sendChain t f => Sys2Proof.Machine.execSendChain t f s
  | .finChain t f => Sys2Proof.Machine.execFinChain t f s
  | .mma t f => Sys2Proof.Machine.execMma t f s
  | .vadd t f => Sys2Proof.Machine.execVadd t f s
  | .vsub t f => Sys2Proof.Machine.execVsub t f s
  | .vmul t f => Sys2Proof.Machine.execVmul t f s
  | .vfma t f => Sys2Proof.Machine.execVfma t f s
  | .vmin t f => Sys2Proof.Machine.execVmin t f s
  | .vmax t f => Sys2Proof.Machine.execVmax t f s
  | .vabs t f => Sys2Proof.Machine.execVabs t f s
  | .vneg t f => Sys2Proof.Machine.execVneg t f s
  | .vcmp t f => Sys2Proof.Machine.execVcmp t f s
  | .vsel t f => Sys2Proof.Machine.execVsel t f s
  | .vscl t f => Sys2Proof.Machine.execVscl t f s
  | .vand t f => Sys2Proof.Machine.execVand t f s
  | .vor t f => Sys2Proof.Machine.execVor t f s
  | .vxor t f => Sys2Proof.Machine.execVxor t f s
  | .vshl t f => Sys2Proof.Machine.execVshl t f s
  | .vshr t f => Sys2Proof.Machine.execVshr t f s
  | .vcvt t f => Sys2Proof.Machine.execVcvt t f s
  | .vred t f => Sys2Proof.Machine.execVred t f s
  | .fn t f => Sys2Proof.Machine.execFn t f s
  | .fnd t f => Sys2Proof.Machine.execFnd t f s
  | .fnb t f => Sys2Proof.Machine.execFnb t f s
  | .xsub t f => Sys2Proof.Machine.execXsub t f s
  | .asub t f => Sys2Proof.Machine.execAsub t f s
  | .unitCommandComplete t u => Sys2Proof.Machine.execUnitCommandComplete t u s
  | .rerunRestart c => Sys2Proof.Machine.execRerunRestart c s
  | .packetHeaderArrive t port lane => Sys2Proof.Machine.execPacketHeaderArrive t port lane s
  | .transferComplete e => Sys2Proof.Machine.execTransferComplete e s
  | .memberTransferStart side stream m => Sys2Proof.Machine.execMemberTransferStart side stream m s
  | .chainStageIssue t chain stage => Sys2Proof.Machine.execChainStageIssue t chain stage s
  | .routerBatchDecide r tab => Sys2Proof.Machine.execRouterBatchDecide r tab s
  | .routerResultsWritten r tab => Sys2Proof.Machine.execRouterResultsWritten r tab s
  | .selectionQueryDecide r tab q => Sys2Proof.Machine.execSelectionQueryDecide r tab q s
  | .remoteFetchDeadline c page => Sys2Proof.Machine.execRemoteFetchDeadline c page s
  | .imbalanceWindow seen => Sys2Proof.Machine.execImbalanceWindow seen s
  | .rekeyPageMove c page => Sys2Proof.Machine.execRekeyPageMove c page s
  | .wideGranuleCleared c wbuf granule => Sys2Proof.Machine.execWideGranuleCleared c wbuf granule s
  | .shardSourceTimeout c tensor shard => Sys2Proof.Machine.execShardSourceTimeout c tensor shard s
  | .shardRetry c tensor shard => Sys2Proof.Machine.execShardRetry c tensor shard s
  | .pushDiscard c tensor shard => Sys2Proof.Machine.execPushDiscard c tensor shard s
  | .shardDigestCheck c version tensor shard => Sys2Proof.Machine.execShardDigestCheck c version tensor shard s
  | .reductionHop c level entry block => Sys2Proof.Machine.execReductionHop c level entry block s
  | .bypass c level entry prepass => Sys2Proof.Machine.execBypass c level entry prepass s
  | .portTrained p partner => Sys2Proof.Machine.execPortTrained p partner s
  | .portRetrainTimer p => Sys2Proof.Machine.execPortRetrainTimer p s
  | .linkAck p seq => Sys2Proof.Machine.execLinkAck p seq s
  | .linkNak p seq => Sys2Proof.Machine.execLinkNak p seq s
  | .linkCredit p credits => Sys2Proof.Machine.execLinkCredit p credits s
  | .linkQuiet p => Sys2Proof.Machine.execLinkQuiet p s
  | .linkWake p => Sys2Proof.Machine.execLinkWake p s
  | .linkResume p seq => Sys2Proof.Machine.execLinkResume p seq s
  | .ackTimer p => Sys2Proof.Machine.execAckTimer p s
  | .data p f => Sys2Proof.Machine.execData p f s
  | .credit p f => Sys2Proof.Machine.execCredit p f s
  | .settled p f => Sys2Proof.Machine.execSettled p f s
  | .shardReq p f => Sys2Proof.Machine.execShardReq p f s
  | .shardData p f => Sys2Proof.Machine.execShardData p f s
  | .shardAbsent p f => Sys2Proof.Machine.execShardAbsent p f s
  | .shardPush p f => Sys2Proof.Machine.execShardPush p f s
  | .manifestData p f => Sys2Proof.Machine.execManifestData p f s
  | .pageData p f => Sys2Proof.Machine.execPageData p f s
  | .pageErr p f => Sys2Proof.Machine.execPageErr p f s
  | .wbAck p f => Sys2Proof.Machine.execWbAck p f s
  | .wbNak p f => Sys2Proof.Machine.execWbNak p f s
  | .redBlock p f => Sys2Proof.Machine.execRedBlock p f s
  | .redPrepass p f => Sys2Proof.Machine.execRedPrepass p f s
  | .bypassNotice p f => Sys2Proof.Machine.execBypassNotice p f s
  | .ckptPage p f => Sys2Proof.Machine.execCkptPage p f s
  | .ckptPageAck p f => Sys2Proof.Machine.execCkptPageAck p f s
  | .ckptRecord p f => Sys2Proof.Machine.execCkptRecord p f s
  | .ckptManifest p f => Sys2Proof.Machine.execCkptManifest p f s
  | .ckptManifestAck p f => Sys2Proof.Machine.execCkptManifestAck p f s
  | .ckptSealAck p f => Sys2Proof.Machine.execCkptSealAck p f s
  | .ckptFetch p f => Sys2Proof.Machine.execCkptFetch p f s
  | .ckptFetchData p f => Sys2Proof.Machine.execCkptFetchData p f s
  | .ckptAbsent p f => Sys2Proof.Machine.execCkptAbsent p f s
  | .ckptDurable p f => Sys2Proof.Machine.execCkptDurable p f s
  | .time p f m stamp => Sys2Proof.Machine.execTime p f m stamp s
  | .mgmt p f => Sys2Proof.Machine.execMgmt p f s
  | .mgmtAssemblyTimeout source => Sys2Proof.Machine.execMgmtAssemblyTimeout source s
  | .reject p f => Sys2Proof.Machine.execReject p f s
  | .serialCeilingWritten => Sys2Proof.Machine.execSerialCeilingWritten s
  | .moduleInsert slot m => Sys2Proof.Machine.execModuleInsert slot m s
  | .moduleRemove slot => Sys2Proof.Machine.execModuleRemove slot s
  | .lifeCounterMinute slot temp => Sys2Proof.Machine.execLifeCounterMinute slot temp s
  | .lifeCounterFlash => Sys2Proof.Machine.execLifeCounterFlash s
  | .syncSend => Sys2Proof.Machine.execSyncSend s
  | .timeModuleWrite => Sys2Proof.Machine.execTimeModuleWrite s
  | .timeSourceSilent => Sys2Proof.Machine.execTimeSourceSilent s
  | .ppsInEdge => Sys2Proof.Machine.execPpsInEdge s
  | .ppsSecond => Sys2Proof.Machine.execPpsSecond s
  | .cxlLinkUp => Sys2Proof.Machine.execCxlLinkUp s
  | .cxlPerstAssert => Sys2Proof.Machine.execCxlPerstAssert s
  | .cxlPerstRelease => Sys2Proof.Machine.execCxlPerstRelease s
  | .tailLineWrite ring tail entries poisoned => Sys2Proof.Machine.execTailLineWrite ring tail entries poisoned s
  | .ringEnable ring => Sys2Proof.Machine.execRingEnable ring s
  | .ringDisable ring => Sys2Proof.Machine.execRingDisable ring s
  | .counterCeilingWritten ring => Sys2Proof.Machine.execCounterCeilingWritten ring s
  | .hdmRead line => Sys2Proof.Machine.execHdmRead line s
  | .hdmWrite line bytes => Sys2Proof.Machine.execHdmWrite line bytes s
  | .loadScroll ring h slot length => Sys2Proof.Machine.execLoadScroll ring h slot length s
  | .loadScrollCommit c => Sys2Proof.Machine.execLoadScrollCommit c s
  | .loadScrollComplete c => Sys2Proof.Machine.execLoadScrollComplete c s
  | .startReduction ring h step => Sys2Proof.Machine.execStartReduction ring h step s
  | .stepStart ring h steps pos seed => Sys2Proof.Machine.execStepStart ring h steps pos seed s
  | .hold ring h => Sys2Proof.Machine.execHold ring h s
  | .holdEnd ring h => Sys2Proof.Machine.execHoldEnd ring h s
  | .resume ring h => Sys2Proof.Machine.execResume ring h s
  | .switchVersion ring h version digest => Sys2Proof.Machine.execSwitchVersion ring h version digest s
  | .capo ring h time => Sys2Proof.Machine.execCapo ring h time s
  | .restoreMemory ring h digest => Sys2Proof.Machine.execRestoreMemory ring h digest s
  | .restoreBuddy ring h digest => Sys2Proof.Machine.execRestoreBuddy ring h digest s
  | .restoreDurable ring h slot digest => Sys2Proof.Machine.execRestoreDurable ring h slot digest s
  | .teardown ring h => Sys2Proof.Machine.execTeardown ring h s
  | .teardownCtx ring h ctx => Sys2Proof.Machine.execTeardownCtx ring h ctx s
  | .teardownDrainTimeout c => Sys2Proof.Machine.execTeardownDrainTimeout c s
  | .edgeDrainAck c edge => Sys2Proof.Machine.execEdgeDrainAck c edge s
  | .quarantineEnd c => Sys2Proof.Machine.execQuarantineEnd c s
  | .teardownZeroDone c => Sys2Proof.Machine.execTeardownZeroDone c s
  | .readStatus ring h addr => Sys2Proof.Machine.execReadStatus ring h addr s
  | .keyChange ring h addr length blob => Sys2Proof.Machine.execKeyChange ring h addr length blob s
  | .create ring h p => Sys2Proof.Machine.execCreate ring h p s
  | .fence ring h addr length command => Sys2Proof.Machine.execFence ring h addr length command s
  | .readmit ring h addr length command => Sys2Proof.Machine.execReadmit ring h addr length command s
  | .fwUpdate ring h slot length => Sys2Proof.Machine.execFwUpdate ring h slot length s
  | .timeRole ring h grandmaster => Sys2Proof.Machine.execTimeRole ring h grandmaster s
  | .recoveryReset ring h => Sys2Proof.Machine.execRecoveryReset ring h s
  | .powerLimit ring h watts => Sys2Proof.Machine.execPowerLimit ring h watts s
  | .mapWindow ring h slot kind ctx base => Sys2Proof.Machine.execMapWindow ring h slot kind ctx base s
  | .powerStateActive ring h => Sys2Proof.Machine.execPowerStateActive ring h s
  | .powerStateRest ring h => Sys2Proof.Machine.execPowerStateRest ring h s
  | .powerStatePark ring h => Sys2Proof.Machine.execPowerStatePark ring h s
  | .tileStepFinish t => Sys2Proof.Machine.execTileStepFinish t s
  | .contextStepBegin c => Sys2Proof.Machine.execContextStepBegin c s
  | .cutTimeReached c => Sys2Proof.Machine.execCutTimeReached c s
  | .drainStep c => Sys2Proof.Machine.execDrainStep c s
  | .drainStall c => Sys2Proof.Machine.execDrainStall c s
  | .healthScore => Sys2Proof.Machine.execHealthScore s
  | .regulatorPoll r => Sys2Proof.Machine.execRegulatorPoll r s
  | .regulatorTelemetry r mv amps temp => Sys2Proof.Machine.execRegulatorTelemetry r mv amps temp s
  | .regulatorSilent r => Sys2Proof.Machine.execRegulatorSilent r s
  | .budgetLoop otherWatts rates => Sys2Proof.Machine.execBudgetLoop otherWatts rates s
  | .sensorSample unit readings => Sys2Proof.Machine.execSensorSample unit readings s
  | .sensorDisagree unit spot => Sys2Proof.Machine.execSensorDisagree unit spot s
  | .sensorSuspect unit spot => Sys2Proof.Machine.execSensorSuspect unit spot s
  | .railCheck r mv => Sys2Proof.Machine.execRailCheck r mv s
  | .railRaiseTimeout r => Sys2Proof.Machine.execRailRaiseTimeout r s
  | .wearSample unit => Sys2Proof.Machine.execWearSample unit s
  | .wearFlashWrite => Sys2Proof.Machine.execWearFlashWrite s
  | .coolantSample inlet outlet flow => Sys2Proof.Machine.execCoolantSample inlet outlet flow s
  | .thermtrip => Sys2Proof.Machine.execThermtrip s
  | .supplyFault rail => Sys2Proof.Machine.execSupplyFault rail s
  | .pllLockLost d => Sys2Proof.Machine.execPllLockLost d s
  | .pllLockRegained d => Sys2Proof.Machine.execPllLockRegained d s
  | .hangWindow stuck => Sys2Proof.Machine.execHangWindow stuck s
  | .controlTreeTimeout k => Sys2Proof.Machine.execControlTreeTimeout k s
  | .recoveryResetStart seen => Sys2Proof.Machine.execRecoveryResetStart seen s
  | .recoveryResetEnd => Sys2Proof.Machine.execRecoveryResetEnd s
  | .watchdogExpiry => Sys2Proof.Machine.execWatchdogExpiry s
  | .probationTimer => Sys2Proof.Machine.execProbationTimer s
  | .coldResetAssert => Sys2Proof.Machine.execColdResetAssert s
  | .coldResetRelease b => Sys2Proof.Machine.execColdResetRelease b s
  | .bringupWatchdog => Sys2Proof.Machine.execBringupWatchdog s
  | .fwWaitImage image => Sys2Proof.Machine.execFwWaitImage image s
  | .engIdentWrite v => Sys2Proof.Machine.execEngIdentWrite v s
  | .irqMaskWrite path v => Sys2Proof.Machine.execIrqMaskWrite path v s
  | .msixUnmask => Sys2Proof.Machine.execMsixUnmask s
  | .causeClear off v => Sys2Proof.Machine.execCauseClear off v s
  | .regReadLatch path off => Sys2Proof.Machine.execRegReadLatch path off s
  | .regWriteLowHalf off v => Sys2Proof.Machine.execRegWriteLowHalf off v s
  | .regWriteHighHalf off v => Sys2Proof.Machine.execRegWriteHighHalf off v s
  | .grdCtrlWrite c v => Sys2Proof.Machine.execGrdCtrlWrite c v s
  | .rplCtrlWrite v => Sys2Proof.Machine.execRplCtrlWrite v s
  | .registerWrite path off v => Sys2Proof.Machine.execRegisterWrite path off v s
  | .getVersion via => Sys2Proof.Machine.execGetVersion via s
  | .getCapabilities via => Sys2Proof.Machine.execGetCapabilities via s
  | .negotiateAlgorithms via sha3 mldsa => Sys2Proof.Machine.execNegotiateAlgorithms via sha3 mldsa s
  | .getDigests via => Sys2Proof.Machine.execGetDigests via s
  | .getCertificate via slot offset length => Sys2Proof.Machine.execGetCertificate via slot offset length s
  | .challenge via slot nonce => Sys2Proof.Machine.execChallenge via slot nonce s
  | .getMeasurements via index nonce => Sys2Proof.Machine.execGetMeasurements via index nonce s
  | .chunkSend via last seqNo chunk => Sys2Proof.Machine.execChunkSend via last seqNo chunk s
  | .chunkGet via seqNo => Sys2Proof.Machine.execChunkGet via seqNo s
  | .keyExchange via ciphertext => Sys2Proof.Machine.execKeyExchange via ciphertext s
  | .finish via session mac => Sys2Proof.Machine.execFinish via session mac s
  | .endSession via session => Sys2Proof.Machine.execEndSession via session s
  | .heartbeat via session => Sys2Proof.Machine.execHeartbeat via session s
  | .keyUpdate via session => Sys2Proof.Machine.execKeyUpdate via session s
  | .getOwner via => Sys2Proof.Machine.execGetOwner via s
  | .setOwner via record => Sys2Proof.Machine.execSetOwner via record s
  | .setCmdKey via ring blob => Sys2Proof.Machine.execSetCmdKey via ring blob s
  | .ideKeyMgmt session protocol msg => Sys2Proof.Machine.execIdeKeyMgmt session protocol msg s
  | .ideIntegrityFail protocol => Sys2Proof.Machine.execIdeIntegrityFail protocol s
  | .ideLoss protocol => Sys2Proof.Machine.execIdeLoss protocol s
  | .powerLoss => Sys2Proof.Machine.execPowerLoss s
  | .sendSourceRead t n => Sys2Proof.Machine.execSendSourceRead t n s
  | .peerServiceEnd c version => Sys2Proof.Machine.execPeerServiceEnd c version s
  | .keySerialWritten ring => Sys2Proof.Machine.execKeySerialWritten ring s
  | .ownerRecordWritten => Sys2Proof.Machine.execOwnerRecordWritten s
  | .restoreBuddySilent c => Sys2Proof.Machine.execRestoreBuddySilent c s
  | .badFrame p bytes => Sys2Proof.Machine.execBadFrame p bytes s

end Sys2Proof.Machine
end

