-- ==== Sys2Proof/Safety.lean ====
section
/-! DEFINITION. The terms in which claims speak of a run: what a command does apart from the causes and messages that any
command may raise, and the conditions under which a command acts. -/

namespace Sys2Proof.Machine

/-- `u` is `t` but for what follows every command (R446, R492, R495): ENG_CAUSE, HNG_CAUSE, one MSI-X message, and the
pending bit of its vector. -/
def Settled (t u : State) : Prop :=
  u = { t with regs := u.regs, out := u.out, pins := { t.pins with pendingBit := u.pins.pendingBit } } ∧
  (∀ o, o ≠ Reg.engCause → o ≠ Reg.hngCause → u.reg o = t.reg o) ∧
  (u.out = t.out ∨ u.out = t.out ++ [.msix])

/-- The command completes: `exec` answers a next state, which is one that satisfies `P` but for the causes and messages
of `Settled`. -/
def Completes (s : State) (c : Instr) (P : State → Prop) : Prop :=
  ∃ t u, exec c s = .next u ∧ Settled t u ∧ P t

/-- The engine serves more than reads: neither OFF (R3) nor FAILED (R443). -/
abbrev Alive (s : State) : Prop := s.hng.failed = false ∧ s.boot.order ≠ 0

/-- Every ring's counter lies at or below its ceiling in flash (R331), and the last accepted membership serial at or below
its own (R448). -/
abbrev CountersBounded (s : State) : Prop :=
  (∀ r : Fin 9, (s.rings[r]).counter.toNat ≤ (s.flash.ceilings[r]).toNat) ∧ s.hng.serial.toNat ≤ s.flash.memberCeiling.toNat

/-- No command waits in a ring to start and no cut is due: nothing but the command itself takes effect. -/
abbrev Clear (s : State) : Prop :=
  (∀ r : Fin 9, (s.rings[r]).cmds.all Cmd.begun = true) ∧ ∀ c : Fin 8, (s.ctx c).ckpt.due = none

/-- The host reaches the engine (R321, R477): the CXL link is up, and IDE is active where the owner requires it. -/
abbrev Reached (s : State) : Prop := s.pins.linkUp = true ∧ s.hostReady = true

/-! ### Instructions of a tile -/

/-- The tile runs, and slot `k` is the one that issues in this handshake (R64), from an index of the store and a word of
good parity (R119, R514) and of an assigned class and opcode (R74). -/
abbrev Issues (s : State) (t : TileId) (k : Fin 8) : Prop :=
  Alive s ∧ s.tileRuns t = true ∧ ((s.tile t).settleRunning.pick).map Prod.fst = some k ∧
    (s.slotOf t k).pc.toNat ≤ 1535 ∧ (s.tile t).badFetch (s.slotOf t k).pc.toNat = none ∧
    assigned ((s.tile t).imem.getD (s.slotOf t k).pc.toNat 0).toNat = true

/-- A slot that has not issued: a RUNNING one is READY again, a BLOCKED one may have become READY or wait for another
reason, any other is as it was (R63). -/
def Slot.Stood (z y : Slot) : Prop :=
  y = (if z.state = .running then { z with state := .ready } else z) ∨
    z.state = .blocked ∧ (y.state = .ready ∨ y.state = .blocked) ∧
      y = { z with state := y.state, reason := y.reason, object := y.object, held := y.held }

/-- Tile `y` is `x` but for BLOCKED slots that may have become READY. -/
def Tile.Woken (x y : Tile) : Prop :=
  y = { x with slots := y.slots } ∧ ∀ j : Fin 8, y.slots[j] = x.slots[j] ∨
    x.slots[j].state = .blocked ∧ (y.slots[j].state = .ready ∨ y.slots[j].state = .blocked) ∧
      y.slots[j] = { x.slots[j] with
        state := y.slots[j].state, reason := y.slots[j].reason, object := y.slots[j].object, held := y.slots[j].held }

/-- Tile `y` is `x` after slot `k`, now `z`, has issued; `el` says whether it may issue again at once (R64). -/
def Tile.Issued (x y : Tile) (k : Fin 8) (z : Slot) (el : Bool) : Prop :=
  y = { x with slots := y.slots, last := k, runLen := y.runLen, eligible := el, advanced := true } ∧
    y.slots[k] = z ∧ ∀ j : Fin 8, j ≠ k → x.slots[j].Stood y.slots[j]

/-- Only the tiles of the list differ. -/
def OnlyTiles (s u : State) (l : List TileId) : Prop :=
  u = { s with tiles := u.tiles } ∧ ∀ t, t ∉ l → u.tile t = s.tile t

/-- Slot `z` one instruction on: at index `pc`, its count of issues advanced (R71). -/
def Slot.onto (z : Slot) (pc : BitVec 11) (st : SlotState) : Slot :=
  { z with pc := pc, progress := z.progress + 1, readyWhole := false, state := st }

/-- A scalar register written; a write to `s0` has no effect (R62). -/
def Slot.written (z : Slot) (d : BitVec 4) (v : Word) : Slot :=
  { z with regs := if d = 0 then z.regs else vset z.regs d.toFin v }

/-- A scalar register read; `s0` reads as zero (R62). -/
def Slot.value (z : Slot) (r : BitVec 4) : Word := if r = 0 then 0 else z.regs[r.toFin]

/-- What a fault of slot `k` of tile `t` with a cause other than PARITY leaves (R69, R72, R338): the slot FAULTED at the
instruction, its queued commands discarded, the cause in TILE_ERR, the first fault in TILE_FAULT, and the owning context
under a fault hold. -/
def Faulted (s u : State) (t : TileId) (k : Fin 8) (cause : TileCause) : Prop :=
  let z := s.slotOf t k
  let x := s.tile t
  u.slotOf t k = { z with state := .faulted, held := none } ∧
  (u.tile t).err = x.err ||| BitVec.ofNat 6 (2 ^ cause.bit) ∧
  (u.tile t).fault = (if x.fault.getLsbD 3 then x.fault
    else BitVec.ofNat 32 (k.1 + 8 + z.pc.toNat * 2 ^ 4 + cause.bit * 2 ^ 15)) ∧
  (u.tile t).pad = x.pad ∧ (u.tile t).events = x.events ∧
  (∀ n : Fin 32, (u.tile t).strs[n] = { x.strs[n] with sends := x.strs[n].sends.filter fun q => q.slot != k || q.read }) ∧
  (∀ w, (u.tile t).queue w = (x.queue w).take 1 ++ ((x.queue w).drop 1).filter fun q => q.slot != k) ∧
  (∀ v, v ≠ t → u.tile v = s.tile v ∨ u.tile v = { s.tile v with stopped := true }) ∧
  ∀ c, s.ctxOf t = some c → u.rfld Reg.engCause 3 1 = 1 ∧ (u.ctx c).faultHold = true ∧
    (u.ctx c).state = (if (s.ctx c).state = .running then .held else (s.ctx c).state)

/-! ### Ring commands -/

/-- The checks of a critical command pass (R330), and its counter lies below the ceiling in flash (R331). -/
abbrev Genuine (s : State) (r : Fin 9) (e : RawEntry) : Prop :=
  ∃ key, (s.rings[r]).key = some key ∧ kmac256 key (e.bytes.take 96 ++ [BitVec.ofNat 8 r.1]) "LW2-CMD" = e.tag ∧
    (s.rings[r]).counter.toNat < e.counter ∧ e.counter ≤ (s.flash.ceilings[r]).toNat

/-- A LOAD_SCROLL or RESTORE that goes ahead of its ring need not wait (R339): no capo hold is in force in the ring's context,
and no other such command of the ring is in progress. -/
abbrev Unreloaded (s : State) (r : Fin 9) : Prop :=
  (s.ctx (ctxOfRing r)).ckpt.holding = false ∧ ∀ j ∈ (s.rings[r]).cmds, j.reloads = false

/-- Ring `r` takes the entry, and its command may start (R325, R326, R330, R332, R396, R477): its flag of a critical
command is right, nothing before it in the ring holds it back, and the power state admits it. -/
abbrev Taken (s : State) (r : Fin 9) (e : RawEntry) : Prop :=
  Alive s ∧ Clear s ∧ Reached s ∧ (s.rings[r]).en = true ∧ s.hng.running = false ∧
    (s.power = .active ∨ opInRest e.opcode = true) ∧
    opAllowed r e.opcode = true ∧ (∀ j ∈ (s.rings[r]).cmds, j.entry.opcode ≠ e.opcode) ∧
    ((s.rings[r]).cmds = [] ∨ opConcurrent e.opcode = true ∨ s.startsEarly r e.opcode = true) ∧
    (e.opcode = 0x10 ∨ e.opcode = 0x17 → s.startsEarly r e.opcode = true → Unreloaded s r) ∧
    bitAt e.flags 0 = opCritical e.opcode ∧ (opCritical e.opcode = true → Genuine s r e)

/-- The state once an entry is consumed and its command has completed, but for its effect and its record: HEAD moved on, and
the counter of a critical command accepted. -/
def State.took (s : State) (r : Fin 9) (e : RawEntry) : State :=
  s.modRing r fun x => { x with
    head := x.head + 1, counter := if opCritical e.opcode then BitVec.ofNat 64 e.counter else x.counter }

/-- The command of an entry once it has started. -/
def State.startedCmd (s : State) (r : Fin 9) (e : RawEntry) : Cmd :=
  { entry := e, phase := .started, early := s.startsEarly r e.opcode }

/-- The state once the entry's command has started and stands in its ring. -/
def State.began (s : State) (r : Fin 9) (e : RawEntry) : State :=
  (s.took r e).modRing r fun x => { x with cmds := x.cmds ++ [s.startedCmd r e] }

/-! ### Frames -/

/-- A frame of a type arrives as the next one of an UP or QUIET port, whose role admits the type (R301), and passes the receive
checks of R309: addressed to this engine or to all, of this epoch where the type is checked, and naming a loaded context of ours
where its type does; while FENCED or RECOVERING only MGMT passes, in REST and PARK only TIME and MGMT (R396). -/
abbrev Arrives (s : State) (p : Fin 64) (ty : Byte) (f : Frame) : Prop :=
  Alive s ∧ f.wf = true ∧ ((s.ports[p]).state = .up ∨ (s.ports[p]).state = .quiet) ∧ f.seq = (s.ports[p]).rx ∧
    ({ f with type := ty } : Frame).clean = true ∧ (ty = 0x60 ∨ s.hng.running = false ∧ s.hng.fenced = false) ∧
    (s.power = .active ∨ ty = 0x50 ∨ ty = 0x60) ∧ (knownType ty.toNat = true ∧ s.carries p ty.toNat = true) ∧
    (f.dest = s.ident ∨ f.dest = 0xFFFF) ∧ (ty ≠ 0x50 → ty ≠ 0x60 → ty ≠ 0x61 → f.epoch = s.hng.epoch) ∧
    (namesDest ty.toNat = true → f.context.toNat ≤ 7 ∧ (s.ctx (finOf 8 f.context.toNat)).loaded = true ∧
      f.generation = (s.ctx (finOf 8 f.context.toNat)).gen)

/-- The state once a port has accepted a frame (R305): one number on, link credit granted for what it took, and an ACK at
every 64 frames. -/
def State.accepts (s : State) (p : Fin 64) (f : Frame) : State :=
  let t := s.modPort p fun pt => { pt with
    rx := pt.rx + 1, toAck := pt.toAck + 1, granted := vmod pt.granted (finOf 7 (f.cls.toNat % 8)) (· + BitVec.ofNat 32 f.units) }
  if 64 ≤ (t.ports[p]).toAck then t.ackNow p else t

end Sys2Proof.Machine
end

