-- ==== Sys2Proof/Certificates/Slice0/Obligations.lean ====
section
/-! DEFINITION. The statements about the block, to be proved elsewhere. Each docstring names the rules it comes from. -/

open Sys2Proof Sys2Proof.Machine

/-! ### Instructions of a tile -/

/-- R62, R73, R92, R515: in the slot that issues, `li`, `add`, `sub`, `mul`, `and`, `or`, `xor`, `shl`, `shr` and `cmp`
with their reserved bits zero complete, that is, `exec` answers a next state: they write RD (never s0) from RA and RB or
IMM32, wrapping modulo 2^32, and the slot continues at the next index; no other register, and nothing else of the tile,
changes but what the handshake itself does. A reserved bit that is set, and a reserved COND of `cmp`, fault with
ILLEGAL. -/
def Obligations.ScalarResults : Prop :=
  ∀ (s : State) (t : TileId) (k : Fin 8) (f : Fields), Issues s t k →
    let z := s.slotOf t k
    let a := z.value (f.extractLsb' 46 4)
    let b := if f.getLsbD 41 then f.extractLsb' 0 32 else z.value (f.extractLsb' 42 4)
    let writes := fun (c : Instr) (v : Word) => Completes s c fun u => OnlyTiles s u [t] ∧
      (s.tile t).Issued (u.tile t) k ((z.written (f.extractLsb' 50 4) v).onto (z.pc + 1) .running) true
    let cond := f.extractLsb' 38 3
    let faults := fun (c : Instr) => Completes s c fun u => Faulted s u t k .illegal
    (f.extractLsb' 32 6 ≠ 0 → faults (.li t f) ∧ faults (.add t f) ∧ faults (.sub t f) ∧ faults (.mul t f) ∧
      faults (.and t f) ∧ faults (.or t f) ∧ faults (.xor t f) ∧ faults (.shl t f) ∧ faults (.shr t f) ∧ faults (.cmp t f)) ∧
    (6 ≤ cond.toNat → faults (.cmp t f)) ∧
    (f.extractLsb' 32 6 = 0 →
    writes (.li t f) (f.extractLsb' 0 32) ∧ writes (.add t f) (a + b) ∧ writes (.sub t f) (a - b) ∧
    writes (.mul t f) (a * b) ∧ writes (.and t f) (a &&& b) ∧ writes (.or t f) (a ||| b) ∧
    writes (.xor t f) (a ^^^ b) ∧ writes (.shl t f) (a <<< (b.toNat % 32)) ∧ writes (.shr t f) (a >>> (b.toNat % 32)) ∧
    (cond = 0 → writes (.cmp t f) (if a = b then 1 else 0)) ∧ (cond = 1 → writes (.cmp t f) (if a ≠ b then 1 else 0)) ∧
    (cond = 2 → writes (.cmp t f) (if a.toInt < b.toInt then 1 else 0)) ∧
    (cond = 3 → writes (.cmp t f) (if b.toInt ≤ a.toInt then 1 else 0)) ∧
    (cond = 4 → writes (.cmp t f) (if a.toNat < b.toNat then 1 else 0)) ∧
    (cond = 5 → writes (.cmp t f) (if b.toNat ≤ a.toNat then 1 else 0)))

/-- R62, R64, R68, R514: `nop`, `br`, `bz`, `bnz`, `yield`, `sig`, `wait` and `halt` with their reserved bits zero complete,
that is, `exec` answers a next state: `nop` goes on, a branch goes to TARGET or on; `halt` leaves the slot DONE, `yield`
gives up the sequencer, `sig` counts an event up, and the waiter's `wait` counts it down or blocks with WAIT. A reserved
bit that is set and a TARGET beyond 1,535 fault with ILLEGAL, a `sig` on a count of 255 and a `wait` by another slot
with SYNC. That a slot that blocks counts as the last one of R64 is the model's choice, log 14. -/
def Obligations.ControlFlow : Prop :=
  ∀ (s : State) (t : TileId) (k : Fin 8) (f : Fields), Issues s t k →
    let x := s.tile t
    let z := s.slotOf t k
    let goes := fun (c : Instr) (x' : Tile) (pc : BitVec 11) (st : SlotState) (el : Bool) => Completes s c fun u =>
      OnlyTiles s u [t] ∧ x'.Issued (u.tile t) k (z.onto pc st) el
    let target := f.extractLsb' 43 11
    let e := (f.extractLsb' 35 4).toFin
    let v := z.value (f.extractLsb' 39 4)
    let faults := fun (c : Instr) (cause : TileCause) => Completes s c fun u => Faulted s u t k cause
    (f.extractLsb' 0 35 ≠ 0 → faults (.nop t f) .illegal ∧ faults (.br t f) .illegal ∧ faults (.bz t f) .illegal ∧
      faults (.bnz t f) .illegal ∧ faults (.yield t f) .illegal ∧ faults (.sig t f) .illegal ∧ faults (.wait t f) .illegal ∧
      faults (.halt t f) .illegal) ∧
    (f.extractLsb' 0 35 = 0 →
    goes (.nop t f) x (z.pc + 1) .running true ∧ goes (.yield t f) x (z.pc + 1) .running false ∧
    goes (.halt t f) x (z.pc + 1) .done false ∧
    (target.toNat ≤ 1535 → goes (.br t f) x target .running true ∧
      goes (.bz t f) x (if v = 0 then target else z.pc + 1) .running true ∧
      goes (.bnz t f) x (if v = 0 then z.pc + 1 else target) .running true) ∧
    (x.events[e] ≠ 255 → goes (.sig t f) { x with events := vset x.events e (x.events[e] + 1) } (z.pc + 1) .running true) ∧
    (x.waiters[e] = k → x.events[e] ≠ 0 →
      goes (.wait t f) { x with events := vset x.events e (x.events[e] - 1) } (z.pc + 1) .running true) ∧
    (x.waiters[e] = k → x.events[e] = 0 → Completes s (.wait t f) fun u => OnlyTiles s u [t] ∧
      u.tile t = { x with slots := (u.tile t).slots, last := k, runLen := (u.tile t).runLen, eligible := false } ∧
      u.slotOf t k = { z with
        state := .blocked, reason := .wait, object := f.extractLsb' 35 4 |>.setWidth 6, readyWhole := false
        held := (u.slotOf t k).held } ∧
      ∀ j : Fin 8, j ≠ k → (s.slotOf t j).Stood (u.slotOf t j)) ∧
    (x.waiters[e] ≠ k → faults (.wait t f) .sync) ∧ (x.events[e] = 255 → faults (.sig t f) .sync) ∧
    (1535 < target.toNat → faults (.br t f) .illegal ∧ faults (.bz t f) .illegal ∧ faults (.bnz t f) .illegal))

/-- R66, R107, R109, R110, R119, R162, R516: `ld` and `st` with their reserved bits zero complete, that is, `exec`
answers a next state, once the address word resolves and no earlier command of the task holds the line: `ld` reads the
word into RT; `st` writes RT there and no other byte of the scratchpad. A reserved bit that is set faults with ILLEGAL,
and an address that does not resolve, or a `st` to bytes 0 to 3, with HANDLE; a line that an earlier command holds
blocks the slot. -/
def Obligations.LoadAndStore : Prop :=
  ∀ (s : State) (t : TileId) (k : Fin 8) (f : Fields) (a : Nat), Issues s t k →
    let x := s.tile t
    let z := s.slotOf t k
    let addr := z.value (f.extractLsb' 46 4)
    let v := z.value (f.extractLsb' 50 4)
    let faults := fun (c : Instr) (cause : TileCause) => Completes s c fun u => Faulted s u t k cause
    let blocks := fun (c : Instr) => Completes s c fun u => OnlyTiles s u [t] ∧ (u.tile t).pad = x.pad ∧
      (u.slotOf t k).state = .blocked ∧ (u.slotOf t k).reason = .unit ∧ (u.slotOf t k).object = 3 ∧
      (u.slotOf t k).regs = z.regs ∧ (u.slotOf t k).pc = z.pc
    let rd := x.resolve (s.hquotaOf t) addr false 4 .read
    let wr := x.resolve (s.hquotaOf t) addr false 4 (.write k)
    (f.extractLsb' 0 46 ≠ 0 → faults (.ld t f) .illegal ∧ faults (.st t f) .illegal) ∧
    (f.extractLsb' 0 46 = 0 →
    (rd = .handle → faults (.ld t f) .handle) ∧ (wr = .handle ∨ wr = .ok 0 → faults (.st t f) .handle) ∧
    (rd = .ok a → x.interlocked k false [⟨a, 1⟩] [] = true → blocks (.ld t f)) ∧
    (wr = .ok a → a ≠ 0 → x.interlocked k false [] [⟨a, 1⟩] = true → blocks (.st t f)) ∧
    (rd = .ok a → x.interlocked k false [⟨a, 1⟩] [] = false →
      x.badWord (a / 4) = false → Completes s (.ld t f) fun u => OnlyTiles s u [t] ∧
        x.Issued (u.tile t) k ((z.written (f.extractLsb' 50 4) (x.narrowRead a)).onto (z.pc + 1) .running) true) ∧
    (wr = .ok a → a ≠ 0 → x.interlocked k false [] [⟨a, 1⟩] = false →
      Completes s (.st t f) fun u => OnlyTiles s u [t] ∧
        (x.narrowWrite a v).Issued (u.tile t) k (z.onto (z.pc + 1) .running) true ∧
        Memory.readLE (u.tile t).pad a 4 = v.toNat ∧
        ∀ b, b < a ∨ a + 4 ≤ b → Memory.read (u.tile t).pad b = Memory.read x.pad b))

/-- R134, R137 to R142, R148 to R151, R233: `recv`, `send`, `arm`, `fin`, and `send` and `fin` with CHAIN (`sendChain`,
`finChain`), complete, that is, `exec` answers a next state, where their string or chain and their operands admit it:
`recv` posts a destination and gives its producer one credit; `send` takes one credit and enters the transfer; `fin`
retires the oldest finished one, with the status word of a `recv` in RN; `arm` sets what its member does next; the chain
forms start a chain and take one of its completions; in the record of an `arm`, and in the status word, the fields stand
where R137 and R233 put them. A reserved bit that is set faults with ILLEGAL, and a string or chain that does not admit the
command with STRING. -/
def Obligations.StringCommands : Prop :=
  ∀ (s : State) (t : TileId) (k : Fin 8) (f : Fields) (a : Nat), Issues s t k →
    let x := s.tile t
    let z := s.slotOf t k
    let n := (f.extractLsb' 49 5).toFin
    let y := x.strs[n]
    let reg := f.extractLsb' 40 4
    let addr := z.value (f.extractLsb' 44 4)
    let goes := fun (c : Instr) (z' : Slot) (y' : Str) => Completes s c fun u => OnlyTiles s u [t] ∧
      ({ x with strs := vset x.strs n y' } : Tile).Issued (u.tile t) k (z'.onto (z.pc + 1) .running) true
    let faults := fun (c : Instr) (cause : TileCause) => Completes s c fun u => Faulted s u t k cause
    (f.extractLsb' 0 40 ≠ 0 → faults (.recv t f) .illegal ∧ faults (.send t f) .illegal ∧ faults (.arm t f) .illegal ∧
      faults (.fin t f) .illegal ∧ faults (.sendChain t f) .illegal ∧ faults (.finChain t f) .illegal) ∧
    (f.extractLsb' 0 40 = 0 →
    (y.valid = false ∨ x.chainUses n.1 = true → faults (.recv t f) .string ∧ faults (.send t f) .string ∧
      faults (.fin t f) .string) ∧
    (y.outbound = true ∨ y.outst ≤ y.posts.length → faults (.recv t f) .string) ∧
    (y.outbound = false → faults (.send t f) .string) ∧
    (y.valid = false ∨ y.kind = 0 → faults (.arm t f) .string) ∧
    (3 < (f.extractLsb' 49 5).toNat → faults (.sendChain t f) .string ∧ faults (.finChain t f) .string) ∧
    (f.getLsbD 48 = false → y.valid = true → y.outbound = false → x.chainUses n.1 = false → y.posts.length < y.outst →
      x.resolve (s.hquotaOf t) addr true (64 * y.lines) (.write k) = .ok a →
      x.interlocked k false [] [⟨a, y.lines⟩] = false → Completes s (.recv t f) fun u =>
        ((u.tile t).strs[n]).posts = y.posts ++ [⟨k, y.next, a, [], false, 0, none⟩] ∧
        ((u.tile t).strs[n]).next = y.next + 1 ∧ u.slotOf t k = z.onto (z.pc + 1) .running ∧
        (∀ p, y.kind = 0 → tileAt y.peerX y.peerY = some p → OnlyTiles s u [t, p] ∧
          ((u.tile p).strs[y.pstr]).credits = ((s.tile p).strs[y.pstr]).credits + 1) ∧
        (∀ c m, y.kind ≠ 0 → s.ctxOf t = some c → (s.edgeOf c y.side.1 y.stream).memberOf t = some m →
          ((u.ctx c).member y.side.1 y.stream m).credits = ((s.ctx c).member y.side.1 y.stream m).credits + 1)) ∧
    (y.valid = true → y.outbound = true → x.chainUses n.1 = false → y.credits ≠ 0 →
      x.resolve (s.hquotaOf t) addr true (64 * y.lines) .read = .ok a → x.interlocked k false [⟨a, y.lines⟩] [] = false →
      goes (.send t f) z { y with
        sends := y.sends ++ [⟨k, z.pc, y.next, a, false, none⟩], next := y.next + 1, credits := y.credits - 1 }) ∧
    (∀ q qs, y.valid = true → y.outbound = true → x.chainUses n.1 = false → y.sends = q :: qs → q.read = true →
      goes (.fin t f) z { y with sends := qs }) ∧
    (∀ p ps, y.valid = true → y.outbound = false → x.chainUses n.1 = false → y.posts = p :: ps → p.done = true →
      goes (.fin t f) (z.written reg p.status) { y with posts := ps }) ∧
    (∀ c m, f.getLsbD 48 = false → y.valid = true → y.kind ≠ 0 → s.ctxOf t = some c →
      (s.edgeOf c y.side.1 y.stream).memberOf t = some m → (s.edgeOf c y.side.1 y.stream).persist = true → ((s.ctx c).member y.side.1 y.stream m).arm = none →
      x.resolve (s.hquotaOf t) addr true 64 .read = .ok a → x.interlocked k false [⟨a, 1⟩] [] = false →
      x.badIn [⟨a, 1⟩] = none →
      let rec_ := Memory.readLE x.pad a 64
      fld rec_ 0 52 % 64 = 0 → fld rec_ 52 12 = 0 → fld rec_ 96 416 = 0 → Completes s (.arm t f) fun u =>
        u = { s with tiles := u.tiles, ctxs := u.ctxs } ∧ (∀ v, v ≠ t → u.tile v = s.tile v) ∧
        x.Issued (u.tile t) k (z.onto (z.pc + 1) .running) true ∧
        (u.ctx c).member y.side.1 y.stream m = Member.takeArm { (s.ctx c).member y.side.1 y.stream m with
          arm := some (fld rec_ 0 52, fld rec_ 64 32) } (s.edgeOf c y.side.1 y.stream)) ∧
    (∀ i rings, f.extractLsb' 49 5 = BitVec.ofNat 5 i → i < 4 → chainValid (x.chains[finOf 4 i]) = true →
      z.value reg ≠ 0 → (z.value reg).toNat ≤ 65535 → x.runs[finOf 4 i] = none →
      x.resolveRings (s.hquotaOf t) k (x.chains[finOf 4 i]) (chainStages (x.chains[finOf 4 i]) - 1) = .inr rings →
      let none_ := List.replicate (chainStages x.chains[finOf 4 i]) 0
      let run : ChainRun := ⟨k, z.pc, z.regs, (z.value reg).toNat, rings, [], [], none_, none_, Memory.copy [] x.pad 0 0 256,
        x.badWords.filter fun b => decide (b < 64)⟩
      let other := run.outside x (s.hquotaOf t) (x.chains[finOf 4 i]) (finOf 4 i)
      let sp := rings.map fun g => Span.mk g.at_ (linesOf (g.size * g.slots))
      run.waits x (s.hquotaOf t) (x.chains[finOf 4 i]) (finOf 4 i) = false →
      x.interlocked k false (sp ++ other.1) (sp ++ other.2) = false → Completes s (.sendChain t f) fun u =>
        OnlyTiles s u [t] ∧
        ({ x with runs := vset x.runs (finOf 4 i) (some { run with reads := other.1, writes := other.2 }) } : Tile).Issued
          (u.tile t) k (z.onto (z.pc + 1) .running) true) ∧
    (∀ i, f.extractLsb' 49 5 = BitVec.ofNat 5 i → i < 4 → chainValid (x.chains[finOf 4 i]) = true →
      x.chainsDone[finOf 4 i] ≠ 0 → Completes s (.finChain t f) fun u => OnlyTiles s u [t] ∧
        ({ x with chainsDone := vset x.chainsDone (finOf 4 i) (x.chainsDone[finOf 4 i] - 1) } : Tile).Issued (u.tile t) k
          (z.onto (z.pc + 1) .running) true))

/-- R65, R110, R111, R513, R517: a tensor, vector or function command whose queue has room, whose operands resolve and
which no earlier command of its task holds enters its unit's queue with the resolution it obtained; one of element count 0
at the head of the queue completes there. -/
def Obligations.UnitCommandsQueue : Prop :=
  ∀ (s : State) (t : TileId) (k : Fin 8) (f : Fields) (cmd : UnitCmd), Issues s t k →
    let x := s.tile t
    let z := s.slotOf t k
    let enters := fun (c : Instr) (cls op : Nat) (u : UnitSel) (plan : Tile → Resolver → Fin 8 → BitVec 11 → (Nat → Word) →
        Nat → Option RingSlot → Option RingSlot → Option ChainTag → Plan) =>
      x.full u = false → plan x (x.resolver (s.hquotaOf t)) k z.pc z.reg (word cls op f).toNat none none none = .ok cmd →
      x.interlocked k false cmd.reads cmd.writes = false → Completes s c fun v => OnlyTiles s v [t] ∧
        (x.enqueue u cmd).Issued (v.tile t) k (z.onto (z.pc + 1) .running) true ∧
        ((x.queue u ++ [cmd]).head?.any UnitCmd.empty = false →
          (v.tile t).queue u = x.queue u ++ [cmd] ∧ (v.tile t).pad = x.pad)
    let vec := fun (c : Instr) (op : Nat) (o : VOp) => enters c 5 op .vector (planVector o)
    enters (.mma t f) 4 0 .tensor planMma ∧
    vec (.vadd t f) 0 .add ∧ vec (.vsub t f) 1 .sub ∧ vec (.vmul t f) 2 .mul ∧ vec (.vfma t f) 3 .fma ∧
    vec (.vmin t f) 4 .min ∧ vec (.vmax t f) 5 .max ∧ vec (.vabs t f) 6 .abs ∧ vec (.vneg t f) 7 .neg ∧
    vec (.vcmp t f) 8 .cmp ∧ vec (.vsel t f) 9 .sel ∧ vec (.vscl t f) 10 .scl ∧ vec (.vand t f) 11 .and ∧
    vec (.vor t f) 12 .or ∧ vec (.vxor t f) 13 .xor ∧ vec (.vshl t f) 14 .shl ∧ vec (.vshr t f) 15 .shr ∧
    vec (.vcvt t f) 16 .cvt ∧ vec (.vred t f) 17 .red ∧
    enters (.fn t f) 6 0 .function (planFunction false false) ∧ enters (.fnd t f) 6 1 .function (planFunction true false) ∧
    enters (.fnb t f) 6 2 .function (planFunction true true)

/-- R65, R69, R107, R111, R119, R120: the command at the head of a unit's queue finishes: without a parity event and
without a bad metadata pair its results land where it was resolved, and no other byte of the scratchpad changes. -/
def Obligations.UnitResultsLand : Prop :=
  ∀ (s : State) (t : TileId) (u : UnitSel) (c : UnitCmd) (q : List UnitCmd), Alive s → s.unitsRun t = true →
    let x := s.tile t
    let ws := c.results x
    x.queue u = c :: q → c.chain = none → c.parity x ws = none →
    ¬(fld c.word.toNat 60 4 = 4 ∧ badMeta x.pad c = true) → Completes s (.unitCommandComplete t u) fun v =>
      OnlyTiles s v [t] ∧ (q.head?.any UnitCmd.empty = false → (v.tile t).queue u = q) ∧
      (∀ w, w ≠ u → (v.tile t).queue w = x.queue w) ∧ (v.tile t).strs = x.strs ∧ (v.tile t).events = x.events ∧
      (v.tile t).pad = ws.foldl (fun m e => Memory.writeBytes m e.1 e.2) x.pad ∧
      ∀ b, (∀ e ∈ ws, b < e.1 ∨ e.1 + e.2.length ≤ b) → Memory.read (v.tile t).pad b = Memory.read x.pad b

/-- R92: the INT32 accumulator of the tensor unit and the vector unit's integer arithmetic saturate to the range -2^31 to
2^31 - 1, a group sum never overflows by itself, and the integer instructions of the scalar sequencer wrap modulo 2^32. -/
def Obligations.IntegerLanesSaturate : Prop :=
  let clamp := fun (v : Int) => max (-(2 ^ 31)) (min v (2 ^ 31 - 1))
  (∀ (c : Nat) (sc : Word) (a b d : Nat),
    let x := signed 32 a
    let y := signed 32 b
    signed 32 (laneOp .add true c sc a b d) = clamp (x + y) ∧ signed 32 (laneOp .sub true c sc a b d) = clamp (x - y) ∧
    signed 32 (laneOp .mul true c sc a b d) = clamp (x * y) ∧
    signed 32 (laneOp .fma true c sc a b d) = clamp (x * y + signed 32 d) ∧
    signed 32 (laneOp .neg true c sc a b d) = clamp (-x) ∧ signed 32 (laneOp .abs true c sc a b d) = clamp x.natAbs ∧
    (0 ≤ sc.toInt → signed 32 (laneOp .scl true c sc a b d) = clamp (x * 2 ^ sc.toNat)) ∧
    (signed 32 (laneOp .min true c sc a b d) = min x y ∧ signed 32 (laneOp .max true c sc a b d) = max x y)) ∧
  (∀ (acc : Nat) (f : Fmt) (ps : List (Nat × Nat)),
    let products := ps.map fun e => (elemVal f e.1).mul (elemVal f e.2)
    let sum := (products.map fun v => v.units 0).sum
    signed 32 (accumulate true acc products) = clamp (signed 32 acc + sum) ∧
    (f = .int4 → ps.length ≤ 4 → sum.natAbs ≤ 256) ∧ (f = .int8 → ps.length ≤ 2 → sum.natAbs ≤ 32768)) ∧
  ∀ (s : State) (t : TileId) (k : Fin 8) (f : Fields), Issues s t k → f.extractLsb' 32 6 = 0 →
    let z := s.slotOf t k
    let a := (z.value (f.extractLsb' 46 4)).toInt
    let b := if f.getLsbD 41 then (f.extractLsb' 0 32).toInt else (z.value (f.extractLsb' 42 4)).toInt
    let gives := fun (c : Instr) (v : Int) => Completes s c fun u =>
      (u.slotOf t k).regs = (z.written (f.extractLsb' 50 4) (BitVec.ofInt 32 v)).regs
    gives (.add t f) (a + b) ∧ gives (.sub t f) (a - b) ∧ gives (.mul t f) (a * b)

/-- R167, R168, R171, R179: `xsub` and `asub` complete, that is, `exec` answers a next state, where their table stands,
their records resolve and their unit has room: the submission is recorded with its unit, and the slot goes on. A
reserved bit that is set faults with ILLEGAL; a table that does not exist, and a count of 0 or beyond 16 or 256 records,
with FORMAT. -/
def Obligations.ServiceSubmissions : Prop :=
  ∀ (s : State) (t : TileId) (k : Fin 8) (f : Fields) (a : Nat), Issues s t k →
    let x := s.tile t
    let z := s.slotOf t k
    let tab := (f.extractLsb' 50 4).toFin
    let r := regionOf t
    let n := (z.value (f.extractLsb' 38 4)).toNat
    let sw := (z.value (f.extractLsb' 42 4)).toNat
    let dest := z.value (f.extractLsb' 34 4)
    let faults := fun (c : Instr) (cause : TileCause) => Completes s c fun u => Faulted s u t k cause
    (f.extractLsb' 0 34 ≠ 0 → faults (.xsub t f) .illegal ∧ faults (.asub t f) .illegal) ∧
    (f.extractLsb' 0 34 = 0 → (s.routerTable r tab = none ∨ n = 0 ∨ 16 < n → faults (.xsub t f) .format) ∧
      (s.selectTable r tab = none ∨ n = 0 ∨ 256 < n → faults (.asub t f) .format)) ∧
    (f.extractLsb' 0 34 = 0 →
    x.resolve (s.hquotaOf t) (z.value (f.extractLsb' 46 4)) true (8 * n) .read = .ok a →
    x.interlocked k false (spanOf a (8 * n)) [] = false → x.badIn (spanOf a (8 * n)) = none →
    (∀ q o, s.routerTable r tab = some (q, o) → 0 < n → n ≤ 16 →
      let rt := s.routers.getD (svcKey r tab) {}
      let sub : RouterSub := ⟨t, k, z.pc, fld sw 0 14, bitAt sw 15, dest, readRecs x.pad a n⟩
      fld sw 16 12 = rt.batch % 4096 → rt.failed = false → batchBad (q.routerDesc o) sub (rt.subs ++ [sub]) = none →
      Completes s (.xsub t f) fun u => (u.routers.getD (svcKey r tab) {}).subs = rt.subs ++ [sub] ∧
        u = { s with tiles := u.tiles, routers := u.routers } ∧ (∀ v, v ≠ t → u.tile v = s.tile v) ∧
        x.Issued (u.tile t) k (z.onto (z.pc + 1) .running) true) ∧
    (∀ sel, s.selectTable r tab = some sel → 0 < n → n ≤ 256 →
      let qs := s.selections.getD (svcKey r tab) []
      let num := fld sw 0 12
      qs.find? (fun q => q.query == num) = none → (qs.filter fun q => !q.complete).length < 64 →
      let q : SelQuery := ⟨num, if bitAt sw 15 then some ⟨t, k, z.pc, dest, fld sw 16 12 + 1⟩ else none,
        (List.range n).map fun i => let v := Memory.readLE x.pad (a + 8 * i) 8
                                    (fld v 0 12, fld v 32 32), false⟩
      q.bad (bit q.home.isSome) = none → Completes s (.asub t f) fun u =>
        (u.selections.getD (svcKey r tab) []).getLast? = some q ∧
        u = { s with tiles := u.tiles, selections := u.selections } ∧ (∀ v, v ≠ t → (s.tile v).Woken (u.tile v)) ∧
        (q.complete = false → ∀ v, v ≠ t → u.tile v = s.tile v) ∧ x.Issued (u.tile t) k (z.onto (z.pc + 1) .running) true))

/-- R68, R69, R72, R74, R109, R110, R338, R514 to R516: what faults a task: a non-zero reserved bit or a word of the
instruction store with an unassigned class or opcode (ILLEGAL), a branch target beyond 1,535 (ILLEGAL), a `wait` by
another slot or a `sig` on a count of 255 (SYNC), and an address that does not resolve or a `st` to bytes 0 to 3
(HANDLE); and what the fault leaves. That any of the commands faults where the store holds an unassigned word is the model's
choice, log 5, and which queued commands of the slot a fault discards is its reading, log 14. -/
def Obligations.TaskFaults : Prop :=
  (∀ (s : State) (t : TileId) (k : Fin 8) (f : Fields), Alive s → s.tileRuns t = true →
    ((s.tile t).settleRunning.pick).map Prod.fst = some k → (s.slotOf t k).pc.toNat ≤ 1535 →
    (s.tile t).badFetch (s.slotOf t k).pc.toNat = none →
    assigned ((s.tile t).imem.getD (s.slotOf t k).pc.toNat 0).toNat = false →
    ∀ c ∈ [Instr.nop t f, .add t f, .ld t f, .recv t f, .mma t f, .vadd t f, .fn t f, .xsub t f],
      Completes s c fun u => Faulted s u t k .illegal) ∧
  ∀ (s : State) (t : TileId) (k : Fin 8) (f : Fields), Issues s t k →
    let x := s.tile t
    let z := s.slotOf t k
    let e := (f.extractLsb' 35 4).toFin
    let addr := z.value (f.extractLsb' 46 4)
    let faults := fun (c : Instr) (cause : TileCause) => Completes s c fun u => Faulted s u t k cause
    (f.extractLsb' 0 35 ≠ 0 → faults (.nop t f) .illegal ∧ faults (.br t f) .illegal ∧ faults (.bz t f) .illegal ∧
      faults (.bnz t f) .illegal ∧ faults (.yield t f) .illegal ∧ faults (.sig t f) .illegal ∧ faults (.wait t f) .illegal ∧
      faults (.halt t f) .illegal) ∧
    (f.extractLsb' 0 35 = 0 → 1535 < (f.extractLsb' 43 11).toNat →
      faults (.br t f) .illegal ∧ faults (.bz t f) .illegal ∧ faults (.bnz t f) .illegal) ∧
    (f.extractLsb' 0 35 = 0 → x.events[e] = 255 → faults (.sig t f) .sync) ∧
    (f.extractLsb' 0 35 = 0 → x.waiters[e] ≠ k → faults (.wait t f) .sync) ∧
    (f.extractLsb' 32 6 ≠ 0 → faults (.li t f) .illegal ∧ faults (.add t f) .illegal ∧ faults (.cmp t f) .illegal) ∧
    (6 ≤ (f.extractLsb' 38 3).toNat → faults (.cmp t f) .illegal) ∧
    (f.extractLsb' 0 46 ≠ 0 → faults (.ld t f) .illegal ∧ faults (.st t f) .illegal) ∧
    (f.extractLsb' 0 46 = 0 → x.resolve (s.hquotaOf t) addr false 4 .read = .handle → faults (.ld t f) .handle) ∧
    (f.extractLsb' 0 46 = 0 → (x.resolve (s.hquotaOf t) addr false 4 (.write k) = .handle ∨
      x.resolve (s.hquotaOf t) addr false 4 (.write k) = .ok 0) → faults (.st t f) .handle)

/-- R109, R110: an address word resolves to a byte exactly when its table entry's word has good parity and no condition of
R110 holds; entry 0 stands for lines 0 to 3 in the narrow view whatever its word holds. -/
def Obligations.HandleResolution : Prop :=
  ∀ (x : Tile) (quota : Nat) (addr : Word) (wide : Bool) (extent a : Nat) (acc : Access),
    let h := (addr.extractLsb' 26 6).toNat
    let off := (addr.extractLsb' 0 16).toNat
    let e := BitVec.ofNat 32 (Memory.readLE x.pad (4 * h) 4)
    let base := if h = 0 then 0 else (e.extractLsb' 0 10).toNat
    let size := if h = 0 then 3 else (e.extractLsb' 10 10).toNat
    let view := if h = 0 then 1 else e.extractLsb' 20 1
    let hint := if h = 0 then 1 else e.extractLsb' 21 2
    let valid := if h = 0 then 1 else e.extractLsb' 23 1
    x.resolve quota addr wide extent acc = .ok a ↔
      x.badWord h = false ∧ valid = 1#1 ∧ addr.extractLsb' 16 10 = 0 ∧ h < quota ∧
      (h = 0 ∨ 4 ≤ base ∧ base + size ≤ 1023) ∧ hint ≠ 3#2 ∧ view = (if wide then 0#1 else 1#1) ∧
      off % (if wide then 64 else 4) = 0 ∧ (extent = 0 ∨ off + extent ≤ (size + 1) * 64) ∧
      (match acc with
        | .read => True
        | .write k => e.getLsbD (24 + k.1) = true ∧ hint ≠ 2#2
        | .result => hint ≠ 2#2) ∧
      a = 64 * base + off

/-! ### Strings, the mesh and the service units -/

/-- R128, R139, R140: reading the source lines of the oldest unread `send` injects its packets at the tile and marks it read.
That they enter on lane 0 is the model's choice, log 9. -/
def Obligations.SourceLinesLeave : Prop :=
  ∀ (s : State) (t : TileId) (n : Fin 32) (q : SendOp), Alive s → s.unitsRun t = true →
    let x := s.tile t
    let z := x.strs[n]
    z.sends.find? (fun q => !q.read) = some q → q.chain = none → x.badIn [⟨q.at_, z.lines⟩] = none →
    Completes s (.sendSourceRead t n) fun u =>
      u = { s with tiles := u.tiles, mesh := u.mesh } ∧ (∀ v, v ≠ t → u.tile v = s.tile v) ∧
      u.mesh = s.mesh ++ (packets (s.header t n q.seq) z.lines z.zskip (Memory.readBytes x.pad q.at_ (64 * z.lines))).map
        (InFlight.mk t 6 0) ∧
      ((u.tile t).strs[n]).sends = z.sends.map (fun r => if r.seq = q.seq then { r with read := true } else r) ∧
      (u.tile t).pad = x.pad ∧ ∀ m, m ≠ n → (u.tile t).strs[m] = x.strs[m]

/-- R150, R357: the chain engine issues iteration `j` of a stage that is ready and that no earlier command of the chain
holds: an IN stage posts its string, an OUT stage spends a credit, a unit stage enters its unit's queue, each with the
chain's tag. -/
def Obligations.ChainStagesIssue : Prop :=
  ∀ (s : State) (t : TileId) (c : Fin 4) (i : Fin 6) (r : ChainRun) (j : Nat), Alive s → s.tileRuns t = true →
    let x := s.tile t
    let inAddr := if i.1 = 0 then none else (r.rings[i.1 - 1]?).map fun g => g.slot j
    let outAddr := (r.rings[i.1]?).map fun g => g.slot j
    x.runs[c] = some r → r.ready i.1 = some j → r.held x (s.hquotaOf t) (x.chains[c]) c i.1 j = false →
    (∀ n, chainStage (x.chains[c]) i.1 = some (.inp n) → (x.strs[n]).posts.length < (x.strs[n]).outst →
      Completes s (.chainStageIssue t c i) fun u => ((u.tile t).strs[n]).posts = (x.strs[n]).posts ++
          [⟨r.slot, (x.strs[n]).next, (outAddr.map (·.at_)).getD 0, [], false, 0, some ⟨c, i.1, j⟩⟩] ∧ (u.tile t).pad = x.pad ∧
        (u.tile t).runs[c] = some { r with issued := modNth r.issued i.1 (· + 1) }) ∧
    (∀ n, chainStage (x.chains[c]) i.1 = some (.out n) → 0 < (x.strs[n]).credits →
      Completes s (.chainStageIssue t c i) fun u => OnlyTiles s u [t] ∧ u.tile t = { x with
        advanced := true, runs := vset x.runs c (some { r with issued := modNth r.issued i.1 (· + 1) })
        strs := vset x.strs n { x.strs[n] with
          sends := (x.strs[n]).sends ++ [⟨r.slot, r.pc, (x.strs[n]).next, (inAddr.map (·.at_)).getD 0, false, some ⟨c, i.1, j⟩⟩]
          next := (x.strs[n]).next + 1, credits := (x.strs[n]).credits - 1 } }) ∧
    (∀ w plan cmd, chainStage (x.chains[c]) i.1 = some (.unit w) → x.full (unitOf (fld w 60 4)) = false →
      planUnit w = some plan →
      plan x (r.resolver (s.hquotaOf t)) r.slot r.pc (fun n => Slot.reg { regs := r.regs } n) w inAddr outAddr (some ⟨c, i.1, j⟩) =
        .ok cmd → x.interlocked r.slot true cmd.reads cmd.writes = false →
      (x.queue (unitOf (fld w 60 4)) ++ [cmd]).head?.any UnitCmd.empty = false →
      Completes s (.chainStageIssue t c i) fun u => OnlyTiles s u [t] ∧
        (u.tile t).queue (unitOf (fld w 60 4)) = x.queue (unitOf (fld w 60 4)) ++ [cmd] ∧ (u.tile t).pad = x.pad ∧
        (u.tile t).runs[c] = some { r with issued := modNth r.issued i.1 (· + 1) })

/-- R131, R132, R153: a header at an input port whose route entry matches leaves by the entry's output port on its next
channel and lane, or is delivered into the post it fills at the eject port; without a match the packet is dropped and
counted, and nothing else changes. -/
def Obligations.MeshForwarding : Prop :=
  ∀ (s : State) (t : TileId) (port : Fin 7) (lane : Fin 2) (i : Nat) (f : InFlight), Alive s → s.routerRuns t = true →
    s.mesh.findIdx? (fun g => g.tile == t && g.port == port && g.lane == lane) = some i → s.mesh[i]? = some f →
    let e := (s.tile t).routes[f.pkt.ch.toFin]
    let fits := e.getLsbD 16 = true ∧ (e.extractLsb' 0 3).toNat = port.1 ∧ (e.extractLsb' 12 3).toNat = f.pkt.ctx.1
    let rest := s.mesh.eraseIdx i
    (∀ q port', fits → e.extractLsb' 3 3 ≠ 6 → hop t (e.extractLsb' 3 3).toNat = some (q, port') →
      (s.regions[regionOf q]).state ≠ .lost → Completes s (.packetHeaderArrive t port lane) fun u =>
        u = { s with mesh := rest ++ [⟨q, port', (e.extractLsb' 11 1).toFin, { f.pkt with ch := e.extractLsb' 6 5 }⟩] }) ∧
    (∀ z, fits → e.extractLsb' 3 3 = 6 → s.ctxOf t = some f.pkt.ctx → (s.ctx f.pkt.ctx).state ≠ .free →
      (s.ctx f.pkt.ctx).gen = f.pkt.gen →
      ((s.tile t).strs[f.pkt.str]).posts.find? (fun q => !q.done && BitVec.ofNat 16 q.seq == f.pkt.seq) = some z →
      Completes s (.packetHeaderArrive t port lane) fun u => u = { s with mesh := rest, tiles := u.tiles } ∧
        (∀ v, v ≠ t → u.tile v = s.tile v) ∧
        (u.tile t).pad = ((s.tile t).wideWrite (z.at_ + 64 * f.pkt.loff.toNat) f.pkt.payload).pad ∧
        (u.tile t).slots = (s.tile t).slots) ∧
    (¬fits → Completes s (.packetHeaderArrive t port lane) fun u => u = { s with mesh := rest, regs := u.regs } ∧
      u.rfld Reg.strCause 1 1 = 1 ∧ u.reg Reg.strDrops = min (s.reg Reg.strDrops + 1) (2 ^ 32 - 1))

/-- R171 to R175, R177: a closed batch is decided, and its results are written at the homes and experts; then the next
batch is current. -/
def Obligations.RouterBatches : Prop :=
  ∀ (s : State) (r : Fin 48) (tab : Fin 16), Alive s → (s.regions[r]).state = .active →
    let rt := s.routers.getD (svcKey r tab) {}
    (∀ q o, s.routerTable r tab = some (q, o) → rt.decided = false → rt.failed = false →
      batchClosed (q.routerDesc o) rt.subs = true →
      let res := batchResults q o r rt.subs (batchAssign (q.routerDesc o) rt.subs)
      s.deliverBad res.1 res.2 = none → Completes s (.routerBatchDecide r tab) fun u =>
        u = { s with routers := u.routers, regs := u.regs, ctxs := u.ctxs } ∧
        u.routers.getD (svcKey r tab) {} = { rt with decided := true, writes := res.1, signals := res.2 }) ∧
    (rt.decided = true → rt.failed = false → s.deliverParity rt.writes = none →
      s.deliverBad rt.writes rt.signals = none → Completes s (.routerResultsWritten r tab) fun u =>
      u = { s with routers := u.routers, tiles := u.tiles } ∧ u.routers.getD (svcKey r tab) {} = { batch := rt.batch + 1 } ∧
      ∀ v, ((s.deliver rt.writes rt.signals).tile v).Woken (u.tile v))

/-- R180: a complete query block is decided: its list of key blocks is written at its home, its event signalled, and the
block leaves the unit. -/
def Obligations.SelectionQueries : Prop :=
  ∀ (s : State) (r : Fin 48) (tab : Fin 16) (num : Fin 4096) (q : SelQuery) (h : SelHome)
    (sel sink loc ev : Nat), Alive s → (s.regions[r]).state = .active → s.selectTable r tab = some (sel, sink, loc, ev) →
    let qs := s.selections.getD (svcKey r tab) []
    let t := h.tile
    let keys := chooseKeys sel sink loc h.v q.scores
    let w : ServiceWrite := ⟨t, some (h.slot, h.pc), h.dest, 136, leBytes 8 keys.length ++ keys.flatMap (leBytes 2)⟩
    qs.find? (fun q => q.query == num.1 && q.complete && !q.failed) = some q → q.home = some h →
    s.deliverParity [w] = none → s.deliverBad [w] [(t, finOf 16 ev)] = none → Completes s (.selectionQueryDecide r tab num) fun u =>
      u = { s with selections := u.selections, tiles := u.tiles, ctxs := u.ctxs } ∧
      u.selections.getD (svcKey r tab) [] = qs.filter (fun y => y.query != num.1) ∧
      (u.tile t).events[finOf 16 ev] = (s.tile t).events[finOf 16 ev] + 1 ∧
      (∀ x, x ≠ t → (s.tile x).Woken (u.tile x)) ∧
      ∀ a, (s.tile t).resolve (s.hquotaOf t) h.dest true 136 .result = .ok a →
        (u.tile t).pad = ((s.tile t).wideWrite a w.bytes).pad

/-! ### Edge streams (R136, R143 to R148, R230, R308) -/

/-- R146, R230, R231: with no mark before it and with room in the prefetch, an inbound member stages its next transfer: the one
that has arrived from the fabric, or the lines of the deep range that its pattern names, once they can be read; the pages of
the transfers that its run-ahead still reaches are asked for, and nothing else changes. A page that is not there is asked of
the first server of its segment. -/
def Obligations.MemberTransfers : Prop :=
  ∀ (s : State) (side : Fin 4) (stream : Fin 16384) (m : Nat) (c : Fin 8) (q : Scroll), Alive s →
    s.edgeCtx side.1 stream.1 = some c → s.scroll? c = some q →
    let e := s.edgeOf c side.1 stream.1
    let y := (s.ctx c).member side.1 stream.1 m
    m < e.members → s.edgeRuns c = true → s.clkLost.getLsbD (32 + side.1) = false → e.outbound = false →
    y.arm = none → y.cur = none → y.atEnd e = false → e.markCount = 0 → y.next < y.sentDown + e.prefetch →
    y.staged = [] → y.credits = 0 →
    (∀ x rest, e.kind = 3 → y.arrived = x :: rest → x.credited = false →
      Completes s (.memberTransferStart side stream m) fun u => u = { s with ctxs := u.ctxs } ∧
        (∀ d, d ≠ c → u.ctx d = s.ctx d) ∧
        (u.ctx c).member side.1 stream.1 m = { y with arrived := rest, staged := [x], next := y.next + 1, stop := .none }) ∧
    (∀ bs t, e.kind = 2 → 0 < e.lines → e.lines ≤ 64 → (s.ctx c).forcedCode side.1 stream.1 m y.next 0 = none →
      let s1 := s.modMember c side.1 stream.1 m fun y => { y with cur := some { seq := y.next }, stop := .none }
      State.readLines c q ((e.memberTile m).map regionOf)
        ((pieceLines e.lines 0).map fun i => e.lineAddr (y.baseOf e m) (y.next - y.spanStart) i) [] s1 = (.done bs, t) →
      (t.ctx c).member side.1 stream.1 m = { y with cur := some { seq := y.next }, stop := .none } →
      Completes s (.memberTransferStart side stream m) fun u => ((u.ctx c).member side.1 stream.1 m).staged =
          [{ seq := y.next, bytes := Memory.writeBytes [] 0 bs, piece := 1 }] ∧
        ((u.ctx c).member side.1 stream.1 m).next = y.next + 1 ∧ u.tiles = t.tiles ∧ u.mesh = t.mesh ∧
        (y.sentDown + e.prefetch = y.next + 1 → u = { t with ctxs := u.ctxs } ∧ (u.ctx c).mem = (t.ctx c).mem) ∧
        (let z : Member := { y with
           cur := none, staged := [{ seq := y.next, bytes := Memory.writeBytes [] 0 bs, piece := 1 }], next := y.next + 1, stop := .none }
         u = (t.modMember c side.1 stream.1 m fun _ => z).lookAhead c q side stream.1 m e) ∧
        (∀ g pg, e.lines = 1 → y.sentDown + e.prefetch = y.next + 2 → e.persist = false → (t.ctx c).rolling = false →
          pg = pageOf (e.lineAddr (y.baseOf e m) (y.next + 1 - y.spanStart) 0) → q.reach (pg * 2 ^ 21) ((e.memberTile m).map regionOf) = some g →
          q.segOf pg = some g → g.cls = 0 → g.init = 1 → ((t.ctx c).page q pg).state = .unbacked → ((t.ctx c).page q pg).poison = false →
          (u.ctx c).fetches.get? pg = some {} ∧ ((u.ctx c).page q pg).state = .moving ∧ (u.ctx c).mem = (t.ctx c).mem))

/-- R140, R145: the oldest posted transfer of a string whose lines are all present is done; a written transfer of an
outbound member is done, and its tile holds a credit again. -/
def Obligations.TransfersComplete : Prop :=
  ∀ (s : State), Alive s →
    (∀ (t : TileId) (n : Fin 32) (p : Post), s.unitsRun t = true →
      let z := (s.tile t).strs[n]
      z.posts.find? (fun p => !p.done) = some p → p.got.length = z.lines → p.chain = none → z.kind = 0 →
      Completes s (.transferComplete (.str t n)) fun u => OnlyTiles s u [t] ∧ (u.tile t).pad = (s.tile t).pad ∧
        ((u.tile t).strs[n]).posts = z.posts.map fun r => if r.seq = p.seq then { r with done := true } else r) ∧
    (∀ (side : Fin 4) (stream : Fin 16384) (m : Nat) (c : Fin 8) (t : TileId),
      s.edgeCtx side.1 stream.1 = some c →
      let e := s.edgeOf c side.1 stream.1
      let y := (s.ctx c).member side.1 stream.1 m
      e.outbound = true → y.done < y.next → e.kind ≠ 3 → e.memberTile m = some t →
      Completes s (.transferComplete (.mem side stream m)) fun u =>
        ((u.ctx c).member side.1 stream.1 m).done = y.done + 1 ∧
        ((u.tile t).strs[finOf 32 e.str]).credits = ((s.tile t).strs[finOf 32 e.str]).credits + 1 ∧
        (u.tile t).pad = (s.tile t).pad ∧ ∀ v, v ≠ t → u.tile v = s.tile v)

/-- R306, R308: a DATA frame at the next expected byte of its member, within its transfer, the first one or a later one of
it: the bytes are placed, the credit it used is counted, and the transfer is handed to its member once its last byte is
there. -/
def Obligations.DataFrames : Prop :=
  ∀ (s : State) (p : Fin 64) (f : Frame) (q : Scroll) (side stream role src : Nat), Arrives s p 0x01 f →
    let c := finOf 8 f.context.toNat
    let m := (f.offset.extractLsb' 44 20).toNat
    let off := (f.offset.extractLsb' 0 44).toNat
    s.scroll? c = some q →
    (q.fabric.find? fun e => let d := s.edgeOf c e.1 e.2.1
                             d.valid && !d.outbound && d.kind == 3 && d.fstream == f.stream.toNat &&
                               e.2.2.2 == f.source.toNat) = some (side, stream, role, src) →
    let e := s.edgeOf c side stream
    let y := (s.ctx c).member side stream m
    let T := 64 * e.lines
    let x := y.asm.getD { seq := off / T }
    let a := s.accepts p f
    let rest := fun (u : State) => u = { a with ctxs := u.ctxs, given := (a.consumed c f.source (e.fstream, 4, m)).given } ∧
      ∀ d, d ≠ c → u.ctx d = s.ctx d
    m < e.members → 0 < e.lines → off = y.expected → x.seq = off / T → x.code = 0 → x.bad = [] → (s.ctx c).replay = none →
    (off % T + f.payload.length < T → ({ f with type := 0x01 } : Frame).isEnd = false → Completes s (.data p f) fun u =>
      rest u ∧ (u.ctx c).member side stream m = { y with
        asm := some { x with bytes := Memory.writeBytes x.bytes (off % T) f.payload }, expected := off + f.payload.length }) ∧
    (off % T + f.payload.length = T → Completes s (.data p f) fun u =>
      rest u ∧ ((u.ctx c).member side stream m).expected = off + f.payload.length ∧ ((u.ctx c).member side stream m).asm = none ∧
      ∃ z, ((u.ctx c).member side stream m).arrived = y.arrived ++ [z] ∧ z.seq = off / T ∧ z.code = 0 ∧
        z.bytes = Memory.writeBytes x.bytes (off % T) f.payload)

/-! ### The deep range (08_memory_tiers.md) -/

/-- R225, R226: WB_ACK of the only outstanding write-back of a granule clears its dirty bit, unless it was written again,
and counts; WB_NAK ends the granule's write-back and leaves it dirty, and a page under eviction is RESIDENT again. The
contents of memory stay. The spec gives WB_NAK no further effect: that the next eviction or the cut's write-back sends the
granule again is the model's choice, log 18. -/
def Obligations.WriteBackAnswers : Prop :=
  ∀ (s : State) (p : Fin 64) (f : Frame) (q : Scroll) (pg : Nat),
    let c := finOf 8 f.context.toNat
    let n := f.offset.toNat / 2 ^ 16 % 32
    let x := s.ctx c
    let y := x.page q pg
    s.scroll? c = some q →
    x.pageAt q (f.offset.toNat / 2 ^ 21) (fun _ g => g.sources.contains f.source.toNat) = some pg →
    (∀ g, Arrives s p 0x24 { f with flags := f.flags ||| 4 } → q.segOf pg = some g → g.src0 = f.source.toNat →
      y.flying.getLsbD n = true → y.flying1.getLsbD n = false → y.snap = false → y.state = .resident → x.bg = none →
      Completes s (.wbAck p f) fun u => u = { s.accepts p f with ctxs := u.ctxs, regs := u.regs } ∧
        (u.ctx c).mem = x.mem ∧ (u.ctx c).page q pg = { y with
          flying := y.flying &&& ~~~(BitVec.ofNat 32 (2 ^ n)), cutSent := y.cutSent &&& ~~~(BitVec.ofNat 32 (2 ^ n))
          cutDirty := if y.cutSent.getLsbD n then y.cutDirty &&& ~~~(BitVec.ofNat 32 (2 ^ n)) else y.cutDirty
          dirty := if y.fresh.getLsbD n then y.dirty else y.dirty &&& ~~~(BitVec.ofNat 32 (2 ^ n)) } ∧
        u.reg Reg.memMigOut = (s.reg Reg.memMigOut + 1) % 2 ^ 32) ∧
    (Arrives s p 0x24 { f with flags := f.flags &&& 0xFB } → y.flying.getLsbD n = true ∨ y.flying1.getLsbD n = true →
      let b := ~~~(BitVec.ofNat 32 (2 ^ n))
      Completes s (.wbNak p f) fun u => (u.ctx c).mem = x.mem ∧ ((u.ctx c).page q pg).dirty = y.dirty ∧
        u = (s.accepts p f).modCtx c fun x => x.setPage pg { y with
          flying := y.flying &&& b, flying1 := y.flying1 &&& b, cutSent := y.cutSent &&& b
          state := if y.state = .moving ∧ y.move = .evict ∧ x.rolling = false then .resident else y.state }) ∧
    (Arrives s p 0x24 { f with flags := f.flags &&& 0xFB } → y.flying.getLsbD n = false → y.flying1.getLsbD n = false →
      Completes s (.wbNak p f) fun u => u = s.accepts p f)

/-- R32, R216, R223, R234, R238: PAGE_DATA in order extends a page's fetch; the END frame of a whole page whose CRC-64
agrees makes the page RESIDENT with the bytes fetched; a wrong CRC and PAGE_ERR turn to the alternate server, or with
none left poison the page; a fetch into a stack out of lock ends, and its page is REMOTE again, by the model's reading,
log 19. At DEADLINE the request of the transfer due that waits for a page's fetch ends with LATE, and the fetch goes on.
-/
def Obligations.PageFetches : Prop :=
  (∀ (s : State) (p : Fin 64) (f : Frame) (q : Scroll) (pg : Nat) (t : Fetch) (g : Segment),
     let c := finOf 8 f.context.toNat
     let x := s.ctx c
     s.scroll? c = some q → q.segOf pg = some g → x.fetches.get? pg = some t →
     (Arrives s p 0x21 f → f.isEnd = false → x.fetchOf q f = some (pg, t) → f.offset.toNat % 2 ^ 21 = t.next →
       Completes s (.pageData p f) fun u => u = { s.accepts p f with ctxs := u.ctxs } ∧ u.ctx c = { x with
         fetches := x.fetches.set pg { t with
           bytes := Memory.writeBytes t.bytes t.next f.payload, next := t.next + f.payload.length } }) ∧
     (Arrives s p 0x21 f → f.isEnd = true → x.fetchEnd q f = some (pg, t) → t.next = 2 ^ 21 →
       s.stackLost (x.page q pg).stack = false →
       (crc64 (Memory.readBytes t.bytes 0 (2 ^ 21))).toNat = leAt f.payload 0 8 → x.bg = none →
       Completes s (.pageData p f) fun u => (u.ctx c).page q pg = { x.page q pg with
           state := .resident, poison := false, dirty := 0 } ∧
         (u.ctx c).mem = Memory.copy x.mem t.bytes (pg * 2 ^ 21) 0 (2 ^ 21) ∧
         (u.ctx c).fetches = x.fetches.erase pg ∧ u.reg Reg.memMigIn = (s.reg Reg.memMigIn + 1) % 2 ^ 32) ∧
     (let fails := fun (i : Instr) =>
        (t.source = 0 → 2 ≤ g.sources.length → Completes s i fun u =>
          (u.ctx c).fetches.get? pg = some { source := 1 } ∧ (u.ctx c).mem = x.mem ∧ (u.ctx c).pages = x.pages) ∧
        (t.source = 1 ∨ g.sources.length ≤ 1 → x.bg = none → x.members = [] → Completes s i fun u =>
          u = { s.accepts p f with ctxs := u.ctxs } ∧ (∀ d, d ≠ c → u.ctx d = s.ctx d) ∧
          ((u.ctx c).page q pg).poison = true ∧ ((u.ctx c).page q pg).state = .remote ∧ (u.ctx c).fetches = x.fetches.erase pg ∧
          ∀ o, o ≠ pg → (u.ctx c).page q o = x.page q o)
      (Arrives s p 0x22 f → x.fetchOf q f = some (pg, t) → fails (.pageErr p f)) ∧
      (Arrives s p 0x21 f → f.isEnd = false → x.fetchOf q f = some (pg, t) → f.offset.toNat % 2 ^ 21 ≠ t.next → fails (.pageData p f)) ∧
      (Arrives s p 0x21 f → f.isEnd = true → x.fetchEnd q f = some (pg, t) → s.stackLost (x.page q pg).stack = false →
        ¬(t.next = 2 ^ 21 ∧ (crc64 (Memory.readBytes t.bytes 0 (2 ^ 21))).toNat = leAt f.payload 0 8) → fails (.pageData p f)) ∧
      (Arrives s p 0x21 f → f.isEnd = true → x.fetchEnd q f = some (pg, t) → s.stackLost (x.page q pg).stack = true → x.bg = none →
        x.members = [] → Completes s (.pageData p f) fun u => u = { s.accepts p f with ctxs := u.ctxs } ∧
          ((u.ctx c).page q pg).state = .remote ∧ (u.ctx c).fetches = x.fetches.erase pg ∧ ∀ d, d ≠ c → u.ctx d = s.ctx d))) ∧
  ∀ (s : State) (c : Fin 8) (q : Scroll) (pg : Nat) (t : Fetch) (side : Fin 4) (stream : Fin 16384) (m : Nat) (y : Member)
    (x : Xfer), Alive s → s.scroll? c = some q → s.rfld Reg.memCtrl 0 14 ≠ 0 → (s.ctx c).replay = none →
    (s.ctx c).fetches.get? pg = some t → (s.ctx c).members = [(16384 * side.1 + stream.1, [(m, y)])] →
    (s.edgeOf c side.1 stream.1).outbound = false → y.stop = .fetch pg → y.cur = some x → y.staged = [] →
    x.seq ≤ y.sentDown → x.credited = false → y.credits = 0 →
    Completes s (.remoteFetchDeadline c pg) fun u => (u.ctx c).fetches = (s.ctx c).fetches ∧ (u.ctx c).mem = (s.ctx c).mem ∧
      (u.ctx c).member side.1 stream.1 m = { y with
        cur := none, stop := .none, next := y.next + 1
        staged := [x.fail 3 (((s.edgeOf c side.1 stream.1).lines + 63) / 64)] } ∧
      (u.ctx c).errs = (s.ctx c).errs ++ [⟨side, 3, stream.1, m, x.seq, x.piece⟩] ∧ u.rfld Reg.memCause 1 1 = 1

/-- R206, R236, R240 to R242, R300, R32, R393: a window records its ratio, adds to a context's run of imbalance or ends it,
and sets IMBALANCE at the end of a run; what FEC and the stacks corrected in it is counted; while every stack serves
requests, a page moves to a frame under the new key with its contents; a granule of a wide buffer is cleared. RATIO rounded
down, and 255 of a context that read nothing, are the model's choice, log 19; that the window brings the counts of FEC and of
the stacks is its reading, log 43. -/
def Obligations.MemoryUpkeep : Prop :=
  ∀ (s : State) (c : Fin 8) (q : Scroll), Alive s → s.scroll? c = some q →
    let x := s.ctx c
    (∀ (s : State) (seen : WindowCounts), (s.countCorrected seen).health.corrected = s.health.corrected + seen.corrected ∧
      ∀ p a b, seen.fec = [(p, a, b)] →
        (s.countCorrected seen).rfld (Reg.fabFec p.1) 0 32 = min (s.rfld (Reg.fabFec p.1) 0 32 + a) (2 ^ 32 - 1) ∧
        (s.countCorrected seen).rfld (Reg.fabErr p.1) 0 16 = min (s.rfld (Reg.fabErr p.1) 0 16 + b) (2 ^ 16 - 1)) ∧
    (∀ seen : WindowCounts, (∀ e ∈ seen.bytes, e.1 = c) → x.rekeying = false →
      let bytes := seen.bytes
      let v := s.countCorrected seen
      let total := (bytes.map (·.2.2)).sum
      let top := (bytes.map (·.2.2)).foldl max 0
      let sum := ((bytes.filter fun e => q.stacks.contains (finOf 12 (e.2.1.1 / 32))).map (·.2.2)).sum
      let share := top * 16 * (32 * q.stacks.length)
      let ratio := if sum = 0 then 255 else min 255 (share / sum)
      let high := s.rfld Reg.memCtrl 14 7 * sum < share
      let counted := fun (run : Nat) => Completes s (.imbalanceWindow seen) fun u =>
        u = { v with regs := u.regs, ctxs := vset s.ctxs c { x with imbRun := run } } ∧ u.rfld Reg.memImb 12 8 = ratio ∧
        u.rfld Reg.memImb 0 12 = s.rfld Reg.memImb 0 12 ∧ ∀ o, o ≠ Reg.memImb → u.reg o = v.reg o
      10000000000 ≤ total →
      (¬high → counted 0) ∧ (high → x.imbRun + 1 < s.rfld Reg.memCtrl 21 8 → counted (x.imbRun + 1)) ∧
      (high → s.rfld Reg.memCtrl 21 8 ≤ x.imbRun + 1 → Completes s (.imbalanceWindow seen) fun u =>
        u = { v with ctxs := u.ctxs, regs := u.regs } ∧ u.rfld Reg.memCause 6 1 = 1 ∧ u.rfld Reg.memImb 0 3 = c.1 ∧
        u.rfld Reg.memImb 12 8 = ratio ∧ u.rfld Reg.memImb 20 1 = 1 ∧ (u.ctx c).imbRun = 0 ∧
        (u.ctx c).rekeyReq = (x.rekeyReq || (s.ownerFlag 0 && s.rfld Reg.memCtrl 29 1 == 1)))) ∧
    (∀ (page : Nat) (y : Page) (g : Segment) (rest : List (Nat × Page)), x.rekeying = true → q.segOf page = some g →
      (x.pages.filter fun e => e.2.state == .resident && e.2.key != x.keySel) = (page, y) :: rest → y.snap = false →
      x.stoppedOn q page = false → x.pages.get? page = some y → (∀ k, s.stackServes k = true) →
      Completes s (.rekeyPageMove c page) fun u => u = { s with ctxs := u.ctxs, regs := u.regs } ∧ (u.ctx c).mem = x.mem ∧
        ∃ k n, (u.ctx c).page q page = { y with key := x.keySel, stack := k, frame := n }) ∧
    (∀ (wbuf : Fin 8) (granule b len : Nat), q.wides[wbuf.1]? = some (b, len) → granule * 2 ^ 16 < len →
      x.cleared.has (2 ^ 24 * wbuf.1 + granule) = false → x.inStep = true →
      (let y := x.page q (pageOf (b + granule * 2 ^ 16))
       s.pageServed y = true) →
      Completes s (.wideGranuleCleared c wbuf granule) fun u => u = { s with ctxs := u.ctxs, out := u.out } ∧
        (u.ctx c).cleared = x.cleared.add (2 ^ 24 * wbuf.1 + granule) ∧
        (∀ a, b + granule * 2 ^ 16 ≤ a → a < b + granule * 2 ^ 16 + 2 ^ 16 → Memory.read (u.ctx c).mem a = 0) ∧
        ∀ a, a < b + granule * 2 ^ 16 ∨ b + granule * 2 ^ 16 + 2 ^ 16 ≤ a →
          Memory.read (u.ctx c).mem a = Memory.read x.mem a)

/-! ### Weights (09_weight_streaming.md) -/

/-- R254, R255: the failure of a source is counted and the loop goes to the next engine of its list, or at the end of the
list waits its millisecond and reports a hold once HOLD_LIMIT has passed; the retry begins at the head of the list; bytes
in order extend the copy; an early push is held, and one that is not taken is discarded. -/
def Obligations.ShardSources : Prop :=
  ∀ (s : State) (c : Fin 8) (o : Obtain) (q : Scroll) (l : Layout) (b : Fin 2), Alive s →
    s.obtainAt c o = some (q, l, b) → l.side ≤ 3 → l.tensor < 65536 →
    (∀ b : Fin 2, (s.ctx c).banks[b].state ≠ .building) →
    let list := (q.sources l.srclist).1
    let next : Obtain := { o with idx := o.idx + 1, bytes := [], firstFail := some (o.firstFail.getD s.phys) }
    let late := (o.firstFail.getD s.phys) + s.rfld Reg.wstCtrl 20 8 * 100000000 ≤ s.phys ∧ o.reported = false
    let fails := fun (cmd : Instr) (s : State) =>
      (∀ role engine, list[o.idx + 1]? = some (role, engine) → role ≠ 0 → Completes s cmd fun u =>
        u = (((s.cause Reg.wstCause 0).count Reg.wstFails 0 16 1).requestShard c l next engine).modCtx c (·.setObtain next)) ∧
      (list[o.idx + 1]? = none → Completes s cmd fun u => u = { s with ctxs := u.ctxs, regs := u.regs } ∧
        u.ctx c = (s.ctx c).setObtain { next with retry := true, reported := o.reported || decide late } ∧
        (∀ d, d ≠ c → u.ctx d = s.ctx d) ∧ u.rfld Reg.wstCause 0 1 = 1 ∧
        u.rfld Reg.wstFails 0 16 = min (s.rfld Reg.wstFails 0 16 + 1) 65535 ∧
        (late → u.rfld Reg.wstCause 1 1 = 1 ∧ u.rfld Reg.wstFails 16 16 = min (s.rfld Reg.wstFails 16 16 + 1) 65535 ∧
          (s.rfld Reg.wstCause 1 1 = 0 → u.rfld Reg.wstHoldAt 5 16 = l.tensor % 2 ^ 16 ∧ u.rfld Reg.wstHoldAt 21 1 = 1 ∧
            u.reg Reg.wstHoldShard = o.shard % 2 ^ 32)) ∧
        (¬late → u.rfld Reg.wstCause 1 1 = s.rfld Reg.wstCause 1 1 ∧
          u.rfld Reg.wstFails 16 16 = s.rfld Reg.wstFails 16 16))
    ((s.ctx c).waiting o.tensor o.shard = [o] → fails (.shardSourceTimeout c o.tensor o.shard) s) ∧
    (∀ role engine, ((s.ctx c).obtains.filter fun (r : Obtain) =>
        r.tensor == o.tensor && r.shard == o.shard && r.retry) = [o] →
      list[0]? = some (role, engine) → role ≠ 0 → let again : Obtain := { o with idx := 0, retry := false }
      Completes s (.shardRetry c o.tensor o.shard) fun u =>
        u = (s.requestShard c l again engine).modCtx c (·.setObtain again)) ∧
    (∀ tensor shard, Completes s (.pushDiscard c tensor shard) fun u =>
      u = s.modCtx c fun x => { x with pushes := x.pushes.filter fun p => !(p.tensor == tensor && p.shard == shard) }) ∧
    (∀ (p : Fin 64) (f : Frame) (role : Nat), f.context.toNat = c.1 →
      ((s.ctx c).obtains.find? fun (r : Obtain) => r.version == o.version && r.tensor == f.stream.toNat && r.shard == o.shard &&
        !r.retry) = some o → (shardFields f).1 = o.version → (shardFields f).2.1 = o.shard →
      list[o.idx]? = some (role, f.source) → role ≠ 0 →
      (Arrives s p 0x11 f → (shardFields f).2.2 = o.bytes.length → f.isEnd = false → Completes s (.shardData p f) fun u =>
        u = (s.accepts p f).modCtx c (·.setObtain { o with bytes := o.bytes ++ f.payload.drop 8 })) ∧
      (∀ role' engine, Arrives s p 0x12 f → list[o.idx + 1]? = some (role', engine) → role' ≠ 0 →
        Completes s (.shardAbsent p f) fun u =>
          u = ((((s.accepts p f).cause Reg.wstCause 0).count Reg.wstFails 0 16 1).requestShard c l next engine).modCtx c
            (·.setObtain next))) ∧
    (∀ (p : Fin 64) (f : Frame), f.context.toNat = c.1 → Arrives s p 0x13 f → (shardFields f).1 = o.version →
      (shardFields f).2.2 = 0 → (∀ r ∈ (s.ctx c).obtains, r.same ⟨o.version, f.stream.toNat, (shardFields f).2.1, 0, none,
        false, [], false⟩ = false) →
      ((s.ctx c).banks[b].stored.get? (shardKey f.stream.toNat (shardFields f).2.1)) = none →
      (∀ r ∈ (s.ctx c).pushes, r.shard ≠ (shardFields f).2.1) → (∀ e ∈ (s.ctx c).late, e.2.2 ≠ (shardFields f).2.1) → Completes s (.shardPush p f) fun u =>
        u = (s.accepts p f).modCtx c fun x => { x with pushes := x.pushes ++
          [⟨o.version, f.stream.toNat, (shardFields f).2.1, f.source, f.payload.drop 8, f.isEnd⟩] })

/-- R252, R256, R268, R270: a peer's request is answered with the stored bytes from their offset, and counted and pinned, or
at once with ABSENT, and a copy that fails its check is obtained again; the pin ends with the service, and a RETIRING or BAD
version without a pin frees its bank. Of several contexts that hold the shard the lowest-numbered one serves: the model's
choice, log 20. -/
def Obligations.PeerServices : Prop :=
  (∀ (s : State) (p : Fin 64) (f : Frame), Arrives s p 0x10 f →
    let v := (shardFields f).1
    let answer := fun (s : State) (ty at_ : Nat) (fin : Bool) (bs : List Byte) =>
      s.enqueue (some p) (s.frame ty 1 f.source f.context f.generation f.stream.toNat at_ fin
        (leBytes 4 v.toNat ++ [0, 0, 0, 0] ++ bs)) none none
    let holds := fun (c : Fin 8) (b : Fin 2) (bs : List Byte) => (s.ctx c).bankOf v = some b ∧
      (∃ q, s.scroll? c = some q ∧ (s.ctx c).banks[b].copy q f.stream.toNat (shardFields f).2.1 = some bs) ∧
      ((s.ctx c).banks[b].state = .ready ∨ (s.ctx c).banks[b].state = .current ∨ (s.ctx c).banks[b].state = .retiring)
    let mended := (s.accepts p f).mendCopies v f.stream.toNat (shardFields f).2.1
    let bad := fun (c : Fin 8) (q : Scroll) (b : Fin 2) => s.scroll? c = some q ∧ (s.ctx c).bankOf v = some b ∧
      ((s.ctx c).banks[b].state = .ready ∨ (s.ctx c).banks[b].state = .current ∨ (s.ctx c).banks[b].state = .retiring) ∧
      ((s.ctx c).banks[b].stored.get? (shardKey f.stream.toNat (shardFields f).2.1)).isSome = true ∧
      (s.ctx c).banks[b].copy q f.stream.toNat (shardFields f).2.1 = none
    ((∀ c q b, ¬bad c q b) → mended = s.accepts p f) ∧
    (∀ c q b l role engine, (∀ d q e, bad d q e → d = c) → bad c q b → q.layout? f.stream.toNat = some l →
      (s.ctx c).obtains = [] → (s.ctx c).late = [] → (q.sources l.srclist).1[0]? = some (role, engine) → role ≠ 0 →
      let o : Obtain := { version := v, tensor := l.tensor, shard := (shardFields f).2.1 }
      mended = ((s.accepts p f).requestShard c l o engine).modCtx c (·.setObtain o)) ∧
    ((∀ c b bs, ¬holds c b bs) → Completes s (.shardReq p f) fun u => u = answer mended 0x12 f.offset.toNat true []) ∧
    (∀ c b bs, holds c b bs → (∀ d, d < c → ∀ e cs, ¬holds d e cs) → Completes s (.shardReq p f) fun u =>
      let rest := bs.drop (shardFields f).2.2
      let n := max 1 ((rest.length + 4087) / 4088)
      u = (List.range n).foldl (fun s i => answer s 0x11 ((shardFields f).2.1 * 2 ^ 40 + (shardFields f).2.2 + 4088 * i)
        (decide (i + 1 = n)) ((rest.drop (4088 * i)).take 4088))
        ((mended.modCtx c fun x => x.modBank b fun y => { y with services := y.services + 1 }).countMod
          Reg.wstPeer 1))) ∧
  ∀ (s : State) (c : Fin 8) (v : Word) (b : Fin 2), Alive s → (s.ctx c).bankOf v = some b →
    (s.ctx c).pending = none → (∀ e : Fin 2, (s.ctx c).banks[e].state ≠ .retiring ∧ (s.ctx c).banks[e].state ≠ .bad ∨ e = b) →
    let y := (s.ctx c).banks[b]
    let gone := (y.state = .retiring ∨ y.state = .bad) ∧ y.services ≤ 1 ∧ y.stepPin = false
    Completes s (.peerServiceEnd c v) fun u => u = { s with ctxs := u.ctxs } ∧ (∀ d, d ≠ c → u.ctx d = s.ctx d) ∧
      u.ctx c = { (s.ctx c).modBank b fun _ => if gone then {} else { y with services := y.services - 1 } with
        current := if gone ∧ (s.ctx c).current = some b then none else (s.ctx c).current }

/-- R254, R264, R265, R267: a version whose manifest agrees with its digest obtains its STORE shards, the first one missing from
the head of its source list, and is READY when none is missing; a manifest or a shard that does not agree makes it BAD with
its cause, and a BAD version that nothing pins gives up its bank. The manifest's own place among what is being obtained is the
model's reading, log 16. -/
def Obligations.VersionsBuild : Prop :=
  ∀ (s : State) (c : Fin 8) (q : Scroll) (v : Word) (b : Fin 2),
    let x := s.ctx c
    let y := x.banks[b]
    s.scroll? c = some q → x.bankOf v = some b → x.pending = none → (∀ e : Fin 2, e ≠ b → x.banks[e].state ≠ .building ∧
      x.banks[e].state ≠ .retiring ∧ x.banks[e].state ≠ .bad) →
    let bad := fun (cmd : Instr) (bit : Nat) => Completes s cmd fun u =>
      (y.pins = 0 → (u.ctx c).banks[b] = {} ∧ (u.ctx c).current = x.current.filter (· != b)) ∧
      (y.pins ≠ 0 → (u.ctx c).banks[b].state = .bad ∧ (u.ctx c).current = x.current) ∧ (∀ e : Fin 2, e ≠ b → (u.ctx c).banks[e] = x.banks[e]) ∧
      u.rfld Reg.wstCause bit 1 = 1 ∧ ∀ d, d ≠ c → u.ctx d = s.ctx d
    let ready := fun (cmd : Instr) (y' : Bank) => Completes s cmd fun u => (u.ctx c).banks[b] = { y' with state := .ready } ∧
      (∀ e : Fin 2, e ≠ b → (u.ctx c).banks[e] = x.banks[e]) ∧ u.rfld Reg.wstCause 6 1 = 1
    (∀ (p : Fin 64) (f : Frame) (o : Obtain), f.context.toNat = c.1 → Arrives s p 0x15 f →
      BitVec.ofNat 32 (leAt f.payload 0 4) = v →
      x.obtains.find? (fun r => r.version == v && r.tensor == manifestTensor && q.manifestFrom r == some f.source) = some o →
      y.state = .building → y.verified = false → f.offset.toNat = y.manifest.length → 0 < y.manifest.length →
      let m := y.manifest ++ f.payload.drop 4
      (f.isEnd = false → Completes s (.manifestData p f) fun u => u = { s.accepts p f with ctxs := u.ctxs } ∧
        u.ctx c = x.modBank b fun y => { y with manifest := m }) ∧
      (f.isEnd = true → ¬(sha3_512 m = y.digest ∧ manifestOk q v m = true) → bad (.manifestData p f) 2) ∧
      (f.isEnd = true → sha3_512 m = y.digest → manifestOk q v m = true →
        (∀ e ∈ q.storeShards, (y.stored.get? (shardKey e.1.tensor e.2)).isSome = true) →
        ready (.manifestData p f) { y with manifest := m, verified := true }) ∧
      (∀ l sh role engine, f.isEnd = true → sha3_512 m = y.digest → manifestOk q v m = true →
        (q.storeShards.find? fun e => (y.stored.get? (shardKey e.1.tensor e.2)).isNone) = some (l, sh) →
        (q.sources l.srclist).1[0]? = some (role, engine) → role ≠ 0 → x.obtains = [o] → x.late = [] →
        let n : Obtain := { version := v, tensor := l.tensor, shard := sh }
        Completes s (.manifestData p f) fun u => u = { (s.accepts p f).requestShard c l n engine with ctxs := u.ctxs } ∧
          (∀ d, d ≠ c → u.ctx d = s.ctx d) ∧
          u.ctx c = { x.modBank b fun y => { y with manifest := m, verified := true } with obtains := [n] })) ∧
    (∀ (p : Fin 64) (f : Frame) (o : Obtain) (l : Layout) (bs : List Byte), f.context.toNat = c.1 → Arrives s p 0x11 f →
      x.obtains = [o] → o.version = v → o.retry = false → o.tensor = f.stream.toNat → (shardFields f).1 = v →
      (shardFields f).2.1 = o.shard → (shardFields f).2.2 = o.bytes.length → f.isEnd = true →
      q.layout? o.tensor = some l → (∃ role, role ≠ 0 ∧ (q.sources l.srclist).1[o.idx]? = some (role, f.source)) →
      bs = o.bytes ++ f.payload.drop 8 → l.stream = false → (q.sources l.srclist).2 = 0xFFFF → x.units = [] →
      bs.length = manifestLen y.manifest (q.manifestIndex o.tensor o.shard) →
      (crc64 bs).toNat = manifestCrc y.manifest (q.manifestIndex o.tensor o.shard) → y.state = .building →
      y.verified = true → y.checked.has (shardKey o.tensor o.shard) = false → y.toCheck = [] →
      let stored := y.stored.set (shardKey o.tensor o.shard) bs
      (∀ e ∈ q.storeShards, (stored.get? (shardKey e.1.tensor e.2)).isSome = true) →
      ready (.shardData p f) { y with
        stored := stored, eccShards := y.eccShards.del (shardKey o.tensor o.shard), toCheck := [(shardKey o.tensor o.shard, bs)] }) ∧
    (∀ (tensor shard : Nat) (bs : List Byte), Alive s → y.toCheck.get? (shardKey tensor shard) = some bs →
      let agrees := sha3_512 bs = manifestSha y.manifest (q.manifestIndex tensor shard)
      (agrees → Completes s (.shardDigestCheck c v tensor shard) fun u =>
        u = s.modCtx c fun x => x.modBank b fun y => { y with
          toCheck := y.toCheck.erase (shardKey tensor shard), checked := y.checked.add (shardKey tensor shard) }) ∧
      (¬agrees → bad (.shardDigestCheck c v tensor shard) 3))

/-! ### Reduction (10_gradient_reduction.md) -/

/-- R123, R280, R281, R284, R286, R293, R294: in strict mode, with every pre-pass ended, the next block of an entry
starts at its first contributor from the agreed exponent, is summed and quantised again at a hop, and ends at its owner
as sums; the last block of a slice delivers the slice, and an invalid element delivers nothing and holds the context; a
block that left before the step's rerun is not sent again. That delivered slice k goes to member k mod M of OSTREAM is
the model's reading, log 21. -/
def Obligations.ReductionHops : Prop :=
  ∀ (s : State) (c : Fin 8) (q : Scroll) (l : Fin 2) (t : Target) (entry b sl : Nat) (vals : List Nat), Alive s →
    let x := s.ctx c
    let r := x.red l entry
    let n := (q.ring l).length
    let owner := s.ownerPos q t l sl
    let place := pathPlace n owner (s.ringPos q l)
    let cnt := x.ownCount l entry b
    s.scroll? c = some q → q.target? entry = some t → x.inStep = true → x.state = .running → l ≤ q.finalLevel →
    (∀ e t' m, m ≤ q.finalLevel → q.target? e = some t' → x.sliceOf q t' (x.red m e).preNext = none) → x.redMode = false →
    (∀ t' ∈ q.targets, x.maskReady q t' = true) → x.maskReady q t = true →
    x.replay = none → x.rerunning = false →
    s.solo c = false →
    x.sliceOf q t b = some sl → r.next = b → s.inLevel q t l sl = true → s.ownValues c q l t entry b = some vals →
    r.bypassed = [] → r.switched = none → 2 ≤ n →
    let hop := Instr.reductionHop c l entry b
    let passed := fun (r : RedLevel) => { r with
      next := b + 1, inReg := r.inReg.erase b, inByp := r.inByp.erase b, agreed := r.agreed.erase b
      ownDigest := r.ownDigest ^^^ crc64 (leBytes 8 b ++ vals.flatMap (leBytes 4)) }
    let sends := fun (out : Bsi) =>
      (r.sentTo ≤ b → Completes s hop fun u =>
        let w := { out with last := q.posOf l (s.after q l 1) == owner }.wire
        u = ((s.redFrame c t l entry 0x30 (s.after q l 1) sl b w).modRed c l entry fun r =>
          passed { r with digests := vmod r.digests 0 (· ^^^ copyHash b w) }).modCtx c ({ · with advanced := true })) ∧
      (b < r.sentTo → Completes s hop fun u => u = (s.modRed c l entry passed).modCtx c ({ · with advanced := true }))
    (∀ e, place = 0 → r.agreed.get? b = some e → sends (bsiQuantise e 0 cnt false false (vals.map val32) [])) ∧
    (∀ w, place ≠ 0 → r.inReg.get? b = some w →
      let inn := Bsi.ofBytes w
      let sums := (List.range 32).map fun j => round32 ((inn.widen j).add ((vals.map val32).getD j .zero))
      let invalid := (List.range 32).any inn.invalidAt || sums.any fun v => nonFinite (val32 v)
      (place ≠ n - 1 → sends (bsiQuantise inn.e inn.bump (inn.count + cnt) inn.skip false (sums.map val32)
        ((List.range 32).map inn.invalidAt))) ∧
      (place = n - 1 → l ≠ q.finalLevel → Completes s hop fun u => u = { s with ctxs := u.ctxs } ∧
        ((u.ctx c).red 1 entry).own.get? b = some sums ∧ ((u.ctx c).red 1 entry).cnt.get? b = some (inn.count + cnt) ∧
        ((u.ctx c).red l entry).next = b + 1) ∧
      (place = n - 1 → l = q.finalLevel → invalid = false → b + 1 ≠ x.blockBase q t (sl + 1) →
        Completes s hop fun u => u = (s.modRed c l entry fun r => passed { r with
          sums := r.sums.set b (sums, inn.count + cnt, inn.skip) }).modCtx c ({ · with advanced := true })) ∧
      (place = n - 1 → l = q.finalLevel → invalid = false → b + 1 = x.blockBase q t (sl + 1) →
        let e := s.edgeOf c t.side t.ostream
        let m := r.delivered % max 1 e.members
        let y := x.member t.side t.ostream m
        Completes s hop fun u => u = { s with ctxs := u.ctxs } ∧
          (u.ctx c).red l entry = passed { r with delivered := r.delivered + 1, sums := [] } ∧
          (u.ctx c).member t.side t.ostream m = { y with arrived := y.arrived ++ [{
            seq := r.delivered / max 1 e.members
            bytes := Memory.writeBytes [] 0 (x.sliceBytes q t sl (r.sums.set b (sums, inn.count + cnt, inn.skip)))
            piece := (e.lines + 63) / 64 }] }) ∧
      (place = n - 1 → l = q.finalLevel → invalid = true → Completes s hop fun u =>
        (u.ctx c).faultHold = true ∧ (u.ctx c).state = .held ∧ (u.ctx c).members = x.members ∧
        u.rfld Reg.grdCause 2 1 = 1 ∧ (s.rfld Reg.grdCause 2 1 = 0 → u.rfld Reg.grdInvAt 0 3 = c.1 ∧
          (u.rfld Reg.grdInvAt 3 1 = 0 ↔ inn.allInvalid = true ∧ (inn.bump = 15 ∨ inn.e = 255)) ∧
          u.rfld Reg.grdInvAt 4 1 = 1)))

/-- R122, R282, R283, R288 to R290, R296, R431: a reduction frame of the step in progress is taken, one that brings
blocks or exponents passing the commit point, and one of another step is dropped with STALE; a pre-pass byte goes on as
the larger of it and this engine's own, or fixes the agreed exponent at the first contributor; a notice that names the
upstream neighbour is kept, with the lowest block any named, and SETTLED frees the copy. The receiver of the lowest
unsettled copy that answers late is bypassed: cause and count, a notice to the engine after it, and the copy sent there
with SKIP. That END in a notice marks the pre-pass is the model's choice, log 21. -/
def Obligations.ReductionFrames : Prop :=
  (∀ (s : State) (p : Fin 64) (f : Frame) (c : Fin 8) (q : Scroll) (l : Fin 2) (t : Target) (entry b : Nat),
     let x := s.ctx c
     let a := s.accepts p f
     let r := x.red l entry
     let n := (q.ring l).length
     let up := s.after q l (n - 1)
     let ours := fld f.offset.toNat 40 24 = x.curStep.toNat % 2 ^ 24
     f.context.toNat = c.1 → s.scroll? c = some q → q.target? entry = some t → x.inStep = true →
     fld f.stream.toNat 0 16 = entry → fld f.stream.toNat 16 1 = l.1 → fld f.offset.toNat 0 40 = b →
     (∀ cmd ty, (ty, cmd) ∈ [((0x30 : Byte), Instr.redBlock p f), (0x31, .redPrepass p f), (0x32, .bypassNotice p f),
         (0x03, .settled p f)] → Arrives s p ty f → ¬ours → Completes s cmd fun u =>
       u = { a with regs := u.regs } ∧ u.rfld Reg.grdCause 3 1 = 1) ∧
     (∀ w, Arrives s p 0x30 f → ours → splitBlocks 4096 f.payload = [w] → f.source = up → r.switched = none →
       r.next ≤ b → Completes s (.redBlock p f) fun u =>
       u = (a.modCtx c fun x => { x with committed := true, advanced := true }).modRed c l entry fun r => { r with
         digests := vmod r.digests 1 (· ^^^ copyHash b w), inReg := r.inReg.set b w }) ∧
     (∀ v sl vals, Arrives s p 0x31 f → ours → f.payload = [v] → f.source = up → r.preSwitched = none → r.preNext = b →
       l = 0 → q.targets = [t] → entry = 0 → q.finalLevel = 0 → x.sliceOf q t (b + 1) = none → x.sliceOf q t b = some sl →
       s.ownValues c q l t entry b = some vals → s.solo c = false → x.redMode = false → x.replay = none →
       r.preBypassed = [] → r.preSentTo ≤ b → x.rerunning = false → x.maskReady q t = true → 2 ≤ n →
       let place := (s.ringPos q l + 2 * n - s.ownerPos q t l sl - 2) % n
       let e := max (naturalExp (vals.map val32)) v.toNat
       let kept := (a.modCtx c fun x => { x with committed := true }).modRed c l entry fun r => { r with
         pre := (r.pre.set b v.toNat).erase b, preByp := r.preByp.erase b, preNext := b + 1 }
       (place = n - 1 → Completes s (.redPrepass p f) fun u => u = kept.modRed c l entry fun r =>
         { r with agreed := r.agreed.set b (min 255 (e + x.redHeadroom)) }) ∧
       (place ≠ 0 → place ≠ n - 1 → Completes s (.redPrepass p f) fun u =>
         u = kept.redFrame c t l entry 0x31 (s.after q l 1) sl b [BitVec.ofNat 8 e])) ∧
     (Arrives s p 0x32 f → ours → BitVec.ofNat 16 (leAt f.payload 0 2) = up → Completes s (.bypassNotice p f) fun u =>
       u = (a.modRed c l entry fun r =>
         if f.isEnd then { r with preNotice := widerNotice r.preNotice up b }
         else { r with notice := widerNotice r.notice up b }).prepass c) ∧
     (∀ k, Arrives s p 0x03 f → ours → l = 0 → (∀ j ∈ r.retained, j.prepass = false) →
       r.retained.find? (fun j => j.block == b && j.dest == f.source) = some k → Completes s (.settled p f) fun u =>
         u = (a.modRed c l entry fun r => { r with retained := r.retained.erase k }).prepass c)) ∧
  ∀ (s : State) (c : Fin 8) (q : Scroll) (l : Fin 2) (t : Target) (entry : Nat) (k : Retained), Alive s →
    let x := s.ctx c
    let r := x.red l entry
    let n := (q.ring l).length
    let sl := (x.sliceOf q t k.block).getD 0
    let owner := s.ownerPos q t l sl
    let next := s.after q l 2
    s.scroll? c = some q → q.target? entry = some t → x.redMode = true → x.inStep = true → 3 ≤ n →
    r.retained = [k] → k.prepass = false → k.dest = s.after q l 1 → next ≠ k.dest → q.posOf l k.dest ≠ owner →
    r.bypassed = [] →
    let w := { Bsi.ofBytes k.wire with skip := true, last := q.posOf l next == owner }.wire
    let s1 := ((s.cause Reg.grdCause 1).count Reg.grdCounts 16 16 1).modRed c l entry fun r =>
      { r with bypassed := [k.dest] }
    let s2 := s1.enqueue (s.rolePort 2 t.side sl)
      (s.frame 0x32 3 next 0 0 (entry + l.1 * 2 ^ 16) (s.redOffset c k.block) false
        (leBytes 2 k.dest.toNat ++ List.replicate 6 0)) (some (l.1 * 2 ^ 16, 3, 0)) (some c)
    Completes s (.bypass c l entry false) fun u =>
      u = ((s2.redFrame c t l entry 0x30 next sl k.block w).modRed c l entry fun r => { r with
        digests := vmod r.digests 2 (· ^^^ copyHash k.block w), retained := [{ k with dest := next, wire := w }] })

/-! ### The Henulo link (11_fabric_and_string_modules.md) -/

/-- R300, R305, R456: a port that has trained is UP, says so, and states the number it expects and the credit it grants; a
DOWN port trains again; after training the partner's number governs what is sent again, and at any other time RESUME moves
the number expected, by the model's reading, log 17. -/
def Obligations.LinkTraining : Prop :=
  ∀ (s : State) (p : Fin 64), Alive s →
    let pt := s.ports[p]
    let left := s.boot.portsLeft &&& ~~~(BitVec.ofNat 64 (2 ^ p.1))
    let granted := if pt.granted = Vector.replicate 7 0 then firstCredit else pt.granted
    let order := if s.boot.order = 8 ∧ left = 0 then 9 else s.boot.order
    let others := fun (u : State) => ∀ r : Fin 64, r ≠ p → u.ports[r] = s.ports[r]
    (∀ partner, s.mayTrain p = true → pt.state = .down ∨ pt.state = .training →
      Completes s (.portTrained p partner) fun u =>
        u = { s with ports := u.ports, regs := u.regs, out := u.out, boot := u.boot } ∧ others u ∧
        u.ports[p] = { pt with
          state := .up, lanes := 0xFF, partner := partner, resync := true, tried := true
          partnerQuiet := false, granted := granted } ∧
        u.rfld Reg.fabCause 1 1 = 1 ∧ u.rfld (Reg.irqLoc 0 + p.1 / 32 * 4) (p.1 % 32) 1 = 1 ∧
        u.out = s.out ++ [.link p 6 pt.rx [], .link p 3 0 granted.toList] ∧
        u.boot = { s.boot with order := order, portsLeft := left }) ∧
    (Completes s (.portRetrainTimer p) fun u =>
      let pt' := if pt.state = .down ∧ s.mayTrain p = true then { pt with state := .training, tried := true }
        else if pt.state = .training then { pt with tried := true } else pt
      u = { s with ports := vset s.ports p pt', boot := { s.boot with order := order, portsLeft := left } }) ∧
    (∀ seq, pt.resync = false → Completes s (.linkResume p seq) fun u =>
      u = { s with ports := vset s.ports p { pt with rx := seq } }) ∧
    (∀ seq, pt.resync = true → pt.queue = [] → Completes s (.linkResume p seq) fun u =>
      let again := pt.replay.filter fun r => seqLe seq r.seq
      u = { s with ports := u.ports, regs := u.regs, out := u.out } ∧ others u ∧
      u.ports[p] = { pt with resync := false, replay := again.map fun r => { r with resent := r.resent + 1 } } ∧
      u.out = s.out ++ again.map (fun r => .frame p r.seq true { r.frame with flags := r.frame.flags ||| 2 }) ∧
      u.rfld (Reg.fabErr p.1) 16 16 = min (s.rfld (Reg.fabErr p.1) 16 16 + again.length) 65535)

/-- R304, R305, R311: an acknowledged frame leaves the replay buffer; a NAK sends again what follows, with RETX, and
after 16 resendings takes the port DOWN; credit, quiet and wake are taken, and what waited for room or credit leaves;
what was accepted is acknowledged, and a bad frame is answered with the number expected, unless the port is QUIET. That an
acknowledgement names the last frame accepted and that a CREDIT frame follows it is the model's reading, log 17. -/
def Obligations.LinkFrames : Prop :=
  ∀ (s : State) (p : Fin 64), Alive s →
    let pt := s.ports[p]
    let put := fun (pt' : Port) => ({ s with ports := vset s.ports p pt' } : State)
    (∀ seq, let pt' := { pt with replay := pt.replay.filter fun r => !seqLe r.seq seq }
      Completes s (.linkAck p seq) fun u => u = (put pt').pump p ∧ (pt.queue = [] → u = put pt')) ∧
    (∀ seq r, pt.state = .up → pt.replay.find? (fun r => r.seq == seq) = some r →
      (r.resent < 16 → Completes s (.linkNak p seq) fun u =>
        u = { s with ports := u.ports, regs := u.regs, out := u.out } ∧
        u.ports = vset s.ports p { pt with
          replay := pt.replay.map fun r => if seqLe seq r.seq then { r with resent := r.resent + 1 } else r } ∧
        u.out = s.out ++ (pt.replay.filter fun r => seqLe seq r.seq).map fun r =>
          .frame p r.seq true { r.frame with flags := r.frame.flags ||| 2 }) ∧
      (16 ≤ r.resent → Completes s (.linkNak p seq) fun u => u = { put { pt with state := .down, lanes := 0 } with
        boot := { s.boot with portsLeft := s.boot.portsLeft &&& ~~~(BitVec.ofNat 64 (2 ^ p.1)) }
        regs := u.regs } ∧ u.rfld Reg.fabCause 0 1 = 1)) ∧
    (∀ seq q, pt.state = .up → pt.replay.find? (fun r => r.seq == seq) = none → pt.fenceSeq = some q →
      seqLe seq q = true → seq ≠ q → Completes s (.linkNak p seq) fun u => u = s.emit (.link p 6 q [])) ∧
    (∀ v : Vector Word 7, Completes s (.linkCredit p v.toList) fun u => u = (put { pt with credit := v }).pump p ∧
      (pt.queue = [] → u = put { pt with credit := v })) ∧
    (Completes s (.linkQuiet p) fun u => u = put { pt with partnerQuiet := true }) ∧
    (Completes s (.linkWake p) fun u => u = put { pt with partnerQuiet := false }) ∧
    (pt.toAck = 0 ∨ pt.state ≠ .up → Completes s (.ackTimer p) fun u => u = s) ∧
    (pt.toAck ≠ 0 → pt.state = .up → Completes s (.ackTimer p) fun u => u = { put { pt with toAck := 0 } with
      out := s.out ++ [.link p 1 (pt.rx - 1) [], .link p 3 0 pt.granted.toList] }) ∧
    (∀ bytes : List Byte, pt.state = .up ∨ pt.state = .quiet →
      bytes.length < 32 ∨ (crc32c (bytes.take 28)).toNat ≠ leAt bytes 28 4 ∨ fld (leAt bytes 1 1) 3 5 ≠ 0 ∨
        (let len := leAt bytes 14 2
         len ≠ 0 ∧ (crc32c (slice bytes 32 len)).toNat ≠ leAt bytes (32 + len) 4) →
      Completes s (.badFrame p bytes) fun u => u = if pt.state = .up then s.emit (.link p 2 pt.rx []) else s)

/-- R301, R304, R305, R309, R311, R396, R397, R436: what the receive checks make of a frame of any checked type: one
that is not the expected one or not clean is answered with a NAK; one for another engine, of another epoch, for a
context or generation that is not there, or of a type that the port's role does not carry is accepted on the link,
counted and dropped; a FENCED or RECOVERING engine, and one in REST or PARK, drops it, uncounted by the model's reading,
log 17. A CREDIT frame sets the credit held with its sender for a stream, class and member on behalf of the context it
names, which starts again with a new generation (R306). -/
def Obligations.ReceiveChecks : Prop :=
  (∀ (s : State) (p : Fin 64) (f : Frame) (ty : Byte) (cmd : Instr), Alive s → f.wf = true →
     (ty, cmd) ∈ [((0x01 : Byte), Instr.data p f), (0x02, .credit p f), (0x03, .settled p f), (0x10, .shardReq p f),
       (0x11, .shardData p f), (0x12, .shardAbsent p f), (0x13, .shardPush p f), (0x15, .manifestData p f),
       (0x21, .pageData p f), (0x22, .pageErr p f), (0x30, .redBlock p f), (0x31, .redPrepass p f),
       (0x32, .bypassNotice p f)] →
     let pt := s.ports[p]
     let open_ := pt.state = .up ∨ pt.state = .quiet
     let taken := open_ ∧ f.seq = pt.rx ∧ ({ f with type := ty } : Frame).clean = true
     let a := s.accepts p f
     let c := finOf 8 f.context.toNat
     let free := s.hng.running = false ∧ s.hng.fenced = false ∧ s.power = .active
     let known := 7 ≥ f.context.toNat ∧ (s.ctx c).loaded = true ∧ f.generation = (s.ctx c).gen
     let mine := f.dest = s.ident ∨ f.dest = 0xFFFF
     (¬open_ → Completes s cmd fun u => u = s) ∧
     (open_ → ¬taken → Completes s cmd fun u => u = if pt.state = .up then s.emit (.link p 2 pt.rx []) else s) ∧
     (taken → ¬free → Completes s cmd fun u => u = a) ∧
     (taken → free → ¬mine → Completes s cmd fun u => u = a.count Reg.fabDrops 16 16 1) ∧
     (taken → free → mine → older f.epoch s.hng.epoch = true → Completes s cmd fun u =>
       u = ((a.count Reg.fabDrops 0 16 1).cause Reg.fabCause 2).sendReject f.source f.epoch) ∧
     (taken → free → mine → older s.hng.epoch f.epoch = true → Completes s cmd fun u => u = a.count Reg.fabDrops 0 16 1) ∧
     (taken → free → mine → f.epoch = s.hng.epoch → namesDest ty.toNat = true →
       ¬known → Completes s cmd fun u => u = (a.count Reg.fabDrops 16 16 1).cause Reg.fabCause 3) ∧
     (taken → free → mine → f.epoch = s.hng.epoch → (namesDest ty.toNat = true → known) → s.carries p ty.toNat = false →
       Completes s cmd fun u => u = a.count Reg.fabDrops 16 16 1)) ∧
  ∀ (s : State) (p : Fin 64) (f : Frame), Arrives s p 0x02 f → f.payload.length = 16 → (∀ r : Fin 64, (s.ports[r]).queue = []) →
    let peer := f.source
    let k := (leAt f.payload 0 3, leAt f.payload 3 1, leAt f.payload 4 4)
    let g := leAt f.payload 8 4
    let old := (s.accounts peer k).find? fun b => b.ctx == f.context
    (old = none → Completes s (.credit p f) fun u => u = { s.accepts p f with
      held := s.held ++ [⟨peer, k.1, k.2.1, k.2.2, g, 0, f.context, f.generation⟩] }) ∧
    (∀ acc, old = some acc → Completes s (.credit p f) fun u => u = { s.accepts p f with
      held := s.held.map fun b => if b = acc then { b with
        granted := g, gen := f.generation, spent := if b.gen = f.generation then b.spent else 0 } else b })

/-! ### Checkpoints (15_checkpoint_and_replay.md) -/

/-- R306, R414 to R416, R420: a page, a record or a manifest of the partner's cut fills the area kept for it and gives one
credit back; a manifest that agrees makes the area VALID and forwards it, one that does not makes it INVALID; a FETCH is
served, page or manifest, from a VALID area with that manifest digest, and answered ABSENT otherwise. Offset 2^47 of a FETCH
and of its answer for the manifest is the model's choice, log 24. -/
def Obligations.PartnerAreas : Prop :=
  ∀ (s : State) (p : Fin 64) (f : Frame) (op : Nat) (c : Fin 8) (q : Scroll),
    let a := s.accepts p f
    let y := (s.ctx c).ckpt.area
    let off := fld f.offset.toNat 0 48
    let ends := fun (cmd : Instr) (t : State) => Completes s cmd fun u =>
      u = t.grant t.ckptPort c f.source [((0, 5, 0), 1)]
    let put := fun (y' : BuddyArea) => a.modArea c fun _ => y'
    Arrives s p 0x40 { f with stream := BitVec.ofNat 24 (f.stream.toNat / 16 * 16 + op) } → f.context.toNat = c.1 →
    s.scroll? c = some q → f.source = q.partner → 0 < q.buddyArea →
    (∀ m, op = 0 → y.state = .filling → y.cut = f.offset.toNat / 2 ^ 48 → f.isEnd = false →
      (off / 2 ^ 21 + 1) * 2 ^ 21 ≤ q.buddyArea → pageArrived y.asm f = some m → ends (.ckptPage p f)
        (put { y with asm := m, bytes := Memory.writeBytes y.bytes off f.payload })) ∧
    (∀ k, op = 0 → y.state = .filling → y.cut = f.offset.toNat / 2 ^ 48 → f.isEnd = true → off = (k + 1) * 2 ^ 21 →
      (k + 1) * 2 ^ 21 ≤ q.buddyArea → y.asm.getD k 0 = 2 ^ 21 →
      (crc64 (Memory.readBytes y.bytes (k * 2 ^ 21) (2 ^ 21))).toNat = leAt f.payload 0 8 → ends (.ckptPage p f)
        ((put { y with asm := y.asm.erase k, pagesGot := y.pagesGot.add k }).ckptReply f 1
          (pageOffset (f.offset.toNat / 2 ^ 48) (k * 2 ^ 21)) true [])) ∧
    (op = 2 → ends (.ckptRecord p f) (put { y with records := slice y.records 0 off ++ f.payload })) ∧
    (op = 3 →
      let m := slice y.incoming 0 off ++ f.payload
      let cut := leAt m 8 4 % 2 ^ 16
      let y' := { y with incoming := [], manifest := m }
      (f.isEnd = false → ends (.ckptManifest p f) (put { y with incoming := m })) ∧
      (f.isEnd = true → y.state ≠ .empty → y.state ≠ .valid → cut = y.cut → y.cut < 2 ^ 16 → y.complete q.partner m = false →
        ends (.ckptManifest p f) ((put { y' with state := .invalid }).ckptReply f 4 0 true [1, 0, 0, 0, 0, 0, 0, 0])) ∧
      (f.isEnd = true → y.state ≠ .empty → y.state ≠ .valid → cut = y.cut → y.cut < 2 ^ 16 → y.complete q.partner m = true →
        ends (.ckptManifest p f) (((put { y' with state := .valid }).ckptReply f 4 0 true [0, 0, 0, 0, 0, 0, 0, 0]).forwardArea c q)) ∧
      (f.isEnd = true → y.state = .empty → (∀ h ∈ manifestShards m, h.2.2.2.1 ≠ q.partner) → (∀ r : Fin 64, (s.ports[r]).queue = []) →
        ends (.ckptManifest p f) (((put { ({} : BuddyArea) with
          state := .valid, cut := cut, owner := fld f.stream.toNat 4 3, lastDurable := y.lastDurable, update := y.update
          records := y.records.take (leAt m 80 8), manifest := m }).ckptReply f 4 0 true [0, 0, 0, 0, 0, 0, 0, 0]).forwardArea c q))) ∧
    (op = 7 → y.state ≠ .valid ∨ sha3_512 y.manifest ≠ slice f.payload 0 64 → ends (.ckptFetch p f)
      (a.ckptReply f 9 f.offset.toNat true [])) ∧
    (op = 7 → y.state = .valid → sha3_512 y.manifest = slice f.payload 0 64 → off = 2 ^ 47 → y.manifest.length ≤ 4096 →
      y.manifest ≠ [] → ends (.ckptFetch p f) ((a.ckptReply f 8 (pageOffset y.cut (2 ^ 47)) false y.manifest).ckptReply f 8
        (pageOffset y.cut (2 ^ 47 + y.manifest.length)) true (leBytes 8 (crc64 y.manifest).toNat))) ∧
    (∀ k, op = 7 → y.state = .valid → sha3_512 y.manifest = slice f.payload 0 64 → off = k * 2 ^ 21 → off < 2 ^ 47 →
      (y.pagesGot.has k = false → ends (.ckptFetch p f) (a.ckptReply f 9 f.offset.toNat true [])) ∧
      (y.pagesGot.has k = true → let bs := Memory.readBytes y.bytes off (2 ^ 21)
        ends (.ckptFetch p f) (((pieces bs).foldl (fun (t : State) e =>
          t.ckptReplyOn (a.pagePort c k) f 8 (pageOffset y.cut (off + e.1)) false e.2) a).ckptReplyOn (a.pagePort c k) f 8
            (pageOffset y.cut (off + 2 ^ 21)) true (leBytes 8 (crc64 bs).toNat))))

/-- R412 to R415, R425: the acknowledgements of a cut: a page no longer awaited; a SEAL acknowledged; the manifest
acknowledged, which makes the cut DRAINED, or refused, which begins the buddy's part again; DURABLE, which makes its slot
hold the cut. That a SEAL_ACK answers the SEAL sent first, and what holds evictions back until then, are the model's reading,
logs 24 and 23. -/
def Obligations.DrainAcknowledgements : Prop :=
  ∀ (s : State) (p : Fin 64) (f : Frame) (op : Nat) (c : Fin 8) (q : Scroll) (d : Drain),
    let a := s.accepts p f
    let x := s.ctx c
    let put := fun (d : Drain) => a.modCtx c fun x => { x with ckpt := { x.ckpt with drain := some d } }
    s.scroll? c = some q →
    (x.ckpt.drain = some d → fld f.stream.toNat 4 3 = c.1 →
      Arrives s p 0x40 { f with stream := BitVec.ofNat 24 (f.stream.toNat / 16 * 16 + op) } →
      (op = 1 → f.source = q.drainTo → f.offset.toNat / 2 ^ 48 = x.ckpt.cut.number % 2 ^ 16 →
        Completes s (.ckptPageAck p f) fun u => u = put { d with
          unacked := d.unacked.del (fld f.offset.toNat 0 48 / 2 ^ 21), progressAt := s.phys }) ∧
      (op = 6 → Clear s → x.ckpt.rollDue = false → leAt f.payload 0 4 = x.ckpt.cut.number →
        x.ckpt.sealsOut.contains (f.source, leAt f.payload 0 4) = true → Completes s (.ckptSealAck p f) fun u =>
        u = (put { d with sealWait := d.sealWait.erase f.source, progressAt := s.phys }).modCtx c fun x => { x with
          sealing := !(d.sealWait.erase f.source).isEmpty || !d.sealed
          ckpt := { x.ckpt with
            sealedCut := x.ckpt.sealedCut || ((d.sealWait.erase f.source).isEmpty && d.sealed)
            sealsOut := x.ckpt.sealsOut.erase (f.source, leAt f.payload 0 4) } }) ∧
      (op = 4 → f.source = q.drainTo → d.manifestSent = true → d.manifestAcked = false →
        (leAt f.payload 0 1 ≠ 0 → Completes s (.ckptManifestAck p f) fun u => u = put { d with
          nextPage := 0, unacked := [], recordsSent := false, manifestSent := false }) ∧
        (leAt f.payload 0 1 = 0 → q.buddy ≠ 0xFFFF → Completes s (.ckptManifestAck p f) fun u =>
          u = { a with ctxs := u.ctxs, regs := u.regs, replayLog := u.replayLog } ∧ u.rfld Reg.ckpCause 4 1 = 1 ∧
          (u.ctx c).ckpt.phase = 3 ∧ (u.ctx c).ckpt.slots = vset x.ckpt.slots x.ckpt.otherSlot .filling ∧
          u.replayLog = (s.replayLog.map fun r => if (s.cutLog c).contains r then { r with drained := true } else r) ∧
          (u.ctx c).ckpt.drain = (if x.snapState q = [] then none else
            some { d with manifestAcked := true, progressAt := s.phys }) ∧ ∀ e, e ≠ c → u.ctx e = s.ctx e))) ∧
    (∀ slot : Fin 2, Arrives s p 0x40 { f with stream := BitVec.ofNat 24 (f.stream.toNat / 16 * 16 + 10) } →
      f.context.toNat = c.1 → f.source = q.buddy → leAt f.payload 0 1 = slot.1 → Completes s (.ckptDurable p f) fun u =>
        let t := (a.modCtx c fun x => { x with ckpt := { x.ckpt with
          slots := vset x.ckpt.slots slot .valid, durableSlot := some slot
          phase := if x.ckpt.phase = 3 then 4 else x.ckpt.phase } }).cause Reg.ckpCause 5
        u = t.grant t.ckptPort c f.source [((0, 5, 0), 1)])

/-- R420, R421: what a RESTORE from the buddy or from a durable slot receives: bytes of the manifest and of its pages
are kept in order; a manifest, a page or a shard that fails its check, an answer ABSENT and a silent buddy end it with
VERIFY, and from the first write on the context needs another; the last ROLLBACK acknowledged applies the cut. Offsets
of the manifest from 2^47, and which frame a SEAL_ACK answers, are log 24. -/
def Obligations.RestoreFrames : Prop :=
  ∀ (s : State) (p : Fin 64) (f : Frame) (op : Nat) (c : Fin 8) (q : Scroll) (r : Restore), Clear s →
    let a := s.accepts p f
    let x := s.ctx c
    let off := fld f.offset.toNat 0 48
    let put := fun (r : Restore) => a.modCtx c fun x => { x with ckpt := { x.ckpt with restore := some r } }
    let fails := fun (cmd : Instr) (b : State) (detail : Nat) => Completes s cmd fun u =>
      u = ((b.modCtx c fun x => { x with
        needRestore := x.needRestore || r.wrote, ckpt := { x.ckpt with restore := none } }).causeIf (detail == 4)
          Reg.ckpCause 6).finishOp c 0x17 Status.verify detail
    s.scroll? c = some q → x.ckpt.restore = some r → r.source ≠ 0 →
    (fld f.stream.toNat 4 3 = c.1 → Arrives s p 0x40 { f with stream := BitVec.ofNat 24 (f.stream.toNat / 16 * 16 + op) } →
      (op = 8 → r.manifestOk = false → f.source = q.restoreFrom r.source → 2 ^ 47 ≤ off → f.isEnd = false →
        Completes s (.ckptFetchData p f) fun u => u = put { r with
          manifest := slice r.manifest 0 (off - 2 ^ 47) ++ f.payload }) ∧
      (op = 8 → r.manifestOk = false → f.source = q.restoreFrom r.source → 2 ^ 47 ≤ off → f.isEnd = true →
        (crc64 r.manifest).toNat = leAt f.payload 0 8 → sha3_512 r.manifest ≠ r.digest → fails (.ckptFetchData p f) a 1) ∧
      (∀ m h, op = 8 → r.manifestOk = true → f.isEnd = false →
        (manifestShards r.manifest).find? (fun h => decide (h.1 ≤ off / 2 ^ 21) && decide (off / 2 ^ 21 < h.1 + h.2.2.1)) =
          some h → f.source = s.shardFrom q r.source h.2.2.2.1 → r.got.has (off / 2 ^ 21) = false →
        pageArrived r.asm f = some m → Completes s (.ckptFetchData p f) fun u => u = put { r with
          asm := m, bytes := Memory.writeBytes r.bytes off f.payload }) ∧
      (op = 8 → r.manifestOk = false → f.source = q.restoreFrom r.source → 2 ^ 47 ≤ off → f.isEnd = true →
        (crc64 r.manifest).toNat ≠ leAt f.payload 0 8 → fails (.ckptFetchData p f) a 1) ∧
      (op = 8 → r.manifestOk = false → f.source = q.restoreFrom r.source → 2 ^ 47 ≤ off → f.isEnd = true →
        (crc64 r.manifest).toNat = leAt f.payload 0 8 → sha3_512 r.manifest = r.digest →
        ((manifestShards r.manifest).map fun h => (h.1, h.2.1, h.2.2.1)) ≠ q.shards.map (fun h => (h.1, h.2.1, h.2.2.1)) →
        fails (.ckptFetchData p f) a 2) ∧
      (∀ k h, op = 8 → r.manifestOk = true → f.isEnd = true → off = (k + 1) * 2 ^ 21 →
        (manifestShards r.manifest).find? (fun h => decide (h.1 ≤ k) && decide (k < h.1 + h.2.2.1)) = some h →
        f.source = s.shardFrom q r.source h.2.2.2.1 → r.got.has k = false →
        let page := Memory.readBytes r.bytes (k * 2 ^ 21) (2 ^ 21)
        let whole := r.asm.getD k 0 = 2 ^ 21 ∧ (crc64 page).toNat = leAt f.payload 0 8
        let shard := Memory.readBytes r.bytes (h.1 * 2 ^ 21) (h.2.2.1 * 2 ^ 21)
        (¬whole → fails (.ckptFetchData p f) a 3) ∧
        (whole → (∃ j, h.1 ≤ j ∧ j < h.1 + h.2.2.1 ∧ j ≠ k ∧ r.got.has j = false) → Completes s (.ckptFetchData p f) fun u =>
          u = put { r with asm := r.asm.erase k, got := r.got.add k }) ∧
        (whole → (∀ j, h.1 ≤ j → j < h.1 + h.2.2.1 → j ≠ k → r.got.has j = true) → sha3_512 shard ≠ h.2.2.2.2 →
          fails (.ckptFetchData p f) a 3)) ∧
      (op = 9 → r.source = 1 → f.source = q.buddy → fails (.ckptAbsent p f) a 4) ∧
      (op = 9 → r.source = 2 → f.source = q.dserver → fails (.ckptAbsent p f) a 5) ∧
      (op = 6 → x.ckpt.sealsOut.contains (f.source, leAt f.payload 0 4) = false →
        leAt f.payload 0 4 = leAt r.manifest 8 4 →
        (r.rollbacks.erase f.source ≠ [] → Completes s (.ckptSealAck p f) fun u => u = put { r with
          rollbacks := r.rollbacks.erase f.source }) ∧
        (r.rollbacks.erase f.source = [] → r.wrote = true → Completes s (.ckptSealAck p f) fun u =>
          (u.ctx c).ckpt.restore = none ∧ (u.ctx c).needRestore = false ∧ (u.ctx c).faultHold = false ∧
          (u.ctx c).ckpt.cut = manifestRecord q r.manifest s.replayHead ∧ (u.ctx c).stepNo = BitVec.ofNat 64 (leAt r.manifest 24 8)))) ∧
    (Alive s → r.source = 1 → r.manifestOk = false → fails (.restoreBuddySilent c) s 4)

/-! ### Membership (16_faults_and_recovery.md) -/

/-- R309, R311, R447 to R449: pieces of a membership command are put together per source, within 1 s; the whole command is set
aside, rejected with its cause, held while the ceiling of its serial is written, or acts: an epoch adopted, FENCED entered or
left. One whose ceiling was written is checked again as the engine stands then. REJECT frames from enough engines fence this
one. -/
def Obligations.MembershipCommands : Prop :=
  (∀ (s : State) (p : Fin 64) (f : Frame) (a : Assembly) (rest : List Assembly), Arrives s p 0x60 f → Clear s →
     (∀ r : Fin 64, (s.ports[r]).queue = []) → s.hng.assemblies.filter (·.source != f.source) = rest →
     let t := s.accepts p f
     let off := leAt f.payload 0 4
     let total := leAt f.payload 4 4
     let put := fun (l : List Assembly) => Completes s (.mgmt p f) fun u =>
       u = { t with hng := { s.hng with assemblies := l } }
     let rejected := fun (b : List Byte) (cause : Nat) => Completes s (.mgmt p f) fun u =>
       u = { t with hng := { s.hng with assemblies := rest }, regs := u.regs } ∧ u.rfld Reg.hngMember 0 2 = memberKind b % 4 ∧
       u.rfld Reg.hngMember 2 3 = cause ∧ u.rfld Reg.hngMember 7 16 = f.source.toNat ∧ u.rfld Reg.hngCause 9 1 = 1
     (off = 0 → f.isEnd = true → rejected (f.payload.drop 8) 1) ∧
     (off = 0 → f.isEnd = false → put (rest ++ [⟨f.source, total, f.payload.drop 8, f.stream⟩])) ∧
     (s.hng.assemblies.find? (·.source == f.source) = none → off ≠ 0 → Completes s (.mgmt p f) fun u => u = t) ∧
     (s.hng.assemblies.find? (·.source == f.source) = some a → off ≠ 0 →
       (off ≠ a.bytes.length ∨ total ≠ a.total → put rest) ∧
       (off = a.bytes.length → total = a.total → f.isEnd = false →
         put (rest ++ [{ a with bytes := a.bytes ++ f.payload.drop 8 }])) ∧
       (off = a.bytes.length → total = a.total → f.isEnd = true → s.hng.memberWait = [] →
         let b := a.bytes ++ f.payload.drop 8
         let whole := b.length = total ∧ memberFormat b (mgmtKinds { f with stream := a.kind }) = true
         let mine := memberTarget b = s.ident
         let goes := s.memberCause b = 0 ∧ memberSerial b ≤ s.flash.memberCeiling.toNat
         (¬whole → rejected b 1) ∧
         (whole → s.setAside b = true → put rest) ∧
         (whole → s.setAside b = false → s.memberCause b ≠ 0 → rejected b (s.memberCause b)) ∧
         (whole → s.setAside b = false → s.memberCause b = 0 → s.flash.memberCeiling.toNat < memberSerial b →
           Completes s (.mgmt p f) fun u => u = { t with hng := { s.hng with
             assemblies := rest, memberWait := [⟨b, false, f.source⟩] } }) ∧
         (whole → s.setAside b = false → goes → memberKind b = 1 ∨ ¬mine → Completes s (.mgmt p f) fun u =>
           u = { t with regs := u.regs, hng := { s.hng with
             assemblies := rest, serial := BitVec.ofNat 64 (memberSerial b), epochSet := true, epoch := memberEpoch b,
             rejects := [] } } ∧
           u.rfld Reg.hngCause 8 1 = 1) ∧
         (whole → s.setAside b = false → goes → memberKind b = 2 → mine → Completes s (.mgmt p f) fun u =>
           u.hng.fenced = true ∧ u.hng.epoch = s.hng.epoch ∧ u.hng.serial = BitVec.ofNat 64 (memberSerial b) ∧
           u.rfld Reg.hngCause 8 1 = 1 ∧ (s.hng.fenced = false → u.rfld Reg.hngCause 7 1 = 1 ∧ u.hng.probation = false ∧
             ∀ c : Fin 8, (s.ctx c).scroll.isSome = true → (s.ctx c).state = .running ∨ (s.ctx c).state = .loaded →
               (u.ctx c).state = .loaded ∧ (u.ctx c).needRestore = true ∧ (u.ctx c).inStep = false)) ∧
         (whole → s.setAside b = false → goes → memberKind b = 3 → mine → Completes s (.mgmt p f) fun u =>
           u.hng.fenced = false ∧ u.hng.probation = true ∧ u.hng.epoch = memberEpoch b ∧
           u.hng.serial = BitVec.ofNat 64 (memberSerial b) ∧ u.rfld Reg.hngCause 8 1 = 1)))) ∧
  ∀ (s : State), Alive s → Clear s → (∀ r : Fin 64, (s.ports[r]).queue = []) →
    (∀ source, Completes s (.mgmtAssemblyTimeout source) fun u =>
      u = { s with hng := { s.hng with assemblies := s.hng.assemblies.filter (·.source != source) } }) ∧
    (s.hng.memberWait = [] → Completes s .serialCeilingWritten fun u => u = s) ∧
    (∀ m, s.hng.memberWait = [m] → m.ring = false →
      let f := { s.flash with memberCeiling := BitVec.ofNat 64 (ceilingOf (memberSerial m.body)) }
      (s.setAside m.body = true → Completes s .serialCeilingWritten fun u =>
        u = { s with flash := f, hng := { s.hng with memberWait := [] } }) ∧
      (s.setAside m.body = false → s.memberCause m.body ≠ 0 → Completes s .serialCeilingWritten fun u =>
        u = { s with flash := f, hng := { s.hng with memberWait := [] }, regs := u.regs } ∧ u.rfld Reg.hngCause 9 1 = 1 ∧
        u.rfld Reg.hngMember 2 3 = s.memberCause m.body ∧ u.rfld Reg.hngMember 7 16 = m.source.toNat) ∧
      (s.setAside m.body = false → s.memberCause m.body = 0 → memberKind m.body = 1 → Completes s .serialCeilingWritten fun u =>
        u = { s with flash := f, regs := u.regs, hng := { s.hng with
          memberWait := [], serial := BitVec.ofNat 64 (memberSerial m.body), epochSet := true
          epoch := memberEpoch m.body, rejects := [] } } ∧ u.rfld Reg.hngCause 8 1 = 1)) ∧
    (∀ (p : Fin 64) (f : Frame), Arrives s p 0x61 f →
      let theirs := BitVec.ofNat 16 (leAt f.payload 0 2)
      let recent := (s.hng.rejects.filter fun e => e.1 != f.source && decide (s.phys < e.2 + 1000000000)) ++ [(f.source, s.phys)]
      (BitVec.ofNat 16 (leAt f.payload 2 2) ≠ s.hng.epoch ∨ older s.hng.epoch theirs = false →
        Completes s (.reject p f) fun u => u = s.accepts p f) ∧
      (BitVec.ofNat 16 (leAt f.payload 2 2) = s.hng.epoch → older s.hng.epoch theirs = true →
        (recent.length < s.rfld Reg.fabCtrl 0 5 → Completes s (.reject p f) fun u =>
          u = { s.accepts p f with hng := { s.hng with rejects := recent } }) ∧
        (s.rfld Reg.fabCtrl 0 5 ≤ recent.length → Completes s (.reject p f) fun u =>
          u.hng.fenced = true ∧ u.hng.epoch = s.hng.epoch ∧ u.rfld Reg.fabCause 4 1 = 1 ∧
          ∀ r : Fin 64, (u.ports[r]).replay = [])))

/-! ### Time and string modules (11_fabric_and_string_modules.md) -/

/-- R315 to R318: a Delay_Req is answered; Sync, Follow_Up and Delay_Resp of the source make a measurement, which steps the
time base with no context loaded, and forward on the first lock, and otherwise corrects its rate by at most 100 ppm; Sync goes
out, and the Follow_Up of each carries the time at which it left; modules and regulators are given the time, a silent source
leads to HOLDOVER, and PPS_IN is followed or missed. That one measurement locks the time, that Sync with no servers is a
broadcast on every UP port, and which edges of PPS_IN agree are the model's choices, log 38. -/
def Obligations.EngineTime : Prop :=
  ∀ (s : State), Alive s →
    let t := s.time
    let timed := fun (s : State) (t : TimeBase) => ({ s with time := t } : State)
    let measured := fun (s : State) (off : Int) (u : State) =>
      u.time.offset = off ∧ u.time.state = .locked ∧ u.time.everLocked = true ∧ u.out = s.out ∧ u.ctxs = s.ctxs ∧
      (t.state ≠ .locked → u.rfld Reg.timCause 0 1 = 1) ∧
      (s.anyLoaded = false ∨ (t.everLocked = false ∧ off ≤ 0) →
        (u.time.now : Int) = ((t.now : Int) - off * 2 ^ 32) % 2 ^ 96 ∧
        u.time.rate = t.rate ∧ (off ≠ 0 → u.rfld Reg.timCause 2 1 = 1)) ∧
      (s.anyLoaded = true → t.everLocked = true ∨ 0 < off →
        u.time.now = t.now ∧ -8589934 ≤ u.time.rate ∧ u.time.rate ≤ 8589934)
    let sent := fun (f : Frame) (seq : Word) => ({ f with epoch := s.hng.epoch, seq := seq } : Frame)
    (∀ (p : Fin 64) (f : Frame) (m : PtpMsg) (stamp : Nat), Arrives s p 0x50 f →
      let a := s.accepts p f
      let goes := fun (u' : State) => Completes s (.time p f m stamp) fun u => u = u'
      (m.kind = .delayReq → goes (a.timeFrame (some p) f.source ⟨.delayResp, m.seqId, stamp⟩ (slice f.payload 20 10))) ∧
      (m.kind = .announce → goes a) ∧ (m.kind ≠ .delayReq → s.timeSource ≠ some f.source → goes a) ∧
      (s.timeSource = some f.source →
        (m.kind = .sync → goes (timed a { t with sync := some (m.seqId, stamp) })) ∧
        (∀ t2, m.kind = .followUp → t.sync = some (m.seqId, t2) →
          goes ((timed a { t with sync := none, req := some (t.seqId, m.stamp, t2, s.ns), seqId := t.seqId + 1 }).timeFrame
            (a.anyPort f.source) f.source ⟨.delayReq, t.seqId, 0⟩)) ∧
        (∀ t1 t2 t3, m.kind = .delayResp → t.req = some (m.seqId, t1, t2, t3) → Completes s (.time p f m stamp) fun u =>
          measured a ((((t2 : Int) - t1) - ((m.stamp : Int) - t3)) / 2) u ∧ u.time.req = none))) ∧
    (∀ p : Fin 64, s.timeServers = [] → ((fins 64).filter fun p => (s.ports[p]).state == .up) = [p] →
      (Completes s .syncSend fun u => let w := s.timeFrame (some p) 0xFFFF ⟨.sync, t.seqId, 0⟩
        u = { w with time := { w.time with seqId := w.time.seqId + 1 } }) ∧
      let x := s.ports[p]
      let free := (x.credit[(6 : Fin 7)] - x.spent[(6 : Fin 7)]).toNat
      (s.hng.fenced = false → s.hng.running = false → s.rfld Reg.engIdent 16 1 = 1 → x.queue = [] → x.replay = [] →
        x.resync = false → 2 ≤ free → free < 2 ^ 31 → Completes s .syncSend fun u => (u.ports[p]).queue = [] ∧
          u.time.seqId = t.seqId + 1 ∧ u.out = s.out ++
            [.frame p x.tx false (sent (s.ptpFrame 0xFFFF ⟨.sync, t.seqId, 0⟩ []) x.tx),
             .frame p (x.tx + 1) false (sent (s.ptpFrame 0xFFFF ⟨.followUp, t.seqId, s.ns⟩ []) (x.tx + 1))])) ∧
    (∀ e, s.timeServers = [e] → (∀ p : Fin 64, (s.ports[p]).state ≠ .up) → Completes s .syncSend fun u =>
      u = timed s { t with seqId := t.seqId + 1 }) ∧
    (Completes s .timeModuleWrite fun u => u = { s with out := s.out ++
      (((fins 16).filter fun k => (s.slots[k]).state == .enabled).map fun k => .moduleTime k s.ns) ++
      ((fins 48).map fun r => .regulatorTime r s.ns) }) ∧
    (t.state ≠ .locked → Completes s .timeSourceSilent fun u => u = s) ∧
    (t.state = .locked → Completes s .timeSourceSilent fun u =>
      u = { s with time := { t with state := .holdover }, regs := u.regs } ∧ u.rfld Reg.timCause 1 1 = 1) ∧
    (s.rfld Reg.timCtrl 3 1 = 0 → (Completes s .ppsInEdge fun u => u = s) ∧
      Completes s .ppsSecond fun u => u = { s with out := s.out ++ [.pps] }) ∧
    (s.rfld Reg.timCtrl 3 1 = 1 → t.ppsIgnore = false →
      (1000000 < s.ns % 1000000000 → s.ns % 1000000000 < 999000000 → Completes s .ppsInEdge fun u =>
        u = { s with time := { t with ppsLast := some s.ns, ppsIgnore := true, ppsGood := 0 }, regs := u.regs } ∧
        u.rfld Reg.timCause 3 1 = 1) ∧
      (s.ns % 1000000000 ≤ 1000000 →
        (t.grandmaster = false → Completes s .ppsInEdge fun u => u = timed s { t with ppsLast := some s.ns }) ∧
        (t.grandmaster = true → Completes s .ppsInEdge fun u => measured s (s.ns % 1000000000 : Nat) u)) ∧
      (999000000 ≤ s.ns % 1000000000 → t.grandmaster = true →
        Completes s .ppsInEdge fun u => measured s ((s.ns % 1000000000 : Nat) - 1000000000) u) ∧
      (t.ppsLast = none → Completes s .ppsSecond fun u =>
        u = { s with time := { t with ppsIgnore := true, ppsGood := 0 }, regs := u.regs, out := s.out ++ [.pps] } ∧
        u.rfld Reg.timCause 3 1 = 1)) ∧
    (∀ n, s.rfld Reg.timCtrl 3 1 = 1 → t.ppsIgnore = true → t.ppsLast = some n → n + 1000000000 = s.ns →
      t.grandmaster = false → Completes s .ppsInEdge fun u => u = timed s { t with
        ppsLast := some s.ns
        ppsIgnore := decide (t.ppsGood + 1 < 10), ppsGood := if t.ppsGood + 1 < 10 then t.ppsGood + 1 else 0 })

/-- R300, R313, R314: an inserted module is challenged, and lit only when its chain, its signature and its hours verify; a
removed one takes its ports DOWN; the life counters count a minute of laser-on time by its temperature and are kept in
flash. That the signature is over the challenge and the 16 bytes of the serial number, the comparison of hours in minutes and
the counters kept at removal are the model's reading, log 37. -/
def Obligations.StringModules : Prop :=
  ∀ (s : State) (slot : Fin 16), Alive s →
    let x := s.slots[slot]
    let key := lifeKey slot x.serial
    (∀ m : ModuleId,
      let c := slice (Config.freeBytes s.freeCtr) 0 32
      let challenged := s.out ++ moduleReads slot m ++
        [.moduleChallenge slot c, .moduleRead slot 0xB8 1, .moduleRead slot 0xB9 1]
      let good := Config.chainVerifies m.chain = true ∧ Config.mlDsaVerify (Config.chainKey m.chain)
        (c ++ leBytes 16 m.serial) "" m.signature = true ∧ s.flash.minutesOf m.serial ≤ 60 * m.hours + 59
      (x.state ≠ .empty → Completes s (.moduleInsert slot m) fun u => u = s) ∧
      (x.state = .empty → good → Completes s (.moduleInsert slot m) fun u =>
        u = { s with slots := u.slots, freeCtr := s.freeCtr + 1
                     out := challenged ++ [.moduleLaser slot true] } ∧
        (u.slots[slot]).state = .enabled ∧ (u.slots[slot]).serial = m.serial ∧ (u.slots[slot]).chain = m.chain ∧
        (u.slots[slot]).life = (s.flash.lives.getD (lifeKey slot m.serial) {}).merge m true ∧
        ∀ k : Fin 16, k ≠ slot → u.slots[k] = s.slots[k]) ∧
      (x.state = .empty → ¬good → Completes s (.moduleInsert slot m) fun u =>
        u = { s with slots := u.slots, freeCtr := s.freeCtr + 1, regs := u.regs, out := challenged } ∧
        (u.slots[slot]).state = .refused ∧ u.rfld Reg.fabCause 5 1 = 1)) ∧
    (x.state = .enabled → Completes s (.moduleRemove slot) fun u =>
      u = { s with slots := vset s.slots slot {}, flash := { s.flash with lives := s.flash.lives.set key x.life }
                   ports := u.ports, regs := u.regs, boot := { s.boot with portsLeft := u.boot.portsLeft } } ∧
      (∀ p : Fin 64, u.boot.portsLeft.getLsbD p.1 = (s.boot.portsLeft.getLsbD p.1 && decide (p.1 / 4 ≠ slot.1))) ∧
      (∀ p : Fin 64, p.1 / 4 = slot.1 → u.ports[p] = { s.ports[p] with state := .down, lanes := 0 }) ∧
      (∀ p : Fin 64, p.1 / 4 ≠ slot.1 → u.ports[p] = s.ports[p]) ∧
      ((∃ p : Fin 64, p.1 / 4 = slot.1 ∧ (s.ports[p]).state = .up) → u.rfld Reg.fabCause 0 1 = 1)) ∧
    (x.state = .refused → Completes s (.moduleRemove slot) fun u =>
      u = { s with slots := vset s.slots slot {}, flash := { s.flash with lives := s.flash.lives.set key x.life } }) ∧
    (∀ temp : Int,
      (x.state ≠ .enabled → Completes s (.lifeCounterMinute slot temp) fun u => u = s) ∧
      (x.state = .enabled → Completes s (.lifeCounterMinute slot temp) fun u =>
        let y := u.slots[slot]
        u = { s with slots := u.slots, regs := u.regs } ∧ y.state = .enabled ∧ y.hot = decide (70 < temp) ∧
        y.life = { x.life with
          minutes := x.life.minutes + 1, hotMinutes := x.life.hotMinutes + bit (decide (70 < temp))
          equiv := x.life.equiv + lifeFactorOf temp } ∧
        (∀ left, y.remaining = some left → (y.eol = true ↔ left < 6000 * s.rfld Reg.fabCtrl 5 7) ∧
          (y.eol = true → x.eol = false → u.rfld Reg.fabCause 6 1 = 1)))) ∧
    (x.state ≠ .empty → Completes s .lifeCounterFlash fun u => u = { s with flash := u.flash } ∧
      u.flash = { s.flash with lives := u.flash.lives } ∧ u.flash.lives.get? key = some x.life)

/-! ### The host interface (12_host_interface_and_contexts.md) -/

/-- R325, R326, R331, R455, R457, R477, R505, R511: the link comes up, and what waited for it leaves with the tail lines
read again; CXL_PERST_N stops the link and IDE and nothing else; EN set from 0 starts a ring at 0, EN cleared stops it;
a tail line that reads back poisoned, or more than 512 entries on, disables the ring. That a message waits as well for the
function mask is log 41, and that orders 9 and 10 are taken with CXL_LINK_UP log 2. -/
def Obligations.HostLink : Prop :=
  ∀ (s : State), Alive s →
    let pins := { s.pins with linkUp := true, pendingBit := s.pins.pendingBit && s.vectorHeld }
    let msg := if s.pins.pendingBit && !s.vectorHeld && s.alert then [Output.msix] else []
    let closed := s.ownerFlag 1 && !(s.sec.ideIo && s.sec.ideCm)
    let reads := ((fins 9).filter fun r => (s.rings[r]).en).map Output.readTailLine
    let may := s.pins.perstN = true ∧ s.pins.perstInReset = false ∧ s.clkLost.getLsbD 28 = false ∧
      s.clkLost.getLsbD 29 = false ∧ s.pins.linkUp = false
    (s.boot.order = 10 → may → closed = false → Completes s .cxlLinkUp fun u =>
      u = { s with pins := pins, out := s.out ++ reads ++ s.hostWait ++ msg, hostWait := [] }) ∧
    (s.boot.order = 10 → may → closed = true → Completes s .cxlLinkUp fun u => u = { s with pins := pins, out := s.out ++ msg }) ∧
    (s.boot.order = 9 → may → Completes s .cxlLinkUp fun u => u.boot.order = 10 ∧ u.pins = pins ∧
      (s.boot.trial = false → u.flash = s.flash) ∧
      (s.boot.trial = true → u.boot.trial = false ∧ u.flash = { s.flash with
        active := s.boot.copy, pendingCopy := none, tried := false
        minSvn := if s.flash.minSvn.toNat < s.flash.fw[s.boot.copy].svn.toNat then s.flash.fw[s.boot.copy].svn else s.flash.minSvn })) ∧
    (s.boot.order = 10 → ¬may → Completes s .cxlLinkUp fun u => u = s) ∧
    (Completes s .cxlPerstAssert fun u =>
      u = { s with pins := { s.pins with
                     perstN := false, linkUp := false, perstInReset := s.pins.perstInReset || s.hng.running }
                   sec := { s.sec with
                     ideIo := false, ideIoKey := u.sec.ideIoKey, ideIoKeys := u.sec.ideIoKeys
                     ideCm := false, ideCmKey := u.sec.ideCmKey, ideCmKeys := u.sec.ideCmKeys }
                   regs := u.regs } ∧ (s.sec.ideIo = true ∨ s.sec.ideCm = true → u.rfld Reg.secCause 6 1 = 1)) ∧
    (Completes s .cxlPerstRelease fun u => u = { s with pins := { s.pins with perstN := true } }) ∧
    ∀ ring : Fin 9,
      let x := s.rings[ring]
      let off := { s with rings := vset s.rings ring { x with en := false } }
      (s.pins.linkUp = true →
        (x.en = false → Completes s (.ringEnable ring) fun u => u = { s with
          rings := vset s.rings ring { x with en := true, head := 0, completions := 0 }
          out := s.out ++ if s.hostReady then [.readTailLine ring] else [] }) ∧
        (x.en = true → Completes s (.ringEnable ring) fun u => u = s) ∧
        (x.en = true → Completes s (.ringDisable ring) fun u => u = off.emit (.releaseTailLine ring)) ∧
        (x.en = false → Completes s (.ringDisable ring) fun u => u = s)) ∧
      (x.ceilingTo = none → Completes s (.counterCeilingWritten ring) fun u => u = s) ∧
      ∀ (tail : Word) (es : List (Option RawEntry)) (poisoned : Bool),
        Instr.wf (.tailLineWrite ring tail es poisoned) = true → x.en = true → Reached s → s.hng.running = false →
        let stops := fun (b : Nat) => Completes s (.tailLineWrite ring tail es poisoned) fun u =>
          u = ((off.emit (.readTailLine ring)).emit (.releaseTailLine ring)).cause Reg.cmdCause b
        (poisoned = true → stops 5) ∧ (poisoned = false → 512 < (tail - x.head).toNat → stops 2) ∧
        (poisoned = false → tail = x.head → Clear s → Completes s (.tailLineWrite ring tail es poisoned) fun u =>
          u = s.emit (.readTailLine ring))

/-- R326, R328, R330 to R332: an entry fetched through its tail line moves HEAD; a wrong opcode, a wrong flag, a missing key,
a wrong tag and a stale counter end it with their status, in this order; a counter above the ceiling waits for the flash; a
SERIAL command waits for those before it. A ceiling that would pass 64 bits is 2^64 - 1, by the model's choice, log 42. -/
def Obligations.RingChecks : Prop :=
  ∀ (s : State) (r : Fin 9) (e : RawEntry), Alive s → Clear s → Reached s → (s.rings[r]).en = true → s.hng.running = false →
    e.wf = true → (e.opcode = 0x10 ∨ e.opcode = 0x17 → s.startsEarly r e.opcode = true → Unreloaded s r) →
    let x := s.rings[r]
    let one := Instr.tailLineWrite r (x.head + 1) [some e] false
    let moved := (s.emit (.readTailLine r)).modRing r fun x => { x with head := x.head + 1 }
    let early := s.startsEarly r e.opcode
    let answers := fun (t : State) (status : Nat) => Completes s one fun u => u = t.record r e status 0
    let crit := opCritical e.opcode
    (opAllowed r e.opcode = false → answers moved 1) ∧
    (opAllowed r e.opcode = true → x.cmds ≠ [] → opConcurrent e.opcode = false → early = false →
      Completes s one fun u => u = moved.modRing r fun x => { x with cmds := x.cmds ++ [{ entry := e }] }) ∧
    (opAllowed r e.opcode = true → x.cmds = [] →
      (bitAt e.flags 0 ≠ crit → answers moved 2) ∧
      (crit = true → bitAt e.flags 0 = true →
        (x.key = none → answers moved 5) ∧
        ∀ key, x.key = some key →
          let tagged := kmac256 key (e.bytes.take 96 ++ [BitVec.ofNat 8 r.1]) "LW2-CMD" = e.tag
          (¬tagged → answers (moved.cause Reg.cmdCause 1) 3) ∧
          (tagged → e.counter ≤ x.counter.toNat → answers (moved.cause Reg.cmdCause 1) 4) ∧
          (tagged → x.counter.toNat < e.counter → (s.flash.ceilings[r]).toNat < e.counter → x.ceilingTo = none →
            Completes s one fun u => u = moved.modRing r fun y => { y with
              cmds := [{ entry := e, phase := .ceiling, early := early }]
              ceilingTo := some (BitVec.ofNat 64 (min ((e.counter / 2 ^ 20 + 1) * 2 ^ 20) (2 ^ 64 - 1))) }))) ∧
    (∀ n, r = 8 → e.opcode = 5 → x.cmds = [{ entry := e, phase := .ceiling }] → x.ceilingTo = some n →
      (s.flash.ceilings[r]).toNat < n.toNat → x.counter.toNat < e.counter → e.counter ≤ n.toNat → s.power = .active →
      Completes s (.counterCeilingWritten r) fun u => u = (({ s with
        flash := { s.flash with ceilings := vset s.flash.ceilings r n }
        time := u.time } : State).modRing r fun x => { x with
          cmds := [], ceilingTo := none, counter := BitVec.ofNat 64 e.counter }).record r e 0 0 ∧
        u.time.grandmaster = bitAt (e.par 0 1) 0)

/-- R205, R226, R322, R477: a window line of an UNMAPPED slot reads poisoned; STAGING and REPLAY slots read what they hold, a
CONTEXT slot the line of its deep range; writes land in STAGING and CONTEXT slots, and are discarded with their cause in the
others and in wide buffers; the window is closed while IDE is required and down. -/
def Obligations.WindowAccess : Prop :=
  ∀ (s : State) (line : Fin 1073741824) (bytes : List Byte), Alive s → s.pins.linkUp = true → bytes.length = 64 →
    let i := finOf 32 (line.1 / 2 ^ 25)
    let off := 64 * (line.1 % 2 ^ 25)
    let w := s.windows[i]
    let reads := fun (t : State) (bs : List Byte) (bad : Bool) =>
      Completes s (.hdmRead line) fun u => u = t.emit (.hdmData line.1 bs bad)
    let writes := fun (t : State) => Completes s (.hdmWrite line bytes) fun u => u = t
    let closed := s.ownerFlag 1 = true ∧ ¬(s.sec.ideIo = true ∧ s.sec.ideCm = true)
    (closed → reads s (List.replicate 64 0) true ∧ writes s) ∧
    (¬closed →
      (w.kind = 0 → reads s (List.replicate 64 0) true ∧ writes (s.cause Reg.cmdCause 4)) ∧
      (w.kind = 3 → reads s (Memory.readBytes s.replayRing (w.base + off) 64) false ∧ writes (s.cause Reg.cmdCause 4)) ∧
      (w.kind = 1 → reads s (Memory.readBytes w.staging off 64) false ∧
        Completes s (.hdmWrite line bytes) fun u => u = { s with windows := u.windows } ∧
          (∀ k : Fin 32, k ≠ i → u.windows[k] = s.windows[k]) ∧ Memory.readBytes (u.windows[i]).staging off 64 = bytes ∧
          ∀ a, a < off ∨ off + 64 ≤ a → Memory.read (u.windows[i]).staging a = Memory.read w.staging a) ∧
      (∀ q, w.kind = 2 → s.scroll? w.ctx = some q →
        let a := w.base + off
        let x := s.ctx w.ctx
        (∀ t, s.touchRead w.ctx q none a = (.ok, t) → reads t (Memory.readBytes x.mem a 64) false ∧ (t.ctx w.ctx).mem = x.mem) ∧
        (∀ t n, s.touchRead w.ctx q none a = (.fail n, t) → n ≠ 4 → reads t (List.replicate 64 0) true) ∧
        (∀ t, s.touchRead w.ctx q none a = (.fail 4, t) → Completes s (.hdmRead line) fun u =>
          u = { t with regs := u.regs, out := t.out ++ [.hdmData line.1 (List.replicate 64 0) true] } ∧
            u.rfld Reg.memCause 2 1 = 1) ∧
        ((q.wideOf a).isSome = true → writes (s.cause Reg.bwdCause 1)) ∧
        (∀ t, q.wideOf a = none → s.touchWrite w.ctx q none a = (.ok, t) → Completes s (.hdmWrite line bytes) fun u =>
          u = { t with ctxs := u.ctxs } ∧ Memory.readBytes (u.ctx w.ctx).mem a 64 = bytes ∧
          ((u.ctx w.ctx).page q (pageOf a)).dirty.getLsbD (granuleOf a) = true ∧
          ∀ b, b < a ∨ a + 64 ≤ b → Memory.read (u.ctx w.ctx).mem b = Memory.read (t.ctx w.ctx).mem b)))

/-! ### Ring commands of a context (R332 to R340) -/

/-- R335 to R338, R343, R374, R421, R446, R449: a command not allowed in the context's state ends with STATE;
START_REDUCTION arms; STEP_START starts the steps asked for; HOLD takes effect at the boundary and RESUME ends it;
READ_STATUS writes the status block. -/
def Obligations.StepCommands : Prop :=
  ∀ (s : State) (c : Fin 8) (h : EntryHead) (q : Scroll), h.wf = true →
    let r := ringOf c
    let x := s.ctx c
    let runs := fun (i : Instr) (e : RawEntry) (P : State → State → Prop) => Taken s r e → Completes s i (P (s.took r e))
    let ends := fun (i : Instr) (e : RawEntry) (status : Nat) (f : Ctx → Ctx) =>
      runs i e fun t u => u = (t.modCtx c f).record r e status 0
    (∀ step,
      let e := h.entry 0x11 (leBytes 8 step.toNat) []
      (x.state ≠ .loaded ∨ (x.scroll = some q ∧ q.reduces = false) → ends (.startReduction r h step) e 6 id) ∧
      (x.state = .loaded → x.scroll = some q → q.reduces = true → ends (.startReduction r h step) e 0 fun x => { x with
        armed := true, stepNo := step })) ∧
    (∀ steps pos seed,
      let e := h.entry 0x12 (leBytes 4 steps.toNat ++ leBytes 4 0 ++ leBytes 8 pos.toNat ++ leBytes 8 seed.toNat) []
      let refused := s.degraded = true ∨ s.hng.fenced = true ∨ x.needRestore = true ∨ x.faultHold = true ∨
        (q.reduces = true ∧ x.armed = false)
      (x.state ≠ .loaded → ends (.stepStart r h steps pos seed) e 6 id) ∧
      (x.state = .loaded → x.scroll = some q → x.stale = true → ends (.stepStart r h steps pos seed) e 8 id) ∧
      (x.state = .loaded → x.scroll = some q → x.stale = false → refused → ends (.stepStart r h steps pos seed) e 6 id) ∧
      (x.state = .loaded → x.scroll = some q → x.stale = false → ¬refused → x.hostHold = false → x.capoHold = false → Taken s r e →
        Completes s (.stepStart r h steps pos seed) fun u => u = { s.began r e with ctxs := u.ctxs } ∧
          (∀ d, d ≠ c → u.ctx d = s.ctx d) ∧ u.ctx c = { x with
            state := .running, starting := true
            stepsLeft := if steps = 0 then none else some steps.toNat, stepsRun := 0, seriesKept := false
            series := some (if x.seriesKept then x.series.getD ⟨seed, pos, 0⟩ else ⟨seed, pos, 0⟩)
            ckpt := (u.ctx c).ckpt })) ∧
    (∀ end_ : Bool,
      let i := if end_ then Instr.holdEnd r h else .hold r h
      let e := h.entry 0x13 [if end_ then 1 else 0] []
      (x.state ≠ .running → x.state ≠ .held → ends i e 6 id) ∧
      ((x.state = .running ∨ x.state = .held) → x.scroll = some q → x.inStep = true → Taken s r e → Completes s i fun u => u = s.began r e) ∧
      ((x.state = .running ∨ x.state = .held) → x.scroll = some q → x.inStep = false → x.starting = true → x.stepsLeft ≠ some 0 →
        s.degraded = false → x.rekeyReq = false → (end_ = false → ends i e 0 fun x => { x with hostHold := true, state := .held }) ∧
        ∀ k, end_ = true → (s.rings[r]).cmds = [k] → k.isStep = true → runs i e fun t u =>
          u = ({ ((t.modRing r fun y => { y with cmds := [] }).record r e 0 0).record r k.entry 0 x.stepsRun with
            budget := { s.budget with deferred := s.budget.deferred.filter fun d => d.1 != c } } : State).modCtx c fun x =>
              { x with starting := false, hostHold := false, rerunning := false, waitVersion := false, state := .loaded })) ∧
    (let e := h.entry 0x14 [] []
     (x.state ≠ .held ∨ (x.scroll = some q ∧ x.hostHold = false) → ends (.resume r h) e 6 id) ∧
     (x.state = .held → x.scroll = some q → x.hostHold = true → ends (.resume r h) e 0 fun x => { x with
       hostHold := false, state := if x.capoHold || x.faultHold then .held else .running })) ∧
    (∀ addr : DWord,
      let e := h.entry 0x19 (leBytes 8 addr.toNat) []
      (addr.toNat % 4096 ≠ 0 → ends (.readStatus r h addr) e 2 id) ∧
      (addr.toNat % 4096 = 0 → runs (.readStatus r h addr) e fun t u =>
        u = ((t.emit (.hostWrite addr.toNat (s.ctxStatus c))).record r e 0 0))) ∧
    ∀ (addr : DWord) (e : RawEntry), e = h.entry 0x19 (leBytes 8 addr.toNat) [] → addr.toNat % 4096 = 0 → Taken s 8 e →
      Completes s (.readStatus 8 h addr) fun u => u = ((s.took 8 e).emit (.hostWrite addr.toNat s.engineStatus)).record 8 e 0 0

/-- R269, R345, R366, R367, R408, R409, R420, R480, R481: LOAD_SCROLL ends with the least failure of its staged scroll or begins
the load; SWITCH_VERSION names its target; CAPO takes the cut at a boundary, or waits for its time; RESTORE returns to the
in-memory cut once the homes are sealed, or asks the buddy or DSERVER for the manifest; KEY_CHANGE ends with its cause or waits
for the flash. That the least of several failures is reported is log 28; that a version without WEIGHTS or BAD ends with STATE
and a slot above 1 with BAD_PARAM log 33; FETCH at 2^47 log 24; what becomes of a pinned target log 20. -/
def Obligations.ReloadCommands : Prop :=
  ∀ (s : State) (c : Fin 8) (h : EntryHead) (q : Scroll) (digest : List Byte), h.wf = true → digest.length = 64 →
    let r := ringOf c
    let x := s.ctx c
    let ends := fun (i : Instr) (e : RawEntry) (f : State → State) (status detail : Nat) =>
      Taken s r e → Completes s i fun u => u = (f (s.took r e)).record r e status detail
    let begins := fun (i : Instr) (e : RawEntry) (f : State → State) =>
      Taken s r e → Completes s i fun u => u = f (s.began r e)
    let has := x.scroll = some q
    let open_ := x.state = .loaded ∨ x.state = .running ∨ x.state = .held
    (∀ slot length,
      let e := h.entry 0x10 ([slot] ++ leBytes 7 0 ++ leBytes 8 length.toNat) []
      let w := s.windows[finOf 32 slot.toNat]
      let q := stagedScroll w length.toNat
      let fails := (s.began r e).scrollFails c q
      (x.state = .free ∨ x.state = .tearing → ends (.loadScroll r h slot length) e id 6 0) ∧
      (x.state = .created ∨ x.state = .loaded →
        (31 < slot.toNat ∨ w.kind ≠ 1 → ends (.loadScroll r h slot length) e id 2 (failDetail (10, 0, 0))) ∧
        (slot.toNat ≤ 31 → w.kind = 1 → (∀ f, leastFail fails = some f →
            ends (.loadScroll r h slot length) e id (failStatus f.1) (failDetail f)) ∧
          (leastFail fails = none → begins (.loadScroll r h slot length) e fun t =>
            t.modCtx c fun x => { x with load := some { order := 3, scroll := q } })))) ∧
    (∀ version : Word,
      let e := h.entry 0x15 (leBytes 4 version.toNat ++ leBytes 4 0 ++ digest) []
      let sw := fun (P : Ctx → Prop) => Taken s r e → Completes s (.switchVersion r h version digest) fun u =>
        P (u.ctx c) ∧ (u.rings[r]).cmds = (s.rings[r]).cmds ∧ (u.rings[r]).completions = (s.rings[r]).completions + 1 ∧
          (u.ctx c).mem = x.mem ∧ (u.ctx c).state = x.state ∧ u.tiles = s.tiles ∧ ∀ d, d ≠ c → u.ctx d = s.ctx d
      open_ → has →
      ((q.sec? 0xD).isNone = true → ends (.switchVersion r h version digest) e id 6 0) ∧
      ((q.sec? 0xD).isSome = true →
        (∀ b, x.bankOf version = some b →
          (x.banks[b].state = .bad → ends (.switchVersion r h version digest) e (·.cause Reg.wstCause 7) 6 0) ∧
          (x.banks[b].state ≠ .bad → sw fun y => y.pendDigest = digest ∧ y.pendUnbuilt = false ∧
            y.pending = (if x.current = some b then none else some version) ∧
            ∀ w b', x.pending = some w → w ≠ version → x.bankOf w = some b' → x.current ≠ some b' →
              (x.banks[b']).state ≠ .retiring →
              ((x.banks[b']).pins = 0 → y.banks[b'] = {}) ∧
              ((x.banks[b']).pins ≠ 0 → (x.banks[b']).state ≠ .bad →
                y.banks[b'] = { x.banks[b'] with state := .retiring }))) ∧
        (x.bankOf version = none →
          ((∀ b : Fin 2, (x.banks[b]).pins ≠ 0 ∨ x.current = some b ∧ (x.banks[b]).state = .current) → sw fun y =>
            y.pending = some version ∧ y.pendUnbuilt = true ∧ y.pendDigest = digest ∧ y.banks = (x.abandonTarget version).banks ∧
            y.current = x.current) ∧
          (x.freeBank.isSome = true → sw fun y => y.pending = some version ∧ y.pendUnbuilt = false ∧ ∃ b' : Fin 2,
            (x.banks[b']).pins = 0 ∧ (y.banks[b']).state = .building ∧ (y.banks[b']).version = version ∧
              (y.banks[b']).digest = digest)))) ∧
    (∀ time : DWord,
      let e := h.entry 0x16 (leBytes 8 time.toNat) []
      open_ → has → ((q.sec? 0x10).isNone = true → ends (.capo r h time) e id 6 0) ∧
      ((q.sec? 0x10).isSome = true →
        (s.ns < time.toNat → begins (.capo r h time) e (·.modCtx c fun x => { x with
          ckpt := { x.ckpt with pendingAt := some time.toNat } })) ∧
        (time.toNat ≤ s.ns → x.state = .running → x.inStep = true → begins (.capo r h time) e (·.modCtx c fun x => { x with
          ckpt := { x.ckpt with pendingAt := some time.toNat, due := some time.toNat } })) ∧
        (time.toNat ≤ s.ns → x.state = .loaded → x.load = none → x.ckpt.restore = none → x.ckpt.holding = false →
          s.stalled c = false → x.rolling = false → Taken s r e → Completes s (.capo r h time) fun u =>
            (u.ctx c).ckpt.cut.number = x.ckpt.cut.number + 1 ∧ (u.ctx c).ckpt.cut.time = time.toNat ∧
            (u.ctx c).ckpt.cut.step = x.stepNo ∧ (u.ctx c).ckpt.phase = 2 ∧ (u.ctx c).ckpt.drain = some { progressAt := s.phys } ∧
            (u.ctx c).ckpt.due = none ∧ (u.ctx c).mem = x.mem ∧ u.rfld Reg.ckpCause 1 1 = 1 ∧
            (u.rings[r]).cmds = (s.rings[r]).cmds ∧ (u.rings[r]).completions = (s.rings[r]).completions + 1))) ∧
    (let e := h.entry 0x17 ([0] ++ leBytes 7 0 ++ digest) []
     x.state = .loaded → has → (q.sec? 0x10).isSome = true → x.ckpt.cut.number ≠ 0 → digest = List.replicate 64 0 → Taken s r e →
     Completes s (.restoreMemory r h digest) fun u =>
       (s.homesLeft c = false → (u.ctx c).ckpt.drain = none ∧ (u.ctx c).ckpt.rollDue = false) ∧
       (s.homesLeft c = true → (u.ctx c).ckpt.rollDue = true ∧
         (u.ctx c).ckpt.drain = some { x.ckpt.drain.getD {} with onlyHomes := true, progressAt := s.phys }) ∧
       (q.homeServers = [] → (u.ctx c).ckpt.restore = none ∧ (u.ctx c).stepNo = x.ckpt.cut.step ∧
         (u.ctx c).armed = x.ckpt.cut.armed ∧ (u.ctx c).series = x.ckpt.cut.series ∧ (u.ctx c).needRestore = false ∧
         (u.ctx c).faultHold = false ∧ (u.rings[r]).cmds = (s.rings[r]).cmds ∧
         (u.rings[r]).completions = (s.rings[r]).completions + 1) ∧
       (q.homeServers ≠ [] → (u.rings[r]).cmds = (s.rings[r]).cmds ++ [s.startedCmd r e] ∧ (u.ctx c).ckpt.restore = some {
         source := 0, digest := digest, wrote := true, rollbacks := q.homeServers })) ∧
    (∀ slot : Byte,
      let asks := fun (i : Instr) (e : RawEntry) (source : Fin 3) (engine : Half) => begins i e fun t =>
        (t.modCtx c fun x => { x with ckpt := { x.ckpt with restore := some { source := source, digest := digest } } }).ckptFetch
          c engine (2 ^ 47) digest
      let b := h.entry 0x17 ([1] ++ leBytes 7 0 ++ digest) []
      let d := h.entry 0x17 ([2, slot] ++ leBytes 6 0 ++ digest) []
      x.state = .loaded → has →
      ((q.sec? 0x10).isNone = true → ends (.restoreBuddy r h digest) b id 6 0 ∧
        (slot.toNat ≤ 1 → ends (.restoreDurable r h slot digest) d id 6 0)) ∧
      (1 < slot.toNat → ends (.restoreDurable r h slot digest) d id 2 0) ∧
      ((q.sec? 0x10).isSome = true → (q.buddy ≠ 0xFFFF → asks (.restoreBuddy r h digest) b 1 q.buddy) ∧
        (slot.toNat ≤ 1 → asks (.restoreDurable r h slot digest) d 2 q.dserver))) ∧
    ∀ (r : Fin 9) (addr : DWord) (length : Word) (host : List Byte),
      let e := h.entry 0x1A (leBytes 8 addr.toNat ++ leBytes 4 length.toNat) host
      let blob := slice host 0 length.toNat
      Taken s r e →
      (s.blobCause r blob ≠ 0 → Completes s (.keyChange r h addr length host) fun u =>
        u = (({ s.took r e with sec := { s.sec with lastCause := s.blobCause r blob } }).cause Reg.secCause 3).record r e 8
          (s.blobCause r blob)) ∧
      (s.blobCause r blob = 0 → Completes s (.keyChange r h addr length host) fun u =>
        u = ({ s.took r e with sec := { s.sec with keyWait := s.sec.keyWait ++
            [(r, BitVec.ofNat 64 (leAt blob 16 8), s.unwrap blob, none)] } }).modRing r fun y => { y with
          cmds := y.cmds ++ [{ s.startedCmd r e with phase := .keySerial }] })

/-! ### Commands of the engine ring -/

/-- R316, R322, R324, R333, R334, R384, R396, R397, R435, R458, R463: CREATE, FW_UPDATE, TIME_ROLE, RECOVERY_RESET, POWER_LIMIT,
MAP_WINDOW and POWER_STATE: what each refuses, with its status, and what each does. A changed time role being FREE is the
model's choice, log 38; the context states of MAP_WINDOW and the slot it frees are log 33. -/
def Obligations.EngineCommands : Prop :=
  ∀ (s : State) (h : EntryHead), h.wf = true →
    let ends := fun (i : Instr) (e : RawEntry) (f : State → State) (status detail : Nat) =>
      Taken s 8 e → Completes s i fun u => u = (f (s.took 8 e)).record 8 e status detail
    (∀ p : CreateParams,
      let e := h.entry 0x01 ([p.ctx, p.fx0, p.fy0, p.fx1, p.fy1, p.hquota, p.tentries, 0] ++ leBytes 4 p.stacked.toNat ++
        leBytes 4 p.remote.toNat ++ leBytes 6 p.transit.toNat) []
      let c := finOf 8 p.ctx.toNat
      let rect : Rect := ⟨finOf 8 p.fx0.toNat, finOf 6 p.fy0.toNat, finOf 8 p.fx1.toNat, finOf 6 p.fy1.toNat⟩
      let fs := (fins 48).filter fun f => p.transit.getLsbD f.1
      let n := p.tentries.toNat
      let fits := p.ctx.toNat ≤ 7 ∧ p.fx0.toNat ≤ p.fx1.toNat ∧ p.fx1.toNat ≤ 7 ∧ p.fy0.toNat ≤ p.fy1.toNat ∧ p.fy1.toNat ≤ 5 ∧
        1 ≤ p.hquota.toNat ∧ p.hquota.toNat ≤ 64 ∧ n ≤ 8 ∧ 1 ≤ p.stacked.toNat ∧ p.stacked.toNat ≤ 1530 ∧ p.remote.toNat ≤ 2 ^ 27
      let short := (∃ f ∈ rect.regions, (s.ctxOfRegion f).isSome = true ∨ s.fret.lost.getLsbD f.1 = true ∨
          s.reserved f = true ∨ p.transit.getLsbD f.1 = true) ∨
        (∃ f ∈ rect.regions ++ fs, (s.regions[f]).silentAtBoot = true) ∨ s.pool < s.taken + p.stacked.toNat ∨
        ∃ f ∈ fs, s.grantAt f n = none
      let gs := fs.map fun f => (f.1, if n = 0 then 0 else (s.grantAt f n).getD 0, n)
      (¬fits → ends (.create 8 h p) e id 2 0) ∧ (fits → (s.ctx c).state ≠ .free → ends (.create 8 h p) e id 6 0) ∧
      (fits → (s.ctx c).state = .free → short → ends (.create 8 h p) e id 7 0) ∧
      (fits → (s.ctx c).state = .free → ¬short → ends (.create 8 h p) e
        (fun t => (t.modCtx c fun x => {
          gen := x.gen, state := .created, rect := rect, hquota := p.hquota.toNat, tentries := n
          stacked := p.stacked.toNat, remote := p.remote.toNat, transit := p.transit, grants := gs }).settleRegions) 0
        (leNat ((gs.take 8).map fun (g : Nat × Nat × Nat) => BitVec.ofNat 8 g.2.1)))) ∧
    (∀ slot length,
      let e := h.entry 0x04 ([slot] ++ leBytes 7 0 ++ leBytes 8 length.toNat) []
      let w := s.windows[finOf 32 slot.toNat]
      let image := Memory.readBytes w.staging 0 length.toNat
      let bad := 31 < slot.toNat ∨ w.kind ≠ 1 ∨ 2 ^ 31 < length.toNat
      (bad → ends (.fwUpdate 8 h slot length) e id 2 0) ∧
      (¬bad → fwValid s.flash.minSvn.toNat image = false → ends (.fwUpdate 8 h slot length) e id 8 0) ∧
      (¬bad → fwValid s.flash.minSvn.toNat image = true → ends (.fwUpdate 8 h slot length) e (fun t => { t with
        flash := { s.flash with
          fw := vset s.flash.fw (s.flash.active + 1) (FwCopy.ofImage image)
          pendingCopy := some (s.flash.active + 1), tried := false } }) 0 0)) ∧
    (∀ on : Bool, ends (.timeRole 8 h on) (h.entry 0x05 [if on then 1 else 0] []) (fun t => { t with
      time := { s.time with
        grandmaster := on, state := if on = s.time.grandmaster then s.time.state else .free, sync := none, req := none } }) 0 0) ∧
    (let e := h.entry 0x06 [] []
     Taken s 8 e → Completes s (.recoveryReset 8 h) fun u =>
       u = { s.began 8 e with hng := { s.hng with request := some (s.hng.request.getD 4) } }) ∧
    (∀ watts : Word,
      let e := h.entry 0x07 (leBytes 4 watts.toNat) []
      (watts.toNat < 10000 ∨ 42000 < watts.toNat → ends (.powerLimit 8 h watts) e id 2 0) ∧
      (10000 ≤ watts.toNat → watts.toNat ≤ 42000 → Taken s 8 e → Completes s (.powerLimit 8 h watts) fun u =>
        u = { s.began 8 e with budget := { s.budget with pendingLimit := some watts.toNat } })) ∧
    (∀ slot kind ctx base,
      let e := h.entry 0x08 ([slot, kind, ctx] ++ leBytes 5 0 ++ leBytes 8 base.toNat) []
      let i := finOf 32 slot.toNat
      let c := finOf 8 ctx.toNat
      let at_ := base.toNat
      let maps := fun (w : Window) => ends (.mapWindow 8 h slot kind ctx base) e
        (fun t => { t with windows := vset s.windows i w }) 0 0
      let refused := ends (.mapWindow 8 h slot kind ctx base) e id
      let freed := if (s.windows[i]).kind = 1 then 2 else 0
      (31 < slot.toNat ∨ 3 < kind.toNat → refused 2 0) ∧ (slot.toNat ≤ 31 →
        (kind = 0 → maps {}) ∧ (kind = 1 → s.pool < s.taken - freed + 2 → refused 7 0) ∧
        (kind = 1 → s.taken - freed + 2 ≤ s.pool → maps { kind := 1 }) ∧
        (kind = 2 → 7 < ctx.toNat ∨ at_ % 2 ^ 21 ≠ 0 → refused 2 0) ∧
        (kind = 2 → ctx.toNat ≤ 7 → at_ % 2 ^ 21 = 0 →
          ((s.ctx c).scroll = none ∨ (s.ctx c).state = .created ∨ (s.ctx c).state = .tearing → refused 6 0) ∧
          ∀ q, (s.ctx c).scroll = some q → (s.ctx c).state ≠ .created → (s.ctx c).state ≠ .tearing →
            (q.pinned at_ (2 ^ 31) = false → refused 2 0) ∧
            (q.pinned at_ (2 ^ 31) = true → maps { kind := 2, ctx := c, base := at_ })) ∧
        (kind = 3 → at_ ≠ 0 → at_ ≠ 2 ^ 31 → refused 2 0) ∧
        (kind = 3 → at_ = 0 ∨ at_ = 2 ^ 31 → maps { kind := 3, base := at_ }))) ∧
    (let active := h.entry 0x09 [0] []
     let rest := h.entry 0x09 [1] []
     let park := h.entry 0x09 [2] []
     let some_ := fun (l : List CtxState) => ∃ c : Fin 8, (s.ctx c).state ∈ l
     let reached := fun (u : State) (power : PowerState) => u.power = power ∧ u.rfld Reg.pwrCause 5 1 = 1 ∧
       (u.rings[(8 : Fin 9)]).completions = (s.rings[(8 : Fin 9)]).completions + 1 ∧
       (u.rings[(8 : Fin 9)]).cmds = (s.rings[(8 : Fin 9)]).cmds
     let quiet := fun (u : State) => ∀ p : Fin 64, u.ports[p] =
       if (s.ports[p]).state = .up then { s.ports[p] with state := .quiet } else s.ports[p]
     (s.power = .active → ends (.powerStateActive 8 h) active id 0 0) ∧
     (s.power ≠ .active → Taken s 8 active → Completes s (.powerStateActive 8 h) fun u => reached u .active ∧
       (∀ p : Fin 64, (s.ports[p]).state = .quiet → (u.ports[p]).state = .up) ∧
       let sound := ∀ k, s.stackLost k = false
       ∀ c : Fin 8, (sound → (u.ctx c).skipWindow = true) ∧ (s.budget.arrayLost = true → (s.ctx c).state = .loaded →
         (s.ctx c).scroll.isSome = true → (sound → (u.ctx c).reload = true) ∧
           ((u.ctx c).reload = true ∨ (u.ctx c).state = .created ∧ (u.ctx c).scroll = none))) ∧
     (s.power = .rest → ends (.powerStateRest 8 h) rest id 0 0) ∧
     (s.power ≠ .rest → some_ [.running, .tearing] → ends (.powerStateRest 8 h) rest id 6 0) ∧
     (s.power ≠ .rest → ¬some_ [.running, .tearing] → Taken s 8 rest → Completes s (.powerStateRest 8 h) fun u =>
       reached u .rest ∧ quiet u ∧ u.tiles = s.tiles ∧ u.ctxs = s.ctxs) ∧
     (s.power = .park → ends (.powerStatePark 8 h) park id 0 0) ∧
     (s.power ≠ .park → some_ [.running, .held, .tearing] → ends (.powerStatePark 8 h) park id 6 0) ∧
     (s.power ≠ .park → ¬some_ [.running, .held, .tearing] → Taken s 8 park → Completes s (.powerStatePark 8 h) fun u =>
       reached u .park ∧ quiet u ∧ u.tiles = [] ∧ u.mesh = [] ∧ u.ctxs = s.ctxs))

/-! ### Loading, teardown and membership by ring -/

/-- R324, R339 to R342: TEARDOWN and TEARDOWN_CTX start at once: commands of the context are ABORTED, its window slots
UNMAPPED, its generation moves on and its scroll is gone; the fence, the edges' acknowledgements and the quarantine follow;
at the end frames, scratchpads and keys are gone and the context is FREE with its generation kept. -/
def Obligations.Teardown : Prop :=
  ∀ (s : State) (c : Fin 8) (h : EntryHead),
    let r := ringOf c
    let x := s.ctx c
    let ends := fun (i : Instr) (r : Fin 9) (e : RawEntry) (status : Nat) =>
      Taken s r e → Completes s i fun u => u = (s.took r e).record r e status 0
    let e := h.entry 0x18 [] []
    let gone := fun (u : State) => u = { s with
        tiles := u.tiles, ctxs := u.ctxs, ports := u.ports, given := u.given, windows := u.windows, rings := u.rings
        regs := u.regs, out := u.out, sec := u.sec } ∧
      (∀ t, (u.tile t).pad = (s.tile t).pad) ∧ (∀ d, d ≠ c → u.ctx d = s.ctx d) ∧
      (∀ w : Fin 32, u.windows[w] = if (s.windows[w]).kind = 2 ∧ (s.windows[w]).ctx = c then {} else s.windows[w]) ∧
      (u.ctx c).state = .tearing ∧ (u.ctx c).gen = x.gen + 1 ∧ (u.ctx c).scroll = none ∧ (u.ctx c).load = none ∧
      (u.ctx c).retire = some { forLoad := false, order := 4, acks := 0, start := s.phys, charged := x.charged }
    (h.wf = true →
      (x.state = .free ∨ x.state = .tearing → ends (.teardown r h) r e 6) ∧
      (x.state ≠ .free → x.state ≠ .tearing → (s.rings[r]).cmds = [] → Taken s r e →
        Completes s (.teardown r h) fun u => gone u ∧ (u.rings[r]).cmds = [s.startedCmd r e]) ∧
      ∀ ctx : Byte,
        let e := h.entry 0x0A [ctx] []
        (7 < ctx.toNat → ends (.teardownCtx 8 h ctx) 8 e 2) ∧
        (ctx.toNat = c.1 → x.state = .free ∨ x.state = .tearing → ends (.teardownCtx 8 h ctx) 8 e 6) ∧
        ∀ k, ctx.toNat = c.1 → x.state ≠ .free → x.state ≠ .tearing → (s.rings[r]).cmds = [k] → k.entry.opcode ≠ 0x0A →
          k.entry.opcode ≠ 0x18 → Taken s 8 e → Completes s (.teardownCtx 8 h ctx) fun u => gone u ∧ (u.rings[r]).cmds = [] ∧
            (u.rings[r]).completions = (s.rings[r]).completions + 1 ∧
            .hostWrite (s.reg64 (ringReg r 0x10) + 16 * ((s.rings[r]).completions % 512)) (completionRecord k.entry
              (s.rings[r]).completions 9 (if k.isStep then x.stepsRun else 0)) ∈ u.out) ∧
    (Alive s → (x.retire = none → (Completes s (.teardownDrainTimeout c) fun u => u = s) ∧
        (∀ edge, Completes s (.edgeDrainAck c edge) fun u => u = s) ∧ (Completes s (.quarantineEnd c) fun u => u = s) ∧
        Completes s (.teardownZeroDone c) fun u => u = s) ∧
      ∀ y, x.retire = some y →
        let moved := fun (u : State) (y : Retire) => (u.ctx c).retire = some y ∧ (∀ d, d ≠ c → u.ctx d = s.ctx d) ∧
          (u.ctx c).mem = x.mem
        (y.order = 4 → Completes s (.teardownDrainTimeout c) fun u => moved u { y with order := 5 } ∧
          u.rfld Reg.cmdCause 3 1 = 1 ∧ ∀ f ∈ u.mesh, f.pkt.ctx ≠ c) ∧
        (y.order ≠ 4 → Completes s (.teardownDrainTimeout c) fun u => u = s) ∧
        (∀ edge,
          let acks := y.acks ||| BitVec.ofNat 5 (2 ^ edge.1)
          (s.edgeClear c edge = false → Completes s (.edgeDrainAck c edge) fun u => u = s) ∧
          (s.edgeClear c edge = true → y.order = 4 → Completes s (.edgeDrainAck c edge) fun u =>
            moved u { y with order := 5, acks := acks } ∧ ∀ f ∈ u.mesh, f.pkt.ctx ≠ c) ∧
          (s.edgeClear c edge = true → y.order = 5 → Completes s (.edgeDrainAck c edge) fun u =>
            u = s.modCtx c fun x => { x with retire := some { y with acks := acks } })) ∧
        (let all := y.order = 5 ∧ y.acks = 31 ∧ y.start + 200000000 ≤ s.phys
         (all → Completes s (.quarantineEnd c) fun u => u = s.modCtx c fun x => { x with retire := some { y with order := 6 } }) ∧
         (¬all → Completes s (.quarantineEnd c) fun u => u = s)) ∧
        (y.order ≠ 6 → Completes s (.teardownZeroDone c) fun u => u = s) ∧
        (y.order = 6 → Clear s → Completes s (.teardownZeroDone c) fun u =>
          (∀ t, s.ctxOf t = some c → (u.tile t).pad = [] ∧ (u.tile t).imem = [] ∧ (u.tile t).err = (s.tile t).err) ∧
          (∀ t, s.ctxOf t = none → (u.tile t).pad = (s.tile t).pad) ∧ (∀ d, d ≠ c → u.ctx d = s.ctx d) ∧
          (y.forLoad = true → u.ctx c = { x.wipe with retire := none }) ∧
          (y.forLoad = false → u.ctx c = { gen := x.gen } ∧ (u.rings[r]).key = none ∧
            ∀ k, (s.rings[r]).cmds = [k] → k.isOp 0x18 = true → (u.rings[r]).cmds = [] ∧
              (u.rings[r]).completions = (s.rings[r]).completions + 1)))

/-- R216, R301, R324, R340, R366, R374, R519: the commit of a load disarms the context and installs its scroll, or first
retires the one before; the load ends LOADED once every home page is there, and fails when one did, or when what was fetched
breaks a check that needs it. That the pages that hold mask bits are fetched and checked before the load completes is the
model's choice, log 28. -/
def Obligations.ScrollLoads : Prop :=
  ∀ (s : State) (c : Fin 8), Alive s →
    let x := s.ctx c
    let waits := Completes s (.loadScrollCommit c) fun u => u = s
    let stays := Completes s (.loadScrollComplete c) fun u => u = s
    let installed := fun (u : State) (q : Scroll) => (u.ctx c).scroll = some q ∧ (u.ctx c).load = some ⟨7, q⟩ ∧
      (u.ctx c).vmode = q.follow ∧ ∀ d, d ≠ c → u.ctx d = s.ctx d
    (x.load = none ∨ s.hng.running = true → waits ∧ stays) ∧
    ∀ l : Load, x.load = some l → s.hng.running = false →
      (l.order = 3 → Completes s (.loadScrollCommit c) fun u => u.plan = some (s.plan.getD l.scroll.plan) ∧
        u.fret = { s.fret with openRecord := false } ∧ (u.ctx c).state = .created ∧ (u.ctx c).armed = false ∧
        (∀ w : Fin 32, u.windows[w] = if (s.windows[w]).kind = 2 ∧ (s.windows[w]).ctx = c then {} else s.windows[w]) ∧
        (x.scroll = none → x.retire = none → installed u l.scroll) ∧
        (x.scroll = none → x.retire.isSome = true → (u.ctx c).scroll = none ∧ (u.ctx c).load = some ⟨4, l.scroll⟩ ∧
          (u.ctx c).retire = x.retire) ∧
        (x.scroll.isSome = true → (u.ctx c).scroll = none ∧ (u.ctx c).load = some ⟨4, l.scroll⟩ ∧ (u.ctx c).gen = x.gen + 1 ∧
          (u.ctx c).retire = some ⟨true, 4, 0, s.phys, x.charged⟩)) ∧
      (l.order = 4 → x.retire = none → Completes s (.loadScrollCommit c) fun u => installed u l.scroll) ∧
      (l.order ≠ 3 → l.order ≠ 4 ∨ x.retire.isSome = true → waits) ∧
      ∀ q, x.scroll = some q → (l.order ≠ 7 → stays) ∧ (l.order = 7 → Clear s →
        let ended := fun (u : State) => ∀ k, (s.rings[ringOf c]).cmds = [k] → k.isOp 0x10 = true →
          (u.rings[ringOf c]).cmds = [] ∧ (u.rings[ringOf c]).completions = (s.rings[ringOf c]).completions + 1
        (∀ i, s.homeFailed c q = some i → Completes s (.loadScrollComplete c) fun u =>
          u.ctx c = { x with load := none }.wipe ∧ ended u) ∧
        (s.homeFailed c q = none → (∃ p ∈ q.homePages ++ q.mapPages, (x.page q p).state ≠ .resident) →
          Completes s (.loadScrollComplete c) fun u => u = s.fetchMaps c q ∧ (q.mapPages = [] → u = s)) ∧
        (∀ f, s.homeFailed c q = none → (∀ p ∈ q.homePages ++ q.mapPages, (x.page q p).state = .resident) →
          leastFail (q.lateFails x.mem) = some f → Completes s (.loadScrollComplete c) fun u =>
            u.ctx c = { x with load := none }.wipe ∧ ended u) ∧
        (s.homeFailed c q = none → (∀ p ∈ q.homePages ++ q.mapPages, (x.page q p).state = .resident) →
          leastFail (q.lateFails x.mem) = none →
          Completes s (.loadScrollComplete c) fun u => (u.ctx c).state = .loaded ∧ (u.ctx c).load = none ∧
            (u.ctx c).stale = !s.fits q ∧ (u.ctx c).ckpt.cut.time = s.ns ∧ (u.ctx c).mem = x.mem ∧ ended u))

/-- R447 to R449: FENCE and READMIT complete as their membership command is rejected, set aside, held for the ceiling of its
serial, or acts. -/
def Obligations.MembershipRing : Prop :=
  ∀ (s : State) (h : EntryHead) (addr : DWord) (length : Word) (command : List Byte) (readmit : Bool), h.wf = true →
    (∀ p : Fin 64, (s.ports[p]).queue = []) → (s.rings[(8 : Fin 9)]).cmds = [] →
    let e := h.entry (if readmit then 3 else 2) (leBytes 8 addr.toNat ++ leBytes 4 length.toNat) command
    let i := if readmit then Instr.readmit 8 h addr length command else .fence 8 h addr length command
    let b := slice command 0 length.toNat
    let good := memberFormat b (if readmit then [3] else [1, 2]) = true
    let mine := memberTarget b = s.ident
    let t := s.took 8 e
    let does := fun (P : State → Prop) => Taken s 8 e → Completes s i P
    let rejected := fun (cause : Nat) => does fun u =>
      u = ((t.setReg Reg.hngMember (memberKind b % 4 + cause * 4 + 32 + 64 + 65535 * 128)).cause Reg.hngCause 9).record 8 e 8 cause
    let acts := fun (P : State → Prop) => does fun u => P u ∧ (u.rings[(8 : Fin 9)]).cmds = [] ∧
      (u.rings[(8 : Fin 9)]).completions = (s.rings[(8 : Fin 9)]).completions + 1 ∧
      u.hng.serial = BitVec.ofNat 64 (memberSerial b) ∧ u.rfld Reg.hngCause 8 1 = 1
    (¬good → rejected 1) ∧ (good → s.setAside b = true → does fun u => u = t.record 8 e 0 0) ∧
    (good → s.setAside b = false → s.hng.memberWait = [] →
      (s.memberCause b ≠ 0 → rejected (s.memberCause b)) ∧
      (s.memberCause b = 0 →
        (s.flash.memberCeiling.toNat < memberSerial b → does fun u => u = ({ t with
          hng := { s.hng with memberWait := [⟨b, true, 0xFFFF⟩] } } : State).modRing 8 fun y => { y with
            cmds := [{ s.startedCmd 8 e with phase := .memberSerial }] }) ∧
        (memberSerial b ≤ s.flash.memberCeiling.toNat →
          (memberKind b = 1 ∨ ¬mine → acts fun u => u.hng.epoch = memberEpoch b ∧ u.hng.fenced = s.hng.fenced) ∧
          (memberKind b = 2 → mine → acts fun u => u.hng.fenced = true ∧ u.hng.epoch = s.hng.epoch ∧
            (s.hng.fenced = false → u.rfld Reg.hngCause 7 1 = 1 ∧ u.hng.probation = false)) ∧
          (memberKind b = 3 → mine → acts fun u => u.hng.fenced = false ∧ u.hng.probation = true ∧
            u.hng.epoch = memberEpoch b))))

/-! ### Steps and cuts (12, 15, 17) -/

/-- R62, R117, R118, R121, R123, R270, R337, R338, R352, R426: a tile that has finished writes its lines back and waits; the
last one ends the step, which counts and moves to the boundary; a step begins with its number, position and seed, its tiles at
their entries; a rerun starts it again as the same step. That a reload waits for a stack out of lock or in stall, and escalates
at a line with an uncorrectable error, is the model's choice, log 26; what a rerun keeps of its frames is log 27, and that a
scroll without WEIGHTS has no version to pin log 20. -/
def Obligations.StepsRun : Prop :=
  ∀ (s : State) (c : Fin 8) (q : Scroll), Alive s → Clear s →
    let x := s.ctx c
    let others := fun (u : State) => ∀ d, d ≠ c → u.ctx d = s.ctx d
    (∀ t, s.ctxOf t = none → Completes s (.tileStepFinish t) fun u => u = s) ∧
    (∀ t, s.ctxOf t = some c → x.scroll = some q →
      let y := s.tile t
      let waits := Completes s (.tileStepFinish t) fun u => u = s
      (x.inStep = false ∨ x.state ≠ .running → waits) ∧
      (x.inStep = true → x.state = .running → y.finished = false → s.tileRuns t = false ∨ y.stepDone = false → waits) ∧
      (∀ s1, x.inStep = true → x.state = .running → y.finished = false → s.tileRuns t = true → y.stepDone = true →
        q.window t = none ∨ y.badIn (y.writeLines.map fun l => ⟨64 * l, 1⟩) = none → s.writeBackTile c q t = (true, s1) →
        let rest := x.tileList.all fun v => v == t || s.tileGone v || (s.tile v).finished
        (rest = false → Completes s (.tileStepFinish t) fun u => u = { s1 with tiles := u.tiles } ∧
          u.tile t = { y with finished := true, steps := y.steps + 1, advanced := true } ∧
          ∀ v, v ≠ t → u.tile v = s.tile v) ∧
        (rest = true → q.targets = [] → x.rerunning = false → Completes s (.tileStepFinish t) fun u =>
          (u.ctx c).inStep = false ∧ (u.ctx c).stepNo = x.curStep + 1 ∧ (u.ctx c).stepsRun = x.stepsRun + 1 ∧
          (u.ctx c).stepsDone = x.stepsDone + 1 ∧ (u.ctx c).lastStep = x.curStep ∧ (u.ctx c).units = [] ∧
          u.replayHead = s.replayHead + (s1.replayRecord c q).1.length ∧ (u.tile t).steps = y.steps + 1 ∧
          (x.starting = true → s.degraded = false → (s.rings[ringOf c]).cmds.filter Cmd.isHold = [] →
            (u.ctx c).state = (if x.stepsLeft = some 1 ∨ x.stepsLeft = some 0 then .loaded else if x.faultHold || x.hostHold || x.capoHold
              then .held else .running)))) ∧
      (∀ w s2, q.window t = some w → s.touchWrite c q none w = (.ok, s2) → (s.writeBackTile c q t).1 = true ∧
        ∀ l ∈ y.writeLines, Memory.readBytes ((s.writeBackTile c q t).2.ctx c).mem (w + 64 * l) 64 =
          Memory.readBytes y.pad (64 * l) 64)) ∧
    (s.mayBegin c = false ∨ x.scroll = none → Completes s (.contextStepBegin c) fun u => u = s) ∧
    (s.mayBegin c = true → x.scroll = some q → x.reload = true → s.windowsServed c q = false →
      Completes s (.contextStepBegin c) fun u => u = s) ∧
    (let ready := s.mayBegin c = true ∧ x.scroll = some q ∧ (x.reload = false ∨ s.windowsServed c q = true)
     (ready → s.replays c = true → s.recordOf x.stepNo = none →
      Completes s (.contextStepBegin c) fun u => u.rfld Reg.rplCause 3 1 = 1 ∧ (u.ctx c).state = .loaded ∧
        (u.ctx c).starting = false ∧ (u.ctx c).mem = x.mem ∧ others u) ∧
     (ready → s.replays c = false → (q.sec? 0xD).isSome = true → x.current = none → x.pending = none →
      Completes s (.contextStepBegin c) fun u => (u.ctx c).waitVersion = true ∧ (u.ctx c).inStep = false ∧
        (u.ctx c).mem = x.mem ∧ u.tiles = s.tiles ∧ others u) ∧
     (ready → s.replays c = false → (q.sec? 0xD).isNone = true →
      (∀ t, (s.tile t).badWords = [] ∨ (x.reload = true ∧ (q.window t).isSome = true)) → Completes s (.contextStepBegin c) fun u =>
        let z := x.series.getD ⟨0, 0, 0⟩
        let seed := stepSeed q z.seed z.index
        let pos := BitVec.ofNat 64 (z.pos.toNat + z.index * q.posAdvance)
        (u.ctx c).inStep = true ∧ (u.ctx c).curStep = x.stepNo ∧ (u.ctx c).curIndex = z.index ∧ (u.ctx c).curSeed = seed ∧
        (u.ctx c).curPos = pos ∧ (u.ctx c).stepTime = s.ns ∧ (u.ctx c).reload = false ∧ (u.ctx c).cleared = [] ∧
        (q.targets = [] → (u.ctx c).mem = x.mem ∧ others u ∧ ∀ t ∈ x.tileList, s.tileGone t = false →
          u.tile t = (s.tile t).begin (if x.reload then (q.window t).map fun w => (x.mem, w) else none) seed pos) ∧
        ∀ t ∈ x.tileList, ∀ w, x.reload = true → s.tileGone t = false → q.window t = some w →
          x.badReload ((s.tile t).begin (some (x.mem, w)) seed pos) w = true →
          u.rfld Reg.scrCause 3 1 = 1 ∧ u.hng.request.isSome = true)) ∧
    (x.scroll = none ∨ x.rerunning = false ∨ x.inStep = false ∨ x.state ≠ .running ∨ s.hng.running = true ∨
        (x.scroll = some q ∧ s.windowsServed c q = false) →
      Completes s (.rerunRestart c) fun u => u = s) ∧
    (x.scroll = some q → x.rerunning = true → x.inStep = true → x.state = .running → s.hng.running = false →
      s.windowsServed c q = true →
      (∀ t, (s.tile t).badWords = [] ∨ (q.window t).isSome = true) → Completes s (.rerunRestart c) fun u => others u ∧ (u.ctx c).rerunning = false ∧ (u.ctx c).refetchTiles = [] ∧
        (u.ctx c).curStep = x.curStep ∧ (u.ctx c).skips = x.skips ∧ (u.ctx c).committed = x.committed ∧
        (u.ctx c).reds = (x.reds.mapVals fun _ r => r.again) ∧ (u.ctx c).mem = x.mem ∧
        (∀ p : Fin 64, ∀ f ∈ (u.ports[p]).queue, f.ctx = some c → f.frame.type ≠ 0x01) ∧
        ∀ t ∈ x.tileList, s.tileGone t = false → (u.tile t).events = Vector.replicate 16 0 ∧ (u.tile t).finished = false ∧
          (u.tile t).steps = (s.tile t).steps)

/-- R393, R408, R409, R412, R419, R426, R427: a cut time that has come makes the cut due and takes it at a boundary; a
drain sends the cut write-backs, then the SEALs; it copies its pages, sends them one after the other, its records, and
its manifest once every page and SEAL is acknowledged, where a page of a stack in stall waits; what stays unanswered for
BUDDY_WAIT is sent again; a ROLLBACK that waited for the homes leaves. What one DRAIN_STEP does of the three is the
model's reading, log 23, and that the ROLLBACK waits log 24. RPL_CTRL is written while its context is LOADED. -/
def Obligations.CutsDrain : Prop :=
  ∀ (s : State) (c : Fin 8), Alive s →
    let x := s.ctx c
    let k := x.ckpt
    (x.scroll = none → Clear s → (Completes s (.cutTimeReached c) fun u => u = s) ∧
      (Completes s (.drainStep c) fun u => u = s) ∧ Completes s (.drainStall c) fun u => u = s) ∧
    (∀ q, x.scroll = some q →
      let idle_ := Completes s (.drainStep c) fun u => u = s
      let paused := s.power ≠ .active ∨ s.hng.running = true ∨ s.hng.fenced = true
      (Clear s → k.pendingAt = none → q.period = 0 ∨ q.lastPeriod s.ns ≤ k.lastPeriodic →
        Completes s (.cutTimeReached c) fun u => u = s) ∧
      (∀ t, Clear s → k.pendingAt = some t → t ≤ s.ns → x.state = .running → x.inStep = true → q.period = 0 →
        Completes s (.cutTimeReached c) fun u => u = s.modCtx c fun x => { x with ckpt := { x.ckpt with due := some t } }) ∧
      (Clear s → k.pendingAt = none → q.period ≠ 0 → k.lastPeriodic < q.lastPeriod s.ns → x.state = .running → x.inStep = true →
        x.load = none → Completes s (.cutTimeReached c) fun u => u = s.modCtx c fun x => { x with ckpt := { x.ckpt with
          due := some (q.lastPeriod s.ns), periodicDue := true, lastPeriodic := q.lastPeriod s.ns } }) ∧
      (Clear s → k.pendingAt = none → q.period ≠ 0 → k.lastPeriodic < q.lastPeriod s.ns → x.state = .loaded →
        x.load = none → k.restore = none → k.holding = false → s.hng.running = false → s.stalled c = false → s.power = .active →
        x.rolling = false → Completes s (.cutTimeReached c) fun u => (u.ctx c).ckpt.cut.number = k.cut.number + 1 ∧
          (u.ctx c).ckpt.cut.time = q.lastPeriod s.ns ∧ (u.ctx c).ckpt.lastPeriodic = q.lastPeriod s.ns ∧
          (u.ctx c).ckpt.cut.step = x.stepNo ∧ (u.ctx c).ckpt.phase = 2 ∧
          (u.ctx c).ckpt.drain = some { progressAt := s.phys } ∧ (u.ctx c).ckpt.due = none ∧ (u.ctx c).ckpt.periodicDue = false ∧
          u.rfld Reg.ckpCause 1 1 = 1 ∧ (u.ctx c).mem = x.mem) ∧
      (paused ∨ (k.drain = none ∧ (k.rollDue = false ∨ s.homesLeft c = true)) → idle_) ∧
      (¬paused → k.drain = none → k.rollDue = true → s.homesLeft c = false → Completes s (.drainStep c) fun u =>
        u = (s.sendSeals c q true k.cut.number k.cut.time q.homeServers).modCtx c fun x => { x with
          sealing := false
          ckpt := { x.ckpt with rollDue := false, rollWait := if k.restore.isSome then [] else q.homeServers } }) ∧
      (paused ∨ k.drain = none → Completes s (.drainStall c) fun u => u = s) ∧
      ∀ d, k.drain = some d → ¬paused →
        let put := fun (s : State) (d : Drain) => s.modCtx c fun x => { x with ckpt := { x.ckpt with drain := some d } }
        let due := d.progressAt + s.rfld Reg.ckpWait 0 8 * 100000000
        let does := fun (t : State) (d : Drain) =>
          Completes s (.drainStep c) fun u => u = put t { d with progressAt := s.phys }
        let unsent := fun (y : Page) => (y.cutDirty &&& ~~~(y.flying ||| y.flying1)) != (0 : BitVec 32) && s.pageServed y
        let copied := ∀ n ∈ x.snapState q, s.pageServed (x.page q (q.stateAt n)) = false
        (s.phys < due → Completes s (.drainStall c) fun u => u = s) ∧
        (due ≤ s.phys → d.manifestSent = false → Completes s (.drainStall c) fun u =>
          u = d.unacked.foldl (fun (s : State) n => s.sendPage c q.drainTo c.1 k.cut.number n (x.placeBytes n))
            ((put (s.cause Reg.ckpCause 7) { d with progressAt := s.phys }).sendSeals c q false k.cut.number k.cut.time
              d.sealWait)) ∧
        (k.rollDue = false ∨ s.homesLeft c = true →
          (d.sealed = false → d.onlyHomes = true ∨ (copied ∧ d.unacked ≠ [] ∧ d.manifestAcked = false) →
            (∀ e, (x.snapRemote q).find? (fun e => unsent e.2) = some e → s.solo c = false →
              x.snapState q = [] → does (s.cutWriteBack c q e.1) d) ∧
            (x.snapRemote q ≠ [] → (∀ e ∈ x.snapRemote q, unsent e.2 = false) ∨ s.solo c = true → idle_) ∧
            (x.snapRemote q = [] → does (s.sendSeals c q false k.cut.number k.cut.time q.homeServers)
              { d with sealed := true, sealWait := q.homeServers })) ∧
          (d.sealed = true → d.onlyHomes = true → idle_) ∧
          (d.sealed = true → d.onlyHomes = false → d.manifestAcked = false →
            (∀ n l, x.snapState q = n :: l → s.pageServed (x.page q (q.stateAt n)) = true → d.unacked ≠ [] →
              does (s.modCtx c fun x => x.localCopy q n) d) ∧
            (copied → d.unacked ≠ [] → idle_) ∧
            (copied → d.unacked = [] →
              (∀ n, (s.ownPages q).find? (fun k => decide (d.nextPage ≤ k)) = some n →
                ((x.page q (q.stateAt n)).copied = true →
                  does (s.sendPage c q.drainTo c.1 k.cut.number n (x.placeBytes n))
                    { d with nextPage := n + 1, unacked := d.unacked.add n }) ∧
                ((x.page q (q.stateAt n)).copied = false → idle_)) ∧
              ((s.ownPages q).find? (fun k => decide (d.nextPage ≤ k)) = none →
                (d.recordsSent = false → does (s.sendBytes c q.drainTo 2 c.1 (s.cutRecords c)) { d with recordsSent := true }) ∧
                (d.recordsSent = true → d.sealWait = [] → d.manifestSent = false →
                  does ((s.fixManifest c q).sendBytes c q.drainTo 3 c.1 (s.manifestBytes c q)) { d with manifestSent := true }) ∧
                (d.recordsSent = true → d.manifestSent = true ∨ d.sealWait ≠ [] → idle_)))) ∧
          (d.sealed = true → d.onlyHomes = false → d.manifestAcked = true → d.recordsSent = true → d.manifestSent = true →
            x.snapState q = [] → (s.ownPages q).find? (fun k => decide (d.nextPage ≤ k)) = none → Completes s (.drainStep c) fun u => u = s.modCtx c fun x => { x with ckpt := { x.ckpt with drain := none } }))) ∧
    ∀ v : Word,
      let now := (s.ctx (finOf 8 (s.rfld Reg.rplCtrl 0 3))).state
      let new := (s.ctx (finOf 8 (fld v.toNat 0 3))).state
      let refused := new ≠ .loaded ∨ (s.rfld Reg.rplCtrl 3 1 = 1 ∧ now ≠ .loaded)
      (s.pins.linkUp = false → Completes s (.rplCtrlWrite v) fun u => u = s) ∧
      (s.pins.linkUp = true → refused → Completes s (.rplCtrlWrite v) fun u => u = s.cause Reg.rplCause 4) ∧
      (s.pins.linkUp = true → ¬refused → Completes s (.rplCtrlWrite v) fun u => u = s.setReg Reg.rplCtrl (fld v.toNat 0 10))

/-! ### Power, heat and health (14, 15) -/

/-- R378, R379, R381, R383, R384, R394, R444, R446: a regulator polled, heard and silent; a rail that dips, and one
below the floor or above the ceiling, whose region is lost; the budget loop counts power, moves pegs only within their
range, spends its allowance and completes a POWER_LIMIT that is met. With the loss a STEP_START that stands between
steps is ABORTED. That the entry to REST ends with the next telemetry is the model's choice, log 44. -/
def Obligations.RailsAndBudget : Prop :=
  ∀ (s : State) (r : Fin 48), Alive s →
    let x := s.regions[r]
    let put := fun (y : Region) => ({ s with regions := vset s.regions r y } : State)
    let marked := fun (u : State) (b : Nat) =>
      u.rfld Reg.pwrCause b 1 = 1 ∧ bitAt (u.reg (Reg.irqLoc 1 + 4 * (r.1 / 32))) (r.1 % 32) = true
    let lost := fun (c : Instr) => Completes s c fun u => (u.regions[r]).state = .lost ∧ (u.regions[r]).peg = 0 ∧
      u.fret.lost = s.fret.lost ||| BitVec.ofNat 48 (2 ^ r.1) ∧ u.fret.revision = s.fret.revision + 1 ∧ marked u 1 ∧
      (∀ q : Fin 48, q ≠ r → u.regions[q] = s.regions[q]) ∧ (∀ t, regionOf t ≠ r → u.tile t = s.tile t) ∧
      (let stands := fun c => (s.ctx c).starting = true ∧ (s.ctx c).inStep = false ∧ s.hng.running = false
       ((∀ c, ¬stands c) → u.out = s.out ++ [.regulatorTarget r 0]) ∧
       ∀ c, (¬stands c → u.ctx c = { s.ctx c with stale := (u.ctx c).stale }) ∧
         (stands c → (u.ctx c).starting = false ∧ (u.ctx c).state ≠ .running ∧ (u.ctx c).state ≠ .held ∧
           (u.ctx c).mem = (s.ctx c).mem ∧ ∀ k, (s.rings[ringOf c]).cmds = [k] → k.isStep = true →
             (u.rings[ringOf c]).cmds = [] ∧ (u.rings[ringOf c]).completions = (s.rings[ringOf c]).completions + 1)) ∧
      ∀ c q, (s.ctx c).scroll = some q → (∀ l, (s.ctx c).load = some l → l.order ≠ 7) → u.fits q = false → (u.ctx c).stale = true
    (Completes s (.regulatorPoll r) fun u => u = (put { x with polled := true }).emit (.regulatorPoll r)) ∧
    (∀ mv amps temp,
      let heard := { x with mv := mv, amps := amps, regTemp := temp, polled := false, noLink := false, entering := false }
      (x.noLink = false ∨ x.state = .test ∨ x.state = .lost →
        Completes s (.regulatorTelemetry r mv amps temp) fun u => u = put heard) ∧
      (x.noLink = true → x.state ≠ .test → x.state ≠ .lost → Completes s (.regulatorTelemetry r mv amps temp) fun u =>
        let y := u.regions[r]
        y.mv = mv ∧ y.amps = amps ∧ y.regTemp = temp ∧ y.polled = false ∧ y.noLink = false ∧
          (y.state = .off ∨ y.state = .park → y.peg = 0) ∧ (y.state = .active → 600 ≤ y.peg) ∧
          (y.state = .rest ∨ y.state = .stall ∨ y.state = .transit → y.peg = 600) ∧
          (y.peg ≠ x.peg → u.out = s.out ++ [.regulatorTarget r y.peg]) ∧ ∀ k : Fin 48, k ≠ r → u.regions[k] = s.regions[k])) ∧
    (x.polled = false → Completes s (.regulatorSilent r) fun u => u = s) ∧
    (x.polled = true → Completes s (.regulatorSilent r) fun u =>
      u = { put { x with noLink := true } with regs := u.regs } ∧ marked u 2) ∧
    (∀ mv,
      let armed := s.pins.regOffN && x.peg != 0 && (x.armed || decide (480 ≤ mv))
      let high := if 900 < mv then x.highTime + 100 else 0
      let floor := if armed = true ∧ mv < 480 then x.floorTime + 100 else 0
      let kept := { x with armed := armed, highTime := high, floorTime := floor }
      (x.state = .lost → Completes s (.railCheck r mv) fun u => u = s) ∧
      (x.state ≠ .lost → (10000 < high ∨ 1000 < floor → lost (.railCheck r mv)) ∧ (high ≤ 10000 → floor ≤ 1000 →
        (armed = true → (mv < 560 ∧ x.entering = false) ∨ (x.inDip = true ∧ mv ≤ 560) → Completes s (.railCheck r mv) fun u => u = put { kept with inDip := true }) ∧
        (armed = true → x.inDip = true → 560 < mv → Completes s (.railCheck r mv) fun u =>
          u = { put { kept with inDip := false, dips := satAdd x.dips 1 32 } with regs := u.regs } ∧ marked u 0) ∧
        (armed = false ∨ (x.inDip = false ∧ (560 ≤ mv ∨ x.entering = true)) → Completes s (.railCheck r mv) fun u =>
          u = put { kept with inDip := false })))) ∧
    (let late := x.peg ≠ 0 ∧ x.armed = false ∧ s.pins.regOffN = true
     (late → x.state ≠ .lost → lost (.railRaiseTimeout r)) ∧
     (¬late ∨ x.state = .lost → Completes s (.railRaiseTimeout r) fun u => u = s)) ∧
    ∀ other rates, Clear s →
      let b := s.budget
      let now := other + (s.regions.toList.map Region.watts).sum
      let limit := b.pendingLimit.getD b.limit
      let met := b.pendingLimit.isSome = true ∧ now ≤ limit
      let marks := if met then [] else (decide (limit < now) :: b.burst).take 10000
      let top := s.rfld Reg.pwrCtrl 0 10
      Completes s (.budgetLoop other rates) fun u => u.budget.now = now ∧ u.budget.limit = limit ∧ u.budget.burst = marks ∧
        u.budget.spent = decide (2000 ≤ (marks.filter id).length) ∧
        u.budget.pendingLimit = (if met then none else b.pendingLimit) ∧
        (u.budget.spent = true → b.spent = false → u.rfld Reg.pwrCause 4 1 = 1) ∧
        (met → u.rfld Reg.pwrCause 3 1 = 1 ∧ ∀ k, (s.rings[(8 : Fin 9)]).cmds = [k] → k.isOp 0x07 = true →
          (u.rings[(8 : Fin 9)]).cmds = [] ∧ (u.rings[(8 : Fin 9)]).completions = (s.rings[(8 : Fin 9)]).completions + 1) ∧
        (s.power ≠ .active → u.tiles = s.tiles ∧ u.ctxs = s.ctxs ∧ (u.regions[r]).peg = x.peg) ∧
        (x.state = .active → (s.ctxOfRegion r).isSome = true → 600 ≤ x.peg → x.peg ≤ top →
          600 ≤ (u.regions[r]).peg ∧ (u.regions[r]).peg ≤ top)

/-- R389 to R393, R395, R504, R510: a sample stores the readings, excludes a sensor out of range, and takes each hot
spot near its limit, into thermal stall or out of it; a pair that differs is marked, then its lower sensor excluded;
turning points of the reading enter the wear counts, which are kept in flash. A trip temperature lowers THERMTRIP_N and
enters FAILED. That wear is counted in half cycles and units of 1/1600 ppm is the model's choice, log 29; the
three-point rainflow is PRESUMED, log 6. -/
def Obligations.SensorsAndWear : Prop :=
  ∀ (s : State) (unit : Fin 60) (h : Fin 2), Alive s →
    let x := s.thermal[unit]
    let only := fun (y : Thermal) => ({ s with thermal := vset s.thermal unit y } : State)
    let loc := fun (u : State) => bitAt (u.reg (Reg.irqLoc 2 + 4 * (unit.1 / 32))) (unit.1 % 32) = true
    let bit_ := BitVec.ofNat 2 (2 ^ h.1)
    let limit : Int := if unit.1 < 48 then 105 else 95
    let trips := fun (readings : List Int) => ∃ i t, i < spots unit ∧
      ((s.storeReadings unit readings).thermal[unit]).reading i = some t ∧ (if unit.1 < 48 then 125 else 110) ≤ t
    (∀ readings : List Int, Clear s → readings.length = 2 * spots unit → trips readings → Completes s (.sensorSample unit readings) fun u =>
        u.pins.thermtripN = false ∧ u.hng.failed = true ∧ u.pins.regOffN = false ∧ u.tiles = [] ∧ u.ctxs = s.ctxs) ∧
    (∀ (readings : List Int) (i : Nat), Clear s → readings.length = 2 * spots unit → i < readings.length →
      readings.getD i 0 < -20 ∨ 150 < readings.getD i 0 → Completes s (.sensorSample unit readings) fun u =>
        (u.thermal[unit]).suspect.getLsbD i = true ∧ (x.suspect.getLsbD i = false → u.rfld Reg.thmCause 3 1 = 1 ∧ loc u)) ∧
    (∀ (readings : List Int) (a b : Int), Clear s → h.1 < spots unit → readings.length = 2 * spots unit →
      (∀ y ∈ readings, -20 ≤ y ∧ y ≤ 150) → ¬trips readings → x.suspect = 0 → readings[2 * h.1]? = some a →
      readings[2 * h.1 + 1]? = some (if unit.1 < 48 then b else b + Config.topOffset (unit.1 - 48)) →
      let hot := max a b
      let near := limit - (s.rfld Reg.thmCtrl 0 4 : Nat) ≤ max hot (s.forecastOf unit hot)
      Completes s (.sensorSample unit readings) fun u =>
        let y := u.thermal[unit]
        (y.near.getLsbD h.1 = true ↔ near) ∧
        y.stall.getLsbD h.1 = (if limit ≤ hot then true else if hot ≤ limit - 10 then false else x.stall.getLsbD h.1) ∧
        y.suspect = 0 ∧ (near → x.near.getLsbD h.1 = false → u.rfld Reg.thmCause 0 1 = 1 ∧ loc u) ∧
        (limit ≤ hot → x.stall.getLsbD h.1 = false → u.rfld Reg.thmCause 1 1 = 1 ∧ loc u ∧
          ∀ f : Fin 48, f.1 = unit.1 → (s.regions[f]).state ≠ .lost → (s.ctxOfRegion f).isSome = true → s.power = .active →
            (u.regions[f]).state = .stall ∧ ((s.regions[f]).noLink = false → (u.regions[f]).peg = 600)) ∧
        (∀ v, v ≠ unit → u.thermal[v] = s.thermal[v]) ∧ u.tiles = s.tiles ∧ (u.ctxs.map (·.mem)) = s.ctxs.map (·.mem)) ∧
    (x.differs h.1 = true → h.1 < spots unit → Completes s (.sensorDisagree unit h) fun u =>
      u = { only { x with disagree := x.disagree ||| bit_ } with regs := u.regs } ∧ u.rfld Reg.thmCause 2 1 = 1 ∧ loc u) ∧
    (x.differs h.1 = false ∨ spots unit ≤ h.1 → Completes s (.sensorDisagree unit h) fun u => u = s) ∧
    (x.differs h.1 = false ∨ x.disagree.getLsbD h.1 = false → Completes s (.sensorSuspect unit h) fun u => u = s) ∧
    (x.differs h.1 = true → x.disagree.getLsbD h.1 = true →
      let low := if x.temps.getD (2 * h.1) 0 < x.temps.getD (2 * h.1 + 1) 0 then 2 * h.1 else 2 * h.1 + 1
      Completes s (.sensorSuspect unit h) fun u => (u.thermal[unit]).suspect.getLsbD low = true ∧
        (u.thermal[unit]).disagree.getLsbD h.1 = false ∧ u.rfld Reg.thmCause 3 1 = 1 ∧ loc u ∧
        (∀ v, v ≠ unit → u.thermal[v] = s.thermal[v]) ∧ u.tiles = s.tiles ∧ u.ctxs = s.ctxs) ∧
    (∀ inlet outlet : Int, ∀ flow : Nat, -40 ≤ inlet → inlet ≤ 215 → -40 ≤ outlet → outlet ≤ 215 → flow ≤ 1023 →
      Completes s (.coolantSample inlet outlet flow) fun u => u = { s with coolant := u.coolant } ∧
        fld u.coolant.toNat 0 8 = (inlet + 40).toNat ∧ fld u.coolant.toNat 8 8 = (outlet + 40).toNat ∧
        fld u.coolant.toNat 16 10 = flow) ∧
    (((List.range (spots unit)).filterMap x.reading).max? = none → Completes s (.wearSample unit) fun u => u = s) ∧
    (∀ t, ((List.range (spots unit)).filterMap x.reading).max? = some t →
      (x.turns = [] → Completes s (.wearSample unit) fun u => u = only { x with turns := [t] }) ∧
      (∀ a b l, x.turns = a :: b :: l → (b ≤ a ∧ a ≤ t) ∨ (a ≤ b ∧ t ≤ a) →
        Completes s (.wearSample unit) fun u => u = only { x with turns := t :: b :: l }) ∧
      (∀ a b c d, x.turns = [a, b, c, d] → ¬((b ≤ a ∧ a ≤ t) ∨ (a ≤ b ∧ t ≤ a)) →
        let y := (b - c).natAbs
        y ≤ (a - b).natAbs → Completes s (.wearSample unit) fun u => u = only { x with
          turns := [t, a, d], cyc10 := x.cyc10 + (if 10 ≤ y then 2 else 0), cyc40 := x.cyc40 + (if 40 ≤ y then 2 else 0)
          wear := x.wear + (if 10 ≤ y then 2 * y * y else 0) })) ∧
    Completes s .wearFlashWrite fun u => u = { s with flash := { s.flash with
      cyc10 := s.thermal.map (·.cyc10), cyc40 := s.thermal.map (·.cyc40), wear := s.thermal.map (·.wear) } }

/-- R401 to R403, R451: the health score is 1,000 less six capped penalties; what is reported falls at once and rises
only after 60 scores that stay 25 above it; a score that falls below THRESH, or falls by more than SLOPE, asks for a
checkpoint, and the first fences an engine in probation. That a score falls below THRESH from one at or above it, and
the rounding of penalties, are the model's choices, log 30. -/
def Obligations.HealthScores : Prop :=
  ∀ s : State, Alive s → Clear s →
    let h := s.health
    let now := s.healthTotals
    let history := ((Vector.ofFn fun i : Fin 5 => now[i] - h.last[i]) :: h.history).take 8640
    let pens := s.penalties history
    let raw := 1000 - pens.toList.sum
    let score := if raw < h.score then raw
      else if h.score + 25 ≤ raw ∧ ((raw :: h.rise).take 60).length = 60 then (((raw :: h.rise).take 60).min?).getD raw else h.score
    let thresh := s.rfld Reg.ckpCtrl 0 10
    let slope := s.rfld Reg.ckpCtrl 10 10
    let falls := slope < ((score :: h.scores).take 7).max?.getD 0 - score
    let free := ∀ t sc, h.sinceRequest = some (t, sc) → t + 600000000000 ≤ s.phys ∨ score + slope ≤ sc
    let asks := ((score < thresh ∧ thresh ≤ h.score) ∨ falls) ∧ free
    Completes s .healthScore fun u => u.health.history = history ∧ u.health.last = now ∧ u.health.pens = pens ∧
      u.health.raw = raw ∧ u.health.score = score ∧ u.health.scores = (score :: h.scores).take 7 ∧
      (∀ i : Fin 6, pens[i] ≤ [200, 200, 250, 150, 150, 400].getD i.1 0) ∧
      u.health.rise = (if h.score + 25 ≤ raw ∧ ((raw :: h.rise).take 60).length ≠ 60 then raw :: h.rise else []) ∧
      (asks → u.rfld Reg.ckpCause 0 1 = 1 ∧ u.health.sinceRequest = some (s.phys, score)) ∧
      (¬asks → u.health.sinceRequest = h.sinceRequest ∧ u.health.top = h.top ∧ u.rfld Reg.ckpCause 0 1 = s.rfld Reg.ckpCause 0 1) ∧
      (s.hng.fenced = false → (u.hng.fenced = true ↔ s.hng.probation = true ∧ score < thresh ∧ thresh ≤ h.score)) ∧
      u.tiles.map (·.1) = s.tiles.map (·.1) ∧ (∀ c, (u.ctx c).mem = (s.ctx c).mem)

/-! ### Hangs and recovery resets (16_faults_and_recovery.md) -/

/-- R369, R432 to R437, R440, R441, R451, R452, R454, R511: two silent windows make a context HUNG or STARVED, and AUTO
requests a reset; a silent core, a spare included, is a suspect; a requested reset is RECOVERING with the array reset,
its contexts restored and a number in its sample, and ends with its commands completed and the steps of STALE contexts
ABORTED; a probation that runs its term ends. Orders 1 to 8 in one command are the model's reading, log 36, and what a
test condemns log 35. -/
def Obligations.HangsAndResets : Prop :=
  ∀ (s : State), Alive s →
    (∀ (stuck : List (TileId × UnitSel)) (c : Fin 8) (q : Scroll), (s.ctx c).scroll = some q →
      (∀ d, d ≠ c → (s.ctx d).scroll = none) →
      let x := s.ctx c
      let skipped := x.skipWindow = true ∨ s.usesStalled c = true ∨ s.power ≠ .active ∨ s.hng.running = true ∨ s.hng.fenced = true
      let watched := x.state = .running ∧ ¬skipped
      let silent := watched ∧ s.advancedIn c stuck = false ∧ s.busyCtx c q = true
      let window := fun (P : State → Prop) => Completes s (.hangWindow stuck) fun u => P u ∧
        (∀ d, (u.ctx d).skipWindow = false ∧ (u.ctx d).advanced = false) ∧ (∀ t, (u.tile t).pad = (s.tile t).pad) ∧
        (u.ctx c).mem = x.mem ∧ (u.ctx c).state = x.state
      (s.advancedIn c stuck = false → ¬watched ∨ s.busyCtx c q = false → window fun u => (u.ctx c).silentRun = 0 ∧
        (u.ctx c).hung = x.hung ∧ (u.ctx c).starved = x.starved) ∧
      (s.advancedIn c stuck = true → window fun u => (u.ctx c).silentRun = 0 ∧ (u.ctx c).hung = false ∧
        (u.ctx c).starved = false) ∧
      (silent → x.silentRun = 0 → window fun u => (u.ctx c).silentRun = 1 ∧ u.hng = s.hng) ∧
      (silent → x.silentRun = 1 → s.fabricWait c q = true → window fun u => (u.ctx c).starved = true ∧ u.hng = s.hng ∧
        (x.starved = false → u.rfld Reg.hngCause 1 1 = 1)) ∧
      (silent → x.silentRun = 1 → s.fabricWait c q = false → window fun u => (u.ctx c).hung = true ∧ (x.hung = false →
        u.rfld Reg.hngCause 0 1 = 1 ∧ u.rfld Reg.hngCounts 0 16 = min (s.rfld Reg.hngCounts 0 16 + 1) 65535 ∧
        (∀ k ∈ s.windowSuspects c stuck, ∃ j ∈ u.hng.suspects, j.tile = k.tile) ∧
        u.hng.request = (if s.rfld Reg.hngCtrl 7 1 = 1 then some (s.hng.request.getD 0) else s.hng.request)))) ∧
    (∀ k : Core,
      let inStep := ∃ c : Fin 8, (s.ctx c).state = .running ∧ (s.ctx c).inStep = true
      s.hng.running = false →
      (∀ t, s.fret.tileOf k = some t → (∀ j ∈ s.hng.suspects, j.tile ≠ t) →
        (inStep → Completes s (.controlTreeTimeout k) fun u => u = { s with
          hng := { s.hng with request := some (s.hng.request.getD 3), suspects := s.hng.suspects ++ [⟨t, 3⟩] }
          regs := u.regs } ∧ u.rfld Reg.hngCause 12 1 = 1) ∧
        (¬inStep → Completes s (.controlTreeTimeout k) fun u => u = { s with
          hng := { s.hng with suspects := s.hng.suspects ++ [⟨t, 3⟩] } })) ∧
      (s.fret.tileOf k = none → k ∉ s.hng.spares →
        (inStep → Completes s (.controlTreeTimeout k) fun u => u = { s with
          hng := { s.hng with request := some (s.hng.request.getD 3), spares := s.hng.spares ++ [k] }
          regs := u.regs } ∧ u.rfld Reg.hngCause 12 1 = 1) ∧
        (¬inStep → Completes s (.controlTreeTimeout k) fun u => u = { s with
          hng := { s.hng with spares := s.hng.spares ++ [k] } }))) ∧
    (∀ seen : ResetSeen,
      (s.hng.request = none ∨ s.hng.running = true → Completes s (.recoveryResetStart seen) fun u => u = s) ∧
      ∀ n, s.hng.request = some n → s.hng.running = false → Clear s → Completes s (.recoveryResetStart seen) fun u =>
        u.hng.running = true ∧ u.hng.request = none ∧ u.hng.trigger = n ∧ u.hng.tested = true ∧ u.hng.startTime = s.ns ∧
        u.rfld Reg.hngCause 2 1 = 1 ∧ u.power = .active ∧ u.mesh = [] ∧ u.routers = [] ∧ u.selections = [] ∧
        u.flash = s.flash ∧ u.time = s.time ∧ u.pins.perstInReset = !s.pins.perstN ∧ (s.hng.probation = true → s.hng.fenced = false → u.hng.fenced = true) ∧
        u.hng.repeats = (if 0 < s.rfld Reg.hngCounts 16 16 ∧ s.hng.stepSince = false then min 7 (s.hng.repeats + 1) else 0) ∧
        Memory.readLE u.hng.sample 0 4 = 0x4C504D53 ∧ Memory.readLE u.hng.sample 4 4 = s.rfld Reg.hngCounts 16 16 + 1 ∧
        Memory.readLE u.hng.sample 16 1 = n % 256 ∧
        ∀ c : Fin 8, (u.ctx c).gen = (s.ctx c).gen ∧ ((s.ctx c).scroll = none → (s.ctx c).load = none → u.ctx c = s.ctx c) ∧
          ((s.ctx c).scroll.isSome = true → (s.ctx c).load = none →
            (s.ctx c).state = .loaded ∨ (s.ctx c).state = .running ∨ (s.ctx c).state = .held →
            (u.ctx c).inStep = false ∧ (u.ctx c).ckpt.due = none ∧ (u.ctx c).units = [] ∧ (u.ctx c).members = [] ∧
            ((s.ctx c).stale = true → (u.ctx c).state = .loaded ∧ (u.ctx c).needRestore = true))) ∧
    (s.hng.running = false → Completes s .recoveryResetEnd fun u => u = s) ∧
    (s.hng.running = true → Clear s → (∀ p : Fin 64, (s.ports[p]).queue = []) →
      (∀ r : Fin 9, (s.rings[r]).ceilingTo.isSome = true ∨ ∀ k ∈ (s.rings[r]).cmds, k.phase ≠ .ceiling) →
      Completes s .recoveryResetEnd fun u =>
        u.hng = { s.hng with running := false, tested := false, stepSince := false } ∧ u.rfld Reg.hngCause 3 1 = 1 ∧
        u.pins.perstInReset = false ∧
        u.rfld Reg.hngCounts 16 16 = min (s.rfld Reg.hngCounts 16 16 + 1) 65535 ∧
        (s.degraded = false → ∀ c, u.ctx c = { s.ctx c with skipWindow := true }) ∧ u.tiles = s.tiles ∧
        (∀ c : Fin 8, (s.ctx c).stale = true →
          (s.ctx c).state = .loaded ∨ (s.ctx c).state = .running ∨ (s.ctx c).state = .held →
          (u.ctx c).needRestore = true ∧ (u.ctx c).mem = (s.ctx c).mem ∧ ((s.ctx c).starting = true →
            (u.ctx c).starting = false ∧ (u.ctx c).state = .loaded ∧ (u.ctx c).inStep = false ∧
            ∀ k, (s.rings[ringOf c]).cmds = [k] → k.isStep = true → (u.rings[ringOf c]).cmds = [] ∧
              (u.rings[ringOf c]).completions = (s.rings[ringOf c]).completions + 1)) ∧
        ∀ k, (s.rings[(8 : Fin 9)]).cmds = [k] → k.isOp 0x06 = true → k.phase = .started → (u.rings[(8 : Fin 9)]).cmds = [] ∧
          (u.rings[(8 : Fin 9)]).completions = (s.rings[(8 : Fin 9)]).completions + 1) ∧
    (s.hng.probation = false → Completes s .probationTimer fun u => u = s) ∧
    (s.hng.probation = true → Completes s .probationTimer fun u =>
      u = { s with hng := { s.hng with probation := false }, regs := u.regs } ∧ u.rfld Reg.hngCause 10 1 = 1)

/-! ### Failure, cold reset and bring-up (16, 17, 20) -/

/-- R30, R32, R442, R443, R465, R477, R502, R504 to R506: a trip, a supply fault, the watchdogs and a loss of lock of
domains 30, 31 and 39 enter FAILED; a loss of lock takes the ports of a SerDes chiplet or the host link down, and is
over when it is regained. -/
def Obligations.Failures : Prop :=
  ∀ (s : State), Alive s →
    let failed := fun (s u : State) => u = { s with
      hng := { s.hng with failed := true }, tiles := [], mesh := [], out := s.out ++ [.serdesOff]
      pins := { s.pins with regOffN := false }
      regions := s.regions.map fun x => { x with peg := 0, armed := false } }
    (Completes s .thermtrip fun u => failed { s with pins := { s.pins with thermtripN := false } } u) ∧
    (∀ rail, Completes s (.supplyFault rail) (failed s)) ∧
    (3 ≤ s.boot.order → Completes s .watchdogExpiry (failed s)) ∧
    (s.boot.order < 3 → Completes s .watchdogExpiry fun u => u = s) ∧
    (s.boot.order < 10 → s.boot.fwWait = false → Completes s .bringupWatchdog fun u =>
      failed { s with boot := { s.boot with fail := 4 } } u) ∧
    (10 ≤ s.boot.order ∨ s.boot.fwWait = true → Completes s .bringupWatchdog fun u => u = s) ∧
    ∀ d : Fin 40,
      let gone := ({ s with clkLost := s.clkLost ||| BitVec.ofNat 40 (2 ^ d.1) } : State).cause Reg.engCause 1
      let lost := fun (P : State → Prop) => Completes s (.pllLockLost d) P
      (d.1 < 12 ∨ (32 ≤ d.1 ∧ d.1 < 39) → lost fun u => u = gone) ∧
      (12 ≤ d.1 → d.1 < 28 → lost fun u => u = { gone with
          ports := u.ports, regs := u.regs, boot := { s.boot with portsLeft := u.boot.portsLeft } } ∧
        (∀ p : Fin 64, u.boot.portsLeft.getLsbD p.1 = (s.boot.portsLeft.getLsbD p.1 && decide (p.1 / 4 ≠ d.1 - 12))) ∧
        u.ports = Vector.ofFn (fun p : Fin 64 => if p.1 / 4 = d.1 - 12 then { s.ports[p] with state := .down, lanes := 0 }
          else s.ports[p]) ∧
        ((∃ p : Fin 64, p.1 / 4 = d.1 - 12 ∧ (s.ports[p]).state = .up) → u.rfld Reg.fabCause 0 1 = 1)) ∧
      (d.1 = 28 ∨ d.1 = 29 → lost fun u => u = { gone with
          pins := { s.pins with linkUp := false }, regs := u.regs, sec := u.sec } ∧
        u.sec = { s.sec with
          ideIo := false, ideIoKey := u.sec.ideIoKey, ideIoKeys := u.sec.ideIoKeys
          ideCm := false, ideCmKey := u.sec.ideCmKey, ideCmKeys := u.sec.ideCmKeys }) ∧
      (d.1 = 30 ∨ d.1 = 31 ∨ d.1 = 39 → lost (failed gone)) ∧
      Completes s (.pllLockRegained d) fun u => u = { s with clkLost := u.clkLost } ∧
        ∀ k : Fin 40, u.clkLost.getLsbD k.1 = (s.clkLost.getLsbD k.1 && k != d)

/-- R3, R331, R443, R448, R455, R457 to R459, R464, R466, R475, R503: cold reset and power loss leave OFF with the flash and
the fret map kept; the release of COLD_RESET_N brings the engine up, with counters at their ceilings and the owner record's
copies that pass their CRC, waits in FW_WAIT without a valid firmware copy, or fails with its code; an image that verifies ends
FW_WAIT. What a power loss tore and what bring-up finds are operands, logs 2 and 35. -/
def Obligations.BringUpOrders : Prop :=
  ∀ (s : State) (b : BringUp),
    let off := { State.reset with
      pending := s.pending, out := s.out, freeCtr := s.freeCtr, flash := s.flash
      fret := { s.fret with openRecord := false }, pins := { State.reset.pins with perstN := s.pins.perstN } }
    let counted := fun (x : Thermal) => ({ cyc10 := x.cyc10, cyc40 := x.cyc40, wear := x.wear } : Thermal)
    let f := s.flash
    let g := if b.tornFw then f.tearFw else f
    let valid := g.copyValid 0 = true ∨ g.copyValid 1 = true
    let brought := fun (s : State) (c : Instr) =>
      let factory := factoryOk b = true
      (4 ≤ b.pufFailedReads → Completes s c fun u => u.hng.failed = true ∧ u.boot.fail = 1 ∧ u.boot.fwWait = false) ∧
      (b.pufFailedReads < 4 → ¬factory → Completes s c fun u => u.hng.failed = true ∧ u.boot.fail = 2) ∧
      (b.pufFailedReads < 4 → factory → b.stackFail = 0xFFF → Completes s c fun u =>
        u.hng.failed = true ∧ u.boot.fail = 3 ∧ u.boot.stackFail = 0xFFF) ∧
      (b.pufFailedReads < 4 → factory → b.stackFail ≠ 0xFFF → Completes s c fun u =>
        u.hng.failed = false ∧ u.boot.order = 8 ∧ u.boot.fwWait = false ∧ u.boot.stackFail = b.stackFail ∧
        u.pins.regOffN = true ∧ (∀ k : Fin 8, u.ctx k = {}) ∧
        (∀ r : Fin 48, s.fret.lost.getLsbD r.1 = true → r ∉ b.tornRegions →
          (u.regions[r]).state = .lost ∧ (u.regions[r]).peg = 0) ∧
        (b.tornCores = [] → b.tornRegions = [] → ∀ r : Fin 48, r ∈ b.silentRegulators → s.fret.lost.getLsbD r.1 = false →
          (u.regions[r]).silentAtBoot = true) ∧
        (against b.first = [] → u.fret.fieldCores =
          s.fret.fieldCores.filter fun e => !(b.tornCores.map Core.key).contains e) ∧
        ∀ p : Fin 64, (u.ports[p]).state = .training → b.portFail.getLsbD p.1 = false ∧
          u.boot.portsLeft.getLsbD p.1 = true)
    (exec .coldResetAssert s = .next { off with thermal := s.thermal.map counted }) ∧
    (exec .powerLoss s = .next { off with thermal := Vector.ofFn fun i : Fin 60 =>
      { cyc10 := f.cyc10[i], cyc40 := f.cyc40[i], wear := f.wear[i] } }) ∧
    (s.pins.coldResetN = true → exec (.coldResetRelease b) s = .next s) ∧
    (s.pins.coldResetN = false →
      (Completes s (.coldResetRelease b) fun u => u.pins.coldResetN = true ∧ u.time.now = 0 ∧ u.flash.ceilings = f.ceilings ∧
        (∀ i : Fin 2, u.flash.owner[i] = if crc32c f.owner[i] = f.ownerCrc[i] then f.owner[i] else []) ∧ u.hng.serial = f.memberCeiling ∧ u.hng.epoch = 0 ∧
        (∀ r : Fin 9, (u.rings[r]).counter = f.ceilings[r] ∧ (u.rings[r]).en = false ∧ (u.rings[r]).key = none) ∧
        u.pins.linkUp = false ∧ u.pending = s.pending) ∧
      (¬valid → Completes s (.coldResetRelease b) fun u => u.boot.fwWait = true ∧ u.boot.order = 2 ∧ u.boot.input = some b ∧
        u.hng.failed = false) ∧
      (valid → brought s (.coldResetRelease b) ∧ Completes s (.coldResetRelease b) fun u =>
        (f.pendingCopy = none → u.boot.copy = (if f.copyValid f.active then f.active else f.active + 1) ∧ u.boot.trial = false) ∧
        ∀ p, f.pendingCopy = some p → f.tried = false →
          (g.copyValid p = true → u.boot.copy = p ∧ u.boot.trial = true ∧ u.flash.tried = true) ∧
          (g.copyValid p = false → u.boot.trial = false ∧ u.boot.fallback = true ∧ u.flash.pendingCopy = none) ∧
          (b.tornFw = true → (u.flash.fw[p]).valid = false))) ∧
    (∀ image, Alive s →
      let good := fwValid f.minSvn.toNat image = true
      (s.boot.fwWait = false ∨ s.boot.input = none ∨ ¬good → Completes s (.fwWaitImage image) fun u => u = s) ∧
      (s.boot.fwWait = true → s.boot.input = some b → good → s.ctxs = State.reset.ctxs → s.slots = State.reset.slots →
        s.pins.regOffN = true → (∀ r : Fin 48, s.regions[r] = {}) → (∀ p : Fin 64, s.ports[p] = {}) → brought s (.fwWaitImage image) ∧
          Completes s (.fwWaitImage image) fun u => u.flash.fw = vset f.fw 0 (FwCopy.ofImage image)))

/-! ### Registers (12_host_interface_and_contexts.md, 19_registers_and_interrupts.md) -/

/-- R10, R13, R72, R292, R321, R325, R443, R486 to R489, R494 to R497: a read answers its register, a wide one latched at its
first word; a setting is applied whole or rejected, a cause bit written 1 clears, a wide register takes both halves at its
high half, and the vector unmasked sends what was pending. A recording register's VALID, and that MSIX_UNMASK lifts the function
mask too, are the model's choices, log 41. -/
def Obligations.Registers : Prop :=
  ∀ (s : State) (path : RegPath) (off : Nat) (v : Word),
    let reads := fun (w : Word) => exec (.regReadLatch path off) s = .next (s.emit (.registerData path w))
    let absent := off % 4 ≠ 0 ∨ 0x4000000 ≤ off ∨ (s.hng.failed = true ∧ failedReads off = false) ∨
      (s.hng.failed = false ∧ path = .sideband ∧ sideReads off = false)
    (s.reaches path = false → exec (.regReadLatch path off) s = .next s) ∧
    (s.reaches path = true →
      (absent → reads 0) ∧
      (¬absent →
        (wideOf off = none → reads (BitVec.ofNat 32 (s.view off))) ∧
        (off = 0xC → reads 0x3FFFE408) ∧ (0x600000 ≤ off → off < 0x1000000 → reads 0) ∧
        (∀ r : Fin 9, off = 0x2011C + 0x40 * r.1 → reads (s.rings[r]).head) ∧
        ∀ b n, wideOf off = some (b, n) →
          (off ≠ b → reads ((s.latchOf path).getD off 0)) ∧
          (off = b → ∃ u, exec (.regReadLatch path off) s = .next u ∧ u.out = s.out ++ [.registerData path (wordAt (s.view b) 0)] ∧
            (∀ i, 0 < i → i < n → (u.latchOf path).getD (b + 4 * i) 0 = wordAt (s.view b) i) ∧
            u = { s with latch := u.latch, sideLatch := u.sideLatch, out := u.out } ∧
            (path = .bar0 → u.sideLatch = s.sideLatch) ∧ (path = .sideband → u.latch = s.latch)))) ∧
    (Alive s →
      let wrote := fun (P : State → Prop) => Completes s (.registerWrite path off v) P
      let only := fun (u : State) => u = { s with regs := u.regs }
      (s.reaches path = false ∨ off % 4 ≠ 0 ∨ (path = .sideband ∧ off ≠ Reg.irqMask ∧ off ≠ Reg.engIdent) → wrote fun u => u = s) ∧
      (s.reaches .bar0 = true → off % 4 = 0 → path = .bar0 →
        (∀ x, settingOf off = some x → off ≠ Reg.timCtrl → wrote fun u => only u ∧ u = if x.admits v.toNat then
          s.setReg off (x.apply (s.reg off) v.toNat) else s.cause x.reject.1 x.reject.2) ∧
        (off = Reg.timCtrl → wrote fun u => u.rfld Reg.timCtrl 3 4 = fld v.toNat 3 4 ∧ u = { s with
          regs := u.regs
          time := { s.time with state := if s.time.grandmaster = true ∧ fld v.toNat 3 1 = 0 then .free else s.time.state } }) ∧
        (isLeaf off = true →
          (wrote fun u => only u ∧ u.reg off = s.reg off - (s.reg off &&& v.toNat) ∧
            (∀ o, o ≠ off → (∀ r ∈ recordsOf off, r.2.1 ≠ o) → u.reg o = s.reg o) ∧
            ∀ r ∈ recordsOf off, u.rfld r.2.1 0 r.2.2 = s.rfld r.2.1 0 r.2.2 ∧
              u.rfld r.2.1 r.2.2 1 = if u.reg off &&& r.1 = 0 then 0 else s.rfld r.2.1 r.2.2 1) ∧
          exec (.causeClear off v) s = exec (.registerWrite path off v) s) ∧
        (∀ t : TileId, off = 0x1000020 + 64 * t.1 → Completes s (.causeClear off v) fun u => OnlyTiles s u [t] ∧
          let err := (s.tile t).err &&& ~~~(BitVec.ofNat 6 v.toNat)
          u.tile t = { s.tile t with err := err, fault := if err = 0 then 0 else (s.tile t).fault }) ∧
        (off = Reg.timSrc → wrote fun u => u.rfld Reg.timSrc 0 16 = v.toNat % 65536) ∧
        (∀ r : Fin 9, off = 0x20118 + 0x40 * r.1 → exec (.registerWrite path off v) s =
          exec (if v.getLsbD 0 then .ringEnable r else .ringDisable r) s) ∧
        (off = 0x1800C → wrote fun u => u.pins.vectorMasked = v.getLsbD 0 ∧ u.regs = s.regs ∧ u.tiles = s.tiles) ∧
        (off < 0x1000000 → (∀ b n, wideOf off ≠ some (b, n)) → settingOf off = none → isLeaf off = false →
          isMsix off = false → off ≠ Reg.timSrc → off ≠ Reg.rplCtrl → ¬(0x200100 ≤ off ∧ off < 0x200180) →
          ¬(0x20100 ≤ off ∧ off < 0x20340) → wrote fun u => u = s)) ∧
      (isWideWrite off = true → s.reaches .bar0 = true →
        (Completes s (.regWriteLowHalf off v) fun u => u = { s with lowHalf := s.lowHalf.set off v }) ∧
        ∀ low, low = s.lowHalf.get? off →
          let high := fun (P : State → Prop) => Completes s (.regWriteHighHalf (off + 4) v) fun u =>
            P u ∧ u = { s with regs := u.regs, lowHalf := s.lowHalf.erase off } ∧
              ∀ o, o ≠ off → o ≠ off + 4 → o ≠ Reg.cmdCause → u.reg o = s.reg o
          (off < 0x20000 → high fun u => u.reg off = s.reg off - (s.reg off &&& (low.getD 0).toNat) ∧
            u.reg (off + 4) = s.reg (off + 4) - (s.reg (off + 4) &&& v.toNat)) ∧
          ∀ r : Fin 9, off = ringReg r 0 ∨ off = ringReg r 8 ∨ off = ringReg r 16 →
            ((s.rings[r]).en = true → high fun u => u.rfld Reg.cmdCause 6 1 = 1 ∧ u.reg off = s.reg off ∧
              u.reg (off + 4) = s.reg (off + 4)) ∧
            ((s.rings[r]).en = false → high fun u => u.reg (off + 4) = v.toNat ∧
              let a := if off = ringReg r 0 then 2 ^ 16 else if off = ringReg r 8 then 2 ^ 6 else 2 ^ 12
              u.reg off = (match low with | some w => w.toNat | none => s.reg off) / a * a)) ∧
      (∀ c : Fin 8, s.reaches .bar0 = true →
        let w := v.toNat
        let good := fld w 1 4 ≤ 8 ∧ 1 ≤ fld w 5 10 ∧ fld w 5 10 ≤ 1000 ∧
          (fld w 0 1 = 1 → ∃ q, (s.ctx c).scroll = some q ∧ q.rstage ≠ 0)
        (good → Completes s (.grdCtrlWrite c v) fun u => u = s.setReg (Reg.grdCtl c.1) (w % 2 ^ 15)) ∧
        (¬good → Completes s (.grdCtrlWrite c v) fun u => u = s.cause Reg.grdCause 5)) ∧
      (s.reaches path = true → Completes s (.irqMaskWrite path v) fun u => only u ∧ u.rfld Reg.irqMask 0 15 = v.toNat % 2 ^ 15 ∧
        ∀ o, o ≠ Reg.irqMask → u.reg o = s.reg o) ∧
      (let takes := s.rfld Reg.engIdent 16 1 = 0 ∧ 2 ≤ s.boot.order ∧ s.boot.order < 9 ∧ v.toNat ≤ 65534
       (takes → Completes s (.engIdentWrite v) fun u => u = s.setReg Reg.engIdent (v.toNat + 65536)) ∧
       (¬takes → Completes s (.engIdentWrite v) fun u => u = s))) ∧
    (s.boot.order = 0 ∨ s.pins.linkUp = false → exec .msixUnmask s = .next s) ∧
    (s.boot.order ≠ 0 → s.pins.linkUp = true → exec .msixUnmask s = .next { s with
      pins := { s.pins with vectorMasked := false, functionMasked := false, pendingBit := false }
      out := s.out ++ if s.pins.pendingBit && s.alert then [.msix] else [] })

/-! ### SPDM requests (18_security_and_identity.md) -/

/-- R468 to R473: a request is answered when its transport is served, an answer above its size in chunks; nothing before the
algorithms are agreed, SHA3-512 and ML-DSA-87 or none; certificates from slot 0 only; signatures under the alias key; one
session per transport, with the secrets of its ciphertext and transcript, and requests of a session only inside it, where
KEY_UPDATE moves both secrets on. Error codes, the bytes of an answer and the key schedule are the model's reading of SPDM 1.3,
log 40. -/
def Obligations.SpdmRequests : Prop :=
  ∀ (s : State) (via : Transport), Alive s →
    let x := s.conn via
    let leaves := fun (t : State) (a : SpdmAnswer) (u : State) =>
      let n := (answerBytes a).length
      (n ≤ Config.transportSize (via == .doe) → u = t.emit (.spdm via a)) ∧
      (Config.transportSize (via == .doe) < n →
        u = (t.modConn via fun x => { x with large := answerBytes a, largeNext := 0 }).emit (.spdm via (.error 15)))
    let tells := fun (i : Instr) (a : SpdmAnswer) => Completes s i (leaves s a)
    let refuses := fun (i : Instr) (code : Nat) => tells i (.error code)
    let served := s.serves via = true
    let image := sha3_512 s.flash.fw[s.boot.copy].image
    let chain := Config.certChain image
    let signed := fun (g shown : List Byte) => slice
      (Config.mlDsaSign (kmac256 Config.pufSeed image "LW2-ALIAS") (Config.transcript shown) g) 0 4627
    (s.serves via = true ↔ if via = .doe then s.pins.linkUp = true else 4 ≤ s.boot.order) ∧
    (¬served → ∀ i, i = .getVersion via ∨ i = .getCapabilities via ∨ (∃ a b, i = .negotiateAlgorithms via a b) ∨
      i = .getDigests via ∨ (∃ a b n, i = .getCertificate via a b n) ∨ (∃ a b, i = .challenge via a b) ∨
      (∃ a b, i = .getMeasurements via a b) ∨ (∃ a b n, i = .chunkSend via a b n) ∨ (∃ n, i = .chunkGet via n) ∨
      (∃ b, i = .keyExchange via b) ∨ (∃ n b, i = .finish via n b) ∨ (∃ n, i = .endSession via n) ∨
      (∃ n, i = .heartbeat via n) ∨ (∃ n, i = .keyUpdate via n) ∨ i = .getOwner via ∨ (∃ b, i = .setOwner via b) ∨
      (∃ a b, i = .setCmdKey via a b) → Completes s i fun u => u = s) ∧
    (served →
      (Completes s (.getVersion via) fun u => ∃ t : State, leaves t (.version [0x13]) u ∧ t.conn via = { version := true } ∧
        t = { s with sec := t.sec, regs := t.regs } ∧
        (x.session = none → s.sec.ideIoKey ≠ some via → s.sec.ideCmKey ≠ some via → t.regs = s.regs)) ∧
      (x.version = true → Completes s (.getCapabilities via) (leaves (s.modConn via fun x => { x with caps := true })
        (.capabilities capabilityFlags (Config.transportSize (via == .doe))))) ∧
      (x.version = false → refuses (.getCapabilities via) 4) ∧
      (∀ sha3 mldsa, (x.caps = false → refuses (.negotiateAlgorithms via sha3 mldsa) 4) ∧
        (x.caps = true → (sha3 && mldsa) = false → refuses (.negotiateAlgorithms via sha3 mldsa) 1) ∧
        (x.caps = true → (sha3 && mldsa) = true → Completes s (.negotiateAlgorithms via sha3 mldsa) (leaves
          (s.modConn via fun x => { x with algs := true }) (.algorithms 0 0x20 [Config.signatureEntry])))) ∧
      (x.algs = false → ∀ i, i = .getDigests via ∨ (∃ a b n, i = .getCertificate via a b n) ∨ (∃ a b, i = .challenge via a b) ∨
        (∃ a b, i = .getMeasurements via a b) ∨ (∃ a b n, i = .chunkSend via a b n) ∨ (∃ n, i = .chunkGet via n) ∨
        (∃ b, i = .keyExchange via b) ∨ (∃ n b, i = .finish via n b) ∨ (∃ n, i = .endSession via n) ∨
        (∃ n, i = .heartbeat via n) ∨ (∃ n, i = .keyUpdate via n) → refuses i 4) ∧
      (x.algs = true →
        tells (.getDigests via) (.digests (sha3_512 chain)) ∧
        (∀ (slot : Byte) (offset length : Nat),
          (slot ≠ 0 ∨ chain.length ≤ offset → refuses (.getCertificate via slot offset length) 1) ∧
          (slot = 0 → offset < chain.length → tells (.getCertificate via slot offset length) (.certificate
            ((chain.drop offset).take length) (chain.length - offset - min length (chain.length - offset))))) ∧
        (∀ (slot : Byte) (nonce : List Byte), (slot ≠ 0 → refuses (.challenge via slot nonce) 1) ∧
          (slot = 0 → Completes s (.challenge via slot nonce) fun u => ∃ g : List Byte,
            leaves { s with freeCtr := s.freeCtr + 1 }
              (.challengeAuth (sha3_512 chain) nonce (signed g (sha3_512 chain ++ nonce))) u)) ∧
        (∀ (nonce : List Byte), tells (.getMeasurements via 0 nonce) (.measurementCount 30) ∧
          ∀ (index : Byte), index ≠ 0 →
            let blocks := (if index = 0xFF then measurementIndices else [index.toNat]).filterMap fun i =>
              (s.measurement i).map fun m => (i, m)
            (blocks = [] → refuses (.getMeasurements via index nonce) 1) ∧
            (blocks ≠ [] → Completes s (.getMeasurements via index nonce) fun u => ∃ g : List Byte,
              leaves { s with freeCtr := s.freeCtr + 1 } (.measurements blocks nonce
                (signed g ((blocks.flatMap fun e => measurementBlock e.1 e.2) ++ nonce))) u)) ∧
        (s.measurement 5 = some (if s.owned then sha3_512 s.owner else List.replicate 64 0) ∧
          (∀ c : Fin 8, (s.ctx c).scroll = none → s.measurement (16 + c.1) = some (List.replicate 64 0)) ∧
          ∀ k : Fin 16, (s.slots[k]).state ≠ .enabled → s.measurement (32 + k.1) = some (List.replicate 64 0)) ∧
        (∀ (ciphertext : List Byte), (x.session.isSome = true → refuses (.keyExchange via ciphertext) 10) ∧
          (x.session = none → Completes s (.keyExchange via ciphertext) fun u => ∃ w : Word,
            let ct := slice ciphertext 0 1568
            u.conn via = { x with
              session := some w.toNat, established := false, reqSecret := [], rspSecret := []
              secret := Config.mlKemDecap (kmac256 Config.pufSeed image "LW2-KEM") ct
              transcript := Config.transcript (sha3_512 chain ++ ct ++ leBytes 4 w.toNat) } ∧
            u = { s with sec := u.sec, freeCtr := s.freeCtr + 1, out := s.out ++ [.spdm via (.keyExchange w.toNat)] })) ∧
        (∀ (n : Nat) (mac : List Byte),
          (x.session ≠ some n ∨ x.established = true → refuses (.finish via n mac) 2) ∧
          (x.session = some n → x.established = false →
            (mac = spdmFinishMac x → Completes s (.finish via n mac) (leaves (s.modConn via fun y => { y with
              established := true, reqSecret := (spdmData x mac).1, rspSecret := (spdmData x mac).2 }) .finish)) ∧
            (mac ≠ spdmFinishMac x → Completes s (.finish via n mac) fun u =>
              (u.conn via).session = none ∧ u.out = s.out ++ [.spdm via (.error 6)]))) ∧
        (∀ n : Nat,
          (¬(x.session = some n ∧ x.established = true) → refuses (.endSession via n) 2 ∧ refuses (.heartbeat via n) 2 ∧
            refuses (.keyUpdate via n) 2) ∧
          (x.session = some n → x.established = true → tells (.heartbeat via n) .heartbeat ∧
            Completes s (.keyUpdate via n) (leaves (s.modConn via fun y => { y with
              reqSecret := spdmExpand y.reqSecret "traffic upd" [] 64
              rspSecret := spdmExpand y.rspSecret "traffic upd" [] 64 }) .keyUpdate) ∧
            Completes s (.endSession via n) fun u => (u.conn via).session = none ∧ (u.conn via).established = false ∧
              u.out = s.out ++ [.spdm via .endSession] ∧
              (u.conn via).reqSecret = [] ∧ (u.conn via).rspSecret = [] ∧
              (s.sec.ideIo = true → s.sec.ideIoKey = some via → u.sec.ideIo = false ∧ u.rfld Reg.secCause 6 1 = 1) ∧
              (s.sec.ideIoKey ≠ some via → s.sec.ideCmKey ≠ some via → u.regs = s.regs))) ∧
        (∀ (seqNo : Nat) (chunk : List Byte),
          (seqNo ≠ 0 → seqNo ≠ x.chunkNext → ∀ last, Completes s (.chunkSend via last seqNo chunk) fun u =>
            (u.conn via).chunks = [] ∧ u.out = s.out ++ [.spdm via (.error 1)]) ∧
          (seqNo = 0 ∨ seqNo = x.chunkNext → Completes s (.chunkSend via false seqNo chunk) fun u =>
            u = (s.modConn via fun x => { x with
              chunks := (if seqNo = 0 then [] else x.chunks) ++ chunk, chunkNext := seqNo + 1 }).answer via (.chunkAck seqNo)) ∧
          (seqNo = 0 ∨ seqNo = x.chunkNext → Completes s (.chunkSend via true seqNo chunk) fun u =>
            let b := (if seqNo = 0 then [] else x.chunks) ++ chunk
            let vendor := leAt b 1 1 = 0xFE ∧ leAt b 4 2 = 3 ∧ leAt b 6 1 = 2 ∧ leAt b 7 2 = Config.vendorId
            (∃ more, u.out = s.out ++ [.spdm via (.chunkAck seqNo)] ++ more) ∧ (u.conn via).chunks = [] ∧
            (¬vendor → leAt b 1 1 ≠ 0xE4 → u.out = s.out ++ [.spdm via (.chunkAck seqNo), .spdm via (.error 7)]))) ∧
        (∀ seqNo : Nat, (x.large = [] ∨ seqNo ≠ x.largeNext → refuses (.chunkGet via seqNo) 1) ∧
          (x.large ≠ [] → seqNo = x.largeNext → Completes s (.chunkGet via seqNo) fun u => ∃ n, 1 ≤ n ∧
            u = (s.modConn via fun x => { x with large := x.large.drop n, largeNext := seqNo + 1 }).answer via
              (.chunk seqNo (x.large.drop n).isEmpty (x.large.take n))))) ∧
      tells (.getOwner via) (.vendor 0x81 0 s.owner))

/-! ### Ownership, command keys and IDE (18_security_and_identity.md) -/

/-- R473 to R477, R479 to R481, R483: SET_OWNER and SET_CMD_KEY are rejected at the first check that fails, or wait for their
write to flash and then take effect, a record with its CRC-32C; a new record leaves no command key, of those that wait for
flash none either; IDE is keyed only inside a session, and what stops it sets IDE_FAIL or IDE_DOWN. A request that meets a write
under way is told Busy, and a key that waits is dropped with cause 2, by the model's choice, log 39. -/
def Obligations.OwnershipAndKeys : Prop :=
  ∀ (s : State) (via : Transport), Alive s →
    let served := s.serves via = true
    let vendor := fun (code cause : Nat) => SpdmAnswer.vendor code cause []
    let small := fun (a : SpdmAnswer) => (answerBytes a).length ≤ Config.transportSize (via == .doe)
    let rejects := fun (code bit cause : Nat) (u : State) => ∃ t : State, u = t.answer via (vendor code cause) ∧
      t = { s with sec := { s.sec with lastCause := cause }, regs := t.regs } ∧ t.rfld Reg.secCause bit 1 = 1 ∧
      (∀ o, o ≠ Reg.secCause → t.reg o = s.reg o) ∧ (small (vendor code cause) → u.out = s.out ++ [.spdm via (vendor code cause)])
    (∀ record : List Byte,
      let set := fun (P : State → Prop) => Completes s (.setOwner via record) P
      let rejected := fun (cause : Nat) => set (rejects 0x82 1 cause)
      let key := if s.owned then slice s.owner 128 2592 else Config.ownershipKey
      let good1 := ownerFormat record = true
      let good2 := slice record 16 64 = slice Config.identityHash 0 64
      let good3 := Config.mlDsaVerify key (sha3_512 (record.take 54560)) "LW2-OWNER" (slice record 54560 4627) = true
      let good4 := ownerSerial s.owner < ownerSerial record
      let good5 := ∀ c : Fin 8, (s.ctx c).state = .free
      served →
        (s.hng.running = true ∨ s.sec.ownerWait.isSome = true → set fun u => u = s.emit (.spdm via (.error 3))) ∧
        (s.hng.running = false → s.sec.ownerWait = none →
          (¬good1 → rejected 1) ∧ (good1 → ¬good2 → rejected 2) ∧ (good1 → good2 → ¬good3 → rejected 3) ∧
          (good1 → good2 → good3 → ¬good4 → rejected 4) ∧ (good1 → good2 → good3 → good4 → ¬good5 → rejected 5) ∧
          (good1 → good2 → good3 → good4 → good5 → set fun u =>
            u = { s with sec := { s.sec with ownerWait := some (record, via) } }))) ∧
    (s.sec.ownerWait = none → Completes s .ownerRecordWritten fun u => u = s) ∧
    (∀ record, s.sec.ownerWait = some (record, via) → ownerSerial s.owner < ownerSerial record → Clear s →
      Completes s .ownerRecordWritten fun u => u.owner = record ∧ (∀ r : Fin 9, (u.rings[r]).key = none ∧
          (u.rings[r]).counter = (s.rings[r]).counter ∧ (u.rings[r]).head = (s.rings[r]).head) ∧
        u.flash = { s.flash with owner := u.flash.owner, ownerCrc := u.flash.ownerCrc } ∧ u.hng = s.hng ∧
        (∃ i : Fin 2, u.flash.owner = vset s.flash.owner i record ∧
          u.flash.ownerCrc = vset s.flash.ownerCrc i (crc32c record)) ∧
        u.sec.ownerWait = none ∧ u.sec.keyWait = [] ∧
        (s.sec.keyWait = [] → u.sec = { s.sec with ownerWait := none, conns := u.sec.conns }) ∧
        (s.sec.keyWait ≠ [] → u.sec.lastCause = 2 ∧ u.rfld Reg.secCause 3 1 = 1) ∧
        u.rfld Reg.secCause 0 1 = 1 ∧ (small (vendor 0x82 0) → .spdm via (vendor 0x82 0) ∈ u.out)) ∧
    (∀ (ring : Byte) (blob : List Byte),
      let set := fun (P : State → Prop) => Completes s (.setCmdKey via ring blob) P
      let rejected := fun (cause : Nat) => set (rejects 0x83 3 cause)
      served →
        (s.hng.running = true → set fun u => u = s.emit (.spdm via (.error 3))) ∧
        (s.hng.running = false → 8 < ring.toNat → rejected 1) ∧
        ∀ r : Fin 9, ring.toNat = r.1 → s.hng.running = false →
          let state := (s.ctx (ctxOfRing r)).state
          let holds := (s.rings[r]).key.isSome = true ∨ (r ≠ 8 ∧ (state = .free ∨ state = .tearing))
          let good1 := blob.length = 6272 ∧ leAt blob 0 4 = 0x59454B43 ∧ leAt blob 4 1 = r.1 ∧ leAt blob 5 3 = 0 ∧
            leAt blob 12 4 = 0 ∧ leAt blob 6259 13 = 0
          let good2 := s.owned = true ∧ leAt blob 8 4 = ownerSerial s.owner
          let good3 := Config.mlDsaVerify (slice s.owner 128 2592) (sha3_512 (blob.take 1632)) "LW2-KEY" (slice blob 1632 4627) = true
          let good4 := (s.flash.keySerials[r]).toNat < leAt blob 16 8
          let good5 := (kmac256 (s.unwrap blob) [] "LW2-KCV").take 8 = slice blob 56 8
          (holds → rejected 6) ∧
          (¬holds → (∃ w ∈ s.sec.keyWait, w.1 = r) → set fun u => u = s.emit (.spdm via (.error 3))) ∧
          (¬holds → (∀ w ∈ s.sec.keyWait, w.1 ≠ r) →
            ((¬good1 → rejected 1) ∧ (good1 → ¬good2 → rejected 2) ∧ (good1 → good2 → ¬good3 → rejected 3) ∧
              (good1 → good2 → good3 → ¬good4 → rejected 4) ∧ (good1 → good2 → good3 → good4 → ¬good5 → rejected 5) ∧
              (good1 → good2 → good3 → good4 → good5 → set fun u => u = { s with sec := { s.sec with
                keyWait := s.sec.keyWait ++ [(r, BitVec.ofNat 64 (leAt blob 16 8), s.unwrap blob, some via)] } })))) ∧
    (∀ ring : Fin 9,
      ((∀ w ∈ s.sec.keyWait, w.1 ≠ ring) → Completes s (.keySerialWritten ring) fun u => u = s) ∧
      ∀ (serial : DWord) (key : List Byte) (by_ : Option Transport) (rest : List (Fin 9 × DWord × List Byte × Option Transport)),
        s.sec.keyWait = (ring, serial, key, by_) :: rest →
        let done := fun (u : State) => u.flash = { s.flash with keySerials := vset s.flash.keySerials ring serial } ∧
          u.sec = { s.sec with keyWait := rest } ∧ (u.rings[ring]).key = some key ∧ u.rfld Reg.secCause 2 1 = 1
        (by_ = some via → Completes s (.keySerialWritten ring) fun u => done u ∧ u.out = s.out ++ [.spdm via (vendor 0x83 0)] ∧
          ∀ r : Fin 9, r ≠ ring → u.rings[r] = s.rings[r]) ∧
        (by_ = none → Clear s → ∀ k, (s.rings[ring]).cmds = [k] → k.phase = .keySerial →
          Completes s (.keySerialWritten ring) fun u => done u ∧ (u.rings[ring]).cmds = [] ∧
            (u.rings[ring]).completions = (s.rings[ring]).completions + 1)) ∧
    ∀ protocol : IdeProtocol,
      let on := fun (s : State) => if protocol = .io then s.sec.ideIo else s.sec.ideCm
      let stops := fun (i : Instr) (b : Nat) =>
        (on s = false → Completes s i fun u => u = s) ∧
        (on s = true → Completes s i fun u => on u = false ∧ u.rfld Reg.secCause b 1 = 1 ∧
          u = { s with sec := u.sec, regs := u.regs } ∧ (protocol = .io → u.sec.ideCm = s.sec.ideCm) ∧
          (protocol = .cacheMem → u.sec.ideIo = s.sec.ideIo))
      stops (.ideIntegrityFail protocol) 4 ∧ stops (.ideLoss protocol) 6 ∧
      ∀ n : Nat,
        ((∀ v : Transport, ¬((s.conn v).session = some n ∧ (s.conn v).established = true)) → ∀ msg,
          Completes s (.ideKeyMgmt n protocol msg) fun u => u = s) ∧
        ((s.conn via).session = some n → (s.conn via).established = true →
          stops (.ideKeyMgmt n protocol .stop) 6 ∧
          ∀ keys skid, Completes s (.ideKeyMgmt n protocol (.keys keys skid)) fun u => on u = true ∧
            (if protocol = .io then u.sec.ideIoKeys = slice keys 0 64 ∧ u.sec.ideCmKeys = s.sec.ideCmKeys
              else u.sec.ideCmKeys = slice keys 0 64 ∧ u.sec.ideSkid = skid ∧ u.sec.ideIoKeys = s.sec.ideIoKeys) ∧ u.rings = s.rings ∧ u.ctxs = s.ctxs ∧
            ((s.sec.ideIo && s.sec.ideCm) = false → (u.sec.ideIo && u.sec.ideCm) = true → u.rfld Reg.secCause 5 1 = 1) ∧
            (s.hostReady = false → u.hostReady = true → u.hostWait = []))

/-! ### The whole block -/

/-- A step takes the command at the front of the queue and runs it with the queue's rest. On an empty queue one cycle of the
module oscillator passes, by the model's choice, log 1: held in reset nothing happens; else the time base and the time since
order 1 advance by 20 ns, and order 9 is reached once no port is left to train; in FAILED the time base alone advances. -/
def Obligations.StepTakesFront : Prop :=
  ∀ s : State,
    (∀ (c : Instr) (rest : List Instr), step { s with pending := c :: rest } = exec c { s with pending := rest }) ∧
    (s.pending = [] → s.boot.order = 0 → step s = .next s) ∧
    (s.pending = [] → s.boot.order ≠ 0 → ∃ u, step s = .next u ∧
      u.boot.elapsed = s.boot.elapsed + (if s.hng.failed then 0 else 20) ∧
      (u.time.now : Int) = ((s.time.now : Int) + 20 * 2 ^ 32 + s.time.rate).toNat % 2 ^ 96 ∧
      u.boot.order = (if s.hng.failed = false ∧ s.boot.order = 8 ∧ s.boot.portsLeft = 0 then 9 else s.boot.order) ∧ u = { s with
        time := { s.time with now := u.time.now }
        boot := { s.boot with elapsed := u.boot.elapsed, order := u.boot.order } })

/-- Every command whose byte strings have the lengths that its interface carries is answered with a next state, whatever the
state; any other is a fault of its sender; no command is refused. The split is the model's choice, log 5. -/
def Obligations.EveryCommandAnswers : Prop :=
  ∀ (c : Instr) (s : State),
    (c.wf = true → ∃ u, exec c s = .next u) ∧ (c.wf = false → exec c s = .fault .malformed)

/-- R3, R443, R495, R504, R505: FAILED is left only by cold reset or a power cycle: no other command changes anything but the
latches of reads, the MSI-X table with its pending bit, what leaves by them, and the pins, link and clocks that others drive. A
message that is pending leaves when the link comes up. A register outside ENG, HNG and the MSI-X tables reads zero. That these
rows act in FAILED is the model's reading, log 41. -/
def Obligations.FailedHolds : Prop :=
  ∀ (s u : State) (c : Instr), s.hng.failed = true → s.pins.coldResetN = true → exec c s = .next u →
    (c = .coldResetAssert ∨ c = .powerLoss → u.hng.failed = false ∧ u.boot.order = 0 ∧ u.pins.coldResetN = false) ∧
    (c ≠ .coldResetAssert → c ≠ .powerLoss → u.hng.failed = true ∧ u.pins.coldResetN = true ∧
      (u.out = s.out ∨ u.out = s.out ++ [.msix] ∨ ∃ path w, u.out = s.out ++ [.registerData path w]) ∧
      (∀ o, o < 0x18000 ∨ 0x18010 ≤ o → u.reg o = s.reg o) ∧ u = { s with
        regs := u.regs, out := u.out, latch := u.latch, sideLatch := u.sideLatch, clkLost := u.clkLost
        pins := { u.pins with regOffN := s.pins.regOffN, coldResetN := s.pins.coldResetN } } ∧
      (c ≠ .cxlPerstAssert → c ≠ .cxlPerstRelease → c ≠ .cxlLinkUp → (∀ d, c ≠ .pllLockLost d ∧ c ≠ .pllLockRegained d) →
        u.clkLost = s.clkLost ∧ u.pins = { s.pins with
          vectorMasked := u.pins.vectorMasked, functionMasked := u.pins.functionMasked, pendingBit := u.pins.pendingBit
          thermtripN := s.pins.thermtripN && c != .thermtrip }) ∧
      (c = .cxlPerstAssert → u.pins.perstN = false ∧ u.pins.linkUp = false) ∧
      (c = .cxlPerstRelease → u.pins = { s.pins with perstN := true }) ∧
      (c = .cxlLinkUp → s.mayLink = true → u.pins.linkUp = true ∧
        (s.pins.linkUp = false → s.pins.pendingBit = true → s.vectorHeld = false →
          u.pins.pendingBit = false ∧ u.out = s.out ++ [.msix])) ∧
      ((∀ path off, c ≠ .regReadLatch path off) → u.latch = s.latch ∧ u.sideLatch = s.sideLatch ∧
        (u.out ≠ s.out → s.pins.pendingBit = true ∧ u.pins.pendingBit = false)) ∧
      (∀ path off, c = .regReadLatch path off → u.regs = s.regs ∧ u.pins = s.pins ∧
        (off % 4 = 0 → 0x10000 ≤ off → (off < 0x18000 ∨ 0x18010 ≤ off) → (off < 0x19000 ∨ 0x19008 ≤ off) →
          (off < 0x500000 ∨ 0x580000 ≤ off) → u.latch = s.latch ∧ u.sideLatch = s.sideLatch ∧
            (u.out = s.out ∨ u.out = s.out ++ [.registerData path 0]))))

/-- R331, R448: every ring's counter and the membership serial lie at or below their ceilings in flash after every step from
every state in which they do. -/
def Obligations.CountersBelowCeilings : Prop :=
  ∀ s u : State, CountersBounded s → step s = .next u → CountersBounded u

/-- R1, R12, R331, R342, R448, R467, R488, R495, R497, R503: held in cold reset the engine is OFF, no ring is enabled and none
has a key, every context is FREE with nothing in its memory and every port DOWN; the counters are bounded by their ceilings,
and the settings read their Reset columns. Memory that reads zero and an empty flash are the model's choice, logs 2 to 4. -/
def Obligations.AfterReset : Prop :=
  let s := State.reset
  CountersBounded s ∧ s.pending = [] ∧ s.boot.order = 0 ∧ s.pins.coldResetN = false ∧ s.pins.regOffN = false ∧
    s.hng.failed = false ∧ s.hng.fenced = false ∧ s.pins.vectorMasked = true ∧ s.pins.pendingBit = false ∧
    (∀ r : Fin 9, (s.rings[r]).en = false ∧ (s.rings[r]).key = none ∧ (s.rings[r]).cmds = [] ∧ (s.rings[r]).head = 0) ∧
    (∀ c : Fin 8, (s.ctx c).state = .free ∧ (s.ctx c).scroll = none ∧ (s.ctx c).mem = [] ∧ (s.ctx c).gen = 0) ∧
    (∀ p : Fin 64, (s.ports[p]).state = .down) ∧ (∀ w : Fin 32, (s.windows[w]).kind = 0) ∧
    (∀ (t : TileId) (k : Fin 8), (s.tile t).pad = [] ∧ (s.tile t).err = 0 ∧ (s.slotOf t k).state = .free) ∧
    s.view 0x4 = 0 ∧ s.view 0x8 = 0xFFFF ∧ s.view Reg.irqMask = 0x5FFE ∧ s.view Reg.scrCtrl = 3 ∧
    s.view Reg.memCtrl = 100 + 24 * 2 ^ 14 + 10 * 2 ^ 21 ∧ s.view Reg.wstCtrl = 20 + 50 * 2 ^ 10 + 20 * 2 ^ 20 ∧
    s.view Reg.fabCtrl = 2 + 20 * 2 ^ 5 ∧ s.view Reg.pwrCtrl = 850 ∧ s.view Reg.thmCtrl = 5 + 20 * 2 ^ 4 ∧
    s.view Reg.ckpCtrl = 700 + 150 * 2 ^ 10 + 100 * 2 ^ 20 ∧ s.view Reg.ckpWait = 20 ∧
    s.view Reg.hngCtrl = 2 + 2 ^ 7 + 3 * 2 ^ 8 + 60 * 2 ^ 11 ∧ (∀ c : Fin 8, s.view (Reg.grdCtl c.1) = 2 * 2 + 50 * 2 ^ 5)
end

