-- ==== Sys2Proof/Laws/Entry.lean ====
section
/-! SUPPORT. Byte strings: the little-endian field of what was written, lengths of hashes and tags, and what the fields of
a ring entry are when the entry is built from its head and parameters (R327). -/

namespace Sys2Proof.Machine

@[simp] theorem leBytes_length (n v : Nat) : (leBytes n v).length = n := by
  induction n generalizing v with
  | zero => rfl
  | succ n ih => simp [leBytes, ih]

theorem leNat_leBytes (n v : Nat) : leNat (leBytes n v) = v % 256 ^ n := by
  induction n generalizing v with
  | zero => simp [leBytes, leNat, Nat.mod_one]
  | succ n ih =>
    simp only [leBytes, leNat, ih, BitVec.toNat_ofNat]
    rw [show 256 ^ (n + 1) = 256 * 256 ^ n by rw [Nat.pow_succ, Nat.mul_comm], Nat.mod_mul]

/-- A field written between two byte strings reads back. -/
theorem leAt_append (a b : List Byte) (n v : Nat) : leAt (a ++ leBytes n v ++ b) a.length n = v % 256 ^ n := by
  simp [leAt, leNat_leBytes, List.append_assoc]

@[simp] theorem slice_length (bs : List Byte) (a n : Nat) : (slice bs a n).length = n := by
  simp only [slice, List.length_append, List.length_replicate, List.length_take]
  omega

/-- A slice between two byte strings of its length. -/
theorem slice_append (a m b : List Byte) : slice (a ++ m ++ b) a.length m.length = m := by
  simp [slice, List.append_assoc]

theorem slice_whole (m : List Byte) : slice m 0 m.length = m := by simp [slice]

@[simp] theorem modNth_length {α : Type} (l : List α) (i : Nat) (f : α → α) : (modNth l i f).length = l.length := by
  induction l generalizing i with
  | nil => rfl
  | cons x xs ih => cases i <;> simp [modNth, ih]

theorem keccakF_length (a : List Nat) : (keccakF a).length = 25 := by
  rw [keccakF, List.range_succ, List.foldl_append]
  simp [keccakRound]

theorem absorb_length (rate n : Nat) (bs : List Byte) (st : List Nat) (h : st.length = 25) :
    (absorb rate n bs st).length = 25 := by
  induction n generalizing bs st with
  | zero => exact h
  | succ n ih =>
    rw [absorb]
    split
    · exact h
    · exact ih _ _ (keccakF_length _)

theorem sponge_length (rate suffix out : Nat) (bs : List Byte) (h : out ≤ 200) : (sponge rate suffix out bs).length = out := by
  have h25 := absorb_length rate ((padSponge rate suffix bs).length / rate) (padSponge rate suffix bs) (List.replicate 25 0) (by simp)
  have hf : ∀ l : List Nat, (l.flatMap (leBytes 8)).length = 8 * l.length := by
    intro l
    induction l with
    | nil => rfl
    | cons x l ih => simp [ih]; omega
  simp only [sponge, List.length_take, hf, h25]
  omega

/-- A digest has 64 bytes, a tag 32. -/
@[simp] theorem sha3_512_length (bs : List Byte) : (sha3_512 bs).length = 64 := sponge_length _ _ _ _ (by decide)
@[simp] theorem kmac256_length (k x : List Byte) (s : String) : (kmac256 k x s).length = 32 := sponge_length _ _ _ _ (by decide)

/-! ### Ring entries (R327) -/

section
variable (h : EntryHead) (op : Nat) (ps host : List Byte)

@[simp] theorem entry_host : (h.entry op ps host).host = host := rfl

theorem entry_length : (h.entry op ps host).bytes.length = 128 := by simp [EntryHead.entry]

@[simp] theorem entry_opcode : (h.entry op ps host).opcode = op % 256 := by
  simp [RawEntry.opcode, EntryHead.entry, leAt, leNat]

@[simp] theorem entry_flags : (h.entry op ps host).flags = h.flags.toNat := by
  simp [RawEntry.flags, EntryHead.entry, leAt, leNat]

@[simp] theorem entry_cookie : (h.entry op ps host).cookie = h.cookie.toNat := by
  have := leAt_append [BitVec.ofNat 8 op, h.flags, 0, 0] (leBytes 8 h.counter.toNat ++ slice ps 0 80 ++ slice h.tag 0 32) 4 h.cookie.toNat
  rw [Nat.mod_eq_of_lt (by simpa using h.cookie.isLt)] at this
  simpa [RawEntry.cookie, EntryHead.entry, List.append_assoc] using this

@[simp] theorem entry_counter : (h.entry op ps host).counter = h.counter.toNat := by
  have := leAt_append ([BitVec.ofNat 8 op, h.flags, 0, 0] ++ leBytes 4 h.cookie.toNat) (slice ps 0 80 ++ slice h.tag 0 32) 8 h.counter.toNat
  rw [Nat.mod_eq_of_lt (by simpa using h.counter.isLt)] at this
  simpa [RawEntry.counter, EntryHead.entry, List.append_assoc] using this

theorem entry_tag (ht : h.tag.length = 32) : (h.entry op ps host).tag = h.tag := by
  have := slice_append ([BitVec.ofNat 8 op, h.flags, 0, 0] ++ leBytes 4 h.cookie.toNat ++ leBytes 8 h.counter.toNat ++ slice ps 0 80)
    (slice h.tag 0 32) []
  have hs : slice h.tag 0 32 = h.tag := by rw [← ht]; exact slice_whole _
  simpa [RawEntry.tag, EntryHead.entry, List.append_assoc, hs, ht] using this

/-- The parameter bytes of an entry are those of its parameters. -/
theorem entry_parBytes (a n : Nat) (hb : a + n ≤ 80) : (h.entry op ps host).parBytes a n = slice (slice ps 0 80) a n := by
  have h1 : (h.entry op ps host).bytes.drop (16 + a) = (slice ps 0 80).drop a ++ slice h.tag 0 32 := by
    have : (h.entry op ps host).bytes.drop 16 = slice ps 0 80 ++ slice h.tag 0 32 := by
      rw [EntryHead.entry, List.append_assoc _ (slice ps 0 80), List.drop_left' (by simp)]
    rw [← List.drop_drop, this, List.drop_append_of_le_length (by simp; omega)]
  have hl : n ≤ ((slice ps 0 80).drop a).length := by simp; omega
  generalize slice ps 0 80 = x at h1 hl
  simp only [RawEntry.parBytes, slice, h1, List.take_append_of_le_length hl]

/-- The bytes that the tag covers do not depend on it. -/
theorem entry_covered : (h.entry op ps host).bytes.take 96 =
    [BitVec.ofNat 8 op, h.flags, 0, 0] ++ leBytes 4 h.cookie.toNat ++ leBytes 8 h.counter.toNat ++ slice ps 0 80 := by
  rw [EntryHead.entry, List.take_left' (by simp)]

end

end Sys2Proof.Machine
end

