-- ==== Sys2Proof/Laws/State.lean ====
section
/-! SUPPORT. What each update of the state leaves: one lemma for each field of `State` and each named update. -/

namespace Sys2Proof.Machine

variable (s : State)

/-! ### `State.setReg` -/

@[simp] theorem State.setReg_pending (o v : Nat) : (s.setReg o v).pending = s.pending := rfl
@[simp] theorem State.setReg_out (o v : Nat) : (s.setReg o v).out = s.out := rfl
@[simp] theorem State.setReg_hostWait (o v : Nat) : (s.setReg o v).hostWait = s.hostWait := rfl
@[simp] theorem State.setReg_freeCtr (o v : Nat) : (s.setReg o v).freeCtr = s.freeCtr := rfl
@[simp] theorem State.setReg_latch (o v : Nat) : (s.setReg o v).latch = s.latch := rfl
@[simp] theorem State.setReg_sideLatch (o v : Nat) : (s.setReg o v).sideLatch = s.sideLatch := rfl
@[simp] theorem State.setReg_lowHalf (o v : Nat) : (s.setReg o v).lowHalf = s.lowHalf := rfl
@[simp] theorem State.setReg_tiles (o v : Nat) : (s.setReg o v).tiles = s.tiles := rfl
@[simp] theorem State.setReg_mesh (o v : Nat) : (s.setReg o v).mesh = s.mesh := rfl
@[simp] theorem State.setReg_routers (o v : Nat) : (s.setReg o v).routers = s.routers := rfl
@[simp] theorem State.setReg_selections (o v : Nat) : (s.setReg o v).selections = s.selections := rfl
@[simp] theorem State.setReg_ctxs (o v : Nat) : (s.setReg o v).ctxs = s.ctxs := rfl
@[simp] theorem State.setReg_ports (o v : Nat) : (s.setReg o v).ports = s.ports := rfl
@[simp] theorem State.setReg_held (o v : Nat) : (s.setReg o v).held = s.held := rfl
@[simp] theorem State.setReg_given (o v : Nat) : (s.setReg o v).given = s.given := rfl
@[simp] theorem State.setReg_plan (o v : Nat) : (s.setReg o v).plan = s.plan := rfl
@[simp] theorem State.setReg_slots (o v : Nat) : (s.setReg o v).slots = s.slots := rfl
@[simp] theorem State.setReg_time (o v : Nat) : (s.setReg o v).time = s.time := rfl
@[simp] theorem State.setReg_rings (o v : Nat) : (s.setReg o v).rings = s.rings := rfl
@[simp] theorem State.setReg_windows (o v : Nat) : (s.setReg o v).windows = s.windows := rfl
@[simp] theorem State.setReg_fret (o v : Nat) : (s.setReg o v).fret = s.fret := rfl
@[simp] theorem State.setReg_flash (o v : Nat) : (s.setReg o v).flash = s.flash := rfl
@[simp] theorem State.setReg_regions (o v : Nat) : (s.setReg o v).regions = s.regions := rfl
@[simp] theorem State.setReg_thermal (o v : Nat) : (s.setReg o v).thermal = s.thermal := rfl
@[simp] theorem State.setReg_budget (o v : Nat) : (s.setReg o v).budget = s.budget := rfl
@[simp] theorem State.setReg_coolant (o v : Nat) : (s.setReg o v).coolant = s.coolant := rfl
@[simp] theorem State.setReg_health (o v : Nat) : (s.setReg o v).health = s.health := rfl
@[simp] theorem State.setReg_replayRing (o v : Nat) : (s.setReg o v).replayRing = s.replayRing := rfl
@[simp] theorem State.setReg_replayHead (o v : Nat) : (s.setReg o v).replayHead = s.replayHead := rfl
@[simp] theorem State.setReg_replayPos (o v : Nat) : (s.setReg o v).replayPos = s.replayPos := rfl
@[simp] theorem State.setReg_replayLog (o v : Nat) : (s.setReg o v).replayLog = s.replayLog := rfl
@[simp] theorem State.setReg_hng (o v : Nat) : (s.setReg o v).hng = s.hng := rfl
@[simp] theorem State.setReg_power (o v : Nat) : (s.setReg o v).power = s.power := rfl
@[simp] theorem State.setReg_boot (o v : Nat) : (s.setReg o v).boot = s.boot := rfl
@[simp] theorem State.setReg_sec (o v : Nat) : (s.setReg o v).sec = s.sec := rfl
@[simp] theorem State.setReg_actions (o v : Nat) : (s.setReg o v).actions = s.actions := rfl
@[simp] theorem State.setReg_actionCount (o v : Nat) : (s.setReg o v).actionCount = s.actionCount := rfl
@[simp] theorem State.setReg_pins (o v : Nat) : (s.setReg o v).pins = s.pins := rfl
@[simp] theorem State.setReg_clkLost (o v : Nat) : (s.setReg o v).clkLost = s.clkLost := rfl

/-! ### `State.setFld` -/

@[simp] theorem State.setFld_pending (o lo w v : Nat) : (s.setFld o lo w v).pending = s.pending := rfl
@[simp] theorem State.setFld_out (o lo w v : Nat) : (s.setFld o lo w v).out = s.out := rfl
@[simp] theorem State.setFld_hostWait (o lo w v : Nat) : (s.setFld o lo w v).hostWait = s.hostWait := rfl
@[simp] theorem State.setFld_freeCtr (o lo w v : Nat) : (s.setFld o lo w v).freeCtr = s.freeCtr := rfl
@[simp] theorem State.setFld_latch (o lo w v : Nat) : (s.setFld o lo w v).latch = s.latch := rfl
@[simp] theorem State.setFld_sideLatch (o lo w v : Nat) : (s.setFld o lo w v).sideLatch = s.sideLatch := rfl
@[simp] theorem State.setFld_lowHalf (o lo w v : Nat) : (s.setFld o lo w v).lowHalf = s.lowHalf := rfl
@[simp] theorem State.setFld_tiles (o lo w v : Nat) : (s.setFld o lo w v).tiles = s.tiles := rfl
@[simp] theorem State.setFld_mesh (o lo w v : Nat) : (s.setFld o lo w v).mesh = s.mesh := rfl
@[simp] theorem State.setFld_routers (o lo w v : Nat) : (s.setFld o lo w v).routers = s.routers := rfl
@[simp] theorem State.setFld_selections (o lo w v : Nat) : (s.setFld o lo w v).selections = s.selections := rfl
@[simp] theorem State.setFld_ctxs (o lo w v : Nat) : (s.setFld o lo w v).ctxs = s.ctxs := rfl
@[simp] theorem State.setFld_ports (o lo w v : Nat) : (s.setFld o lo w v).ports = s.ports := rfl
@[simp] theorem State.setFld_held (o lo w v : Nat) : (s.setFld o lo w v).held = s.held := rfl
@[simp] theorem State.setFld_given (o lo w v : Nat) : (s.setFld o lo w v).given = s.given := rfl
@[simp] theorem State.setFld_plan (o lo w v : Nat) : (s.setFld o lo w v).plan = s.plan := rfl
@[simp] theorem State.setFld_slots (o lo w v : Nat) : (s.setFld o lo w v).slots = s.slots := rfl
@[simp] theorem State.setFld_time (o lo w v : Nat) : (s.setFld o lo w v).time = s.time := rfl
@[simp] theorem State.setFld_rings (o lo w v : Nat) : (s.setFld o lo w v).rings = s.rings := rfl
@[simp] theorem State.setFld_windows (o lo w v : Nat) : (s.setFld o lo w v).windows = s.windows := rfl
@[simp] theorem State.setFld_fret (o lo w v : Nat) : (s.setFld o lo w v).fret = s.fret := rfl
@[simp] theorem State.setFld_flash (o lo w v : Nat) : (s.setFld o lo w v).flash = s.flash := rfl
@[simp] theorem State.setFld_regions (o lo w v : Nat) : (s.setFld o lo w v).regions = s.regions := rfl
@[simp] theorem State.setFld_thermal (o lo w v : Nat) : (s.setFld o lo w v).thermal = s.thermal := rfl
@[simp] theorem State.setFld_budget (o lo w v : Nat) : (s.setFld o lo w v).budget = s.budget := rfl
@[simp] theorem State.setFld_coolant (o lo w v : Nat) : (s.setFld o lo w v).coolant = s.coolant := rfl
@[simp] theorem State.setFld_health (o lo w v : Nat) : (s.setFld o lo w v).health = s.health := rfl
@[simp] theorem State.setFld_replayRing (o lo w v : Nat) : (s.setFld o lo w v).replayRing = s.replayRing := rfl
@[simp] theorem State.setFld_replayHead (o lo w v : Nat) : (s.setFld o lo w v).replayHead = s.replayHead := rfl
@[simp] theorem State.setFld_replayPos (o lo w v : Nat) : (s.setFld o lo w v).replayPos = s.replayPos := rfl
@[simp] theorem State.setFld_replayLog (o lo w v : Nat) : (s.setFld o lo w v).replayLog = s.replayLog := rfl
@[simp] theorem State.setFld_hng (o lo w v : Nat) : (s.setFld o lo w v).hng = s.hng := rfl
@[simp] theorem State.setFld_power (o lo w v : Nat) : (s.setFld o lo w v).power = s.power := rfl
@[simp] theorem State.setFld_boot (o lo w v : Nat) : (s.setFld o lo w v).boot = s.boot := rfl
@[simp] theorem State.setFld_sec (o lo w v : Nat) : (s.setFld o lo w v).sec = s.sec := rfl
@[simp] theorem State.setFld_actions (o lo w v : Nat) : (s.setFld o lo w v).actions = s.actions := rfl
@[simp] theorem State.setFld_actionCount (o lo w v : Nat) : (s.setFld o lo w v).actionCount = s.actionCount := rfl
@[simp] theorem State.setFld_pins (o lo w v : Nat) : (s.setFld o lo w v).pins = s.pins := rfl
@[simp] theorem State.setFld_clkLost (o lo w v : Nat) : (s.setFld o lo w v).clkLost = s.clkLost := rfl

/-! ### `State.cause` -/

@[simp] theorem State.cause_pending (o b : Nat) : (s.cause o b).pending = s.pending := rfl
@[simp] theorem State.cause_out (o b : Nat) : (s.cause o b).out = s.out := rfl
@[simp] theorem State.cause_hostWait (o b : Nat) : (s.cause o b).hostWait = s.hostWait := rfl
@[simp] theorem State.cause_freeCtr (o b : Nat) : (s.cause o b).freeCtr = s.freeCtr := rfl
@[simp] theorem State.cause_latch (o b : Nat) : (s.cause o b).latch = s.latch := rfl
@[simp] theorem State.cause_sideLatch (o b : Nat) : (s.cause o b).sideLatch = s.sideLatch := rfl
@[simp] theorem State.cause_lowHalf (o b : Nat) : (s.cause o b).lowHalf = s.lowHalf := rfl
@[simp] theorem State.cause_tiles (o b : Nat) : (s.cause o b).tiles = s.tiles := rfl
@[simp] theorem State.cause_mesh (o b : Nat) : (s.cause o b).mesh = s.mesh := rfl
@[simp] theorem State.cause_routers (o b : Nat) : (s.cause o b).routers = s.routers := rfl
@[simp] theorem State.cause_selections (o b : Nat) : (s.cause o b).selections = s.selections := rfl
@[simp] theorem State.cause_ctxs (o b : Nat) : (s.cause o b).ctxs = s.ctxs := rfl
@[simp] theorem State.cause_ports (o b : Nat) : (s.cause o b).ports = s.ports := rfl
@[simp] theorem State.cause_held (o b : Nat) : (s.cause o b).held = s.held := rfl
@[simp] theorem State.cause_given (o b : Nat) : (s.cause o b).given = s.given := rfl
@[simp] theorem State.cause_plan (o b : Nat) : (s.cause o b).plan = s.plan := rfl
@[simp] theorem State.cause_slots (o b : Nat) : (s.cause o b).slots = s.slots := rfl
@[simp] theorem State.cause_time (o b : Nat) : (s.cause o b).time = s.time := rfl
@[simp] theorem State.cause_rings (o b : Nat) : (s.cause o b).rings = s.rings := rfl
@[simp] theorem State.cause_windows (o b : Nat) : (s.cause o b).windows = s.windows := rfl
@[simp] theorem State.cause_fret (o b : Nat) : (s.cause o b).fret = s.fret := rfl
@[simp] theorem State.cause_flash (o b : Nat) : (s.cause o b).flash = s.flash := rfl
@[simp] theorem State.cause_regions (o b : Nat) : (s.cause o b).regions = s.regions := rfl
@[simp] theorem State.cause_thermal (o b : Nat) : (s.cause o b).thermal = s.thermal := rfl
@[simp] theorem State.cause_budget (o b : Nat) : (s.cause o b).budget = s.budget := rfl
@[simp] theorem State.cause_coolant (o b : Nat) : (s.cause o b).coolant = s.coolant := rfl
@[simp] theorem State.cause_health (o b : Nat) : (s.cause o b).health = s.health := rfl
@[simp] theorem State.cause_replayRing (o b : Nat) : (s.cause o b).replayRing = s.replayRing := rfl
@[simp] theorem State.cause_replayHead (o b : Nat) : (s.cause o b).replayHead = s.replayHead := rfl
@[simp] theorem State.cause_replayPos (o b : Nat) : (s.cause o b).replayPos = s.replayPos := rfl
@[simp] theorem State.cause_replayLog (o b : Nat) : (s.cause o b).replayLog = s.replayLog := rfl
@[simp] theorem State.cause_hng (o b : Nat) : (s.cause o b).hng = s.hng := rfl
@[simp] theorem State.cause_power (o b : Nat) : (s.cause o b).power = s.power := rfl
@[simp] theorem State.cause_boot (o b : Nat) : (s.cause o b).boot = s.boot := rfl
@[simp] theorem State.cause_sec (o b : Nat) : (s.cause o b).sec = s.sec := rfl
@[simp] theorem State.cause_actions (o b : Nat) : (s.cause o b).actions = s.actions := rfl
@[simp] theorem State.cause_actionCount (o b : Nat) : (s.cause o b).actionCount = s.actionCount := rfl
@[simp] theorem State.cause_pins (o b : Nat) : (s.cause o b).pins = s.pins := rfl
@[simp] theorem State.cause_clkLost (o b : Nat) : (s.cause o b).clkLost = s.clkLost := rfl

/-! ### `State.count` -/

@[simp] theorem State.count_pending (o lo w n : Nat) : (s.count o lo w n).pending = s.pending := rfl
@[simp] theorem State.count_out (o lo w n : Nat) : (s.count o lo w n).out = s.out := rfl
@[simp] theorem State.count_hostWait (o lo w n : Nat) : (s.count o lo w n).hostWait = s.hostWait := rfl
@[simp] theorem State.count_freeCtr (o lo w n : Nat) : (s.count o lo w n).freeCtr = s.freeCtr := rfl
@[simp] theorem State.count_latch (o lo w n : Nat) : (s.count o lo w n).latch = s.latch := rfl
@[simp] theorem State.count_sideLatch (o lo w n : Nat) : (s.count o lo w n).sideLatch = s.sideLatch := rfl
@[simp] theorem State.count_lowHalf (o lo w n : Nat) : (s.count o lo w n).lowHalf = s.lowHalf := rfl
@[simp] theorem State.count_tiles (o lo w n : Nat) : (s.count o lo w n).tiles = s.tiles := rfl
@[simp] theorem State.count_mesh (o lo w n : Nat) : (s.count o lo w n).mesh = s.mesh := rfl
@[simp] theorem State.count_routers (o lo w n : Nat) : (s.count o lo w n).routers = s.routers := rfl
@[simp] theorem State.count_selections (o lo w n : Nat) : (s.count o lo w n).selections = s.selections := rfl
@[simp] theorem State.count_ctxs (o lo w n : Nat) : (s.count o lo w n).ctxs = s.ctxs := rfl
@[simp] theorem State.count_ports (o lo w n : Nat) : (s.count o lo w n).ports = s.ports := rfl
@[simp] theorem State.count_held (o lo w n : Nat) : (s.count o lo w n).held = s.held := rfl
@[simp] theorem State.count_given (o lo w n : Nat) : (s.count o lo w n).given = s.given := rfl
@[simp] theorem State.count_plan (o lo w n : Nat) : (s.count o lo w n).plan = s.plan := rfl
@[simp] theorem State.count_slots (o lo w n : Nat) : (s.count o lo w n).slots = s.slots := rfl
@[simp] theorem State.count_time (o lo w n : Nat) : (s.count o lo w n).time = s.time := rfl
@[simp] theorem State.count_rings (o lo w n : Nat) : (s.count o lo w n).rings = s.rings := rfl
@[simp] theorem State.count_windows (o lo w n : Nat) : (s.count o lo w n).windows = s.windows := rfl
@[simp] theorem State.count_fret (o lo w n : Nat) : (s.count o lo w n).fret = s.fret := rfl
@[simp] theorem State.count_flash (o lo w n : Nat) : (s.count o lo w n).flash = s.flash := rfl
@[simp] theorem State.count_regions (o lo w n : Nat) : (s.count o lo w n).regions = s.regions := rfl
@[simp] theorem State.count_thermal (o lo w n : Nat) : (s.count o lo w n).thermal = s.thermal := rfl
@[simp] theorem State.count_budget (o lo w n : Nat) : (s.count o lo w n).budget = s.budget := rfl
@[simp] theorem State.count_coolant (o lo w n : Nat) : (s.count o lo w n).coolant = s.coolant := rfl
@[simp] theorem State.count_health (o lo w n : Nat) : (s.count o lo w n).health = s.health := rfl
@[simp] theorem State.count_replayRing (o lo w n : Nat) : (s.count o lo w n).replayRing = s.replayRing := rfl
@[simp] theorem State.count_replayHead (o lo w n : Nat) : (s.count o lo w n).replayHead = s.replayHead := rfl
@[simp] theorem State.count_replayPos (o lo w n : Nat) : (s.count o lo w n).replayPos = s.replayPos := rfl
@[simp] theorem State.count_replayLog (o lo w n : Nat) : (s.count o lo w n).replayLog = s.replayLog := rfl
@[simp] theorem State.count_hng (o lo w n : Nat) : (s.count o lo w n).hng = s.hng := rfl
@[simp] theorem State.count_power (o lo w n : Nat) : (s.count o lo w n).power = s.power := rfl
@[simp] theorem State.count_boot (o lo w n : Nat) : (s.count o lo w n).boot = s.boot := rfl
@[simp] theorem State.count_sec (o lo w n : Nat) : (s.count o lo w n).sec = s.sec := rfl
@[simp] theorem State.count_actions (o lo w n : Nat) : (s.count o lo w n).actions = s.actions := rfl
@[simp] theorem State.count_actionCount (o lo w n : Nat) : (s.count o lo w n).actionCount = s.actionCount := rfl
@[simp] theorem State.count_pins (o lo w n : Nat) : (s.count o lo w n).pins = s.pins := rfl
@[simp] theorem State.count_clkLost (o lo w n : Nat) : (s.count o lo w n).clkLost = s.clkLost := rfl

/-! ### `State.countMod` -/

@[simp] theorem State.countMod_pending (o n : Nat) : (s.countMod o n).pending = s.pending := rfl
@[simp] theorem State.countMod_out (o n : Nat) : (s.countMod o n).out = s.out := rfl
@[simp] theorem State.countMod_hostWait (o n : Nat) : (s.countMod o n).hostWait = s.hostWait := rfl
@[simp] theorem State.countMod_freeCtr (o n : Nat) : (s.countMod o n).freeCtr = s.freeCtr := rfl
@[simp] theorem State.countMod_latch (o n : Nat) : (s.countMod o n).latch = s.latch := rfl
@[simp] theorem State.countMod_sideLatch (o n : Nat) : (s.countMod o n).sideLatch = s.sideLatch := rfl
@[simp] theorem State.countMod_lowHalf (o n : Nat) : (s.countMod o n).lowHalf = s.lowHalf := rfl
@[simp] theorem State.countMod_tiles (o n : Nat) : (s.countMod o n).tiles = s.tiles := rfl
@[simp] theorem State.countMod_mesh (o n : Nat) : (s.countMod o n).mesh = s.mesh := rfl
@[simp] theorem State.countMod_routers (o n : Nat) : (s.countMod o n).routers = s.routers := rfl
@[simp] theorem State.countMod_selections (o n : Nat) : (s.countMod o n).selections = s.selections := rfl
@[simp] theorem State.countMod_ctxs (o n : Nat) : (s.countMod o n).ctxs = s.ctxs := rfl
@[simp] theorem State.countMod_ports (o n : Nat) : (s.countMod o n).ports = s.ports := rfl
@[simp] theorem State.countMod_held (o n : Nat) : (s.countMod o n).held = s.held := rfl
@[simp] theorem State.countMod_given (o n : Nat) : (s.countMod o n).given = s.given := rfl
@[simp] theorem State.countMod_plan (o n : Nat) : (s.countMod o n).plan = s.plan := rfl
@[simp] theorem State.countMod_slots (o n : Nat) : (s.countMod o n).slots = s.slots := rfl
@[simp] theorem State.countMod_time (o n : Nat) : (s.countMod o n).time = s.time := rfl
@[simp] theorem State.countMod_rings (o n : Nat) : (s.countMod o n).rings = s.rings := rfl
@[simp] theorem State.countMod_windows (o n : Nat) : (s.countMod o n).windows = s.windows := rfl
@[simp] theorem State.countMod_fret (o n : Nat) : (s.countMod o n).fret = s.fret := rfl
@[simp] theorem State.countMod_flash (o n : Nat) : (s.countMod o n).flash = s.flash := rfl
@[simp] theorem State.countMod_regions (o n : Nat) : (s.countMod o n).regions = s.regions := rfl
@[simp] theorem State.countMod_thermal (o n : Nat) : (s.countMod o n).thermal = s.thermal := rfl
@[simp] theorem State.countMod_budget (o n : Nat) : (s.countMod o n).budget = s.budget := rfl
@[simp] theorem State.countMod_coolant (o n : Nat) : (s.countMod o n).coolant = s.coolant := rfl
@[simp] theorem State.countMod_health (o n : Nat) : (s.countMod o n).health = s.health := rfl
@[simp] theorem State.countMod_replayRing (o n : Nat) : (s.countMod o n).replayRing = s.replayRing := rfl
@[simp] theorem State.countMod_replayHead (o n : Nat) : (s.countMod o n).replayHead = s.replayHead := rfl
@[simp] theorem State.countMod_replayPos (o n : Nat) : (s.countMod o n).replayPos = s.replayPos := rfl
@[simp] theorem State.countMod_replayLog (o n : Nat) : (s.countMod o n).replayLog = s.replayLog := rfl
@[simp] theorem State.countMod_hng (o n : Nat) : (s.countMod o n).hng = s.hng := rfl
@[simp] theorem State.countMod_power (o n : Nat) : (s.countMod o n).power = s.power := rfl
@[simp] theorem State.countMod_boot (o n : Nat) : (s.countMod o n).boot = s.boot := rfl
@[simp] theorem State.countMod_sec (o n : Nat) : (s.countMod o n).sec = s.sec := rfl
@[simp] theorem State.countMod_actions (o n : Nat) : (s.countMod o n).actions = s.actions := rfl
@[simp] theorem State.countMod_actionCount (o n : Nat) : (s.countMod o n).actionCount = s.actionCount := rfl
@[simp] theorem State.countMod_pins (o n : Nat) : (s.countMod o n).pins = s.pins := rfl
@[simp] theorem State.countMod_clkLost (o n : Nat) : (s.countMod o n).clkLost = s.clkLost := rfl

/-! ### `State.emit` -/

@[simp] theorem State.emit_pending (x : Output) : (s.emit x).pending = s.pending := rfl
@[simp] theorem State.emit_hostWait (x : Output) : (s.emit x).hostWait = s.hostWait := rfl
@[simp] theorem State.emit_freeCtr (x : Output) : (s.emit x).freeCtr = s.freeCtr := rfl
@[simp] theorem State.emit_regs (x : Output) : (s.emit x).regs = s.regs := rfl
@[simp] theorem State.emit_latch (x : Output) : (s.emit x).latch = s.latch := rfl
@[simp] theorem State.emit_sideLatch (x : Output) : (s.emit x).sideLatch = s.sideLatch := rfl
@[simp] theorem State.emit_lowHalf (x : Output) : (s.emit x).lowHalf = s.lowHalf := rfl
@[simp] theorem State.emit_tiles (x : Output) : (s.emit x).tiles = s.tiles := rfl
@[simp] theorem State.emit_mesh (x : Output) : (s.emit x).mesh = s.mesh := rfl
@[simp] theorem State.emit_routers (x : Output) : (s.emit x).routers = s.routers := rfl
@[simp] theorem State.emit_selections (x : Output) : (s.emit x).selections = s.selections := rfl
@[simp] theorem State.emit_ctxs (x : Output) : (s.emit x).ctxs = s.ctxs := rfl
@[simp] theorem State.emit_ports (x : Output) : (s.emit x).ports = s.ports := rfl
@[simp] theorem State.emit_held (x : Output) : (s.emit x).held = s.held := rfl
@[simp] theorem State.emit_given (x : Output) : (s.emit x).given = s.given := rfl
@[simp] theorem State.emit_plan (x : Output) : (s.emit x).plan = s.plan := rfl
@[simp] theorem State.emit_slots (x : Output) : (s.emit x).slots = s.slots := rfl
@[simp] theorem State.emit_time (x : Output) : (s.emit x).time = s.time := rfl
@[simp] theorem State.emit_rings (x : Output) : (s.emit x).rings = s.rings := rfl
@[simp] theorem State.emit_windows (x : Output) : (s.emit x).windows = s.windows := rfl
@[simp] theorem State.emit_fret (x : Output) : (s.emit x).fret = s.fret := rfl
@[simp] theorem State.emit_flash (x : Output) : (s.emit x).flash = s.flash := rfl
@[simp] theorem State.emit_regions (x : Output) : (s.emit x).regions = s.regions := rfl
@[simp] theorem State.emit_thermal (x : Output) : (s.emit x).thermal = s.thermal := rfl
@[simp] theorem State.emit_budget (x : Output) : (s.emit x).budget = s.budget := rfl
@[simp] theorem State.emit_coolant (x : Output) : (s.emit x).coolant = s.coolant := rfl
@[simp] theorem State.emit_health (x : Output) : (s.emit x).health = s.health := rfl
@[simp] theorem State.emit_replayRing (x : Output) : (s.emit x).replayRing = s.replayRing := rfl
@[simp] theorem State.emit_replayHead (x : Output) : (s.emit x).replayHead = s.replayHead := rfl
@[simp] theorem State.emit_replayPos (x : Output) : (s.emit x).replayPos = s.replayPos := rfl
@[simp] theorem State.emit_replayLog (x : Output) : (s.emit x).replayLog = s.replayLog := rfl
@[simp] theorem State.emit_hng (x : Output) : (s.emit x).hng = s.hng := rfl
@[simp] theorem State.emit_power (x : Output) : (s.emit x).power = s.power := rfl
@[simp] theorem State.emit_boot (x : Output) : (s.emit x).boot = s.boot := rfl
@[simp] theorem State.emit_sec (x : Output) : (s.emit x).sec = s.sec := rfl
@[simp] theorem State.emit_actions (x : Output) : (s.emit x).actions = s.actions := rfl
@[simp] theorem State.emit_actionCount (x : Output) : (s.emit x).actionCount = s.actionCount := rfl
@[simp] theorem State.emit_pins (x : Output) : (s.emit x).pins = s.pins := rfl
@[simp] theorem State.emit_clkLost (x : Output) : (s.emit x).clkLost = s.clkLost := rfl

/-! ### `State.action` -/

@[simp] theorem State.action_pending (a b c d : Nat) : (s.action a b c d).pending = s.pending := rfl
@[simp] theorem State.action_out (a b c d : Nat) : (s.action a b c d).out = s.out := rfl
@[simp] theorem State.action_hostWait (a b c d : Nat) : (s.action a b c d).hostWait = s.hostWait := rfl
@[simp] theorem State.action_freeCtr (a b c d : Nat) : (s.action a b c d).freeCtr = s.freeCtr := rfl
@[simp] theorem State.action_regs (a b c d : Nat) : (s.action a b c d).regs = s.regs := rfl
@[simp] theorem State.action_latch (a b c d : Nat) : (s.action a b c d).latch = s.latch := rfl
@[simp] theorem State.action_sideLatch (a b c d : Nat) : (s.action a b c d).sideLatch = s.sideLatch := rfl
@[simp] theorem State.action_lowHalf (a b c d : Nat) : (s.action a b c d).lowHalf = s.lowHalf := rfl
@[simp] theorem State.action_tiles (a b c d : Nat) : (s.action a b c d).tiles = s.tiles := rfl
@[simp] theorem State.action_mesh (a b c d : Nat) : (s.action a b c d).mesh = s.mesh := rfl
@[simp] theorem State.action_routers (a b c d : Nat) : (s.action a b c d).routers = s.routers := rfl
@[simp] theorem State.action_selections (a b c d : Nat) : (s.action a b c d).selections = s.selections := rfl
@[simp] theorem State.action_ctxs (a b c d : Nat) : (s.action a b c d).ctxs = s.ctxs := rfl
@[simp] theorem State.action_ports (a b c d : Nat) : (s.action a b c d).ports = s.ports := rfl
@[simp] theorem State.action_held (a b c d : Nat) : (s.action a b c d).held = s.held := rfl
@[simp] theorem State.action_given (a b c d : Nat) : (s.action a b c d).given = s.given := rfl
@[simp] theorem State.action_plan (a b c d : Nat) : (s.action a b c d).plan = s.plan := rfl
@[simp] theorem State.action_slots (a b c d : Nat) : (s.action a b c d).slots = s.slots := rfl
@[simp] theorem State.action_time (a b c d : Nat) : (s.action a b c d).time = s.time := rfl
@[simp] theorem State.action_rings (a b c d : Nat) : (s.action a b c d).rings = s.rings := rfl
@[simp] theorem State.action_windows (a b c d : Nat) : (s.action a b c d).windows = s.windows := rfl
@[simp] theorem State.action_fret (a b c d : Nat) : (s.action a b c d).fret = s.fret := rfl
@[simp] theorem State.action_flash (a b c d : Nat) : (s.action a b c d).flash = s.flash := rfl
@[simp] theorem State.action_regions (a b c d : Nat) : (s.action a b c d).regions = s.regions := rfl
@[simp] theorem State.action_thermal (a b c d : Nat) : (s.action a b c d).thermal = s.thermal := rfl
@[simp] theorem State.action_budget (a b c d : Nat) : (s.action a b c d).budget = s.budget := rfl
@[simp] theorem State.action_coolant (a b c d : Nat) : (s.action a b c d).coolant = s.coolant := rfl
@[simp] theorem State.action_health (a b c d : Nat) : (s.action a b c d).health = s.health := rfl
@[simp] theorem State.action_replayRing (a b c d : Nat) : (s.action a b c d).replayRing = s.replayRing := rfl
@[simp] theorem State.action_replayHead (a b c d : Nat) : (s.action a b c d).replayHead = s.replayHead := rfl
@[simp] theorem State.action_replayPos (a b c d : Nat) : (s.action a b c d).replayPos = s.replayPos := rfl
@[simp] theorem State.action_replayLog (a b c d : Nat) : (s.action a b c d).replayLog = s.replayLog := rfl
@[simp] theorem State.action_hng (a b c d : Nat) : (s.action a b c d).hng = s.hng := rfl
@[simp] theorem State.action_power (a b c d : Nat) : (s.action a b c d).power = s.power := rfl
@[simp] theorem State.action_boot (a b c d : Nat) : (s.action a b c d).boot = s.boot := rfl
@[simp] theorem State.action_sec (a b c d : Nat) : (s.action a b c d).sec = s.sec := rfl
@[simp] theorem State.action_pins (a b c d : Nat) : (s.action a b c d).pins = s.pins := rfl
@[simp] theorem State.action_clkLost (a b c d : Nat) : (s.action a b c d).clkLost = s.clkLost := rfl

/-! ### `State.setTile` -/

@[simp] theorem State.setTile_pending (t : TileId) (x : Tile) : (s.setTile t x).pending = s.pending := rfl
@[simp] theorem State.setTile_out (t : TileId) (x : Tile) : (s.setTile t x).out = s.out := rfl
@[simp] theorem State.setTile_hostWait (t : TileId) (x : Tile) : (s.setTile t x).hostWait = s.hostWait := rfl
@[simp] theorem State.setTile_freeCtr (t : TileId) (x : Tile) : (s.setTile t x).freeCtr = s.freeCtr := rfl
@[simp] theorem State.setTile_regs (t : TileId) (x : Tile) : (s.setTile t x).regs = s.regs := rfl
@[simp] theorem State.setTile_latch (t : TileId) (x : Tile) : (s.setTile t x).latch = s.latch := rfl
@[simp] theorem State.setTile_sideLatch (t : TileId) (x : Tile) : (s.setTile t x).sideLatch = s.sideLatch := rfl
@[simp] theorem State.setTile_lowHalf (t : TileId) (x : Tile) : (s.setTile t x).lowHalf = s.lowHalf := rfl
@[simp] theorem State.setTile_mesh (t : TileId) (x : Tile) : (s.setTile t x).mesh = s.mesh := rfl
@[simp] theorem State.setTile_routers (t : TileId) (x : Tile) : (s.setTile t x).routers = s.routers := rfl
@[simp] theorem State.setTile_selections (t : TileId) (x : Tile) : (s.setTile t x).selections = s.selections := rfl
@[simp] theorem State.setTile_ctxs (t : TileId) (x : Tile) : (s.setTile t x).ctxs = s.ctxs := rfl
@[simp] theorem State.setTile_ports (t : TileId) (x : Tile) : (s.setTile t x).ports = s.ports := rfl
@[simp] theorem State.setTile_held (t : TileId) (x : Tile) : (s.setTile t x).held = s.held := rfl
@[simp] theorem State.setTile_given (t : TileId) (x : Tile) : (s.setTile t x).given = s.given := rfl
@[simp] theorem State.setTile_plan (t : TileId) (x : Tile) : (s.setTile t x).plan = s.plan := rfl
@[simp] theorem State.setTile_slots (t : TileId) (x : Tile) : (s.setTile t x).slots = s.slots := rfl
@[simp] theorem State.setTile_time (t : TileId) (x : Tile) : (s.setTile t x).time = s.time := rfl
@[simp] theorem State.setTile_rings (t : TileId) (x : Tile) : (s.setTile t x).rings = s.rings := rfl
@[simp] theorem State.setTile_windows (t : TileId) (x : Tile) : (s.setTile t x).windows = s.windows := rfl
@[simp] theorem State.setTile_fret (t : TileId) (x : Tile) : (s.setTile t x).fret = s.fret := rfl
@[simp] theorem State.setTile_flash (t : TileId) (x : Tile) : (s.setTile t x).flash = s.flash := rfl
@[simp] theorem State.setTile_regions (t : TileId) (x : Tile) : (s.setTile t x).regions = s.regions := rfl
@[simp] theorem State.setTile_thermal (t : TileId) (x : Tile) : (s.setTile t x).thermal = s.thermal := rfl
@[simp] theorem State.setTile_budget (t : TileId) (x : Tile) : (s.setTile t x).budget = s.budget := rfl
@[simp] theorem State.setTile_coolant (t : TileId) (x : Tile) : (s.setTile t x).coolant = s.coolant := rfl
@[simp] theorem State.setTile_health (t : TileId) (x : Tile) : (s.setTile t x).health = s.health := rfl
@[simp] theorem State.setTile_replayRing (t : TileId) (x : Tile) : (s.setTile t x).replayRing = s.replayRing := rfl
@[simp] theorem State.setTile_replayHead (t : TileId) (x : Tile) : (s.setTile t x).replayHead = s.replayHead := rfl
@[simp] theorem State.setTile_replayPos (t : TileId) (x : Tile) : (s.setTile t x).replayPos = s.replayPos := rfl
@[simp] theorem State.setTile_replayLog (t : TileId) (x : Tile) : (s.setTile t x).replayLog = s.replayLog := rfl
@[simp] theorem State.setTile_hng (t : TileId) (x : Tile) : (s.setTile t x).hng = s.hng := rfl
@[simp] theorem State.setTile_power (t : TileId) (x : Tile) : (s.setTile t x).power = s.power := rfl
@[simp] theorem State.setTile_boot (t : TileId) (x : Tile) : (s.setTile t x).boot = s.boot := rfl
@[simp] theorem State.setTile_sec (t : TileId) (x : Tile) : (s.setTile t x).sec = s.sec := rfl
@[simp] theorem State.setTile_actions (t : TileId) (x : Tile) : (s.setTile t x).actions = s.actions := rfl
@[simp] theorem State.setTile_actionCount (t : TileId) (x : Tile) : (s.setTile t x).actionCount = s.actionCount := rfl
@[simp] theorem State.setTile_pins (t : TileId) (x : Tile) : (s.setTile t x).pins = s.pins := rfl
@[simp] theorem State.setTile_clkLost (t : TileId) (x : Tile) : (s.setTile t x).clkLost = s.clkLost := rfl

/-! ### `State.modTile` -/

@[simp] theorem State.modTile_pending (t : TileId) (f : Tile → Tile) : (s.modTile t f).pending = s.pending := rfl
@[simp] theorem State.modTile_out (t : TileId) (f : Tile → Tile) : (s.modTile t f).out = s.out := rfl
@[simp] theorem State.modTile_hostWait (t : TileId) (f : Tile → Tile) : (s.modTile t f).hostWait = s.hostWait := rfl
@[simp] theorem State.modTile_freeCtr (t : TileId) (f : Tile → Tile) : (s.modTile t f).freeCtr = s.freeCtr := rfl
@[simp] theorem State.modTile_regs (t : TileId) (f : Tile → Tile) : (s.modTile t f).regs = s.regs := rfl
@[simp] theorem State.modTile_latch (t : TileId) (f : Tile → Tile) : (s.modTile t f).latch = s.latch := rfl
@[simp] theorem State.modTile_sideLatch (t : TileId) (f : Tile → Tile) : (s.modTile t f).sideLatch = s.sideLatch := rfl
@[simp] theorem State.modTile_lowHalf (t : TileId) (f : Tile → Tile) : (s.modTile t f).lowHalf = s.lowHalf := rfl
@[simp] theorem State.modTile_mesh (t : TileId) (f : Tile → Tile) : (s.modTile t f).mesh = s.mesh := rfl
@[simp] theorem State.modTile_routers (t : TileId) (f : Tile → Tile) : (s.modTile t f).routers = s.routers := rfl
@[simp] theorem State.modTile_selections (t : TileId) (f : Tile → Tile) : (s.modTile t f).selections = s.selections := rfl
@[simp] theorem State.modTile_ctxs (t : TileId) (f : Tile → Tile) : (s.modTile t f).ctxs = s.ctxs := rfl
@[simp] theorem State.modTile_ports (t : TileId) (f : Tile → Tile) : (s.modTile t f).ports = s.ports := rfl
@[simp] theorem State.modTile_held (t : TileId) (f : Tile → Tile) : (s.modTile t f).held = s.held := rfl
@[simp] theorem State.modTile_given (t : TileId) (f : Tile → Tile) : (s.modTile t f).given = s.given := rfl
@[simp] theorem State.modTile_plan (t : TileId) (f : Tile → Tile) : (s.modTile t f).plan = s.plan := rfl
@[simp] theorem State.modTile_slots (t : TileId) (f : Tile → Tile) : (s.modTile t f).slots = s.slots := rfl
@[simp] theorem State.modTile_time (t : TileId) (f : Tile → Tile) : (s.modTile t f).time = s.time := rfl
@[simp] theorem State.modTile_rings (t : TileId) (f : Tile → Tile) : (s.modTile t f).rings = s.rings := rfl
@[simp] theorem State.modTile_windows (t : TileId) (f : Tile → Tile) : (s.modTile t f).windows = s.windows := rfl
@[simp] theorem State.modTile_fret (t : TileId) (f : Tile → Tile) : (s.modTile t f).fret = s.fret := rfl
@[simp] theorem State.modTile_flash (t : TileId) (f : Tile → Tile) : (s.modTile t f).flash = s.flash := rfl
@[simp] theorem State.modTile_regions (t : TileId) (f : Tile → Tile) : (s.modTile t f).regions = s.regions := rfl
@[simp] theorem State.modTile_thermal (t : TileId) (f : Tile → Tile) : (s.modTile t f).thermal = s.thermal := rfl
@[simp] theorem State.modTile_budget (t : TileId) (f : Tile → Tile) : (s.modTile t f).budget = s.budget := rfl
@[simp] theorem State.modTile_coolant (t : TileId) (f : Tile → Tile) : (s.modTile t f).coolant = s.coolant := rfl
@[simp] theorem State.modTile_health (t : TileId) (f : Tile → Tile) : (s.modTile t f).health = s.health := rfl
@[simp] theorem State.modTile_replayRing (t : TileId) (f : Tile → Tile) : (s.modTile t f).replayRing = s.replayRing := rfl
@[simp] theorem State.modTile_replayHead (t : TileId) (f : Tile → Tile) : (s.modTile t f).replayHead = s.replayHead := rfl
@[simp] theorem State.modTile_replayPos (t : TileId) (f : Tile → Tile) : (s.modTile t f).replayPos = s.replayPos := rfl
@[simp] theorem State.modTile_replayLog (t : TileId) (f : Tile → Tile) : (s.modTile t f).replayLog = s.replayLog := rfl
@[simp] theorem State.modTile_hng (t : TileId) (f : Tile → Tile) : (s.modTile t f).hng = s.hng := rfl
@[simp] theorem State.modTile_power (t : TileId) (f : Tile → Tile) : (s.modTile t f).power = s.power := rfl
@[simp] theorem State.modTile_boot (t : TileId) (f : Tile → Tile) : (s.modTile t f).boot = s.boot := rfl
@[simp] theorem State.modTile_sec (t : TileId) (f : Tile → Tile) : (s.modTile t f).sec = s.sec := rfl
@[simp] theorem State.modTile_actions (t : TileId) (f : Tile → Tile) : (s.modTile t f).actions = s.actions := rfl
@[simp] theorem State.modTile_actionCount (t : TileId) (f : Tile → Tile) : (s.modTile t f).actionCount = s.actionCount := rfl
@[simp] theorem State.modTile_pins (t : TileId) (f : Tile → Tile) : (s.modTile t f).pins = s.pins := rfl
@[simp] theorem State.modTile_clkLost (t : TileId) (f : Tile → Tile) : (s.modTile t f).clkLost = s.clkLost := rfl

/-! ### `State.setCtx` -/

@[simp] theorem State.setCtx_pending (c : Fin 8) (x : Ctx) : (s.setCtx c x).pending = s.pending := rfl
@[simp] theorem State.setCtx_out (c : Fin 8) (x : Ctx) : (s.setCtx c x).out = s.out := rfl
@[simp] theorem State.setCtx_hostWait (c : Fin 8) (x : Ctx) : (s.setCtx c x).hostWait = s.hostWait := rfl
@[simp] theorem State.setCtx_freeCtr (c : Fin 8) (x : Ctx) : (s.setCtx c x).freeCtr = s.freeCtr := rfl
@[simp] theorem State.setCtx_regs (c : Fin 8) (x : Ctx) : (s.setCtx c x).regs = s.regs := rfl
@[simp] theorem State.setCtx_latch (c : Fin 8) (x : Ctx) : (s.setCtx c x).latch = s.latch := rfl
@[simp] theorem State.setCtx_sideLatch (c : Fin 8) (x : Ctx) : (s.setCtx c x).sideLatch = s.sideLatch := rfl
@[simp] theorem State.setCtx_lowHalf (c : Fin 8) (x : Ctx) : (s.setCtx c x).lowHalf = s.lowHalf := rfl
@[simp] theorem State.setCtx_tiles (c : Fin 8) (x : Ctx) : (s.setCtx c x).tiles = s.tiles := rfl
@[simp] theorem State.setCtx_mesh (c : Fin 8) (x : Ctx) : (s.setCtx c x).mesh = s.mesh := rfl
@[simp] theorem State.setCtx_routers (c : Fin 8) (x : Ctx) : (s.setCtx c x).routers = s.routers := rfl
@[simp] theorem State.setCtx_selections (c : Fin 8) (x : Ctx) : (s.setCtx c x).selections = s.selections := rfl
@[simp] theorem State.setCtx_ports (c : Fin 8) (x : Ctx) : (s.setCtx c x).ports = s.ports := rfl
@[simp] theorem State.setCtx_held (c : Fin 8) (x : Ctx) : (s.setCtx c x).held = s.held := rfl
@[simp] theorem State.setCtx_given (c : Fin 8) (x : Ctx) : (s.setCtx c x).given = s.given := rfl
@[simp] theorem State.setCtx_plan (c : Fin 8) (x : Ctx) : (s.setCtx c x).plan = s.plan := rfl
@[simp] theorem State.setCtx_slots (c : Fin 8) (x : Ctx) : (s.setCtx c x).slots = s.slots := rfl
@[simp] theorem State.setCtx_time (c : Fin 8) (x : Ctx) : (s.setCtx c x).time = s.time := rfl
@[simp] theorem State.setCtx_rings (c : Fin 8) (x : Ctx) : (s.setCtx c x).rings = s.rings := rfl
@[simp] theorem State.setCtx_windows (c : Fin 8) (x : Ctx) : (s.setCtx c x).windows = s.windows := rfl
@[simp] theorem State.setCtx_fret (c : Fin 8) (x : Ctx) : (s.setCtx c x).fret = s.fret := rfl
@[simp] theorem State.setCtx_flash (c : Fin 8) (x : Ctx) : (s.setCtx c x).flash = s.flash := rfl
@[simp] theorem State.setCtx_regions (c : Fin 8) (x : Ctx) : (s.setCtx c x).regions = s.regions := rfl
@[simp] theorem State.setCtx_thermal (c : Fin 8) (x : Ctx) : (s.setCtx c x).thermal = s.thermal := rfl
@[simp] theorem State.setCtx_budget (c : Fin 8) (x : Ctx) : (s.setCtx c x).budget = s.budget := rfl
@[simp] theorem State.setCtx_coolant (c : Fin 8) (x : Ctx) : (s.setCtx c x).coolant = s.coolant := rfl
@[simp] theorem State.setCtx_health (c : Fin 8) (x : Ctx) : (s.setCtx c x).health = s.health := rfl
@[simp] theorem State.setCtx_replayRing (c : Fin 8) (x : Ctx) : (s.setCtx c x).replayRing = s.replayRing := rfl
@[simp] theorem State.setCtx_replayHead (c : Fin 8) (x : Ctx) : (s.setCtx c x).replayHead = s.replayHead := rfl
@[simp] theorem State.setCtx_replayPos (c : Fin 8) (x : Ctx) : (s.setCtx c x).replayPos = s.replayPos := rfl
@[simp] theorem State.setCtx_replayLog (c : Fin 8) (x : Ctx) : (s.setCtx c x).replayLog = s.replayLog := rfl
@[simp] theorem State.setCtx_hng (c : Fin 8) (x : Ctx) : (s.setCtx c x).hng = s.hng := rfl
@[simp] theorem State.setCtx_power (c : Fin 8) (x : Ctx) : (s.setCtx c x).power = s.power := rfl
@[simp] theorem State.setCtx_boot (c : Fin 8) (x : Ctx) : (s.setCtx c x).boot = s.boot := rfl
@[simp] theorem State.setCtx_sec (c : Fin 8) (x : Ctx) : (s.setCtx c x).sec = s.sec := rfl
@[simp] theorem State.setCtx_actions (c : Fin 8) (x : Ctx) : (s.setCtx c x).actions = s.actions := rfl
@[simp] theorem State.setCtx_actionCount (c : Fin 8) (x : Ctx) : (s.setCtx c x).actionCount = s.actionCount := rfl
@[simp] theorem State.setCtx_pins (c : Fin 8) (x : Ctx) : (s.setCtx c x).pins = s.pins := rfl
@[simp] theorem State.setCtx_clkLost (c : Fin 8) (x : Ctx) : (s.setCtx c x).clkLost = s.clkLost := rfl

/-! ### `State.modCtx` -/

@[simp] theorem State.modCtx_pending (c : Fin 8) (f : Ctx → Ctx) : (s.modCtx c f).pending = s.pending := rfl
@[simp] theorem State.modCtx_out (c : Fin 8) (f : Ctx → Ctx) : (s.modCtx c f).out = s.out := rfl
@[simp] theorem State.modCtx_hostWait (c : Fin 8) (f : Ctx → Ctx) : (s.modCtx c f).hostWait = s.hostWait := rfl
@[simp] theorem State.modCtx_freeCtr (c : Fin 8) (f : Ctx → Ctx) : (s.modCtx c f).freeCtr = s.freeCtr := rfl
@[simp] theorem State.modCtx_regs (c : Fin 8) (f : Ctx → Ctx) : (s.modCtx c f).regs = s.regs := rfl
@[simp] theorem State.modCtx_latch (c : Fin 8) (f : Ctx → Ctx) : (s.modCtx c f).latch = s.latch := rfl
@[simp] theorem State.modCtx_sideLatch (c : Fin 8) (f : Ctx → Ctx) : (s.modCtx c f).sideLatch = s.sideLatch := rfl
@[simp] theorem State.modCtx_lowHalf (c : Fin 8) (f : Ctx → Ctx) : (s.modCtx c f).lowHalf = s.lowHalf := rfl
@[simp] theorem State.modCtx_tiles (c : Fin 8) (f : Ctx → Ctx) : (s.modCtx c f).tiles = s.tiles := rfl
@[simp] theorem State.modCtx_mesh (c : Fin 8) (f : Ctx → Ctx) : (s.modCtx c f).mesh = s.mesh := rfl
@[simp] theorem State.modCtx_routers (c : Fin 8) (f : Ctx → Ctx) : (s.modCtx c f).routers = s.routers := rfl
@[simp] theorem State.modCtx_selections (c : Fin 8) (f : Ctx → Ctx) : (s.modCtx c f).selections = s.selections := rfl
@[simp] theorem State.modCtx_ports (c : Fin 8) (f : Ctx → Ctx) : (s.modCtx c f).ports = s.ports := rfl
@[simp] theorem State.modCtx_held (c : Fin 8) (f : Ctx → Ctx) : (s.modCtx c f).held = s.held := rfl
@[simp] theorem State.modCtx_given (c : Fin 8) (f : Ctx → Ctx) : (s.modCtx c f).given = s.given := rfl
@[simp] theorem State.modCtx_plan (c : Fin 8) (f : Ctx → Ctx) : (s.modCtx c f).plan = s.plan := rfl
@[simp] theorem State.modCtx_slots (c : Fin 8) (f : Ctx → Ctx) : (s.modCtx c f).slots = s.slots := rfl
@[simp] theorem State.modCtx_time (c : Fin 8) (f : Ctx → Ctx) : (s.modCtx c f).time = s.time := rfl
@[simp] theorem State.modCtx_rings (c : Fin 8) (f : Ctx → Ctx) : (s.modCtx c f).rings = s.rings := rfl
@[simp] theorem State.modCtx_windows (c : Fin 8) (f : Ctx → Ctx) : (s.modCtx c f).windows = s.windows := rfl
@[simp] theorem State.modCtx_fret (c : Fin 8) (f : Ctx → Ctx) : (s.modCtx c f).fret = s.fret := rfl
@[simp] theorem State.modCtx_flash (c : Fin 8) (f : Ctx → Ctx) : (s.modCtx c f).flash = s.flash := rfl
@[simp] theorem State.modCtx_regions (c : Fin 8) (f : Ctx → Ctx) : (s.modCtx c f).regions = s.regions := rfl
@[simp] theorem State.modCtx_thermal (c : Fin 8) (f : Ctx → Ctx) : (s.modCtx c f).thermal = s.thermal := rfl
@[simp] theorem State.modCtx_budget (c : Fin 8) (f : Ctx → Ctx) : (s.modCtx c f).budget = s.budget := rfl
@[simp] theorem State.modCtx_coolant (c : Fin 8) (f : Ctx → Ctx) : (s.modCtx c f).coolant = s.coolant := rfl
@[simp] theorem State.modCtx_health (c : Fin 8) (f : Ctx → Ctx) : (s.modCtx c f).health = s.health := rfl
@[simp] theorem State.modCtx_replayRing (c : Fin 8) (f : Ctx → Ctx) : (s.modCtx c f).replayRing = s.replayRing := rfl
@[simp] theorem State.modCtx_replayHead (c : Fin 8) (f : Ctx → Ctx) : (s.modCtx c f).replayHead = s.replayHead := rfl
@[simp] theorem State.modCtx_replayPos (c : Fin 8) (f : Ctx → Ctx) : (s.modCtx c f).replayPos = s.replayPos := rfl
@[simp] theorem State.modCtx_replayLog (c : Fin 8) (f : Ctx → Ctx) : (s.modCtx c f).replayLog = s.replayLog := rfl
@[simp] theorem State.modCtx_hng (c : Fin 8) (f : Ctx → Ctx) : (s.modCtx c f).hng = s.hng := rfl
@[simp] theorem State.modCtx_power (c : Fin 8) (f : Ctx → Ctx) : (s.modCtx c f).power = s.power := rfl
@[simp] theorem State.modCtx_boot (c : Fin 8) (f : Ctx → Ctx) : (s.modCtx c f).boot = s.boot := rfl
@[simp] theorem State.modCtx_sec (c : Fin 8) (f : Ctx → Ctx) : (s.modCtx c f).sec = s.sec := rfl
@[simp] theorem State.modCtx_actions (c : Fin 8) (f : Ctx → Ctx) : (s.modCtx c f).actions = s.actions := rfl
@[simp] theorem State.modCtx_actionCount (c : Fin 8) (f : Ctx → Ctx) : (s.modCtx c f).actionCount = s.actionCount := rfl
@[simp] theorem State.modCtx_pins (c : Fin 8) (f : Ctx → Ctx) : (s.modCtx c f).pins = s.pins := rfl
@[simp] theorem State.modCtx_clkLost (c : Fin 8) (f : Ctx → Ctx) : (s.modCtx c f).clkLost = s.clkLost := rfl

/-! ### `State.modPort` -/

@[simp] theorem State.modPort_pending (p : Fin 64) (f : Port → Port) : (s.modPort p f).pending = s.pending := rfl
@[simp] theorem State.modPort_out (p : Fin 64) (f : Port → Port) : (s.modPort p f).out = s.out := rfl
@[simp] theorem State.modPort_hostWait (p : Fin 64) (f : Port → Port) : (s.modPort p f).hostWait = s.hostWait := rfl
@[simp] theorem State.modPort_freeCtr (p : Fin 64) (f : Port → Port) : (s.modPort p f).freeCtr = s.freeCtr := rfl
@[simp] theorem State.modPort_regs (p : Fin 64) (f : Port → Port) : (s.modPort p f).regs = s.regs := rfl
@[simp] theorem State.modPort_latch (p : Fin 64) (f : Port → Port) : (s.modPort p f).latch = s.latch := rfl
@[simp] theorem State.modPort_sideLatch (p : Fin 64) (f : Port → Port) : (s.modPort p f).sideLatch = s.sideLatch := rfl
@[simp] theorem State.modPort_lowHalf (p : Fin 64) (f : Port → Port) : (s.modPort p f).lowHalf = s.lowHalf := rfl
@[simp] theorem State.modPort_tiles (p : Fin 64) (f : Port → Port) : (s.modPort p f).tiles = s.tiles := rfl
@[simp] theorem State.modPort_mesh (p : Fin 64) (f : Port → Port) : (s.modPort p f).mesh = s.mesh := rfl
@[simp] theorem State.modPort_routers (p : Fin 64) (f : Port → Port) : (s.modPort p f).routers = s.routers := rfl
@[simp] theorem State.modPort_selections (p : Fin 64) (f : Port → Port) : (s.modPort p f).selections = s.selections := rfl
@[simp] theorem State.modPort_ctxs (p : Fin 64) (f : Port → Port) : (s.modPort p f).ctxs = s.ctxs := rfl
@[simp] theorem State.modPort_held (p : Fin 64) (f : Port → Port) : (s.modPort p f).held = s.held := rfl
@[simp] theorem State.modPort_given (p : Fin 64) (f : Port → Port) : (s.modPort p f).given = s.given := rfl
@[simp] theorem State.modPort_plan (p : Fin 64) (f : Port → Port) : (s.modPort p f).plan = s.plan := rfl
@[simp] theorem State.modPort_slots (p : Fin 64) (f : Port → Port) : (s.modPort p f).slots = s.slots := rfl
@[simp] theorem State.modPort_time (p : Fin 64) (f : Port → Port) : (s.modPort p f).time = s.time := rfl
@[simp] theorem State.modPort_rings (p : Fin 64) (f : Port → Port) : (s.modPort p f).rings = s.rings := rfl
@[simp] theorem State.modPort_windows (p : Fin 64) (f : Port → Port) : (s.modPort p f).windows = s.windows := rfl
@[simp] theorem State.modPort_fret (p : Fin 64) (f : Port → Port) : (s.modPort p f).fret = s.fret := rfl
@[simp] theorem State.modPort_flash (p : Fin 64) (f : Port → Port) : (s.modPort p f).flash = s.flash := rfl
@[simp] theorem State.modPort_regions (p : Fin 64) (f : Port → Port) : (s.modPort p f).regions = s.regions := rfl
@[simp] theorem State.modPort_thermal (p : Fin 64) (f : Port → Port) : (s.modPort p f).thermal = s.thermal := rfl
@[simp] theorem State.modPort_budget (p : Fin 64) (f : Port → Port) : (s.modPort p f).budget = s.budget := rfl
@[simp] theorem State.modPort_coolant (p : Fin 64) (f : Port → Port) : (s.modPort p f).coolant = s.coolant := rfl
@[simp] theorem State.modPort_health (p : Fin 64) (f : Port → Port) : (s.modPort p f).health = s.health := rfl
@[simp] theorem State.modPort_replayRing (p : Fin 64) (f : Port → Port) : (s.modPort p f).replayRing = s.replayRing := rfl
@[simp] theorem State.modPort_replayHead (p : Fin 64) (f : Port → Port) : (s.modPort p f).replayHead = s.replayHead := rfl
@[simp] theorem State.modPort_replayPos (p : Fin 64) (f : Port → Port) : (s.modPort p f).replayPos = s.replayPos := rfl
@[simp] theorem State.modPort_replayLog (p : Fin 64) (f : Port → Port) : (s.modPort p f).replayLog = s.replayLog := rfl
@[simp] theorem State.modPort_hng (p : Fin 64) (f : Port → Port) : (s.modPort p f).hng = s.hng := rfl
@[simp] theorem State.modPort_power (p : Fin 64) (f : Port → Port) : (s.modPort p f).power = s.power := rfl
@[simp] theorem State.modPort_boot (p : Fin 64) (f : Port → Port) : (s.modPort p f).boot = s.boot := rfl
@[simp] theorem State.modPort_sec (p : Fin 64) (f : Port → Port) : (s.modPort p f).sec = s.sec := rfl
@[simp] theorem State.modPort_actions (p : Fin 64) (f : Port → Port) : (s.modPort p f).actions = s.actions := rfl
@[simp] theorem State.modPort_actionCount (p : Fin 64) (f : Port → Port) : (s.modPort p f).actionCount = s.actionCount := rfl
@[simp] theorem State.modPort_pins (p : Fin 64) (f : Port → Port) : (s.modPort p f).pins = s.pins := rfl
@[simp] theorem State.modPort_clkLost (p : Fin 64) (f : Port → Port) : (s.modPort p f).clkLost = s.clkLost := rfl

/-! ### `State.modRing` -/

@[simp] theorem State.modRing_pending (r : Fin 9) (f : Ring → Ring) : (s.modRing r f).pending = s.pending := rfl
@[simp] theorem State.modRing_out (r : Fin 9) (f : Ring → Ring) : (s.modRing r f).out = s.out := rfl
@[simp] theorem State.modRing_hostWait (r : Fin 9) (f : Ring → Ring) : (s.modRing r f).hostWait = s.hostWait := rfl
@[simp] theorem State.modRing_freeCtr (r : Fin 9) (f : Ring → Ring) : (s.modRing r f).freeCtr = s.freeCtr := rfl
@[simp] theorem State.modRing_regs (r : Fin 9) (f : Ring → Ring) : (s.modRing r f).regs = s.regs := rfl
@[simp] theorem State.modRing_latch (r : Fin 9) (f : Ring → Ring) : (s.modRing r f).latch = s.latch := rfl
@[simp] theorem State.modRing_sideLatch (r : Fin 9) (f : Ring → Ring) : (s.modRing r f).sideLatch = s.sideLatch := rfl
@[simp] theorem State.modRing_lowHalf (r : Fin 9) (f : Ring → Ring) : (s.modRing r f).lowHalf = s.lowHalf := rfl
@[simp] theorem State.modRing_tiles (r : Fin 9) (f : Ring → Ring) : (s.modRing r f).tiles = s.tiles := rfl
@[simp] theorem State.modRing_mesh (r : Fin 9) (f : Ring → Ring) : (s.modRing r f).mesh = s.mesh := rfl
@[simp] theorem State.modRing_routers (r : Fin 9) (f : Ring → Ring) : (s.modRing r f).routers = s.routers := rfl
@[simp] theorem State.modRing_selections (r : Fin 9) (f : Ring → Ring) : (s.modRing r f).selections = s.selections := rfl
@[simp] theorem State.modRing_ctxs (r : Fin 9) (f : Ring → Ring) : (s.modRing r f).ctxs = s.ctxs := rfl
@[simp] theorem State.modRing_ports (r : Fin 9) (f : Ring → Ring) : (s.modRing r f).ports = s.ports := rfl
@[simp] theorem State.modRing_held (r : Fin 9) (f : Ring → Ring) : (s.modRing r f).held = s.held := rfl
@[simp] theorem State.modRing_given (r : Fin 9) (f : Ring → Ring) : (s.modRing r f).given = s.given := rfl
@[simp] theorem State.modRing_plan (r : Fin 9) (f : Ring → Ring) : (s.modRing r f).plan = s.plan := rfl
@[simp] theorem State.modRing_slots (r : Fin 9) (f : Ring → Ring) : (s.modRing r f).slots = s.slots := rfl
@[simp] theorem State.modRing_time (r : Fin 9) (f : Ring → Ring) : (s.modRing r f).time = s.time := rfl
@[simp] theorem State.modRing_windows (r : Fin 9) (f : Ring → Ring) : (s.modRing r f).windows = s.windows := rfl
@[simp] theorem State.modRing_fret (r : Fin 9) (f : Ring → Ring) : (s.modRing r f).fret = s.fret := rfl
@[simp] theorem State.modRing_flash (r : Fin 9) (f : Ring → Ring) : (s.modRing r f).flash = s.flash := rfl
@[simp] theorem State.modRing_regions (r : Fin 9) (f : Ring → Ring) : (s.modRing r f).regions = s.regions := rfl
@[simp] theorem State.modRing_thermal (r : Fin 9) (f : Ring → Ring) : (s.modRing r f).thermal = s.thermal := rfl
@[simp] theorem State.modRing_budget (r : Fin 9) (f : Ring → Ring) : (s.modRing r f).budget = s.budget := rfl
@[simp] theorem State.modRing_coolant (r : Fin 9) (f : Ring → Ring) : (s.modRing r f).coolant = s.coolant := rfl
@[simp] theorem State.modRing_health (r : Fin 9) (f : Ring → Ring) : (s.modRing r f).health = s.health := rfl
@[simp] theorem State.modRing_replayRing (r : Fin 9) (f : Ring → Ring) : (s.modRing r f).replayRing = s.replayRing := rfl
@[simp] theorem State.modRing_replayHead (r : Fin 9) (f : Ring → Ring) : (s.modRing r f).replayHead = s.replayHead := rfl
@[simp] theorem State.modRing_replayPos (r : Fin 9) (f : Ring → Ring) : (s.modRing r f).replayPos = s.replayPos := rfl
@[simp] theorem State.modRing_replayLog (r : Fin 9) (f : Ring → Ring) : (s.modRing r f).replayLog = s.replayLog := rfl
@[simp] theorem State.modRing_hng (r : Fin 9) (f : Ring → Ring) : (s.modRing r f).hng = s.hng := rfl
@[simp] theorem State.modRing_power (r : Fin 9) (f : Ring → Ring) : (s.modRing r f).power = s.power := rfl
@[simp] theorem State.modRing_boot (r : Fin 9) (f : Ring → Ring) : (s.modRing r f).boot = s.boot := rfl
@[simp] theorem State.modRing_sec (r : Fin 9) (f : Ring → Ring) : (s.modRing r f).sec = s.sec := rfl
@[simp] theorem State.modRing_actions (r : Fin 9) (f : Ring → Ring) : (s.modRing r f).actions = s.actions := rfl
@[simp] theorem State.modRing_actionCount (r : Fin 9) (f : Ring → Ring) : (s.modRing r f).actionCount = s.actionCount := rfl
@[simp] theorem State.modRing_pins (r : Fin 9) (f : Ring → Ring) : (s.modRing r f).pins = s.pins := rfl
@[simp] theorem State.modRing_clkLost (r : Fin 9) (f : Ring → Ring) : (s.modRing r f).clkLost = s.clkLost := rfl

/-! ### `State.modRegion` -/

@[simp] theorem State.modRegion_pending (r : Fin 48) (f : Region → Region) : (s.modRegion r f).pending = s.pending := rfl
@[simp] theorem State.modRegion_out (r : Fin 48) (f : Region → Region) : (s.modRegion r f).out = s.out := rfl
@[simp] theorem State.modRegion_hostWait (r : Fin 48) (f : Region → Region) : (s.modRegion r f).hostWait = s.hostWait := rfl
@[simp] theorem State.modRegion_freeCtr (r : Fin 48) (f : Region → Region) : (s.modRegion r f).freeCtr = s.freeCtr := rfl
@[simp] theorem State.modRegion_regs (r : Fin 48) (f : Region → Region) : (s.modRegion r f).regs = s.regs := rfl
@[simp] theorem State.modRegion_latch (r : Fin 48) (f : Region → Region) : (s.modRegion r f).latch = s.latch := rfl
@[simp] theorem State.modRegion_sideLatch (r : Fin 48) (f : Region → Region) : (s.modRegion r f).sideLatch = s.sideLatch := rfl
@[simp] theorem State.modRegion_lowHalf (r : Fin 48) (f : Region → Region) : (s.modRegion r f).lowHalf = s.lowHalf := rfl
@[simp] theorem State.modRegion_tiles (r : Fin 48) (f : Region → Region) : (s.modRegion r f).tiles = s.tiles := rfl
@[simp] theorem State.modRegion_mesh (r : Fin 48) (f : Region → Region) : (s.modRegion r f).mesh = s.mesh := rfl
@[simp] theorem State.modRegion_routers (r : Fin 48) (f : Region → Region) : (s.modRegion r f).routers = s.routers := rfl
@[simp] theorem State.modRegion_selections (r : Fin 48) (f : Region → Region) : (s.modRegion r f).selections = s.selections := rfl
@[simp] theorem State.modRegion_ctxs (r : Fin 48) (f : Region → Region) : (s.modRegion r f).ctxs = s.ctxs := rfl
@[simp] theorem State.modRegion_ports (r : Fin 48) (f : Region → Region) : (s.modRegion r f).ports = s.ports := rfl
@[simp] theorem State.modRegion_held (r : Fin 48) (f : Region → Region) : (s.modRegion r f).held = s.held := rfl
@[simp] theorem State.modRegion_given (r : Fin 48) (f : Region → Region) : (s.modRegion r f).given = s.given := rfl
@[simp] theorem State.modRegion_plan (r : Fin 48) (f : Region → Region) : (s.modRegion r f).plan = s.plan := rfl
@[simp] theorem State.modRegion_slots (r : Fin 48) (f : Region → Region) : (s.modRegion r f).slots = s.slots := rfl
@[simp] theorem State.modRegion_time (r : Fin 48) (f : Region → Region) : (s.modRegion r f).time = s.time := rfl
@[simp] theorem State.modRegion_rings (r : Fin 48) (f : Region → Region) : (s.modRegion r f).rings = s.rings := rfl
@[simp] theorem State.modRegion_windows (r : Fin 48) (f : Region → Region) : (s.modRegion r f).windows = s.windows := rfl
@[simp] theorem State.modRegion_fret (r : Fin 48) (f : Region → Region) : (s.modRegion r f).fret = s.fret := rfl
@[simp] theorem State.modRegion_flash (r : Fin 48) (f : Region → Region) : (s.modRegion r f).flash = s.flash := rfl
@[simp] theorem State.modRegion_thermal (r : Fin 48) (f : Region → Region) : (s.modRegion r f).thermal = s.thermal := rfl
@[simp] theorem State.modRegion_budget (r : Fin 48) (f : Region → Region) : (s.modRegion r f).budget = s.budget := rfl
@[simp] theorem State.modRegion_coolant (r : Fin 48) (f : Region → Region) : (s.modRegion r f).coolant = s.coolant := rfl
@[simp] theorem State.modRegion_health (r : Fin 48) (f : Region → Region) : (s.modRegion r f).health = s.health := rfl
@[simp] theorem State.modRegion_replayRing (r : Fin 48) (f : Region → Region) : (s.modRegion r f).replayRing = s.replayRing := rfl
@[simp] theorem State.modRegion_replayHead (r : Fin 48) (f : Region → Region) : (s.modRegion r f).replayHead = s.replayHead := rfl
@[simp] theorem State.modRegion_replayPos (r : Fin 48) (f : Region → Region) : (s.modRegion r f).replayPos = s.replayPos := rfl
@[simp] theorem State.modRegion_replayLog (r : Fin 48) (f : Region → Region) : (s.modRegion r f).replayLog = s.replayLog := rfl
@[simp] theorem State.modRegion_hng (r : Fin 48) (f : Region → Region) : (s.modRegion r f).hng = s.hng := rfl
@[simp] theorem State.modRegion_power (r : Fin 48) (f : Region → Region) : (s.modRegion r f).power = s.power := rfl
@[simp] theorem State.modRegion_boot (r : Fin 48) (f : Region → Region) : (s.modRegion r f).boot = s.boot := rfl
@[simp] theorem State.modRegion_sec (r : Fin 48) (f : Region → Region) : (s.modRegion r f).sec = s.sec := rfl
@[simp] theorem State.modRegion_actions (r : Fin 48) (f : Region → Region) : (s.modRegion r f).actions = s.actions := rfl
@[simp] theorem State.modRegion_actionCount (r : Fin 48) (f : Region → Region) : (s.modRegion r f).actionCount = s.actionCount := rfl
@[simp] theorem State.modRegion_pins (r : Fin 48) (f : Region → Region) : (s.modRegion r f).pins = s.pins := rfl
@[simp] theorem State.modRegion_clkLost (r : Fin 48) (f : Region → Region) : (s.modRegion r f).clkLost = s.clkLost := rfl

/-! ### `State.modThermal` -/

@[simp] theorem State.modThermal_pending (u : Fin 60) (f : Thermal → Thermal) : (s.modThermal u f).pending = s.pending := rfl
@[simp] theorem State.modThermal_out (u : Fin 60) (f : Thermal → Thermal) : (s.modThermal u f).out = s.out := rfl
@[simp] theorem State.modThermal_hostWait (u : Fin 60) (f : Thermal → Thermal) : (s.modThermal u f).hostWait = s.hostWait := rfl
@[simp] theorem State.modThermal_freeCtr (u : Fin 60) (f : Thermal → Thermal) : (s.modThermal u f).freeCtr = s.freeCtr := rfl
@[simp] theorem State.modThermal_regs (u : Fin 60) (f : Thermal → Thermal) : (s.modThermal u f).regs = s.regs := rfl
@[simp] theorem State.modThermal_latch (u : Fin 60) (f : Thermal → Thermal) : (s.modThermal u f).latch = s.latch := rfl
@[simp] theorem State.modThermal_sideLatch (u : Fin 60) (f : Thermal → Thermal) : (s.modThermal u f).sideLatch = s.sideLatch := rfl
@[simp] theorem State.modThermal_lowHalf (u : Fin 60) (f : Thermal → Thermal) : (s.modThermal u f).lowHalf = s.lowHalf := rfl
@[simp] theorem State.modThermal_tiles (u : Fin 60) (f : Thermal → Thermal) : (s.modThermal u f).tiles = s.tiles := rfl
@[simp] theorem State.modThermal_mesh (u : Fin 60) (f : Thermal → Thermal) : (s.modThermal u f).mesh = s.mesh := rfl
@[simp] theorem State.modThermal_routers (u : Fin 60) (f : Thermal → Thermal) : (s.modThermal u f).routers = s.routers := rfl
@[simp] theorem State.modThermal_selections (u : Fin 60) (f : Thermal → Thermal) : (s.modThermal u f).selections = s.selections := rfl
@[simp] theorem State.modThermal_ctxs (u : Fin 60) (f : Thermal → Thermal) : (s.modThermal u f).ctxs = s.ctxs := rfl
@[simp] theorem State.modThermal_ports (u : Fin 60) (f : Thermal → Thermal) : (s.modThermal u f).ports = s.ports := rfl
@[simp] theorem State.modThermal_held (u : Fin 60) (f : Thermal → Thermal) : (s.modThermal u f).held = s.held := rfl
@[simp] theorem State.modThermal_given (u : Fin 60) (f : Thermal → Thermal) : (s.modThermal u f).given = s.given := rfl
@[simp] theorem State.modThermal_plan (u : Fin 60) (f : Thermal → Thermal) : (s.modThermal u f).plan = s.plan := rfl
@[simp] theorem State.modThermal_slots (u : Fin 60) (f : Thermal → Thermal) : (s.modThermal u f).slots = s.slots := rfl
@[simp] theorem State.modThermal_time (u : Fin 60) (f : Thermal → Thermal) : (s.modThermal u f).time = s.time := rfl
@[simp] theorem State.modThermal_rings (u : Fin 60) (f : Thermal → Thermal) : (s.modThermal u f).rings = s.rings := rfl
@[simp] theorem State.modThermal_windows (u : Fin 60) (f : Thermal → Thermal) : (s.modThermal u f).windows = s.windows := rfl
@[simp] theorem State.modThermal_fret (u : Fin 60) (f : Thermal → Thermal) : (s.modThermal u f).fret = s.fret := rfl
@[simp] theorem State.modThermal_flash (u : Fin 60) (f : Thermal → Thermal) : (s.modThermal u f).flash = s.flash := rfl
@[simp] theorem State.modThermal_regions (u : Fin 60) (f : Thermal → Thermal) : (s.modThermal u f).regions = s.regions := rfl
@[simp] theorem State.modThermal_budget (u : Fin 60) (f : Thermal → Thermal) : (s.modThermal u f).budget = s.budget := rfl
@[simp] theorem State.modThermal_coolant (u : Fin 60) (f : Thermal → Thermal) : (s.modThermal u f).coolant = s.coolant := rfl
@[simp] theorem State.modThermal_health (u : Fin 60) (f : Thermal → Thermal) : (s.modThermal u f).health = s.health := rfl
@[simp] theorem State.modThermal_replayRing (u : Fin 60) (f : Thermal → Thermal) : (s.modThermal u f).replayRing = s.replayRing := rfl
@[simp] theorem State.modThermal_replayHead (u : Fin 60) (f : Thermal → Thermal) : (s.modThermal u f).replayHead = s.replayHead := rfl
@[simp] theorem State.modThermal_replayPos (u : Fin 60) (f : Thermal → Thermal) : (s.modThermal u f).replayPos = s.replayPos := rfl
@[simp] theorem State.modThermal_replayLog (u : Fin 60) (f : Thermal → Thermal) : (s.modThermal u f).replayLog = s.replayLog := rfl
@[simp] theorem State.modThermal_hng (u : Fin 60) (f : Thermal → Thermal) : (s.modThermal u f).hng = s.hng := rfl
@[simp] theorem State.modThermal_power (u : Fin 60) (f : Thermal → Thermal) : (s.modThermal u f).power = s.power := rfl
@[simp] theorem State.modThermal_boot (u : Fin 60) (f : Thermal → Thermal) : (s.modThermal u f).boot = s.boot := rfl
@[simp] theorem State.modThermal_sec (u : Fin 60) (f : Thermal → Thermal) : (s.modThermal u f).sec = s.sec := rfl
@[simp] theorem State.modThermal_actions (u : Fin 60) (f : Thermal → Thermal) : (s.modThermal u f).actions = s.actions := rfl
@[simp] theorem State.modThermal_actionCount (u : Fin 60) (f : Thermal → Thermal) : (s.modThermal u f).actionCount = s.actionCount := rfl
@[simp] theorem State.modThermal_pins (u : Fin 60) (f : Thermal → Thermal) : (s.modThermal u f).pins = s.pins := rfl
@[simp] theorem State.modThermal_clkLost (u : Fin 60) (f : Thermal → Thermal) : (s.modThermal u f).clkLost = s.clkLost := rfl

end Sys2Proof.Machine
end

