-- ==== Sys2Proof/Laws/Frame.lean ====
section
/-! SUPPORT. What `settle`, `act` and `serve` can do: cited in place of their definitions. -/

namespace Sys2Proof.Machine

variable {s t u : State}

theorem getD_set_ne {α : Type} (l : Tab α) {k q : Nat} (x d : α) (h : q ≠ k) : (l.set k x).getD q d = l.getD q d := by
  unfold Tab.getD
  congr 1
  induction l with
  | nil => simp [Tab.set, Tab.get?, h]
  | cons e l ih =>
    obtain ⟨j, y⟩ := e
    simp only [Tab.set]
    split
    · simp [Tab.get?, h]
    · split
      · subst_vars; simp [Tab.get?, h]
      · simp [Tab.get?, ih]

theorem getD_set_eq {α : Type} (l : Tab α) (k : Nat) (x d : α) : (l.set k x).getD k d = x := by
  unfold Tab.getD
  suffices (l.set k x).get? k = some x by simp [this]
  induction l with
  | nil => simp [Tab.set, Tab.get?]
  | cons e l ih =>
    obtain ⟨j, y⟩ := e
    simp only [Tab.set]
    split
    · simp [Tab.get?]
    · split
      · simp [Tab.get?]
      · rename_i h
        simp [Tab.get?, h, ih]

theorem set_set {α : Type} (l : Tab α) (k : Nat) (x y : α) : (l.set k x).set k y = l.set k y := by
  induction l with
  | nil => simp [Tab.set]
  | cons e l ih =>
    obtain ⟨j, z⟩ := e
    simp only [Tab.set]
    split
    · simp [Tab.set]
    · split
      · simp [Tab.set]
      · rename_i h1 h2
        simp [Tab.set, h1, h2, ih]

theorem State.reg_setReg_ne (s : State) {o q : Nat} (v : Nat) (h : q ≠ o) : (s.setReg o v).reg q = s.reg q := by
  simp [State.reg, State.setReg, getD_set_ne _ _ _ h]

theorem State.reg_setReg_eq (s : State) (o v : Nat) : (s.setReg o v).reg o = v % 2 ^ 32 := by
  simp [State.reg, State.setReg, getD_set_eq]

theorem State.reg_cause_ne (s : State) {o q : Nat} (b : Nat) (h : q ≠ o) : (s.cause o b).reg q = s.reg q :=
  s.reg_setReg_ne _ h

theorem Settled.refl (t : State) : Settled t t := ⟨rfl, fun _ _ _ => rfl, .inl rfl⟩

theorem Settled.cause {o b : Nat} (h : Settled t u) (ho : o = Reg.engCause ∨ o = Reg.hngCause)
    (c : Bool) : Settled t (u.causeIf c o b) := by
  unfold State.causeIf
  split
  · obtain ⟨h1, h2, h3⟩ := h
    refine ⟨?_, fun q hq1 hq2 => ?_, h3⟩
    · rw [h1]; rfl
    · rw [State.reg_cause_ne, h2 q hq1 hq2]
      rcases ho with rfl | rfl <;> assumption
  · exact h

theorem Settled.message (h : Settled t u) (hu : u.out = t.out) : Settled t u.message := by
  obtain ⟨h1, h2, h3⟩ := h
  unfold State.message
  split
  · refine ⟨?_, h2, .inr (by simp [State.emit, hu])⟩
    rw [h1]; simp [State.emit]
  · refine ⟨?_, h2, .inl hu⟩
    rw [h1]

/-- What follows a command changes nothing but what `Settled` allows. -/
theorem settle_settled (s t : State) : Settled t (settle s t) := by
  unfold settle
  split
  · exact Settled.refl t
  · have out : ∀ (v : State) (c : Bool) (o b : Nat), (v.causeIf c o b).out = v.out := by
      intro v c o b; unfold State.causeIf; split <;> rfl
    extract_lets t1 t2 t3
    have h1 : Settled t t1 := (Settled.refl t).cause (.inl rfl) _
    have h2 : Settled t t2 := h1.cause (.inl rfl) _
    have h3 : Settled t t3 := h2.cause (.inr rfl) _
    have ho : t3.out = t.out := by simp only [t3, t2, t1, out]
    split
    · split
      · exact h3
      · exact h3.message ho
    · split
      · exact h3.message ho
      · exact h3

/-- A command that acts completes in what its effect leaves. -/
theorem act_completes {c : Instr} {f : State → State} {P : State → Prop} (he : exec c s = act f s) (ha : Alive s)
    (hp : P (f s)) : Completes s c P := by
  have hd : s.dead = false := by simp [State.dead, ha.1, ha.2]
  exact ⟨f s, settle s (f s), by rw [he, act, actOr, hd]; rfl, settle_settled s (f s), hp⟩

theorem actIf_completes {c : Instr} {ok : Bool} {f : State → State} {P : State → Prop} (he : exec c s = actIf ok f s)
    (hk : ok = true) (ha : Alive s) (hp : P (f s)) : Completes s c P :=
  act_completes (by rw [he, actIf, hk]; rfl) ha hp

theorem State.tryCapo_none (s : State) (c : Fin 8) (h : (s.ctx c).ckpt.due = none) : s.tryCapo c = s := by
  simp [State.tryCapo, h]

/-- A ring whose commands have all begun has none to start. -/
theorem startable_none (r : Fin 9) (h : (s.rings[r]).cmds.all Cmd.begun = true) : s.startable r = none := by
  unfold State.startable
  extract_lets l
  rw [List.findSome?_eq_none_iff]
  intro i _
  split
  · rename_i k hk
    have hb : k.begun = true := List.all_eq_true.mp h k (List.mem_of_getElem? hk)
    simp [hb]
  · rfl

/-- Where no command waits to start and no cut is due, nothing is served. -/
theorem serve_clear (h : Clear s) : s.serve = s := by
  have h1 : ∀ l : List (Fin 8), l.foldl State.tryCapo s = s := by
    intro l
    induction l with
    | nil => rfl
    | cons c l ih => rw [List.foldl_cons, s.tryCapo_none c (h.2 c), ih]
  have h2 : ∀ r : Fin 9, s.startable r = none := fun r => startable_none r (h.1 r)
  unfold State.serve
  simp only [h1]
  have h3 : ((fins 9).findSome? fun r => (s.startable r).map fun k => (r, k)) = none := by
    simp [List.findSome?_eq_none_iff, h2]
  simp [State.serveRings, h3]

end Sys2Proof.Machine
end

