-- ==== Sys2Proof/Laws/Issue.lean ====
section
/-! SUPPORT. What issuing an instruction leaves: the handshake, the slots that wake, and the class fields of a word. -/

namespace Sys2Proof.Machine

variable {s : State} {t : TileId} {k : Fin 8}

theorem vget_ofFn {α : Type} {n : Nat} (f : Fin n → α) (i : Fin n) : (Vector.ofFn f)[i] = f i := by simp

theorem vget_vset_eq {α : Type} {n : Nat} (v : Vector α n) (i : Fin n) (x : α) : (vset v i x)[i] = x := by
  simp [vset]

theorem vget_vset_ne {α : Type} {n : Nat} (v : Vector α n) {i j : Fin n} (x : α) (h : j ≠ i) : (vset v i x)[j] = v[j] := by
  have : i.1 ≠ j.1 := fun e => h (Fin.ext e.symm)
  simp [vset, Vector.getElem_set_ne, this]

theorem vget_vmod_eq {α : Type} {n : Nat} (v : Vector α n) (i : Fin n) (f : α → α) : (vmod v i f)[i] = f v[i] :=
  vget_vset_eq v i _

theorem vget_vmod_ne {α : Type} {n : Nat} (v : Vector α n) {i j : Fin n} (f : α → α) (h : j ≠ i) :
    (vmod v i f)[j] = v[j] := vget_vset_ne v _ h

theorem vset_self {α : Type} {n : Nat} (v : Vector α n) (i : Fin n) : vset v i v[i] = v := by simp [vset]

theorem State.tile_setTile_eq (s : State) (t : TileId) (x : Tile) : (s.setTile t x).tile t = x := by
  simp [State.tile, State.setTile, getD_set_eq]

theorem State.tile_setTile_ne (s : State) {t v : TileId} (x : Tile) (h : v ≠ t) : (s.setTile t x).tile v = s.tile v := by
  have : v.1 ≠ t.1 := fun e => h (Fin.ext e)
  simp [State.tile, State.setTile, getD_set_ne _ _ _ this]

theorem State.tile_modTile_eq (s : State) (t : TileId) (f : Tile → Tile) : (s.modTile t f).tile t = f (s.tile t) :=
  s.tile_setTile_eq t _

theorem State.tile_modTile_ne (s : State) {t v : TileId} (f : Tile → Tile) (h : v ≠ t) :
    (s.modTile t f).tile v = s.tile v := s.tile_setTile_ne _ h

theorem Tile.Woken.refl (x : Tile) : x.Woken x := ⟨rfl, fun _ => .inl rfl⟩

theorem Tile.Woken.trans {x y z : Tile} (h : x.Woken y) (g : y.Woken z) : x.Woken z := by
  obtain ⟨h1, h2⟩ := h
  obtain ⟨g1, g2⟩ := g
  refine ⟨by rw [g1, h1], fun j => ?_⟩
  rcases g2 j with e | ⟨e1, e2, e3⟩
  · rw [e]; exact h2 j
  · rcases h2 j with f | ⟨f1, f2, f3⟩
    · rw [f] at e1 e3; exact .inr ⟨e1, e2, e3⟩
    · refine .inr ⟨f1, e2, ?_⟩
      rw [e3, f3]

/-- What a wake leaves of its tile. -/
theorem State.wake_tile (s : State) (t : TileId) : (s.tile t).Woken ((s.wake t).tile t) := by
  unfold State.wake
  rw [State.tile_modTile_eq]
  refine ⟨rfl, fun j => ?_⟩
  rw [vget_ofFn]
  dsimp only
  split
  · rename_i h1 h2
    split
    · exact .inr ⟨h1, .inr h1, rfl⟩
    · exact .inr ⟨h1, .inl rfl, rfl⟩
  · exact .inl rfl

theorem State.wake_ne (s : State) {t v : TileId} (h : v ≠ t) : (s.wake t).tile v = s.tile v :=
  s.tile_modTile_ne _ h

/-- What waking a list of tiles leaves. -/
theorem State.wakeAll_spec (ts : List TileId) (s : State) :
    s.wakeAll ts = { s with tiles := (s.wakeAll ts).tiles } ∧ (∀ v, v ∉ ts → (s.wakeAll ts).tile v = s.tile v) ∧
      ∀ v, (s.tile v).Woken ((s.wakeAll ts).tile v) := by
  induction ts generalizing s with
  | nil => exact ⟨rfl, fun _ _ => rfl, fun _ => Tile.Woken.refl _⟩
  | cons t ts ih =>
    obtain ⟨h1, h2, h3⟩ := ih (s.wake t)
    have e : s.wakeAll (t :: ts) = (s.wake t).wakeAll ts := rfl
    rw [e]
    refine ⟨by rw [h1]; rfl, fun v hv => ?_, fun v => ?_⟩
    · rw [List.mem_cons, not_or] at hv
      rw [h2 v hv.2, State.wake_ne _ hv.1]
    · refine Tile.Woken.trans ?_ (h3 v)
      by_cases hv : v = t
      · subst hv; exact State.wake_tile s v
      · rw [State.wake_ne _ hv]; exact Tile.Woken.refl _

theorem fld_eq_mod_div (v lo w : Nat) : fld v lo w = v % 2 ^ (lo + w) / 2 ^ lo := by
  rw [fld, Nat.shiftRight_eq_div_pow, Nat.pow_add, Nat.mod_mul_right_div_self]

theorem word_toNat {cls op : Nat} (f : Fields) (hc : cls < 16) (ho : op < 64) :
    (word cls op f).toNat = cls * 2 ^ 60 + op * 2 ^ 54 + f.toNat := by
  have := f.isLt
  simp only [word, BitVec.toNat_ofNat]
  apply Nat.mod_eq_of_lt
  omega

/-- A class field of an instruction's word is that field of the command's class-field bits (R73). -/
theorem fld_word {cls op lo w : Nat} (f : Fields) (hc : cls < 16) (ho : op < 64) (h : lo + w ≤ 54) :
    fld (word cls op f).toNat lo w = (f.extractLsb' lo w).toNat := by
  rw [word_toNat f hc ho, fld_eq_mod_div, BitVec.extractLsb'_toNat, Nat.shiftRight_eq_div_pow, Nat.pow_add,
    ← Nat.mod_mul_right_div_self, ← Nat.pow_add]
  congr 1
  have : cls * 2 ^ 60 + op * 2 ^ 54 + f.toNat = f.toNat + 2 ^ (lo + w) * (2 ^ (54 - (lo + w)) * (cls * 2 ^ 6 + op)) := by
    rw [← Nat.mul_assoc, ← Nat.pow_add, Nat.add_sub_cancel' h]
    omega
  rw [this, Nat.add_mul_mod_self_left]

theorem imm_word {cls op : Nat} (f : Fields) (hc : cls < 16) (ho : op < 64) :
    BitVec.ofNat 32 (word cls op f).toNat = f.extractLsb' 0 32 := by
  apply BitVec.eq_of_toNat_eq
  rw [BitVec.toNat_ofNat, ← fld_word f hc ho (by omega : 0 + 32 ≤ 54), fld_eq_mod_div]
  simp

theorem bitAt_word {cls op i : Nat} (f : Fields) (hc : cls < 16) (ho : op < 64) (h : i < 54) :
    bitAt (word cls op f).toNat i = f.getLsbD i := by
  have h1 := fld_word f hc ho (by omega : i + 1 ≤ 54)
  unfold bitAt
  simp only [fld] at h1
  rw [Nat.pow_one] at h1
  rw [h1, BitVec.extractLsb'_toNat, BitVec.getLsbD, Nat.testBit, Nat.pow_one, Nat.and_comm, Nat.and_one_is_mod]
  rcases Nat.mod_two_eq_zero_or_one (f.toNat >>> i) with h | h <;> rw [h] <;> rfl

theorem finOf_bits {n w : Nat} (h0 : 0 < n) (b : BitVec w) (h : 2 ^ w = n) :
    finOf n b.toNat h0 = ⟨b.toNat, h ▸ b.isLt⟩ := by
  have := h ▸ b.isLt
  simp only [finOf, this, dif_pos]

theorem Slot.reg_bits (z : Slot) (r : BitVec 4) : z.reg r.toNat = z.value r := by
  have hr : r.toNat % 16 = r.toNat := Nat.mod_eq_of_lt r.isLt
  simp only [Slot.reg, Slot.value, hr]
  by_cases h : r = 0
  · subst h; rfl
  · have : r.toNat ≠ 0 := fun e => h (BitVec.eq_of_toNat_eq e)
    rw [if_neg this, if_neg h]
    congr 1
    exact finOf_bits _ r rfl

theorem Slot.setReg_bits (z : Slot) (d : BitVec 4) (v : Word) : z.setReg d.toNat v = z.written d v := by
  have hr : d.toNat % 16 = d.toNat := Nat.mod_eq_of_lt d.isLt
  simp only [Slot.setReg, Slot.written, hr]
  by_cases h : d = 0
  · subst h; rfl
  · have : d.toNat ≠ 0 := fun e => h (BitVec.eq_of_toNat_eq e)
    rw [if_neg this, if_neg h]
    congr 2
    exact finOf_bits _ d rfl

/-- The tile as its sequencer hands an instruction of slot `k` to issue. -/
def Tile.readied (x : Tile) (k : Fin 8) (run : Nat) : Tile := { x.settleRunning with last := k, runLen := run }

/-- The state in which slot `k` issues. -/
def State.readied (s : State) (t : TileId) (k : Fin 8) (run : Nat) : State :=
  (s.modTile t Tile.settleRunning).modTile t fun x => { x with last := k, runLen := run }

theorem State.readied_tile (s : State) (t : TileId) (k : Fin 8) (run : Nat) :
    (s.readied t k run).tile t = (s.tile t).readied k run := by
  simp only [State.readied, State.tile_modTile_eq, Tile.readied]

theorem State.readied_ne (s : State) {t v : TileId} (k : Fin 8) (run : Nat) (h : v ≠ t) :
    (s.readied t k run).tile v = s.tile v := by
  simp only [State.readied, State.tile_modTile_ne _ _ h]

theorem Tile.settleRunning_slot (x : Tile) (j : Fin 8) :
    x.settleRunning.slots[j] = if x.slots[j].state = .running then { x.slots[j] with state := .ready } else x.slots[j] := by
  simp [Tile.settleRunning]

/-- The slot picked stands READY. -/
theorem Issues.ready (h : Issues s t k) : (s.tile t).settleRunning.slots[k].state = .ready := by
  obtain ⟨-, -, hp, -⟩ := h
  have nr : ∀ j : Fin 8, (s.tile t).settleRunning.slots[j].state ≠ .running := by
    intro j
    rw [Tile.settleRunning_slot]
    split
    · simp
    · assumption
  generalize (s.tile t).settleRunning = x at hp nr
  unfold Tile.pick at hp
  extract_lets ready at hp
  have hr : ∀ j, ready j = true → x.slots[j].state = .ready := by
    intro j hj
    have := nr j
    simp only [ready, Bool.or_eq_true, beq_iff_eq] at hj
    rcases hj with hj | hj
    · exact hj
    · exact absurd hj this
  split at hp
  · rename_i hc
    simp only [Option.map_some, Option.some.injEq] at hp
    subst hp
    apply hr
    simp only [Bool.and_eq_true] at hc
    exact hc.1.2
  · rw [Option.map_map] at hp
    rcases hf : List.find? ready (List.map (fun i => finOf 8 ((x.last.1 + i + 1) % 8)) (List.range 8)) with _ | j
    · rw [hf] at hp; simp at hp
    · rw [hf] at hp
      simp only [Option.map_some, Function.comp, Option.some.injEq] at hp
      subst hp
      exact hr _ (List.find?_some hf)

/-- The tile after the issue, before any slot wakes. -/
def Tile.onward (x : Tile) (k : Fin 8) (next : Nat) (yields : Bool) : Tile :=
  { x with
    eligible := !yields && x.slots[k].state == .ready
    advanced := true
    slots := vmod x.slots k fun z =>
      { z with pc := BitVec.ofNat 11 next, progress := z.progress + 1, readyWhole := false
               state := if z.state = .ready then .running else z.state } }

/-- An instruction that issues. -/
theorem issueAs_go (h : Issues s t k) : ∃ run, ∀ (body : State → TileId → Fin 8 → Nat → Nat → Issue) (w : DWord)
    (yields : Bool) (s2 : State) (next : Nat) (wakes : List TileId),
    body (s.readied t k run) t k (s.slotOf t k).pc.toNat w.toNat = .go s2 next wakes →
    s.issueAs t w body yields = ((s2.modTile t (Tile.onward · k next yields)).wake t).wakeAll wakes := by
  obtain ⟨-, hr, hp, hpc, hb, ha⟩ := h
  rcases hq : (s.tile t).settleRunning.pick with _ | ⟨k', run⟩
  · rw [hq] at hp; simp at hp
  · rw [hq] at hp
    simp only [Option.map_some, Option.some.injEq] at hp
    subst hp
    refine ⟨run, fun body w yields s2 next wakes hgo => ?_⟩
    have hslot : (s.modTile t Tile.settleRunning).slotOf t k' =
        if (s.slotOf t k').state = .running then { s.slotOf t k' with state := .ready } else s.slotOf t k' := by
      simp only [State.slotOf, State.tile_modTile_eq, Tile.settleRunning_slot]
      rfl
    have hpc' : ((s.modTile t Tile.settleRunning).slotOf t k').pc = (s.slotOf t k').pc := by
      rw [hslot]; split <;> rfl
    unfold State.issueAs
    simp only [hr, Bool.not_true, Bool.false_eq_true, if_false, State.tile_modTile_eq, hq, hpc']
    have hb' : Tile.badFetch { (s.tile t).settleRunning with last := k', runLen := run } (s.slotOf t k').pc.toNat = none := hb
    have ha' : ¬(1535 < (s.slotOf t k').pc.toNat ∨
        (!assigned ((s.tile t).settleRunning.imem.getD (s.slotOf t k').pc.toNat 0).toNat) = true) := by
      have : assigned ((s.tile t).settleRunning.imem.getD (s.slotOf t k').pc.toNat 0).toNat = true := ha
      rintro (h | h)
      · exact Nat.not_lt.mpr hpc h
      · rw [this] at h; cases h
    simp only [hb', ha', if_false]
    simp only [State.readied] at hgo
    simp only [hgo]
    rfl

theorem State.readied_slot (s : State) (t : TileId) (k : Fin 8) (run : Nat) :
    (s.readied t k run).slotOf t k = (s.tile t).settleRunning.slots[k] := by
  simp only [State.slotOf, State.readied_tile, Tile.readied]

theorem State.modTile_modTile (s : State) (t : TileId) (f g : Tile → Tile) :
    (s.modTile t f).modTile t g = s.modTile t fun x => g (f x) := by
  simp only [State.modTile, State.setTile, State.tile, getD_set_eq, set_set]

theorem State.readied_id (s : State) (t : TileId) (k : Fin 8) (run : Nat) :
    (s.readied t k run).modTile t id = s.readied t k run := by
  rw [State.readied, State.modTile_modTile]; rfl

theorem goNext_eq (s : State) (pc : BitVec 11) (h : pc.toNat ≤ 1535) : goNext s pc.toNat = .go s (pc + 1).toNat [] := by
  rw [goNext]
  congr 1
  simp
  omega

theorem State.value_ready (s : State) (t : TileId) (k : Fin 8) (r : BitVec 4) :
    ((s.tile t).settleRunning.slots[k]).value r = (s.slotOf t k).value r := by
  rw [Tile.settleRunning_slot]; split <;> rfl

theorem next_pc (pc : BitVec 11) : BitVec.ofNat 11 (pc.toNat + 1) = pc + 1 := by
  apply BitVec.eq_of_toNat_eq; simp

/-- An issue that changes one tile and wakes others: what is left of them. -/
theorem issue_tile {body : State → TileId → Fin 8 → Nat → Nat → Issue} {w : DWord} {yields : Bool} {g : Tile → Tile}
    {next : Nat} {wakes : List TileId} {x' : Tile} {z0 : Slot} (h : Issues s t k)
    (hb : ∀ run, body (s.readied t k run) t k (s.slotOf t k).pc.toNat w.toNat =
      .go ((s.readied t k run).modTile t g) next wakes)
    (hg : ∀ run, g ((s.tile t).readied k run) =
      { x' with slots := vset (s.tile t).settleRunning.slots k z0, last := k, runLen := run })
    (hx : x'.slots = (s.tile t).slots) (hz0 : z0.state ≠ .blocked) :
    OnlyTiles s (s.issueAs t w body yields) (t :: wakes) ∧
      (∀ v, v ≠ t → (s.tile v).Woken ((s.issueAs t w body yields).tile v)) ∧
      x'.Issued ((s.issueAs t w body yields).tile t) k
        (z0.onto (BitVec.ofNat 11 next) (if z0.state = .ready then .running else z0.state))
        (!yields && z0.state == .ready) := by
  obtain ⟨run, hgo⟩ := issueAs_go h
  rw [hgo body w yields _ next wakes (hb run)]
  generalize hs3 : ((s.readied t k run).modTile t g).modTile t (Tile.onward · k next yields) = s3
  have ht3 : s3.tile t = ({ x' with slots := vset (s.tile t).settleRunning.slots k z0, last := k, runLen := run } : Tile).onward
      k next yields := by
    rw [← hs3, State.tile_modTile_eq, State.tile_modTile_eq, State.readied_tile, hg run]
  have hn3 : ∀ v, v ≠ t → s3.tile v = s.tile v := fun v hv => by
    rw [← hs3, State.tile_modTile_ne _ _ hv, State.tile_modTile_ne _ _ hv, State.readied_ne _ _ _ hv]
  obtain ⟨f1, f2, f3⟩ := State.wakeAll_spec (t :: wakes) s3
  have e : (s3.wake t).wakeAll wakes = s3.wakeAll (t :: wakes) := rfl
  rw [e]
  obtain ⟨hy, hj⟩ := f3 t
  refine ⟨⟨?_, fun v hv => ?_⟩, fun v hv => ?_, ?_, ?_, fun j hne => ?_⟩
  · rw [f1, ← hs3]; rfl
  · rw [f2 v hv, hn3 v (fun e => hv (e ▸ List.mem_cons_self))]
  · rw [← hn3 v hv]; exact f3 v
  · rw [hy, ht3]
    simp only [Tile.onward, vget_vset_eq]
  · have hk := hj k
    rw [ht3] at hk
    simp only [Tile.onward, vget_vmod_eq, vget_vset_eq] at hk
    rcases hk with hk | ⟨hk, -⟩
    · simpa [Slot.onto] using hk
    · exfalso
      split at hk
      · cases hk
      · exact hz0 hk
  · have hk := hj j
    rw [ht3] at hk
    simp only [Tile.onward, vget_vmod_ne _ _ hne, vget_vset_ne _ _ hne, Tile.settleRunning_slot, ← hx] at hk
    rcases hk with hk | ⟨hb, hs, hk⟩
    · exact .inl hk
    · have hnr : x'.slots[j].state ≠ .running := by
        intro hc
        rw [if_pos hc] at hb
        cases hb
      rw [if_neg hnr] at hb hk
      exact .inr ⟨hb, hs, hk⟩

/-- An issue by slot `k`, which stays RUNNING, that changes nothing but tile `t`. -/
theorem issue_running {c : Instr} {cls op : Nat} {f : Fields} {body : State → TileId → Fin 8 → Nat → Nat → Issue}
    {yields : Bool} {g : Tile → Tile} {pc : BitVec 11} {x' : Tile} {gz : Slot → Slot} (h : Issues s t k)
    (he : ∀ s, exec c s = act (fun s => s.issueAs t (word cls op f) body yields) s)
    (hb : ∀ run, body (s.readied t k run) t k (s.slotOf t k).pc.toNat (word cls op f).toNat =
      .go ((s.readied t k run).modTile t g) pc.toNat [])
    (hg : ∀ run, g ((s.tile t).readied k run) = { x' with
      slots := vset (s.tile t).settleRunning.slots k (gz (s.tile t).settleRunning.slots[k]), last := k, runLen := run })
    (hx : x'.slots = (s.tile t).slots) (hz : ∀ z : Slot, (gz z).state = z.state ∧
      ∀ st, { gz z with state := st } = gz { z with state := st }) :
    Completes s c fun u => OnlyTiles s u [t] ∧
      x'.Issued (u.tile t) k ((gz (s.slotOf t k)).onto pc .running) (!yields) := by
  refine act_completes (he s) h.1 ?_
  have e1 : (gz (s.tile t).settleRunning.slots[k]).state = .ready := by rw [(hz _).1]; exact h.ready
  obtain ⟨k1, -, k3⟩ := issue_tile (wakes := []) h hb hg hx (by rw [e1]; decide)
  refine ⟨k1, ?_⟩
  rw [e1] at k3
  simp only [if_true, beq_self_eq_true, Bool.and_true, BitVec.ofNat_toNat, BitVec.setWidth_eq] at k3
  have e2 : (gz (s.tile t).settleRunning.slots[k]).onto pc .running = (gz (s.slotOf t k)).onto pc .running := by
    rw [Tile.settleRunning_slot]
    split
    · rename_i hr
      have h2 := (hz (s.slotOf t k)).2 .ready
      have : gz { (s.tile t).slots[k] with state := .ready } = { gz (s.slotOf t k) with state := .ready } := h2.symm
      rw [this]; rfl
    · rfl
  rwa [e2] at k3

/-- An instruction that faults. -/
theorem issueAs_fault (h : Issues s t k) : ∃ run, ∀ (body : State → TileId → Fin 8 → Nat → Nat → Issue) (w : DWord)
    (yields : Bool) (c : TileCause) (src v : Nat),
    body (s.readied t k run) t k (s.slotOf t k).pc.toNat w.toNat = .fault c src v →
    s.issueAs t w body yields = ((s.readied t k run).taskFault t k (s.slotOf t k).pc c src v).wake t := by
  obtain ⟨-, hr, hp, hpc, hb, ha⟩ := h
  rcases hq : (s.tile t).settleRunning.pick with _ | ⟨k', run⟩
  · rw [hq] at hp; simp at hp
  · rw [hq] at hp
    simp only [Option.map_some, Option.some.injEq] at hp
    subst hp
    refine ⟨run, fun body w yields c src v hgo => ?_⟩
    have hslot : (s.modTile t Tile.settleRunning).slotOf t k' =
        if (s.slotOf t k').state = .running then { s.slotOf t k' with state := .ready } else s.slotOf t k' := by
      simp only [State.slotOf, State.tile_modTile_eq, Tile.settleRunning_slot]
      rfl
    have hpc' : ((s.modTile t Tile.settleRunning).slotOf t k').pc = (s.slotOf t k').pc := by
      rw [hslot]; split <;> rfl
    unfold State.issueAs
    simp only [hr, Bool.not_true, Bool.false_eq_true, if_false, State.tile_modTile_eq, hq, hpc']
    have hb' : Tile.badFetch { (s.tile t).settleRunning with last := k', runLen := run } (s.slotOf t k').pc.toNat = none := hb
    have ha' : ¬(1535 < (s.slotOf t k').pc.toNat ∨
        (!assigned ((s.tile t).settleRunning.imem.getD (s.slotOf t k').pc.toNat 0).toNat) = true) := by
      have : assigned ((s.tile t).settleRunning.imem.getD (s.slotOf t k').pc.toNat 0).toNat = true := ha
      rintro (h | h)
      · exact Nat.not_lt.mpr hpc h
      · rw [this] at h; cases h
    simp only [hb', ha', if_false]
    simp only [State.readied] at hgo
    simp only [hgo]
    rfl

theorem getD_mapVals_cases {α : Type} (l : Tab α) (f : Nat → α → α) (k : Nat) (d : α) :
    (l.mapVals f).getD k d = l.getD k d ∨ (l.mapVals f).getD k d = f k (l.getD k d) := by
  unfold Tab.getD
  induction l with
  | nil => exact .inl rfl
  | cons e l ih =>
    obtain ⟨j, x⟩ := e
    simp only [Tab.mapVals, List.map_cons, Tab.get?] at ih ⊢
    by_cases h : k = j
    · subst h; simp
    · simpa [h] using ih

/-- What stopping a context's tiles leaves of a tile. -/
theorem State.stopTiles_tile (s : State) (c : Fin 8) (v : TileId) :
    (s.stopTiles c).tile v = s.tile v ∨ (s.stopTiles c).tile v = { s.tile v with stopped := true } := by
  unfold State.stopTiles State.modListed State.tile
  rcases getD_mapVals_cases s.tiles (fun k t => if (s.ctx c).holds (regionOf (finOf 786432 k)) then { t with stopped := true } else t)
    v.1 {} with h | h
  · exact .inl h
  · rw [h]
    split
    · exact .inr rfl
    · exact .inl rfl

theorem bitAt_getLsbD {w : Nat} (v : BitVec w) (i : Nat) : bitAt v.toNat i = v.getLsbD i := by
  rw [BitVec.getLsbD, Nat.testBit, Nat.and_comm, Nat.and_one_is_mod, bitAt]
  rcases Nat.mod_two_eq_zero_or_one (v.toNat >>> i) with h | h <;> rw [h] <;> rfl

theorem State.rfld_cause_eq (s : State) (o b : Nat) (hb : b < 32) : (s.cause o b).rfld o b 1 = 1 := by
  unfold State.cause State.rfld
  rw [State.reg_setReg_eq]
  have h : ((s.reg o ||| 2 ^ b) % 2 ^ 32).testBit b = true := by
    rw [Nat.testBit_mod_two_pow, Nat.testBit_or, Nat.testBit_two_pow_self]; simp [hb]
  rw [Nat.testBit, Nat.and_comm, Nat.and_one_is_mod] at h
  unfold fld
  rcases Nat.mod_two_eq_zero_or_one (((s.reg o ||| 2 ^ b) % 2 ^ 32) >>> b) with e | e
  · rw [e] at h; simp at h
  · simpa using e

/-- What a fault of the slot that issues leaves, but for PARITY. -/
theorem taskFault_faulted (run : Nat) {c : TileCause} (hc : c ≠ .parity) (pc : BitVec 11) (hpc : pc = (s.slotOf t k).pc) :
    Faulted s ((s.readied t k run).taskFault t k pc c 0 0) t k c := by
  subst hpc
  generalize hp : (s.readied t k run) = r
  have hrt : r.tile t = (s.tile t).readied k run := by rw [← hp, State.readied_tile]
  have hrn : ∀ v, v ≠ t → r.tile v = s.tile v := fun v hv => by rw [← hp, State.readied_ne _ _ _ hv]
  have hctx : ∀ c, r.ctx c = s.ctx c := fun c => by rw [← hp]; rfl
  have hof : r.ctxOf t = s.ctxOf t := by rw [← hp]; rfl
  unfold State.taskFault
  extract_lets s1 first s2
  have h1 : s1.tile t = ((s.tile t).readied k run).faultSlot k c (s.slotOf t k).pc := by
    simp only [s1, State.tile_modTile_eq, hrt]
  have hn1 : ∀ v, v ≠ t → s1.tile v = s.tile v := fun v hv => by
    simp only [s1, State.tile_modTile_ne _ _ hv, hrn v hv]
  have key : ∀ u : State, (u.tile t = s1.tile t ∨ u.tile t = { s1.tile t with stopped := true }) →
      (∀ v, v ≠ t → u.tile v = s.tile v ∨ u.tile v = { s.tile v with stopped := true }) →
      (∀ c, s.ctxOf t = some c → u.rfld Reg.engCause 3 1 = 1 ∧ (u.ctx c).faultHold = true ∧
        (u.ctx c).state = (if (s.ctx c).state = .running then .held else (s.ctx c).state)) → Faulted s u t k c := by
    intro u hu hv hcx
    have e : ∃ b, u.tile t = { ((s.tile t).readied k run).faultSlot k c (s.slotOf t k).pc with stopped := b } := by
      rcases hu with hu | hu
      · exact ⟨_, by rw [hu, h1]⟩
      · exact ⟨true, by rw [hu, h1]⟩
    obtain ⟨b, e⟩ := e
    refine ⟨?_, ?_, ?_, ?_, ?_, ?_, ?_, hv, hcx⟩
    · simp only [State.slotOf, e, Tile.faultSlot, vget_vmod_eq, Tile.readied, Tile.settleRunning_slot]
      split <;> rfl
    · rw [e]; rfl
    · rw [e]; simp only [Tile.faultSlot, Tile.readied, bitAt_getLsbD]; rfl
    · rw [e]; rfl
    · rw [e]; rfl
    · intro n; rw [e]; simp [Tile.faultSlot, Tile.readied, Tile.settleRunning]
    · intro w; rw [e]; cases w <;> rfl
  have hof1 : s1.ctxOf t = s.ctxOf t := hof
  rw [hof1]
  rcases hcx : s.ctxOf t with _ | c0
  · exact key s1 (.inl rfl) (fun v hv => .inl (hn1 v hv)) (fun c hc => by rw [hcx] at hc; cases hc)
  · simp only [hc, if_false]
    generalize hs3 : (if first = true then s2.setReg Reg.engFaultAt
      (tileX t + tileY t * 2 ^ 10 + c0.1 * 2 ^ 20 + c.bit * 2 ^ 23 + 2 ^ 26) else s2) = s3
    have e3 : ∃ r, s3 = { s1 with regs := r } := by
      rw [← hs3]; split
      · exact ⟨_, rfl⟩
      · exact ⟨_, rfl⟩
    obtain ⟨rg, e3⟩ := e3
    have hb : s3.rfld Reg.engCause 3 1 = 1 := by
      have h2 : s2.rfld Reg.engCause 3 1 = 1 := s1.rfld_cause_eq _ 3 (by decide)
      rw [← hs3]; split
      · unfold State.rfld at h2 ⊢
        rw [State.reg_setReg_ne _ _ (by decide)]; exact h2
      · exact h2
    apply key
    · rcases State.stopTiles_tile (s3.modCtx c0 fun x =>
        { x with faultHold := true, state := if x.state = .running then .held else x.state }) c0 t with h | h
      · left; unfold State.faultHold; rw [h, e3]; rfl
      · right; unfold State.faultHold; rw [h, e3]; rfl
    · intro v hv
      rcases State.stopTiles_tile (s3.modCtx c0 fun x =>
        { x with faultHold := true, state := if x.state = .running then .held else x.state }) c0 v with h | h
      · left; unfold State.faultHold; rw [h, e3]; exact hn1 v hv
      · right; unfold State.faultHold; rw [h, e3]
        show { s1.tile v with stopped := true } = _
        rw [hn1 v hv]
    · intro c1 hc1
      rw [hcx] at hc1; cases hc1
      refine ⟨hb, ?_, ?_⟩
      · unfold State.faultHold; rw [e3]
        simp [State.stopTiles, State.modListed, State.modCtx, State.setCtx, State.ctx, vset]
      · unfold State.faultHold; rw [e3]
        have : s1.ctxs = s.ctxs := by simp only [s1, ← hp]; rfl
        simp [State.stopTiles, State.modListed, State.modCtx, State.setCtx, State.ctx, vset, this]
        by_cases hz : s.ctxs[c0.1].state = CtxState.running
        · rw [if_pos hz]; exact (if_pos hz).symm
        · rw [if_neg hz]; exact (if_neg hz).symm

/-- Waking the tile's slots leaves a fault as it is: the faulted slot is not BLOCKED. -/
theorem Faulted.wake {u : State} {c : TileCause} (h : Faulted s u t k c) : Faulted s (u.wake t) t k c := by
  obtain ⟨h1, h2, h3, h4, h5, h6, h7, h8, h9⟩ := h
  obtain ⟨e, hj⟩ := State.wake_tile u t
  refine ⟨?_, by rw [e]; exact h2, by rw [e]; exact h3, by rw [e]; exact h4, by rw [e]; exact h5,
    fun n => by rw [e]; exact h6 n, fun w => ?_, fun v hv => by rw [State.wake_ne _ hv]; exact h8 v hv, h9⟩
  · rcases hj k with g | ⟨g, -⟩
    · exact g.trans h1
    · have : (u.slotOf t k).state = .blocked := g
      rw [h1] at this; cases this
  · rw [e]; rw [← h7 w]; cases w <;> rfl

/-- An instruction that faults, but with PARITY. -/
theorem issue_fault {c : Instr} {w : DWord} {body : State → TileId → Fin 8 → Nat → Nat → Issue} {yields : Bool}
    {cause : TileCause} (h : Issues s t k) (he : ∀ s, exec c s = act (fun s => s.issueAs t w body yields) s)
    (hc : cause ≠ .parity)
    (hb : ∀ run, body (s.readied t k run) t k (s.slotOf t k).pc.toNat w.toNat = .fault cause 0 0) :
    Completes s c fun u => Faulted s u t k cause := by
  refine act_completes (he s) h.1 ?_
  obtain ⟨run, hf⟩ := issueAs_fault h
  rw [hf body w yields cause 0 0 (hb run)]
  exact (taskFault_faulted run hc _ rfl).wake

/-- The decoder finds a command for exactly the words that R513 assigns (R74). -/
theorem decodeTileWord_isSome (t : TileId) (w : DWord) : (decodeTileWord t w).isSome = assigned w.toNat := by
  have hc : (w.extractLsb' 60 4).toNat = fld w.toNat 60 4 := by simp [fld, BitVec.extractLsb'_toNat]
  have ho : (w.extractLsb' 54 6).toNat = fld w.toNat 54 6 := by simp [fld, BitVec.extractLsb'_toNat]
  have h16 : fld w.toNat 60 4 < 16 := Nat.mod_lt _ (by decide)
  have hl (l : List (TileId → Fields → Instr)) (i : Nat) : l[i]?.isSome = decide (i < l.length) := by
    rw [Bool.eq_iff_iff]; simp
  simp only [decodeTileWord, assigned, hc, ho, Option.isSome_map, hl]
  generalize fld w.toNat 60 4 = c at h16
  interval_cases c <;> rfl

end Sys2Proof.Machine
end

