-- ==== Sys2Proof/Laws/Link.lean ====
section
/-! SUPPORT. What the receive side of a link and the sending of a frame can do: cited in place of their definitions. -/

namespace Sys2Proof.Machine

variable {s : State} {p : Fin 64} {ty : Byte} {f : Frame}

/-- Acceptance and the receive checks look at nothing of the state but the ports, the membership and the contexts; what
acceptance changes is the port and the interface. -/
theorem accepts_eq (s : State) (p : Fin 64) (f : Frame) :
    ∃ (pt : Vector Port 64) (o : List Output), s.accepts p f = { s with ports := pt, out := o } := by
  unfold State.accepts
  extract_lets t
  have hl : ∀ (u : State) (op : Nat) (q : Word), ∃ o, u.linkFrame p op q = { u with out := o } := by
    intro u op q
    unfold State.linkFrame State.emit
    split
    · split
      · exact ⟨_, rfl⟩
      · exact ⟨_, rfl⟩
    · exact ⟨u.out, rfl⟩
  split
  · unfold State.ackNow
    split
    · exact ⟨_, s.out, rfl⟩
    · obtain ⟨o, h⟩ := hl (t.modPort p fun pt => { pt with toAck := 0 }) 1
        (((t.modPort p fun pt => { pt with toAck := 0 }).ports[p]).rx - 1)
      obtain ⟨o', h'⟩ := hl { t.modPort p fun pt => { pt with toAck := 0 } with out := o } 3 0
      exact ⟨_, o', by simp only [h, h']; rfl⟩
  · exact ⟨_, s.out, rfl⟩

@[simp] theorem accepts_ctxs (s : State) (p : Fin 64) (f : Frame) : (s.accepts p f).ctxs = s.ctxs := by
  obtain ⟨_, _, h⟩ := accepts_eq s p f; rw [h]
@[simp] theorem accepts_regs (s : State) (p : Fin 64) (f : Frame) : (s.accepts p f).regs = s.regs := by
  obtain ⟨_, _, h⟩ := accepts_eq s p f; rw [h]
@[simp] theorem accepts_hng (s : State) (p : Fin 64) (f : Frame) : (s.accepts p f).hng = s.hng := by
  obtain ⟨_, _, h⟩ := accepts_eq s p f; rw [h]
@[simp] theorem accepts_tiles (s : State) (p : Fin 64) (f : Frame) : (s.accepts p f).tiles = s.tiles := by
  obtain ⟨_, _, h⟩ := accepts_eq s p f; rw [h]
@[simp] theorem accepts_time (s : State) (p : Fin 64) (f : Frame) : (s.accepts p f).time = s.time := by
  obtain ⟨_, _, h⟩ := accepts_eq s p f; rw [h]
@[simp] theorem accepts_plan (s : State) (p : Fin 64) (f : Frame) : (s.accepts p f).plan = s.plan := by
  obtain ⟨_, _, h⟩ := accepts_eq s p f; rw [h]
@[simp] theorem accepts_power (s : State) (p : Fin 64) (f : Frame) : (s.accepts p f).power = s.power := by
  obtain ⟨_, _, h⟩ := accepts_eq s p f; rw [h]
@[simp] theorem accepts_held (s : State) (p : Fin 64) (f : Frame) : (s.accepts p f).held = s.held := by
  obtain ⟨_, _, h⟩ := accepts_eq s p f; rw [h]
@[simp] theorem accepts_given (s : State) (p : Fin 64) (f : Frame) : (s.accepts p f).given = s.given := by
  obtain ⟨_, _, h⟩ := accepts_eq s p f; rw [h]
@[simp] theorem accepts_ctx (s : State) (p : Fin 64) (f : Frame) (c : Fin 8) : (s.accepts p f).ctx c = s.ctx c := by
  simp [State.ctx]
@[simp] theorem accepts_tile (s : State) (p : Fin 64) (f : Frame) (t : TileId) : (s.accepts p f).tile t = s.tile t := by
  simp [State.tile]
@[simp] theorem accepts_reg (s : State) (p : Fin 64) (f : Frame) (o : Nat) : (s.accepts p f).reg o = s.reg o := by
  simp [State.reg]
@[simp] theorem accepts_ident (s : State) (p : Fin 64) (f : Frame) : (s.accepts p f).ident = s.ident := by
  simp [State.ident, State.rfld]
@[simp] theorem accepts_ns (s : State) (p : Fin 64) (f : Frame) : (s.accepts p f).ns = s.ns := by
  simp [State.ns]

/-- The port accepts the next frame it expects. -/
theorem arrive_accepts (g : Frame) (hp : (s.ports[p]).state = .up ∨ (s.ports[p]).state = .quiet)
    (hs : g.seq = (s.ports[p]).rx) (hc : g.clean = true) (d : State → State) :
    s.arrive p g d = (s.accepts p g).receive p g d := by
  unfold State.arrive
  extract_lets pt
  rw [if_neg (by rintro ⟨h1, h2⟩; rcases hp with h | h <;> contradiction), if_neg (by simp [hs, hc, pt])]
  rfl

/-- A frame passes the receive checks. -/
theorem receive_delivers (g : Frame) (hr : g.type = 0x60 ∨ s.hng.running = false ∧ s.hng.fenced = false)
    (hw : s.power = .active ∨ g.type = 0x50 ∨ g.type = 0x60)
    (hk : knownType g.type.toNat = true ∧ s.carries p g.type.toNat = true)
    (hd : g.dest = s.ident ∨ g.dest = 0xFFFF)
    (he : g.type ≠ 0x50 → g.type ≠ 0x60 → g.type ≠ 0x61 → g.epoch = s.hng.epoch)
    (hn : namesDest g.type.toNat = true → g.context.toNat ≤ 7 ∧
      (s.ctx (finOf 8 g.context.toNat)).loaded = true ∧ g.generation = (s.ctx (finOf 8 g.context.toNat)).gen)
    (d : State → State) : s.receive p g d = d s := by
  have hty : ∀ n : Nat, n < 256 → g.type.toNat ≠ n → g.type ≠ BitVec.ofNat 8 n := by
    intro n hn h e
    rw [e, BitVec.toNat_ofNat] at h
    omega
  have hold : ∀ a : Half, older a a = false := by intro a; simp [older]
  have hck : (g.type.toNat ≠ 0x50 ∧ g.type.toNat ≠ 0x60 ∧ g.type.toNat ≠ 0x61) → g.epoch = s.hng.epoch := fun h =>
    he (hty 0x50 (by decide) h.1) (hty 0x60 (by decide) h.2.1) (hty 0x61 (by decide) h.2.2)
  have k1 : ¬(s.hng.running && g.type.toNat != 0x60) = true := by
    rcases hr with h | h
    · rw [h]; cases s.hng.running <;> decide
    · rw [h.1]; exact Bool.false_ne_true
  have k2 : ¬(s.hng.fenced && g.type.toNat != 0x60) = true := by
    rcases hr with h | h
    · rw [h]; cases s.hng.fenced <;> decide
    · rw [h.2]; exact Bool.false_ne_true
  have k3 : ¬(g.dest ≠ s.ident ∧ g.dest ≠ 0xFFFF) := fun ⟨h1, h2⟩ => hd.elim h1 h2
  have k4 : ¬((g.type.toNat ≠ 0x50 ∧ g.type.toNat ≠ 0x60 ∧ g.type.toNat ≠ 0x61) ∧ older g.epoch s.hng.epoch = true) :=
    fun ⟨h1, h2⟩ => by rw [hck h1, hold] at h2; cases h2
  have k5 : ¬((g.type.toNat ≠ 0x50 ∧ g.type.toNat ≠ 0x60 ∧ g.type.toNat ≠ 0x61) ∧ older s.hng.epoch g.epoch = true) :=
    fun ⟨h1, h2⟩ => by rw [hck h1, hold] at h2; cases h2
  have k6 : ¬(namesDest g.type.toNat = true ∧ (7 < g.context.toNat ∨
      (!(s.ctx (finOf 8 g.context.toNat)).loaded) = true ∨ g.generation ≠ (s.ctx (finOf 8 g.context.toNat)).gen)) := by
    rintro ⟨h1, h3⟩
    obtain ⟨h4, h5, h6⟩ := hn h1
    rcases h3 with h | h | h
    · exact absurd h (Nat.not_lt.mpr h4)
    · rw [h5] at h; cases h
    · exact h h6
  have k7 : ¬(s.power != .active && g.type.toNat != 0x50 && g.type.toNat != 0x60) = true := by
    rcases hw with h | h | h <;> simp [h]
  unfold State.receive
  rw [if_neg k1, if_neg k7, if_neg k2, if_neg (by simp [hk.1]), if_neg k3, if_neg k4, if_neg k5, if_neg k6,
    if_neg (by simp [hk.2])]

/-- A frame that `Arrives` describes is accepted and delivered. -/
theorem arrive_deliver (h : Arrives s p ty f) (d : State → State) :
    s.arrive p { f with type := ty } d = d (s.accepts p f) := by
  obtain ⟨-, -, hp, hseq, hcl, hr, hw, hk, hd, he, hn⟩ := h
  rw [arrive_accepts { f with type := ty } hp hseq hcl]
  exact receive_delivers (s := s.accepts p f) { f with type := ty } (by rw [accepts_hng]; exact hr)
    (by rw [accepts_power]; exact hw) (by simpa [State.carries, State.role] using hk) (by rw [accepts_ident]; exact hd) (by rw [accepts_hng]; exact he)
    (by rw [accepts_ctx]; exact hn) d

/-- A frame row completes in what its delivery leaves. -/
theorem frame_completes {c : Instr} {d : State → State} {P : State → Prop}
    (he : exec c s = actIf f.wf (fun s => s.arrive p { f with type := ty } d) s) (h : Arrives s p ty f)
    (hp : P (d (s.accepts p f))) : Completes s c P :=
  actIf_completes (f := fun s => s.arrive p { f with type := ty } d) he h.2.1 h.1 (by rw [arrive_deliver h]; exact hp)

/-- A frame that leaves changes the ports, the interface and, for a TIME frame, the clock's record of the exchange. -/
theorem transmit_eq (s : State) (p : Fin 64) (q : QFrame) : ∃ (pt : Vector Port 64) (o : List Output) (tm : TimeBase),
    s.transmit p q = { s with ports := pt, out := o, time := tm } := by
  unfold State.transmit State.stamped
  extract_lets pt f c t n
  split
  · exact ⟨_, _, s.time, rfl⟩
  · split
    · exact ⟨_, _, s.time, rfl⟩
    · exact ⟨_, _, _, rfl⟩
    · exact ⟨_, _, s.time, rfl⟩

/-- Sending changes the ports, the credits held, the interface and the clock's record of an exchange. -/
theorem pumpList_eq (p : Fin 64) (l : List QFrame) : ∀ (h : List (Nat × Half × Nat)) (g : List Nat) (s : State),
    ∃ (pt : Vector Port 64) (a : List Account) (o : List Output) (tm : TimeBase),
      (State.pumpList p l h g s).1 = { s with ports := pt, held := a, out := o, time := tm } := by
  induction l with
  | nil => intro h g s; exact ⟨s.ports, s.held, s.out, s.time, rfl⟩
  | cons q l ih =>
    intro h g s
    unfold State.pumpList
    extract_lets f key keep
    have hk : ∀ h' g', ∃ pt a o tm, (keep h' g').1 = { s with ports := pt, held := a, out := o, time := tm } :=
      fun h' g' => ih h' g' s
    split
    · exact hk _ _
    · split
      · exact hk _ _
      · split
        · obtain ⟨pt, a, o, tm, e⟩ := ih h g (s.transmit p q)
          obtain ⟨pt', o', tm', e'⟩ := transmit_eq s p q
          exact ⟨pt, a, o, tm, by rw [e, e']⟩
        · split
          · exact hk _ _
          · rename_i a _
            extract_lets f2
            obtain ⟨pt, b, o, tm, e⟩ := ih h g ((s.spend a).transmit p { q with frame := f2 })
            obtain ⟨pt', o', tm', e'⟩ := transmit_eq (s.spend a) p { q with frame := f2 }
            exact ⟨pt, b, o, tm, by rw [e, e']; rfl⟩

theorem pumpPass_eq (s : State) (p : Fin 64) : ∃ (pt : Vector Port 64) (a : List Account) (o : List Output) (tm : TimeBase),
    s.pumpPass p = { s with ports := pt, held := a, out := o, time := tm } := by
  unfold State.pumpPass
  extract_lets r
  obtain ⟨pt, a, o, tm, e⟩ := pumpList_eq p (s.ports[p]).queue [] [] (s.modPort p fun pt => { pt with queue := [] })
  exact ⟨_, a, o, tm, by rw [show r.1 = _ from e]; rfl⟩

theorem pump_eq (s : State) (p : Fin 64) : ∃ (pt : Vector Port 64) (a : List Account) (o : List Output) (tm : TimeBase),
    s.pump p = { s with ports := pt, held := a, out := o, time := tm } := by
  unfold State.pump
  extract_lets pt
  split
  · obtain ⟨pt', a', o', tm', e'⟩ := pumpPass_eq s p
    obtain ⟨pt, a, o, tm, e⟩ := pumpPass_eq (s.pumpPass p) p
    exact ⟨pt, a, o, tm, by rw [e, e']⟩
  · exact ⟨s.ports, s.held, s.out, s.time, rfl⟩

/-- A frame queued changes the ports, the credits held, the interface and the clock's record of an exchange. -/
theorem enqueue_eq (s : State) (p : Option (Fin 64)) (f : Frame) (k : Option (Nat × Nat × Nat)) (c : Option (Fin 8)) (w : Bool) :
    ∃ (pt : Vector Port 64) (a : List Account) (o : List Output) (tm : TimeBase),
      s.enqueue p f k c w = { s with ports := pt, held := a, out := o, time := tm } := by
  unfold State.enqueue
  split
  · exact ⟨s.ports, s.held, s.out, s.time, rfl⟩
  · obtain ⟨pt, a, o, tm, e⟩ := pump_eq (s.modPort _ fun pt => { pt with queue := pt.queue ++ [⟨f, k, c, w⟩] }) ‹Fin 64›
    exact ⟨pt, a, o, tm, by rw [e]; rfl⟩

@[simp] theorem enqueue_ctxs (s : State) (p f k c w) : (s.enqueue p f k c w).ctxs = s.ctxs := by
  obtain ⟨_, _, _, _, h⟩ := enqueue_eq s p f k c w; rw [h]
@[simp] theorem enqueue_ctx (s : State) (p f k c w) (d : Fin 8) : (s.enqueue p f k c w).ctx d = s.ctx d := by
  simp [State.ctx]
@[simp] theorem enqueue_regs (s : State) (p f k c w) : (s.enqueue p f k c w).regs = s.regs := by
  obtain ⟨_, _, _, _, h⟩ := enqueue_eq s p f k c w; rw [h]
@[simp] theorem enqueue_reg (s : State) (p f k c w o) : (s.enqueue p f k c w).reg o = s.reg o := by
  simp [State.reg]
@[simp] theorem enqueue_hng (s : State) (p f k c w) : (s.enqueue p f k c w).hng = s.hng := by
  obtain ⟨_, _, _, _, h⟩ := enqueue_eq s p f k c w; rw [h]
@[simp] theorem enqueue_tiles (s : State) (p f k c w) : (s.enqueue p f k c w).tiles = s.tiles := by
  obtain ⟨_, _, _, _, h⟩ := enqueue_eq s p f k c w; rw [h]

end Sys2Proof.Machine
end

