-- ==== Sys2Proof/Laws/Memory.lean ====
section
/-! SUPPORT. Byte memory: a read after a write, the bytes a write leaves, and the canonical form that every operation
keeps. -/

namespace Sys2Proof.Machine.Memory

/-- The canonical form as a fact about the list: addresses strictly rise and no listed byte is zero. -/
theorem wf_iff (m : Mem) : wf m = true ↔ m.Pairwise (fun x y => x.1 < y.1) ∧ ∀ c ∈ m, c.2 ≠ 0 := by
  induction m with
  | nil => simp [wf]
  | cons x m ih =>
    obtain ⟨k, b⟩ := x
    cases m with
    | nil => simp [wf]
    | cons y m =>
      obtain ⟨k', b'⟩ := y
      rw [wf, Bool.and_eq_true, Bool.and_eq_true, ih, List.pairwise_cons (a := (k, b))]
      simp only [decide_eq_true_eq, bne_iff_ne, List.mem_cons, forall_eq_or_imp]
      constructor
      · rintro ⟨⟨hk, hb⟩, hp, hb', hm⟩
        exact ⟨⟨⟨hk, fun z hz => Nat.lt_trans hk ((List.pairwise_cons.mp hp).1 z hz)⟩, hp⟩, hb, hb', hm⟩
      · rintro ⟨⟨⟨hk, _⟩, hp⟩, hb, hb', hm⟩
        exact ⟨⟨hk, hb⟩, hp, hb', hm⟩

theorem read_put_eq (m : Mem) (a : Nat) (b : Byte) : read (put m a b) a = b := by
  induction m with
  | nil => simp [put, read]
  | cons x m ih =>
    obtain ⟨k, c⟩ := x
    simp only [put]
    split
    · simp [read]
    · split
      · simp [read]
      · rename_i h; simp [read, h, ih]

theorem read_put_ne (m : Mem) (a q : Nat) (b : Byte) (h : q ≠ a) : read (put m a b) q = read m q := by
  induction m with
  | nil => simp [put, read, h]
  | cons x m ih =>
    obtain ⟨k, c⟩ := x
    simp only [put]
    split
    · simp [read, h]
    · split
      · subst_vars; simp [read, h]
      · simp [read, ih]

theorem read_filter (m : Mem) (p : Nat → Bool) (q : Nat) :
    read (m.filter fun c => p c.1) q = if p q then read m q else 0 := by
  induction m with
  | nil => simp [read]
  | cons x m ih =>
    obtain ⟨k, c⟩ := x
    rw [List.filter_cons]
    by_cases hq : q = k
    · subst hq
      cases hp : p q <;> simp [read, ih, hp]
    · cases hp : p k <;> simp [read, ih, hq]

/-- A byte read after it is written. -/
@[simp] theorem read_write_eq (m : Mem) (a : Nat) (b : Byte) : read (write m a b) a = b := by
  unfold write
  split
  · rename_i h; rw [read_filter m (· != a)]; simp [h]
  · exact read_put_eq m a b

/-- A write leaves every other byte. -/
theorem read_write_ne (m : Mem) {a q : Nat} (b : Byte) (h : q ≠ a) : read (write m a b) q = read m q := by
  unfold write
  split
  · rw [read_filter m (· != a)]; simp [h]
  · exact read_put_ne m a q b h

/-- Writing bytes leaves every byte outside them. -/
theorem read_writeBytes_out (bs : List Byte) (m : Mem) {a q : Nat} (h : q < a ∨ a + bs.length ≤ q) :
    read (writeBytes m a bs) q = read m q := by
  induction bs generalizing m a with
  | nil => rfl
  | cons b bs ih =>
    simp only [List.length_cons] at h
    rw [writeBytes, ih _ (by omega), read_write_ne _ _ (by omega)]

/-- Bytes read after they are written. -/
theorem readBytes_writeBytes (bs : List Byte) (m : Mem) (a : Nat) : readBytes (writeBytes m a bs) a bs.length = bs := by
  induction bs generalizing m a with
  | nil => rfl
  | cons b bs ih =>
    rw [writeBytes, List.length_cons, readBytes, read_writeBytes_out bs _ (by omega), read_write_eq, ih]

/-- Clearing leaves zeros in its range and nothing else changed. -/
theorem read_clear (m : Mem) (a n q : Nat) : read (clear m a n) q = if a ≤ q ∧ q < a + n then 0 else read m q := by
  unfold clear
  rw [read_filter m fun k => !(decide (a ≤ k) && decide (k < a + n))]
  by_cases h : a ≤ q ∧ q < a + n
  · simp [h]
  · have : ¬(decide (a ≤ q) && decide (q < a + n)) = true := by simpa using h
    simp only [h, if_false]
    simp [this]

/-! ### The canonical form -/

theorem wf_filter {m : Mem} (p : Host.Cell → Bool) (h : wf m = true) : wf (m.filter p) = true := by
  rw [wf_iff] at *
  exact ⟨h.1.sublist List.filter_sublist, fun c hc => h.2 c (List.mem_filter.mp hc).1⟩

theorem mem_put {m : Mem} {a : Nat} {b : Byte} {c : Host.Cell} (h : c ∈ put m a b) : c = (a, b) ∨ c ∈ m := by
  induction m with
  | nil => exact .inl (by simpa [put] using h)
  | cons x m ih =>
    obtain ⟨k, d⟩ := x
    simp only [put] at h
    split at h
    · exact List.mem_cons.mp h
    · split at h
      · exact (List.mem_cons.mp h).imp id (List.mem_cons_of_mem _)
      · rcases List.mem_cons.mp h with h | h
        · exact .inr (h ▸ List.mem_cons_self)
        · exact (ih h).imp id (List.mem_cons_of_mem _)

theorem wf_put {m : Mem} {a : Nat} {b : Byte} (hb : b ≠ 0) (h : wf m = true) : wf (put m a b) = true := by
  rw [wf_iff] at *
  refine ⟨?_, fun c hc => (mem_put hc).elim (fun e => e ▸ hb) (h.2 c)⟩
  replace h := h.1
  induction m with
  | nil => simp [put]
  | cons x m ih =>
    obtain ⟨k, d⟩ := x
    have hp := List.pairwise_cons.mp h
    simp only [put]
    split
    · rename_i hk
      refine List.pairwise_cons.mpr ⟨fun z hz => ?_, h⟩
      rcases List.mem_cons.mp hz with e | e
      · rw [e]; exact hk
      · exact Nat.lt_trans hk (hp.1 z e)
    · split
      · rename_i _ hk
        exact List.pairwise_cons.mpr ⟨fun z hz => hk ▸ hp.1 z hz, hp.2⟩
      · rename_i h1 h2
        refine List.pairwise_cons.mpr ⟨fun z hz => ?_, ih hp.2⟩
        rcases mem_put hz with e | e
        · rw [e]; show k < a; omega
        · exact hp.1 z e

/-- A write keeps the canonical form. -/
theorem wf_write {m : Mem} (a : Nat) (b : Byte) (h : wf m = true) : wf (write m a b) = true := by
  unfold write
  split
  · exact wf_filter _ h
  · rename_i hb; exact wf_put hb h

theorem wf_writeBytes (bs : List Byte) {m : Mem} (a : Nat) (h : wf m = true) : wf (writeBytes m a bs) = true := by
  induction bs generalizing m a with
  | nil => exact h
  | cons b bs ih => exact ih _ (wf_write a b h)

theorem wf_writeLE {m : Mem} (a n v : Nat) (h : wf m = true) : wf (writeLE m a n v) = true := wf_writeBytes _ a h

theorem wf_clear {m : Mem} (a n : Nat) (h : wf m = true) : wf (clear m a n) = true := wf_filter _ h

theorem wf_copy {dst : Mem} (src : Mem) (a b n : Nat) (h : wf dst = true) : wf (copy dst src a b n) = true := by
  unfold copy
  have : ∀ (l : List Host.Cell) (m : Mem), wf m = true →
      wf (l.foldl (fun m c => write m (a + (c.1 - b)) c.2) m) = true := by
    intro l
    induction l with
    | nil => exact fun _ h => h
    | cons c l ih => exact fun m h => ih _ (wf_write _ _ h)
  exact this _ _ (wf_clear a n h)

/-- The memories of the state after reset have the canonical form: the replay ring's, and those of a tile, a context, a
window slot and the reset sample that nothing has written. -/
theorem wf_reset : wf State.reset.replayRing = true ∧ wf ({} : Tile).pad = true ∧ wf ({} : Ctx).mem = true ∧
    wf ({} : Window).staging = true ∧ wf State.reset.hng.sample = true := by decide

end Sys2Proof.Machine.Memory
end

