-- ==== Sys2Proof/Laws/Ring.lean ====
section
/-! SUPPORT. What consuming a ring entry can do: cited in place of the command server's definitions. -/

namespace Sys2Proof.Machine

variable {s t : State} {r : Fin 9} {e : RawEntry}

theorem vset_getElem_eq {α : Type} {n : Nat} (v : Vector α n) (i : Fin n) (x : α) : (vset v i x)[i] = x := by
  simp [vset]

theorem vset_getElem_ne {α : Type} {n : Nat} (v : Vector α n) (i j : Fin n) (x : α) (h : j ≠ i) : (vset v i x)[j] = v[j] := by
  have : i.1 ≠ j.1 := fun g => h (Fin.ext g.symm)
  simp [vset, this]

theorem vset_vset {α : Type} {n : Nat} (v : Vector α n) (i : Fin n) (x y : α) : vset (vset v i x) i y = vset v i y := by
  simp [vset]

theorem modRing_rings_eq (s : State) (r : Fin 9) (f : Ring → Ring) : ((s.modRing r f).rings[r]) = f (s.rings[r]) :=
  vset_getElem_eq _ _ _

theorem modRing_rings_ne (s : State) {r q : Fin 9} (f : Ring → Ring) (h : q ≠ r) :
    ((s.modRing r f).rings[q]) = s.rings[q] :=
  vset_getElem_ne _ _ _ _ h

theorem modRing_modRing (s : State) (r : Fin 9) (f g : Ring → Ring) :
    (s.modRing r f).modRing r g = s.modRing r fun x => g (f x) := by
  have : (s.modRing r f).rings[r] = f s.rings[r] := modRing_rings_eq s r f
  unfold State.modRing vmod at *
  simp only [vset_vset]
  rw [this]

theorem modRing_congr (s : State) (r : Fin 9) {f g : Ring → Ring} (h : f s.rings[r] = g s.rings[r]) :
    s.modRing r f = s.modRing r g := by
  unfold State.modRing vmod; rw [h]

theorem vset_id {α : Type} {n : Nat} (v : Vector α n) (i : Fin n) : vset v i v[i] = v := by
  ext j hj
  by_cases h : i.1 = j
  · subst h; simp [vset]
  · simp [vset]

theorem modRing_id (s : State) (r : Fin 9) : s.modRing r id = s := by
  simp only [State.modRing, vmod, id, vset_id]

theorem modNth_append {α : Type} (l : List α) (x : α) (f : α → α) : modNth (l ++ [x]) l.length f = l ++ [f x] := by
  induction l with
  | nil => rfl
  | cons y l ih => simp [modNth, ih]

/-- With every ring's commands begun and no cut due, the server does nothing. -/
theorem serveRings_begun (n : Nat) (h : ∀ r : Fin 9, (s.rings[r]).cmds.all Cmd.begun = true) :
    State.serveRings n s = s := by
  cases n with
  | zero => rfl
  | succ n =>
    have : ((fins 9).findSome? fun r => (s.startable r).map fun k => (r, k)) = none := by
      simp [List.findSome?_eq_none_iff, fun r => startable_none r (h r)]
    simp only [State.serveRings, this]

/-- The entry's command is consumed and starts: what is left is to dispatch it. -/
theorem serve_consume (h : Taken s r e) : ∃ n, (s.consume r e).serve =
    State.serveRings n ((s.began r e).dispatch r (s.startedCmd r e)) := by
  obtain ⟨-, ⟨hb, hd⟩, ⟨hl, hr⟩, hen, hrun, hpw, hop, hne, hcl, hhold, hfl, hg⟩ := h
  let k0 : Cmd := { entry := e, early := s.startsEarly r e.opcode }
  let s1 : State := s.modRing r fun x => { x with head := x.head + 1, cmds := x.cmds ++ [k0] }
  have h1 : s.consume r e = s1 := by
    have hh : State.startsEarly (s.modRing r fun x => { x with head := x.head + 1 }) r e.opcode = s.startsEarly r e.opcode :=
      rfl
    unfold State.consume
    simp only [hen, hr, hrun, hop, Bool.not_true, Bool.false_and, Bool.or_false, Bool.false_eq_true, if_false]
    rw [hh, modRing_modRing]
  rw [h1]
  have hcap : ∀ l : List (Fin 8), l.foldl State.tryCapo s1 = s1 := by
    intro l
    induction l with
    | nil => rfl
    | cons c l ih =>
      rw [List.foldl_cons, s1.tryCapo_none c (hd c), ih]
  have hl1 : (s1.rings[r]).cmds = (s.rings[r]).cmds ++ [k0] := by
    rw [show s1.rings[r] = _ from modRing_rings_eq s r _]
  have hst : s1.startable r = some ((s.rings[r]).cmds.length, k0) := by
    unfold State.startable
    rw [hl1]
    simp only [List.length_append, List.length_singleton, List.range_succ, List.findSome?_append]
    refine (congrArg₂ Option.or (List.findSome?_eq_none_iff.mpr fun i hi => ?_) rfl).trans ?_
    · have hi' : i < (s.rings[r]).cmds.length := List.mem_range.mp hi
      have hi2 : ((s.rings[r]).cmds ++ [k0])[i]? = some ((s.rings[r]).cmds[i]) := by
        rw [List.getElem?_append_left hi', List.getElem?_eq_getElem hi']
      have : ((s.rings[r]).cmds[i]).begun = true := List.all_eq_true.mp (hb r) _ (List.getElem_mem hi')
      rw [hi2]
      simp only [this, Bool.not_true, Bool.false_and, Bool.false_eq_true, if_false]
    have e2 : s1.mayStart r ((s.rings[r]).cmds ++ [k0]) (s.rings[r]).cmds.length k0 = true := by
      have hrun1 : s1.hng.running = false := hrun
      have hhold1 : ∀ c, (s1.ctx c).ckpt.holding = (s.ctx c).ckpt.holding := fun _ => rfl
      unfold State.mayStart
      simp only [hrun1, Bool.false_eq_true, if_false]
      by_cases he : s.startsEarly r e.opcode = true
      · have : k0.early = true := he
        by_cases hrl : k0.reloads = true
        · obtain ⟨h1, h2⟩ := hhold (by simpa [Cmd.reloads, k0] using hrl) he
          simp [this, hhold1, h1]
          exact .inr fun j hj _ => h2 j hj
        · simp [this, hrl]
      · have : k0.early = false := by simpa [k0] using he
        simp only [this, Bool.false_eq_true, if_false]
        have hdrop : (((s.rings[r]).cmds ++ [k0]).drop ((s.rings[r]).cmds.length + 1)) = [] := by simp
        rw [hdrop]
        simp only [List.any_nil, Bool.false_eq_true, if_false]
        rcases hcl with h | h | h
        · rw [h]
          by_cases ho : opConcurrent k0.entry.opcode = true
          · rw [if_pos ho]; rfl
          · rw [if_neg ho]; rfl
        · have : opConcurrent k0.entry.opcode = true := h
          rw [if_pos this, List.take_left']
          · exact hb r
          · rfl
        · exact absurd h he
    have e3 : k0.begun = false := rfl
    have e4 : ((s.rings[r]).cmds ++ [k0])[(s.rings[r]).cmds.length]? = some k0 := by simp
    simp only [List.findSome?_cons, List.findSome?_nil, Option.none_or]
    rw [e4]
    simp only [e2, e3, Bool.not_false, Bool.and_true, if_true]
  have hother : ∀ q : Fin 9, q ≠ r → s1.startable q = none := by
    intro q hq
    exact startable_none q (by rw [show s1.rings[q] = s.rings[q] from modRing_rings_ne s _ hq]; exact hb q)
  have hfind : ((fins 9).findSome? fun q => (s1.startable q).map fun k => (q, k)) =
      some (r, (s.rings[r]).cmds.length, k0) := by
    have : ∀ l : List (Fin 9), r ∈ l → (l.findSome? fun q => (s1.startable q).map fun k => (q, k)) =
        some (r, (s.rings[r]).cmds.length, k0) := by
      intro l hm
      induction l with
      | nil => cases hm
      | cons q l ih =>
        rw [List.findSome?_cons]
        by_cases hq : q = r
        · subst hq; rw [hst]; rfl
        · rw [hother q hq]
          exact ih (by simpa [Ne.symm hq] using hm)
    exact this _ (List.mem_finRange r)
  have hstart : s1.startCmd r (s.rings[r]).cmds.length k0 = (s.began r e).dispatch r (s.startedCmd r e) := by
    let s2 : State := s.modRing r fun x => { x with head := x.head + 1, cmds := x.cmds ++ [s.startedCmd r e] }
    have h2 : (s1.modRing r fun x => { x with cmds := modNth x.cmds (s.rings[r]).cmds.length fun _ => s.startedCmd r e }) = s2 := by
      rw [show s1 = s.modRing r _ from rfl, modRing_modRing]
      exact modRing_congr s r (by simp only [modNth_append])
    have hk : (s.startedCmd r e).entry = e := rfl
    have h3 : s1.startCmd r (s.rings[r]).cmds.length k0 =
        (if (opCritical e.opcode != bitAt e.flags 0) = true then s2.finish r (s.startedCmd r e) Status.badParam
          else if opCritical e.opcode = true then s2.authenticate r (s.startedCmd r e)
          else s2.dispatch r (s.startedCmd r e)) := by
      rw [← h2]; rfl
    rw [h3, hfl]
    simp only [bne_self_eq_false, Bool.false_eq_true, if_false]
    by_cases hc : opCritical e.opcode = true
    · obtain ⟨key, hkey, htag, hctr, hceil⟩ := hg hc
      have hr2 : s2.rings[r] = { s.rings[r] with
          head := (s.rings[r]).head + 1, cmds := (s.rings[r]).cmds ++ [s.startedCmd r e] } :=
        modRing_rings_eq s r _
      simp only [hc, if_true]
      unfold State.authenticate
      rw [hr2]
      simp only [hkey, hk, htag, ne_eq, not_true_eq_false, if_false]
      unfold State.acceptCounter
      simp only [hr2, hk]
      rw [if_neg (Nat.not_le.mpr hctr), if_neg (by exact Nat.not_lt.mpr hceil)]
      have hset : s2.setPhase r (s.startedCmd r e) .started = s2 := by
        unfold State.setPhase
        have : ∀ l : List Cmd, (l.map fun j => if j = s.startedCmd r e then { s.startedCmd r e with phase := .started } else j) = l := by
          intro l
          have : (fun j : Cmd => if j = s.startedCmd r e then { s.startedCmd r e with phase := .started } else j) = id := by
            funext j; by_cases h : j = s.startedCmd r e
            · rw [if_pos h, h]; rfl
            · rw [if_neg h]; rfl
          rw [this, List.map_id]
        exact (modRing_congr s2 r (g := id) (by simp only [this]; rfl)).trans (modRing_id s2 r)
      rw [hset]
      simp only [s2, modRing_modRing, State.began, State.took, hc, if_true]
      rfl
    · simp only [hc, Bool.false_eq_true, if_false]
      simp only [s2, State.began, State.took, hc, Bool.false_eq_true, if_false, modRing_modRing]
  refine ⟨((fins 9).map fun r => (s1.rings[r]).cmds.length).sum, ?_⟩
  unfold State.serve
  simp only [hcap, State.serveRings, hfind, hstart]

end Sys2Proof.Machine
end

