-- ==== Sys2Proof/Tests/Slice0.lean ====
section
/-! SUPPORT. Tests. Every theorem witness_X shows states and operands that meet the hypotheses of Obligations.X; where a clause rests on
an opaque check of Config (a signature, a certificate chain, an image) the witness takes the check as a hypothesis, or leaves it
out and says so. Every theorem test_X runs a worked example of the spec, named in its comment. -/

set_option Elab.async false

namespace Sys2Proof.Tests
open Sys2Proof.Machine

/-! ### Small states -/

/-- Bring-up done, the host link up. -/
def live : State := { State.reset with
  boot := { order := 10 }, pins := { coldResetN := true, regOffN := true, linkUp := true } }

/-- A scroll with the listed sections, section `ty` at byte 4096 x ty, and fields (byte, length, value). -/
def scroll (tys : List (Nat × Nat)) (fields : List (Nat × Nat × Nat)) : Scroll :=
  let m := Memory.writeLE [] 16 4 tys.length
  let m := tys.zipIdx.foldl (fun m e => Memory.writeLE (Memory.writeLE (Memory.writeLE m (64 + 32 * e.2) 2 e.1.1)
    (64 + 32 * e.2 + 4) 4 e.1.2) (64 + 32 * e.2 + 8) 8 (4096 * e.1.1)) m
  ⟨fields.foldl (fun m f => Memory.writeLE m f.1 f.2.1 f.2.2) m, 0, []⟩

/-- Context 0 as given, on region 0, which is supplied. -/
def withCtx (x : Ctx) : State := { live with
  ctxs := vset live.ctxs 0 x, regions := vset live.regions 0 { state := .active } }

/-- A handle-table word: base, size, view, valid, writable by every slot. -/
def handle (base size view : Nat) : Nat := base + size * 2 ^ 10 + view * 2 ^ 20 + 2 ^ 23 + 0xFF * 2 ^ 24

/-- A scratchpad with a wide handle 1 of lines 4 to 7 and a narrow handle 2 of lines 8 to 11. -/
def pad : Mem := Memory.writeLE (Memory.writeLE [] 4 4 (handle 4 3 0)) 8 4 (handle 8 3 1)

/-- A tile in which slot 1 is READY with 5 in s3, the wide handle in s4, the narrow one in s5 and 2 in s6. -/
def tile : Tile :=
  let slot : Slot := { state := .ready, regs := #v[0, 0, 0, 5, 0x4000000, 0x8000000, 2, 0, 0, 0, 0, 0, 0, 0, 0, 0] }
  { pad := pad, stopped := false, slots := vset (Vector.replicate 8 {}) 1 slot }

/-- That tile, or a variation of it, runs in context 0. -/
def running (x : Tile) (c : Ctx) : State := { withCtx { c with state := .running, hquota := 8 } with tiles := [(0, x)] }

theorem witness_ScalarResults : Issues (running tile {}) 0 1 ∧ (BitVec.ofNat 54 (2 ^ 50) : Fields).extractLsb' 32 6 = 0 ∧
    ((BitVec.ofNat 54 (6 * 2 ^ 38) : Fields).extractLsb' 38 3).toNat = 6 ∧ (BitVec.ofNat 54 (2 ^ 32) : Fields).extractLsb' 32 6 ≠ 0 := by
  decide +kernel

/-- A shift by zero and by one, and groups of four INT4 and two INT8 products. -/
theorem witness_IntegerLanesSaturate : Issues (running tile {}) 0 1 ∧ (BitVec.ofNat 54 (2 ^ 50) : Fields).extractLsb' 32 6 = 0 ∧
    (0 : Int) ≤ (1 : Word).toInt ∧ (List.replicate 4 ((8 : Nat), (8 : Nat))).length ≤ 4 ∧
    (List.replicate 2 ((128 : Nat), (128 : Nat))).length ≤ 2 := by
  decide +kernel

/-- `f` names s3 and event 0 with TARGET 1,535, the last index of the store. -/
theorem witness_ControlFlow :
    let f : Fields := BitVec.ofNat 54 (1535 * 2 ^ 43 + 3 * 2 ^ 39)
    let x := { tile with events := vset tile.events 0 1, waiters := vset tile.waiters 0 1 }
    Issues (running x {}) 0 1 ∧ f.extractLsb' 0 35 = 0 ∧ (f.extractLsb' 43 11).toNat ≤ 1535 ∧
      x.events[(f.extractLsb' 35 4).toFin] ≠ 255 ∧ x.waiters[(f.extractLsb' 35 4).toFin] = 1 ∧
      x.events[(f.extractLsb' 35 4).toFin] ≠ 0 ∧ x.waiters[(1 : Fin 16)] ≠ 1 ∧ (1 : Fields).extractLsb' 0 35 ≠ 0 ∧ tile.events[(0 : Fin 16)] = 0 ∧ tile.waiters[(0 : Fin 16)] = 0 ∧
      Issues (running { tile with waiters := vset tile.waiters 0 1, events := vset tile.events 1 255 } {}) 0 1 ∧
      ((BitVec.ofNat 54 (1536 * 2 ^ 43) : Fields).extractLsb' 43 11).toNat = 1536 ∧
      (BitVec.ofNat 54 (1536 * 2 ^ 43) : Fields).extractLsb' 0 35 = 0 := by
  decide +kernel

theorem witness_LoadAndStore :
    let f : Fields := BitVec.ofNat 54 (5 * 2 ^ 46 + 3 * 2 ^ 50)
    let s := running tile {}
    Issues s 0 1 ∧ f.extractLsb' 0 46 = 0 ∧ tile.resolve (s.hquotaOf 0) ((s.slotOf 0 1).value 5) false 4 .read = .ok 512 ∧
      tile.resolve (s.hquotaOf 0) ((s.slotOf 0 1).value 5) false 4 (.write 1) = .ok 512 ∧
      tile.interlocked 1 false [⟨512, 1⟩] [] = false ∧ tile.interlocked 1 false [] [⟨512, 1⟩] = false ∧
      tile.badWord 128 = false ∧ (1 : Fields).extractLsb' 0 46 ≠ 0 ∧
      tile.resolve (s.hquotaOf 0) (BitVec.ofNat 32 (4 * 2 ^ 26)) false 4 .read = .handle ∧
      tile.resolve (s.hquotaOf 0) (BitVec.ofNat 32 (4 * 2 ^ 26)) false 4 (.write 1) = .handle ∧
      (let c : UnitCmd := ⟨1, 0, 0, 0, 0, 512, 1, 0, [], [⟨512, 1⟩], none⟩
       let x := { tile with vectorQ := [c] }
       Issues (running x {}) 0 1 ∧ x.interlocked 1 false [⟨512, 1⟩] [] = true ∧ x.interlocked 1 false [] [⟨512, 1⟩] = true) := by
  decide +kernel

/-- The tile with string `n` as given. -/
def stringed (n : Fin 32) (y : Str) : Tile := { tile with strs := vset tile.strs n y }

/-- An inbound local string of one line from string 3 of tile (1, 0), and an outbound one. -/
def inbound : Str := { desc := BitVec.ofNat 64 (1 + 2 ^ 12 + 1 * 2 ^ 23 + 3 * 2 ^ 43) }
def outbound : Str := { desc := 3, credits := 1 }

/-- A post and a send of string 2, filled and read. -/
def posted : Post := ⟨1, 0, 256, [0], true, 7, none⟩
def sent : SendOp := ⟨1, 0, 0, 256, true, none⟩

/-- A chain of one unit stage between an IN stage on string 2 and an OUT stage on string 3, with rings in handle 1. -/
def chained : BitVec 512 :=
  BitVec.ofNat 512 (7 + 1 * 2 ^ 8 + 2 * 2 ^ 16 + 3 * 2 ^ 24 + 1 * 2 ^ 32 + 4 * 2 ^ 40 + 1 * 2 ^ 48 + 4 * 2 ^ 56
    + (5 * 2 ^ 60 + 6 * 2 ^ 54 + 3 * 2 ^ 30 + 1 * 2 ^ 50 + 1 * 2 ^ 46) * 2 ^ 128)

/-- The chain run: an iteration has come in, and one has left the unit. -/
def chainRun : ChainRun := ⟨1, 0, #v[0, 0, 0, 5, 0, 0, 0, 0, 0, 0, 0, 0, 0, 0, 0, 0], 2, [⟨256, 64, 4⟩, ⟨512, 64, 4⟩], [], [], [1, 0, 0], [1, 1, 0], pad, []⟩

/-- Edge stream 0 of side 0 of context 0: kind deep range, persistent, one line, its member tile (0, 0). -/
def edged (desc : Nat) : Scroll := scroll [(0xA, 1)] [(0xA000, 8, 128), (0xA008, 4, 1), (0xA080, 64, desc)]

theorem witness_StringCommands :
    let f : Fields := BitVec.ofNat 54 (2 * 2 ^ 49 + 4 * 2 ^ 44 + 3 * 2 ^ 40)
    let g : Fields := BitVec.ofNat 54 (4 * 2 ^ 44 + 3 * 2 ^ 40)
    Issues (running (stringed 2 inbound) {}) 0 1 ∧ f.extractLsb' 0 40 = 0 ∧ f.getLsbD 48 = false ∧
      inbound.valid = true ∧ inbound.outbound = false ∧ (stringed 2 inbound).chainUses 2 = false ∧ inbound.posts.length < inbound.outst ∧
      (stringed 2 inbound).resolve 8 0x4000000 true (64 * inbound.lines) (.write 1) = .ok 256 ∧
      (stringed 2 inbound).interlocked 1 false [] [⟨256, inbound.lines⟩] = false ∧ tileAt inbound.peerX inbound.peerY = some 1 ∧
      outbound.valid = true ∧ outbound.outbound = true ∧ outbound.credits ≠ 0 ∧ (stringed 2 outbound).chainUses 2 = false ∧
      (stringed 2 outbound).resolve 8 0x4000000 true (64 * outbound.lines) .read = .ok 256 ∧
      (stringed 2 outbound).interlocked 1 false [⟨256, outbound.lines⟩] [] = false ∧ posted.done = true ∧ sent.read = true ∧
      (let s := running { tile with chains := vset tile.chains 0 chained, chainsDone := vset tile.chainsDone 0 1 } {}
       Issues s 0 1 ∧ g.extractLsb' 0 40 = 0 ∧ chainValid chained = true ∧ (s.slotOf 0 1).value 3 ≠ 0 ∧
       ((s.slotOf 0 1).value 3).toNat ≤ 65535 ∧ (s.tile 0).chainsDone[(0 : Fin 4)] ≠ 0) := by
  decide +kernel

/-- What a string or a chain does not admit. -/
theorem witness_StringCommands_faults : (1 : Fields).extractLsb' 0 40 ≠ 0 ∧ ({} : Str).valid = false ∧
    ({ posts := [posted] } : Str).outst ≤ 1 ∧ ({} : Str).outbound = false ∧ ({} : Str).kind = 0 ∧
    3 < ((BitVec.ofNat 54 (4 * 2 ^ 49) : Fields).extractLsb' 49 5).toNat := by
  decide +kernel

/-- `send` with CHAIN: its rings resolve, and no earlier command holds what its stages touch. -/
theorem witness_StringCommands_chain :
    let s := running { tile with chains := vset tile.chains 0 chained } {}
    let rings : List ChainRing := [⟨256, 64, 4⟩, ⟨256, 64, 4⟩]
    let none_ := List.replicate 3 0
    let run := ChainRun.mk 1 0 (s.slotOf 0 1).regs 5 rings [] [] none_ none_ (Memory.copy [] (s.tile 0).pad 0 0 256) []
    let other := run.outside (s.tile 0) 8 chained 0
    let sp := rings.map fun g => Span.mk g.at_ (linesOf (g.size * g.slots))
    (match (s.tile 0).resolveRings 8 1 chained 2 with | .inr l => l == rings | .inl _ => false) = true ∧
      run.waits (s.tile 0) 8 chained 0 = false ∧ (s.tile 0).badWords.filter (fun b => decide (b < 64)) = [] ∧
      (s.tile 0).interlocked 1 false (sp ++ other.1) (sp ++ other.2) = false ∧ chainStages chained = 3 ∧ (s.tile 0).runs[(0 : Fin 4)].isNone ∧
      (BitVec.ofNat 54 (4 * 2 ^ 44 + 3 * 2 ^ 40) : Fields).extractLsb' 49 5 = BitVec.ofNat 5 0 := by
  decide +kernel

/-- `arm`: string 2 receives edge stream 0, a persistent one whose member stands at the end of its span. -/
theorem witness_StringCommands_arm :
    let z : Str := { desc := BitVec.ofNat 64 (1 + 2 ^ 2) }
    let s := running (stringed 2 z) { scroll := some (edged (1 + 2 * 2 ^ 2 + 2 ^ 4 + 2 ^ 16)) }
    let e := s.edgeOf 0 0 0
    Issues s 0 1 ∧ z.valid = true ∧ z.kind ≠ 0 ∧ s.ctxOf 0 = some 0 ∧ e.memberOf 0 = some 0 ∧ e.persist = true ∧
      ((s.ctx 0).member 0 0 0).arm = none ∧ (s.tile 0).resolve 8 0x4000000 true 64 .read = .ok 256 ∧
      (s.tile 0).interlocked 1 false [⟨256, 1⟩] [] = false ∧ (s.tile 0).badIn [⟨256, 1⟩] = none ∧
      Memory.readLE (s.tile 0).pad 256 64 = 0 := by
  decide +kernel

def Plan.isOk : Plan → Bool
  | .ok _ => true
  | _ => false

/-- A command of FP32 operands in handle 1 with 5 elements, and a tensor command of one block of FP16. -/
theorem witness_UnitCommandsQueue :
    let s := running { tile with loaded := 3 } {}
    let x := s.tile 0
    let z := s.slotOf 0 1
    let big : Tile := { tile with pad := Memory.writeLE pad 12 4 (handle 64 127 0) }
    let y : Slot := { regs := #v[0, 0, 0, 5, 0x4000000, 0x8000000, 2, 0xC000000, 0, 0, 0, 0, 0, 0, 0, 0] }
    let m : Fields := BitVec.ofNat 54 (2 * 2 ^ 50 + 2 * 2 ^ 46 + 7 * 2 ^ 37 + 7 * 2 ^ 33 + 7 * 2 ^ 29 + 1 * 2 ^ 21)
    let v : Fields := BitVec.ofNat 54 (1 * 2 ^ 50 + 1 * 2 ^ 46 + 4 * 2 ^ 42 + 4 * 2 ^ 38 + 4 * 2 ^ 34 + 3 * 2 ^ 30)
    Issues s 0 1 ∧ (∀ u : Fin 3, x.full ([.tensor, .vector, .function].getD u.1 .tensor) = false) ∧
      (∀ op : Fin 18, (match VOp.ofCode op.1 with
        | some o => Plan.isOk (planVector o x (x.resolver 8) 1 0 z.reg (word 5 op.1 v).toNat none none none)
        | none => false) = true) ∧
      Plan.isOk (planMma big (big.resolver 8) 1 0 y.reg (word 4 0 m).toNat none none none) = true ∧
      Plan.isOk (planFunction false false x (x.resolver 8) 1 0 z.reg (word 6 0 v).toNat none none none) = true ∧
      Plan.isOk (planFunction true false x (x.resolver 8) 1 0 z.reg (word 6 1 v).toNat none none none) = true ∧
      Plan.isOk (planFunction true true x (x.resolver 8) 1 0 z.reg (word 6 2 v).toNat none none none) = true := by
  decide +kernel

/-- A vector addition of 5 FP32 elements at the head of its queue. -/
def adding : UnitCmd :=
  ⟨1, 0, word 5 0 (BitVec.ofNat 54 (1 * 2 ^ 50 + 1 * 2 ^ 46)), 256, 256, 320, 5, 0, [⟨256, 1⟩], [⟨320, 1⟩], none⟩

theorem witness_UnitResultsLand :
    let x := { tile with vectorQ := [adding] }
    let s := running x {}
    Alive s ∧ s.unitsRun 0 = true ∧ x.queue .vector = [adding] ∧ adding.parity x (adding.results x) = none ∧
      ¬(fld adding.word.toNat 60 4 = 4 ∧ badMeta x.pad adding = true) := by
  decide +kernel

/-- Expert router table 1 of region 0 (one token, one submission, K = 1, two experts) and selection table 1 (SEL 1). -/
def services : Scroll := scroll [(0xB, 1)] [(0xB004, 4, 6400), (0xB044, 4, 6656), (0xB000 + 6402, 1, 1), (0xB000 + 6404, 2, 2),
  (0xB000 + 6406, 2, 1), (0xB000 + 6408, 2, 1), (0xB000 + 6410, 1, 1), (0xB000 + 6464 + 4, 4, 0x4000000), (0xB000 + 6472 + 4, 4, 0x4000000),
  (0xB000 + 6656, 1, 1), (0xB000 + 6659, 1, 3)]

theorem witness_ServiceSubmissions :
    let f : Fields := BitVec.ofNat 54 (1 * 2 ^ 50 + 4 * 2 ^ 46 + 6 * 2 ^ 42 + 7 * 2 ^ 38 + 4 * 2 ^ 34)
    let slot : Slot := { state := .ready, regs := #v[0, 0, 0, 5, 0x4000000, 0x8000000, 0x8000, 1, 0, 0, 0, 0, 0, 0, 0, 0] }
    let x := { tile with slots := vset tile.slots 1 slot }
    let s := running x { scroll := some services }
    Issues s 0 1 ∧ f.extractLsb' 0 34 = 0 ∧ (1 : Fields).extractLsb' 0 34 ≠ 0 ∧ s.routerTable 0 2 = none ∧ s.selectTable 0 2 = none ∧
      (s.slotOf 0 1).value 0 = 0 ∧ fld 0x8000 16 12 = 0 % 4096 ∧ x.resolve 8 0x4000000 true 8 .read = .ok 256 ∧
      x.interlocked 1 false (spanOf 256 8) [] = false ∧ x.badIn (spanOf 256 8) = none ∧
      s.routerTable 0 1 = some (services, 0xB000 + 6400) ∧
      batchBad (services.routerDesc (0xB000 + 6400)) ⟨0, 1, 0, 0, true, 0x4000000, readRecs x.pad 256 1⟩
        [⟨0, 1, 0, 0, true, 0x4000000, readRecs x.pad 256 1⟩] = none ∧
      s.selectTable 0 1 = some (1, 0, 0, 3) ∧ (⟨0, some ⟨0, 1, 0, 0x4000000, 1⟩, [(0, 0)], false⟩ : SelQuery).bad 1 = none := by
  decide +kernel

/-- Each clause at a boundary value: TARGET 1,536, a count of 255, the first unassigned code of COND, byte 0. -/
theorem witness_TaskFaults :
    let s := running { tile with pad := Memory.writeLE pad 0 4 0xFF000000, events := vset tile.events 0 255 } {}
    let x := s.tile 0
    let y : Tile := { tile with imem := [(0, BitVec.ofNat 64 (8 * 2 ^ 60))] }
    (Alive (running y {}) ∧ (running y {}).tileRuns 0 = true ∧ (y.settleRunning.pick).map Prod.fst = some 1 ∧ y.badFetch 0 = none ∧
      assigned (y.imem.getD 0 0).toNat = false) ∧
    Issues s 0 1 ∧ (1 : Fields).extractLsb' 0 35 ≠ 0 ∧ ((BitVec.ofNat 54 (1536 * 2 ^ 43) : Fields).extractLsb' 43 11).toNat = 1536 ∧
      (BitVec.ofNat 54 (1536 * 2 ^ 43) : Fields).extractLsb' 0 35 = 0 ∧ x.events[(0 : Fin 16)] = 255 ∧ x.waiters[(0 : Fin 16)] ≠ 1 ∧
      (BitVec.ofNat 54 (2 ^ 32) : Fields).extractLsb' 32 6 ≠ 0 ∧ ((BitVec.ofNat 54 (6 * 2 ^ 38) : Fields).extractLsb' 38 3).toNat = 6 ∧
      (1 : Fields).extractLsb' 0 46 ≠ 0 ∧ x.resolve (s.hquotaOf 0) (BitVec.ofNat 32 (4 * 2 ^ 26)) false 4 .read = .handle ∧
      x.resolve (s.hquotaOf 0) (BitVec.ofNat 32 (4 * 2 ^ 26)) false 4 (.write 1) = .handle ∧
      x.resolve (s.hquotaOf 0) 0 false 4 (.write 1) = .ok 0 := by
  decide +kernel

theorem witness_SourceLinesLeave :
    let q : SendOp := { sent with read := false }
    let x := stringed 2 { outbound with sends := [q] }
    let s := running x {}
    Alive s ∧ s.unitsRun 0 = true ∧ ((x.strs[(2 : Fin 32)]).sends.find? fun q => !q.read) = some q ∧ q.chain = none ∧
      x.badIn [⟨q.at_, (x.strs[(2 : Fin 32)]).lines⟩] = none := by
  decide +kernel

/-- Every stage of the chain is ready in turn. -/
theorem witness_ChainStagesIssue :
    let x := { tile with
      chains := vset tile.chains 0 chained, runs := vset tile.runs 0 (some chainRun)
      strs := vset (vset tile.strs 2 inbound) 3 outbound }
    let s := running x {}
    let w := fld chained.toNat 128 64
    Alive s ∧ s.tileRuns 0 = true ∧ chainStage chained 0 = some (.inp 2) ∧ chainStage chained 1 = some (.unit w) ∧
      chainStage chained 2 = some (.out 3) ∧ chainRun.ready 0 = some 1 ∧ chainRun.ready 1 = some 0 ∧
      chainRun.ready 2 = some 0 ∧ inbound.posts.length < inbound.outst ∧ 0 < outbound.credits ∧
      x.full (unitOf (fld w 60 4)) = false ∧ Plan.isOk (planVector .abs x (chainRun.resolver 8) 1 0 (Slot.reg { regs := chainRun.regs }) w (some ⟨256, 64⟩)
        (some ⟨512, 64⟩) (some ⟨0, 1, 0⟩)) = true ∧ (∀ j : Fin 3, chainRun.held x 8 chained 0 j.1 ((chainRun.ready j.1).getD 0) = false) ∧ x.interlocked 1 true [⟨256, 1⟩] [⟨512, 1⟩] = false := by
  decide +kernel

/-- A packet of context 0 for string 2, before the eject port's and the east port's route. -/
def packet : InFlight := ⟨0, 6, 0, ⟨1, 0, 0, 2, 0, true, 0, 0, 0, 0, 0, List.replicate 64 0⟩⟩

/-- The packet at the tile whose route entry of channel 1 is `r`. -/
def routed (r : Word) : State :=
  let x := stringed 2 { inbound with posts := [{ posted with done := false }] }
  { running { x with routes := vset tile.routes 1 r } {} with mesh := [packet] }

/-- Route entries that send channel 1 from the tile's port east and to the eject port. -/
def leaves : Word := 0x1000E
def ejects : Word := 0x10036

theorem witness_MeshForwarding :
    Alive (routed leaves) ∧ (routed leaves).routerRuns 0 = true ∧ (routed leaves).mesh[0]? = some packet ∧
      (routed leaves).mesh.findIdx? (fun g => g.tile == 0 && g.port == 6 && g.lane == 0) = some 0 ∧
      ((routed leaves).tile 0).routes[packet.pkt.ch.toFin] = leaves ∧ ((routed ejects).tile 0).routes[packet.pkt.ch.toFin] = ejects ∧
      leaves.getLsbD 16 = true ∧ (leaves.extractLsb' 0 3).toNat = 6 ∧ (leaves.extractLsb' 12 3).toNat = 0 ∧
      (hop 0 (leaves.extractLsb' 3 3).toNat).isSome = true ∧ (∀ r : Fin 48, ((routed leaves).regions[r]).state ≠ .lost) ∧
      ((routed ejects).ctx 0).state ≠ .free ∧ ejects.getLsbD 16 = true ∧ (ejects.extractLsb' 0 3).toNat = 6 ∧
      ejects.extractLsb' 3 3 = 6 ∧ (0 : Word).getLsbD 16 = false ∧ (routed ejects).ctxOf 0 = some 0 ∧
      ((routed ejects).ctx 0).gen = packet.pkt.gen := by
  decide +kernel

theorem witness_RouterBatches :
    let sub : RouterSub := ⟨0, 1, 0, 0, true, 0x4000000, [(0, 0x3F800000)]⟩
    let s := { running tile { scroll := some services } with routers := [(1, { subs := [sub] })] }
    let res := batchResults services (0xB000 + 6400) 0 [sub] (batchAssign (services.routerDesc (0xB000 + 6400)) [sub])
    Alive s ∧ (s.regions[(0 : Fin 48)]).state = .active ∧ s.routerTable 0 1 = some (services, 0xB000 + 6400) ∧
      batchClosed (services.routerDesc (0xB000 + 6400)) [sub] = true ∧ s.deliverBad res.1 res.2 = none ∧
      (let d := { s with routers := [(1, { subs := [sub], decided := true, writes := res.1, signals := res.2 })] }
       d.deliverParity res.1 = none ∧ d.deliverBad res.1 res.2 = none) := by
  decide +kernel

theorem witness_SelectionQueries :
    let q : SelQuery := ⟨0, some ⟨0, 1, 0, 0x4000000, 1⟩, [(0, 0)], false⟩
    let s := { running tile { scroll := some services } with selections := [(1, [q])] }
    let keys := chooseKeys 1 0 0 1 q.scores
    Alive s ∧ (s.regions[(0 : Fin 48)]).state = .active ∧ s.selectTable 0 1 = some (1, 0, 0, 3) ∧ q.complete = true ∧
      (let w : ServiceWrite := ⟨0, some (1, 0), 0x4000000, 136, leBytes 8 keys.length ++ keys.flatMap (leBytes 2)⟩
       s.deliverParity [w] = none ∧ s.deliverBad [w] [(0, 3)] = none) := by
  decide +kernel

/-- A byte string's field of eight bytes is the number it was written from. -/
theorem leAt_crc (v : BitVec 64) : leAt (leBytes 8 v.toNat) 0 8 = v.toNat := by
  have h : leAt (leBytes 8 v.toNat) 0 8 = leNat (leBytes 8 v.toNat) := by simp [leAt, leBytes]
  rw [h, leNat_leBytes, Nat.mod_eq_of_lt (by simpa using v.isLt)]

/-! ### Edge streams and the deep range -/

/-- Context 0 in a step, with a scroll. -/
def stepping (q : Scroll) (x : Ctx) : Ctx := { x with state := .running, scroll := some q, inStep := true, hquota := 8 }

/-- Port 0 is UP, its chiplet has a role, and nothing waits to leave. -/
def wired (x : Ctx) : State := { withCtx x with ports := vset live.ports 0 { state := .up }, plan := some (vset (Vector.replicate 16 0) 0 1) }

/-- A frame from engine 7 to all, for context 0. -/
def frame (flags : Byte) (stream offset : Nat) (payload : List Byte) : Frame :=
  ⟨0, flags, 0, 7, 0xFFFF, 0, 0, BitVec.ofNat 24 stream, 1, 0, BitVec.ofNat 64 offset, payload⟩

/-- The frame passes the receive checks of its type. -/
def arrives (s : State) (ty : Byte) (f : Frame) : Bool := decide (Arrives s 0 ty f)

/-- A segment of four pages at byte 2^21, a remote home at engine 7, its alternate engine 9. -/
def segment : List (Nat × Nat × Nat) :=
  [(0xC000, 4, 1), (0xC008, 8, 64), (0xC040, 8, 2 ^ 21), (0xC048, 4, 4), (0xC04C, 1, 1), (0xC04F, 1, 1), (0xC058, 2, 7), (0xC05A, 2, 9)]

def deep : Scroll := scroll [(0xC, 1)] segment

/-- An inbound member of the deep range; one of the fabric, stream 5 from engine 7; an outbound one. -/
def ofMemory : Nat := 1 + 2 * 2 ^ 2 + 8 * 2 ^ 16
def ofFabric : Nat := 1 + 3 * 2 ^ 2 + 8 * 2 ^ 16 + 5 * 2 ^ 280
def toMemory : Nat := 3 + 2 * 2 ^ 2 + 8 * 2 ^ 16

/-- Edge stream 0 of side 0, and the fabric entry that names engine 7 for it. -/
def streamed (desc : Nat) : Scroll := scroll [(0xA, 1), (0xC, 1)]
  ([(0xA000, 8, 128), (0xA008, 4, 1), (0xA080, 64, desc), (0xA050, 8, 96), (0xA058, 4, 1), (0xA064, 2, 7)] ++ segment)

theorem witness_MemberTransfers :
    let member : Member := { arrived := [{ seq := 0 }] }
    let s := fun d => withCtx (stepping (streamed d) { members := [(0, [(0, member)])] })
    let e := fun d => (s d).edgeOf 0 0 0
    let ok := fun d => Alive (s d) ∧ (s d).edgeCtx 0 0 = some 0 ∧ 0 < (e d).members ∧ (s d).edgeRuns 0 = true ∧ (e d).outbound = false ∧
      member.atEnd (e d) = false ∧ (e d).markCount = 0 ∧ member.next < member.sentDown + (e d).prefetch ∧ 0 < (e d).lines ∧
      (e d).lines ≤ 64 ∧ (s d).clkLost.getLsbD 32 = false ∧ ((s d).ctx 0).forcedCode 0 0 0 0 0 = none ∧ ((s d).ctx 0).member 0 0 0 = member
    ok ofMemory ∧ ok ofFabric ∧ (e ofMemory).kind = 2 ∧ (e ofFabric).kind = 3 := by
  decide +kernel

/-- The lines of the deep-range member can be read. -/
theorem witness_MemberTransfers_read :
    let q := streamed (ofMemory + 2 ^ 21 * 2 ^ 72)
    let s := withCtx (stepping q { members := [(0, [(0, { cur := some { seq := 0 } })])], pages := [(1, { state := .resident })] })
    let e := s.edgeOf 0 0 0
    (match State.readLines 0 q ((e.memberTile 0).map regionOf) ((pieceLines e.lines 0).map fun i => e.lineAddr (e.memberBase 0) 0 i) [] s with
      | (.done bs, t) => bs.length == 64 && (t.ctx 0).member 0 0 0 == { cur := some { seq := 0 } }
      | _ => false) = true := by
  decide +kernel

theorem witness_TransfersComplete :
    let x := stringed 2 { desc := 1, posts := [{ posted with done := false }] }
    let s := running x {}
    let d := withCtx (stepping (streamed toMemory) { members := [(0, [(0, { next := 1 })])] })
    Alive s ∧ s.unitsRun 0 = true ∧ posted.got.length = (x.strs[(2 : Fin 32)]).lines ∧ (x.strs[(2 : Fin 32)]).kind = 0 ∧
      Alive d ∧ d.edgeCtx 0 0 = some 0 ∧ (d.edgeOf 0 0 0).outbound = true ∧ (d.edgeOf 0 0 0).kind ≠ 3 ∧
      ((d.ctx 0).member 0 0 0).done < ((d.ctx 0).member 0 0 0).next ∧ (d.edgeOf 0 0 0).memberTile 0 = some 0 := by
  decide +kernel

/-- Half of the transfer of one line, and all of it. -/
theorem witness_DataFrames :
    let s := wired (stepping (streamed ofFabric) {})
    let e := s.edgeOf 0 0 0
    let f := frame 0 5 0 (List.replicate 32 1)
    arrives s 0x01 f = true ∧ arrives s 0x01 (frame 1 5 0 (List.replicate 64 1)) = true ∧ e.valid = true ∧ e.outbound = false ∧ e.kind = 3 ∧
      e.fstream = f.stream.toNat ∧ (streamed ofFabric).fabric = [(0, 0, 0, 7)] ∧ 0 < e.members ∧ e.lines = 1 := by
  decide +kernel

theorem witness_WriteBackAnswers :
    let s := wired (stepping deep { pages := [(1, { state := .resident, flying := 2 })] })
    let f := frame 0 0 (2 ^ 16) []
    let y := (s.ctx 0).page deep 1
    arrives s 0x24 { f with flags := 4 } = true ∧ arrives s 0x24 f = true ∧
      (s.ctx 0).pageAt deep 0 (fun _ g => g.sources.contains f.source.toNat) = some 1 ∧
      (deep.segOf 1).map (·.src0) = some 7 ∧ y.flying.getLsbD 1 = true ∧ y.flying1.getLsbD 1 = false ∧ y.snap = false ∧
      y.state = .resident ∧ (s.ctx 0).ckpt.homeCopies.get? 1 = none := by
  decide +kernel

/-- The first bytes of a page, its error, and the request that meets DEADLINE. -/
theorem witness_PageFetches :
    let s := wired (stepping deep { fetches := [(1, {})] })
    let f := frame 0 0 0 (List.replicate 64 1)
    arrives s 0x21 f = true ∧ f.isEnd = false ∧ (s.ctx 0).fetchOf deep f = some (1, {}) ∧ arrives s 0x22 f = true ∧
      2 ≤ ((deep.segOf 1).map (·.sources.length)).getD 0 ∧
      (let m : Member := { stop := .fetch 1, cur := some { seq := 0 } }
       let d := withCtx (stepping (streamed ofMemory) { members := [(0, [(0, m)])], fetches := [(1, {})] })
       Alive d ∧ d.rfld Reg.memCtrl 0 14 ≠ 0 ∧ (d.edgeOf 0 0 0).outbound = false) := by
  decide +kernel

/-- The END frame after the last byte: its payload is the CRC-64 of the page as fetched. -/
theorem witness_PageFetches_end :
    let t : Fetch := { next := 2 ^ 21 }
    let s := wired (stepping deep { fetches := [(1, t)] })
    let crc := (crc64 (Memory.readBytes t.bytes 0 (2 ^ 21))).toNat
    let f := frame 1 0 (2 ^ 21) (leBytes 8 crc)
    (f.isEnd = true ∧ t.next = 2 ^ 21 ∧ (s.ctx 0).bg = none ∧ f.wf = true ∧ (s.ctx 0).fetchEnd deep f = some (1, t)) ∧
      crc = leAt f.payload 0 8 := by
  exact ⟨by decide +kernel, (leAt_crc _).symm⟩

/-- Windows of 10^10 bytes: spread evenly enough, and all on one channel, before the last of a run and at it. -/
theorem witness_MemoryUpkeep :
    let s := fun (r : Nat) => withCtx (stepping deep { imbRun := r, rekeying := true, pages := [(1, { state := .resident, key := true })] })
    let w := (s 0).rfld Reg.memCtrl 14 7
    let all := 10000000000
    let even := 10000000000 / 100
    ((s 0).ctx 0).stoppedOn deep 1 = false ∧ ((s 0).ctx 0).pages.get? 1 = some { state := .resident, key := true } ∧ ((s 0).ctx 0).inStep = true ∧
      ((s 0).ctx 0).cleared = [] ∧ Alive (s 0) ∧ 10000000000 ≤ all ∧ ¬(w * (100 * even) < even * 16 * (32 * deep.stacks.length)) ∧
      w * all < all * 16 * (32 * deep.stacks.length) ∧ 8 + 1 < (s 8).rfld Reg.memCtrl 21 8 ∧ (s 9).rfld Reg.memCtrl 21 8 = 9 + 1 ∧
      (deep.segOf 1).isSome = true ∧ (∀ k, (s 0).stackServes k = true) ∧
      (((s 0).ctx 0).pages.filter fun e => e.2.state == .resident && e.2.key != ((s 0).ctx 0).keySel) = [(1, { state := .resident, key := true })] ∧
      (let q := scroll [(0xC, 1)] [(0xC004, 4, 1), (0xC018, 8, 64), (0xC040, 8, 2 ^ 21), (0xC048, 8, 2 ^ 16)]
       q.wides[0]? = some (2 ^ 21, 2 ^ 16) ∧ (({} : Ctx).page q 1).framed = false) := by
  decide +kernel

/-! ### Weights and reduction -/

/-- One STORE tensor 4 of one shard, from engine 7 and the weight server 9 of its source list. -/
def weights : Scroll := scroll [(0xD, 1)] [(0xD000, 4, 1), (0xD008, 8, 64), (0xD010, 8, 256), (0xD040, 2, 4), (0xD04C, 4, 1), (0xD050, 4, 1),
  (0xD054, 4, 1), (0xD100, 1, 1), (0xD102, 2, 7), (0xD104, 1, 2), (0xD106, 2, 9), (0xD108, 1, 0xFF), (0xD10C, 1, 0xFF), (0xD110, 2, 0xFFFF), (48, 4, 1)]

/-- Version 3 in bank 0, in a state. -/
def bank (k : Bank) : Ctx := { stepping weights {} with banks := vset (Vector.replicate 2 {}) 0 { k with version := 3 } }

/-- The shard being obtained from an entry of the source list. -/
def obtain_ (idx : Nat) : Obtain := { version := 3, tensor := 4, shard := 0, idx := idx }

/-- A shard frame: VERSION 3, four reserved bytes, data. -/
def shardFrame (flags : Byte) (payload : List Byte) : Frame := frame flags 4 0 ([3, 0, 0, 0, 0, 0, 0, 0] ++ payload)

/-- Before the end of the list and at it, before HOLD_LIMIT and past it; and each frame's clause. -/
theorem witness_ShardSources :
    let o := obtain_ 0
    let s := fun (o : Obtain) (t : Nat) => { wired { bank { state := .ready } with obtains := [o] } with boot := { order := 10, elapsed := t } }
    let x := fun o => ((s o 0).ctx 0)
    let list := fun (l : Layout) => (weights.sources l.srclist).1
    (match (s o 0).obtainAt 0 o with
      | some (q, l, b) => q == weights && b == 0 && l.side ≤ 3 && l.tensor == 4 && list l == [(1, 7), (2, 9)]
      | none => false) = true ∧
      (x o).waiting 4 0 = [o] ∧ (x (obtain_ 1)).waiting 4 0 = [obtain_ 1] ∧ Alive (s o 0) ∧
      (0 : Nat) + (s o 0).rfld Reg.wstCtrl 20 8 * 100000000 = (s { o with firstFail := some 0 } 2000000000).phys ∧
      (∀ b : Fin 2, ((x o).banks[b]).state ≠ .building) ∧ (x o).late = [] ∧ (x o).pushes = [] ∧ ((x o).banks[(0 : Fin 2)]).stored = [] ∧
      ((x { o with retry := true }).obtains.filter fun r => r.tensor == 4 && r.shard == 0 && r.retry) = [{ o with retry := true }] ∧
      arrives (s o 0) 0x11 (shardFrame 0 [1]) = true ∧ shardFields (shardFrame 0 [1]) = (3, 0, 0) ∧
      arrives (s o 0) 0x12 (shardFrame 1 []) = true ∧ arrives (wired (bank { state := .ready })) 0x13 (shardFrame 1 [1]) = true := by
  decide +kernel

theorem witness_PeerServices :
    let m := List.replicate 16 0 ++ leBytes 8 (crc64 [1, 2]).toNat ++ leBytes 4 2
    let s := wired (bank { state := .ready, stored := [(4, [1, 2])], manifest := m })
    let f := shardFrame 0 []
    arrives s 0x10 f = true ∧ shardKey f.stream.toNat (shardFields f).2.1 = 4 ∧ (s.ctx 0).bankOf 3 = some 0 ∧
      (s.ctx 0).banks[(0 : Fin 2)].copy weights 4 0 = some [1, 2] ∧ s.scroll? 0 = some weights ∧ (s.ctx 0).banks[(0 : Fin 2)].state = .ready ∧ Alive s ∧ (s.ctx 0).pending = none ∧
      (∀ e : Fin 2, ((s.ctx 0).banks[e].state ≠ .retiring ∧ (s.ctx 0).banks[e].state ≠ .bad) ∨ e = 0) := by
  decide +kernel

/-- The manifest of version 3: one shard of one line's bytes. -/
def manifest : List Byte := leBytes 4 0x4E414D57 ++ leBytes 4 3 ++ leBytes 4 1 ++ leBytes 4 0 ++ leBytes 8 0 ++
  leBytes 4 ((weights.layouts.map fun l => l.rawBytes 0).sum) ++ leBytes 4 0 ++ List.replicate 64 0

theorem witness_VersionsBuild :
    let o : Obtain := { version := 3, tensor := manifestTensor, shard := 0, idx := 0 }
    let s := wired { bank { state := .building, manifest := manifest.take 4 } with obtains := [o] }
    let f := { frame 1 0 4 ([3, 0, 0, 0] ++ manifest.drop 4) with source := 9 }
    (s.ctx 0).obtains.find? (fun r => r.version == 3 && r.tensor == manifestTensor && weights.manifestFrom r == some f.source) = some o ∧
      ((s.ctx 0).banks[(0 : Fin 2)]).pins = 0 ∧ (s.ctx 0).pending = none ∧ arrives s 0x15 f = true ∧ BitVec.ofNat 32 (leAt f.payload 0 4) = 3 ∧ f.offset.toNat = 4 ∧ (s.ctx 0).bankOf 3 = some 0 ∧
      (∀ e : Fin 2, e ≠ 0 → (s.ctx 0).banks[e].state ≠ .building) ∧ manifestOk weights 3 manifest = true ∧
      weights.storeShards.length = 1 := by
  decide +kernel

/-- A ring of engines 5 (this one), 7 and 9, and one target of one slice. -/
def ringed : Scroll := scroll [(0xA, 1), (0xE, 1)] [(0xE000, 1, 3), (0xE018, 4, 1), (0xE020, 8, 512), (0xE080, 2, 5), (0xE082, 2, 7), (0xE084, 2, 9),
  (0xE206, 2, 1), (0xE208, 2, 1), (0xE20E, 2, 0xFFFF)]

def reducing (engine : Nat) (r : RedLevel) : State :=
  { wired (stepping ringed { reds := [(0, r)] }) with regs := [(8, BitVec.ofNat 32 (engine + 2 ^ 16))] }

/-- A block of ones: as this engine's own values, and on the wire. -/
def ones : List Nat := List.replicate 32 0x3F800000
def wire : List Byte := (bsiQuantise 127 0 1 false false (ones.map val32) []).wire

/-- The first contributor, a hop and the owner of slice 0; the last block of the slice; an invalid element. -/
theorem witness_ReductionHops :
    let first := reducing 5 { own := [(0, ones)], agreed := [(0, 127)], preNext := 32 }
    let hop := fun engine b w => reducing engine { own := [(b, ones)], inReg := [(b, w)], next := b, preNext := 32 }
    let bad := { Bsi.ofBytes wire with m := List.replicate 32 0x8000 }.wire
    let t := ringed.targets[0]?.getD ⟨0, 0, 0, 0, 0, 0, false, 0, 0, 0, 0, 0⟩
    let ok := fun (s : State) (b : Nat) => Alive s ∧ t.slices = 1 ∧ (s.ctx 0).sliceOf ringed t b = some 0 ∧ s.inLevel ringed t 0 0 = true ∧
      s.ownValues 0 ringed 0 t 0 b = some ones ∧ s.solo 0 = false ∧
      (s.ctx 0).sliceOf ringed t ((s.ctx 0).red 0 0).preNext = none ∧ ((s.ctx 0).red 0 0).next = b
    let place := fun (s : State) => pathPlace 3 (s.ownerPos ringed t 0 0) (s.ringPos ringed 0)
    ok first 0 ∧ place first = 0 ∧ ok (hop 7 0 wire) 0 ∧ place (hop 7 0 wire) = 1 ∧ place (hop 9 0 wire) = 2 ∧ ringed.finalLevel = 0 ∧
      ok (hop 9 31 wire) 31 ∧ ((hop 9 31 wire).ctx 0).blockBase ringed t 1 = 32 ∧ (Bsi.ofBytes wire).allInvalid = false ∧
      (List.range 32).any (Bsi.ofBytes bad).invalidAt = true := by
  decide +kernel

/-- A reduction frame of entry 0, level 0 and block 0 of step 0, from an engine. -/
def redFrame_ (source offset : Nat) (payload : List Byte) : Frame := { frame 0 0 offset payload with source := BitVec.ofNat 16 source }

/-- Frames at engine 7, whose upstream neighbour is 5, one of them of step 1; the pre-pass at each place; a copy engine
9 holds. -/
theorem witness_ReductionFrames :
    let s := fun engine => reducing engine { own := [(31, ones)], preNext := 31 }
    let t := ringed.targets[0]?.getD ⟨0, 0, 0, 0, 0, 0, false, 0, 0, 0, 0, 0⟩
    let place := fun engine => ((s engine).ringPos ringed 0 + 2 * 3 - (s engine).ownerPos ringed t 0 0 - 2) % 3
    let up := fun engine => (s engine).after ringed 0 2
    let pre := fun engine => arrives (s engine) 0x31 (redFrame_ (up engine).toNat 31 [100])
    let notice := redFrame_ 9 0 (leBytes 2 5 ++ List.replicate 6 0)
    let k : Retained := { dest := 9, block := 0, wire := wire, prepass := false }
    up 5 = 9 ∧ up 7 = 5 ∧ up 9 = 7 ∧ place 7 = 0 ∧ place 9 = 1 ∧ place 5 = 2 ∧ pre 5 = true ∧ pre 7 = true ∧ pre 9 = true ∧
      arrives (s 7) 0x30 (redFrame_ 5 0 wire) = true ∧ arrives (s 7) 0x30 (redFrame_ 5 (2 ^ 40) wire) = true ∧
      splitBlocks 4096 wire = [wire] ∧ (s 5).ownValues 0 ringed 0 t 0 31 = some ones ∧ ((s 5).ctx 0).sliceOf ringed t 31 = some 0 ∧
      ((s 5).ctx 0).sliceOf ringed t 32 = none ∧ ringed.finalLevel = 0 ∧
      (s 5).solo 0 = false ∧ ringed.targets = [t] ∧ ringed.target? 0 = some t ∧ arrives (s 7) 0x32 notice = true ∧
      arrives (reducing 7 { retained := [k] }) 0x03 (redFrame_ 9 0 []) = true := by
  decide +kernel

/-- The last block of the slice, in the pre-pass of a slice of one block, and the receiver of a lowest copy passed over. -/
theorem witness_ReductionFrames_bypass :
    let t := ringed.targets[0]?.getD ⟨0, 0, 0, 0, 0, 0, false, 0, 0, 0, 0, 0⟩
    let k : Retained := { dest := 7, block := 0, wire := wire, prepass := false }
    let s := reducing 5 { retained := [k] }
    let s := s.modCtx 0 fun x => { x with redMode := true }
    Alive s ∧ s.scroll? 0 = some ringed ∧ ringed.target? 0 = some t ∧ (s.ctx 0).redMode = true ∧ (s.ctx 0).inStep = true ∧
      3 ≤ (ringed.ring 0).length ∧ ((s.ctx 0).red 0 0).retained = [k] ∧ k.dest = s.after ringed 0 1 ∧ s.after ringed 0 2 = 9 ∧
      ringed.posOf 0 k.dest ≠ s.ownerPos ringed t 0 (((s.ctx 0).sliceOf ringed t k.block).getD 0) := by
  decide +kernel

/-! ### Link and checkpoints -/

/-- Port 0 in a state. -/
def linked (pt : Port) : State := { live with ports := vset live.ports 0 pt }

/-- A frame in the replay buffer. -/
def kept (resent : Nat) : Replay := { seq := 5, frame := frame 0 0 0 [], resent := resent, ctx := none }

theorem witness_LinkTraining :
    let s := { linked { state := .down } with slots := vset live.slots 0 { state := .enabled } }
    Alive s ∧ s.mayTrain 0 = true ∧ (linked { state := .training, resync := true }).ports[(0 : Fin 64)].resync = true := by
  decide +kernel

/-- A frame sent 15 times again and 16 times; a number past the last one fenced; and a frame too short. -/
theorem witness_LinkFrames :
    let find := fun (n : Nat) => (linked { state := .up, replay := [kept n] }).ports[(0 : Fin 64)].replay.find? (fun r => r.seq == 5)
    find 15 = some (kept 15) ∧ find 16 = some (kept 16) ∧ Alive (linked {}) ∧ seqLe 3 4 = true ∧ (3 : Word) ≠ 4 ∧
      (linked { toAck := 1 }).ports[(0 : Fin 64)].toAck ≠ 0 ∧
      (let bytes := List.replicate 14 0 ++ leBytes 2 1 ++ List.replicate 21 0
       leAt bytes 14 2 = 1 ∧ (crc32c (slice bytes 32 1)).toNat ≠ leAt bytes 33 4) := by
  decide +kernel

/-- The expected frame and the one after it; one for engine 5; older and newer epochs; a context not loaded. -/
theorem witness_ReceiveChecks :
    let s := wired {}
    let pt := s.ports[(0 : Fin 64)]
    let f := frame 0 5 0 []
    Alive s ∧ f.wf = true ∧ pt.state = .up ∧ f.seq = pt.rx ∧ f.flags &&& 0xFC = 0 ∧ ¬({ f with seq := f.seq + 1 }.seq = pt.rx) ∧
      (linked { state := .down }).ports[(0 : Fin 64)].state = .down ∧ s.hng.running = false ∧ s.hng.fenced = false ∧
      f.dest = 0xFFFF ∧ ({ f with dest := 5 }.dest ≠ s.ident ∧ { f with dest := 5 }.dest ≠ 0xFFFF) ∧ f.epoch = s.hng.epoch ∧
      older s.hng.epoch (s.hng.epoch + 1) = true ∧ older (s.hng.epoch - 1) s.hng.epoch = true ∧ namesDest 0x11 = true ∧
      (s.ctx 0).loaded = false ∧ arrives (wired (stepping deep {})) 0x02 (frame 0 0 0 (leBytes 8 7 ++ leBytes 8 3)) = true ∧
      (∀ r : Fin 64, (wired (stepping deep {})).ports[r].queue = []) := by
  decide +kernel

/-- Partner and buddy 7, DSERVER 9, a buddy area of 2^31 bytes. -/
def ckpted : Scroll := scroll [(0xE, 1), (0x10, 1)] [(0xE014, 2, 7), (0x10000, 2, 7), (0x10002, 2, 7), (0x10004, 2, 9), (0x1000A, 2, 1)]

/-- Context 0 with a checkpoint in a state. -/
def cutting (k : Ckpt) : State := wired { stepping ckpted {} with ckpt := k }

/-- A checkpoint frame of an operation arrives. -/
def ckptArrives (s : State) (op : Nat) (f : Frame) : Bool := arrives s 0x40 { f with stream := BitVec.ofNat 24 op }

/-- A manifest of cut 0 with no shard, and one with a shard of one page written by engine 0. -/
def noShard : List Byte := leBytes 4 0x4D4B4350 ++ List.replicate 252 0
def oneShard : List Byte := leBytes 4 0x4D4B4350 ++ List.replicate 8 0 ++ leBytes 4 1 ++ List.replicate 240 0 ++ List.replicate 8 0 ++ leBytes 4 1 ++
  List.replicate 84 0

theorem witness_PartnerAreas :
    let s := fun y => cutting { area := y }
    let f := frame 0 0 0 [1]
    let e := frame 1 0 0 []
    let last := frame 1 0 0 noShard
    let y : BuddyArea := { state := .filling }
    let z : BuddyArea := { state := .valid, manifest := [1], pagesGot := NatSet.add [] 0 }
    ckpted.partner = 7 ∧ (2 : Nat) ^ 21 ≤ ckpted.buddyArea ∧ (pageArrived y.asm f).isSome = true ∧
      ckptArrives (s y) 0 f = true ∧ ckptArrives (s y) 0 (frame 1 0 (2 ^ 21) (leBytes 8 7)) = true ∧ ckptArrives (s y) 2 f = true ∧
      ckptArrives (s y) 3 f = true ∧ ckptArrives (s y) 3 last = true ∧ y.complete 7 noShard = true ∧ leAt noShard 8 4 % 2 ^ 16 = y.cut ∧
      ckptArrives (s y) 3 e = true ∧ ({ y with crcBad := true } : BuddyArea).complete 7 noShard = false ∧
      ckptArrives (s { y with crcBad := true }) 3 last = true ∧ ckptArrives (s y) 7 f = true ∧
      ckptArrives (s {}) 3 last = true ∧ manifestShards noShard = [] ∧ (∀ r : Fin 64, ((s {}).ports[r]).queue = []) ∧
      z.pagesGot.has 0 = true ∧ z.pagesGot.has 1 = false ∧ ckptArrives (s z) 7 (frame 0 0 0 (sha3_512 z.manifest)) = true ∧
      ckptArrives (s z) 7 (frame 0 0 (2 ^ 47) (sha3_512 z.manifest)) = true ∧ sha3_512 z.manifest = slice (sha3_512 z.manifest) 0 64 := by
  decide +kernel

/-- The END frame of a page carries the CRC-64 of its bytes. -/
theorem witness_PartnerAreas_page :
    let y : BuddyArea := { state := .filling, asm := [(0, 2 ^ 21)] }
    y.asm.getD 0 0 = 2 ^ 21 ∧ (crc64 (Memory.readBytes y.bytes (0 * 2 ^ 21) (2 ^ 21))).toNat =
      leAt (frame 1 0 (2 ^ 21) (leBytes 8 (crc64 (Memory.readBytes y.bytes (0 * 2 ^ 21) (2 ^ 21))).toNat)).payload 0 8 :=
  ⟨rfl, (leAt_crc _).symm⟩

theorem witness_DrainAcknowledgements :
    let d : Drain := { unacked := [0], sealWait := [7], manifestSent := true }
    let s := cutting { drain := some d, phase := 3 }
    Clear s ∧ ckpted.drainTo = 7 ∧ ckptArrives s 1 (frame 1 0 0 []) = true ∧ ckptArrives s 6 (frame 1 0 0 (List.replicate 8 0)) = true ∧
      ckptArrives s 4 (frame 1 0 0 [1]) = true ∧ ckptArrives s 4 (frame 1 0 0 [0]) = true ∧ ckpted.buddy ≠ 0xFFFF ∧
      (s.ctx 0).ckpt.cut.number % 2 ^ 16 = 0 ∧ ckptArrives s 10 (frame 1 0 0 [1]) = true := by
  decide +kernel

theorem witness_RestoreFrames :
    let r : Restore := { source := 1, digest := [] }
    let s := fun r => cutting { restore := some r }
    let f := fun flags offset payload => frame flags 0 offset payload
    Clear (s r) ∧ Alive (s r) ∧ ckpted.restoreFrom 1 = 7 ∧ ckptArrives (s r) 8 (f 0 (2 ^ 47) [1]) = true ∧
      ckptArrives (s r) 8 (f 1 (2 ^ 47) (leBytes 8 (crc64 r.manifest).toNat)) = true ∧ sha3_512 r.manifest ≠ r.digest ∧
      (crc64 r.manifest).toNat = leAt (leBytes 8 (crc64 r.manifest).toNat) 0 8 ∧
      ckptArrives (s r) 9 (f 1 0 []) = true ∧ ckptArrives (s { r with source := 2 }) 9 { f 1 0 [] with source := 9 } = true ∧
      ckpted.dserver = 9 := by
  decide +kernel

/-- A page of the manifest's shard, and the last and another acknowledgement of ROLLBACK. -/
theorem witness_RestoreFrames_later :
    let r : Restore := { source := 1, digest := [] }
    let m : Restore := { r with manifest := oneShard, manifestOk := true }
    let s := fun r => cutting { restore := some r }
    let f := fun flags offset payload => frame flags 0 offset payload
    (manifestShards oneShard).find? (fun h => decide (h.1 ≤ 0) && decide (0 < h.1 + h.2.2.1)) = some (0, 0, 1, 0, List.replicate 64 0) ∧
      (s m).shardFrom ckpted 1 0 = 9 ∧ ckptArrives (s m) 8 { f 0 0 [1] with source := 9 } = true ∧ (pageArrived m.asm (f 0 0 [1])).isSome = true ∧
      ckptArrives (s { r with rollbacks := [7] }) 6 (f 1 0 (List.replicate 8 0)) = true ∧
      ([7, 9] : List Half).erase 7 ≠ [] ∧ leAt (List.replicate 8 0) 0 4 = leAt r.manifest 8 4 ∧
      ((s { r with rollbacks := [7] }).ctx 0).ckpt.sealsOut = [] := by
  decide +kernel

/-! ### Membership, time and modules -/

/-- A membership command with one signature, and the owner record of one manager key that one signature satisfies. -/
def member (kind target serial epoch : Nat) : List Byte :=
  leBytes 4 0x4D454D42 ++ leBytes 1 kind ++ [1, 0, 0] ++ leBytes 8 serial ++ leBytes 2 target ++ leBytes 2 epoch ++ List.replicate 4684 0

def managed : List Byte := List.replicate 8 0 ++ [1, 1, 0, 0] ++ List.replicate 116 0 ++ [1]

/-- An owned engine in which all but the last 704 bytes of a command from engine 7 have come; a piece of it. -/
def assembling (fenced : Bool) (k : Nat) (b : List Byte) : State :=
  let s := wired {}
  { s with regs := [(Reg.engIdent, 2 ^ 16 + 5)]
           flash := { s.flash with owner := vset s.flash.owner 0 managed, memberCeiling := 5 }
           hng := { s.hng with fenced := fenced, assemblies := [⟨7, 4704, b.take 4000, BitVec.ofNat 24 k⟩] } }

def piece (flags : Byte) (off total : Nat) (bytes : List Byte) : Frame := frame flags 1 0 (leBytes 4 off ++ leBytes 4 total ++ bytes)

/-- First, last and middle pieces; the command whole, and of another form; below the ceiling of serial 5 and above it. -/
theorem witness_MembershipCommands :
    let b := member 1 0xFFFF 5 1
    let s := assembling false 1 b
    let f := piece 1 4000 4704 (b.drop 4000)
    arrives s 0x60 f = true ∧ Clear s ∧ (∀ r : Fin 64, (s.ports[r]).queue = []) ∧ leAt f.payload 0 4 = 4000 ∧ leAt f.payload 4 4 = 4704 ∧
      arrives s 0x60 (piece 1 0 8 []) = true ∧ arrives s 0x60 (piece 0 0 8 []) = true ∧ arrives s 0x60 (piece 0 4000 4704 [1]) = true ∧
      b.length = 4704 ∧ memberFormat b [1] = true ∧ memberFormat b [2] = false ∧ s.setAside b = false ∧
      (assembling true 1 b).setAside b = true ∧ memberSerial b = 5 ∧ s.flash.memberCeiling = 5 := by
  decide +kernel

/-- Commands that pass every check, if their signature does: an epoch, a fence and a reinstatement of this engine. -/
theorem witness_MembershipCommands_act (h : ∀ k m c g, Config.mlDsaVerify k m c g = true) :
    let me := 5
    let s := assembling false 1 []
    let t := assembling true 3 []
    s.memberCause (member 1 0xFFFF 5 1) = 0 ∧ s.memberCause (member 1 0xFFFF 6 1) = 0 ∧ s.memberCause (member 2 me 5 1) = 0 ∧
      t.memberCause (member 3 me 5 1) = 0 ∧ s.memberCause (member 1 0xFFFF 0 1) ≠ 0 ∧ s.setAside (member 2 me 5 1) = false ∧
      t.setAside (member 3 me 5 1) = false ∧ memberTarget (member 2 me 5 1) = s.ident := by
  simp only [State.memberCause, State.quorum, h]
  decide +kernel

/-- A REJECT of this epoch and one of another; with one such engine needed, and with two. -/
theorem witness_MembershipCommands_reject :
    let f := fun (e : Nat) => frame 1 0 0 (leBytes 2 1 ++ leBytes 2 e ++ List.replicate 4 0)
    let s := wired {}
    let one := { s with regs := [(Reg.fabCtrl, 1)] }
    arrives s 0x61 (f 0) = true ∧ arrives s 0x61 (f 1) = true ∧ older 0 1 = true ∧ one.rfld Reg.fabCtrl 0 5 = 1 ∧
      s.rfld Reg.fabCtrl 0 5 = 2 ∧ memberKind (MemberCmd.mk (member 1 0xFFFF 5 1) false 7).body = 1 := by
  decide +kernel

/-- A message of the time source, engine 7, of sequence 3; one UP port and no server; each state of the time base. -/
theorem witness_EngineTime :
    let s := { wired {} with regs := [(Reg.timSrc, 7)], time := { sync := some (3, 10), req := some (3, 10, 20, 30), ppsLast := some 0, state := .locked } }
    let g := { wired {} with regs := [(Reg.timCtrl, 8)], time := { grandmaster := true } }
    let h := { g with time := { ppsLast := some 0, ppsIgnore := true, now := 1000000000 * 2 ^ 32 } }
    arrives s 0x50 (frame 0 6 0 []) = true ∧ s.timeSource = some 7 ∧ s.timeServers = [] ∧
      ((fins 64).filter fun p => (s.ports[p]).state == .up) = [0] ∧ s.rfld Reg.timCtrl 3 1 = 0 ∧ g.rfld Reg.timCtrl 3 1 = 1 ∧
      g.time.ppsIgnore = false ∧ g.ns % 1000000000 ≤ 1000000 ∧ ({ g with time := { now := 5000000 * 2 ^ 32 } }).ns % 1000000000 = 5000000 ∧
      g.time.ppsLast = none ∧ h.rfld Reg.timCtrl 3 1 = 1 ∧ (0 : Nat) + 1000000000 = h.ns ∧ h.time.grandmaster = false ∧
      (let q := scroll [(0xC, 1)] [(0xC000, 4, 1), (0xC008, 8, 64), (0xC040, 8, 2 ^ 21), (0xC048, 4, 4), (0xC04C, 1, 1), (0xC04F, 1, 1), (0xC058, 4, 0x70007)]
       let u := withCtx (stepping q {})
       u.timeServers = [7] ∧ ∀ p : Fin 64, (u.ports[p]).state ≠ .up) := by
  decide +kernel

/-- An empty slot, an enabled and a refused one; port 0 of slot 0 UP. -/
theorem witness_StringModules :
    let m : ModuleId := { serial := 9, hours := 100, insertions := 0, overTemp := 0, chain := [], signature := [] }
    let s := fun k => { wired {} with slots := vset live.slots 0 k }
    Alive (s {}) ∧ ((s {}).slots[(0 : Fin 16)]).state = .empty ∧ (s {}).flash.minutesOf m.serial ≤ 60 * m.hours + 59 ∧
      ((s { state := .enabled }).slots[(0 : Fin 16)]).state = .enabled ∧ ((s { state := .refused }).slots[(0 : Fin 16)]).state = .refused ∧
      ((s {}).ports[(0 : Fin 64)]).state = .up := by
  decide +kernel

/-! ### The host interface -/

/-- The link down and ready to come up, at order 10, at order 9 and for an owner who requires IDE; an enabled ring. -/
theorem witness_HostLink :
    let s := { live with pins := { live.pins with linkUp := false, perstN := true } }
    let ide := List.replicate 11 0 ++ [2] ++ List.replicate 116 0 ++ [1]
    let r := { live with rings := vset live.rings 8 { en := true } }
    Alive s ∧ s.boot.order = 10 ∧ s.pins.perstN = true ∧ s.pins.perstInReset = false ∧ s.clkLost.getLsbD 28 = false ∧ s.clkLost.getLsbD 29 = false ∧
      s.pins.linkUp = false ∧ s.ownerFlag 1 = false ∧ ({ s with flash := { s.flash with owner := vset s.flash.owner 0 ide } }).ownerFlag 1 = true ∧
      Alive { s with boot := { order := 9, trial := true } } ∧ live.pins.linkUp = true ∧ live.rings[(8 : Fin 9)].en = false ∧
      Alive r ∧ r.rings[(8 : Fin 9)].en = true ∧ Reached r ∧ Clear r ∧ r.hng.running = false ∧
      Instr.wf (.tailLineWrite 8 0 [] true) = true ∧ Instr.wf (.tailLineWrite 8 513 [] false) = true ∧ Instr.wf (.tailLineWrite 8 0 [] false) = true ∧
      512 < ((513 : Word) - r.rings[(8 : Fin 9)].head).toNat := by
  decide +kernel

/-- A ring of the empty key, enabled. -/
def ringWith (r : Fin 9) (x : Ring) : State := { live with rings := vset live.rings r { x with en := true, key := some [] } }

/-- The head of an entry of counter 1, under the empty key. -/
def tagged (r : Fin 9) (op : Nat) (ps : List Byte) : EntryHead :=
  let h : EntryHead := ⟨1, 0, 1, List.replicate 32 0⟩
  { h with tag := kmac256 [] ((h.entry op ps []).bytes.take 96 ++ [BitVec.ofNat 8 r.1]) "LW2-CMD" }

/-- Its tag passes the check of R330. -/
theorem tagged_genuine (r : Fin 9) (op : Nat) (ps host : List Byte) :
    kmac256 [] (((tagged r op ps).entry op ps host).bytes.take 96 ++ [BitVec.ofNat 8 r.1]) "LW2-CMD" =
      ((tagged r op ps).entry op ps host).tag := by
  rw [entry_tag _ _ _ _ (by simp [tagged]), entry_covered]
  simp [tagged, entry_covered]

/-- The same head with another tag, which does not. -/
def forged (r : Fin 9) (op : Nat) (ps : List Byte) : EntryHead :=
  { tagged r op ps with tag := (tagged r op ps).tag.map (· + 1) }

theorem forged_fails (r : Fin 9) (op : Nat) (ps host : List Byte) :
    kmac256 [] (((forged r op ps).entry op ps host).bytes.take 96 ++ [BitVec.ofNat 8 r.1]) "LW2-CMD" ≠
      ((forged r op ps).entry op ps host).tag := by
  have h : ∀ l : List Byte, l.length = 32 → l ≠ l.map (· + 1) := by
    intro l hl he
    cases l with
    | nil => cases hl
    | cons x l => exact absurd (List.cons.inj he).1 (by bv_omega)
  have ht : ((tagged r op ps).entry op ps host).bytes.take 96 = ((forged r op ps).entry op ps host).bytes.take 96 := by
    simp only [entry_covered]; rfl
  rw [← ht, tagged_genuine, entry_tag _ _ _ _ (by simp [tagged]), entry_tag _ _ _ _ (by simp [forged, tagged])]
  exact h _ (by simp [tagged])

/-- The head of an entry that is not critical. -/
def plain : EntryHead := ⟨0, 0, 0, List.replicate 32 0⟩

/-- Opcodes 0x10 (of a context ring) and 5 on ring 8: no flag, no key, another tag, a stale counter, one past the ceiling. -/
theorem witness_RingChecks :
    let s := ringWith 8 {}
    let e := plain.entry 5 [] []
    Alive s ∧ Clear s ∧ Reached s ∧ s.hng.running = false ∧ e.wf = true ∧ s.startsEarly 8 5 = false ∧ opAllowed 8 0x10 = false ∧
      opAllowed 8 5 = true ∧ e.opcode = 5 ∧ opConcurrent 5 = false ∧ opCritical 5 = true ∧ bitAt e.flags 0 ≠ opCritical 5 ∧
      live.rings[(8 : Fin 9)].key = none ∧ s.rings[(8 : Fin 9)].counter.toNat = 0 ∧ (s.flash.ceilings[(8 : Fin 9)]).toNat = 0 ∧
      (2 : Nat) ^ 20 = min ((1 / 2 ^ 20 + 1) * 2 ^ 20) (2 ^ 64 - 1) ∧ s.power = .active := by
  decide +kernel

theorem witness_RingChecks_tag :
    let e := (tagged 8 5 []).entry 5 [] []
    e.wf = true ∧ bitAt e.flags 0 = true ∧ e.counter = 1 ∧ kmac256 [] (e.bytes.take 96 ++ [8]) "LW2-CMD" = e.tag ∧
      kmac256 [] (((forged 8 5 []).entry 5 [] []).bytes.take 96 ++ [8]) "LW2-CMD" ≠ ((forged 8 5 []).entry 5 [] []).tag := by
  refine ⟨?_, ?_, ?_, tagged_genuine 8 5 [] [], forged_fails 8 5 [] []⟩
  · simp [RawEntry.wf, entry_length]
  · rw [entry_flags]; decide +kernel
  · rw [entry_counter]; rfl

/-- Slots of each kind in window 0; a page that is resident, one that is not there, and a line of a wide buffer. -/
theorem witness_WindowAccess :
    let s := fun (w : Window) => { withCtx (stepping deep { pages := [(1, { state := .resident })] }) with windows := vset live.windows 0 w }
    let ide := List.replicate 11 0 ++ [2] ++ List.replicate 116 0 ++ [1]
    let w : Window := { kind := 2, ctx := 0, base := 2 ^ 21 }
    let ok := fun (r : Touch) => match r with | .ok => true | _ => false
    let fails := fun (r : Touch) => match r with | .fail _ => true | _ => false
    Alive (s {}) ∧ (s {}).pins.linkUp = true ∧ (s {}).ownerFlag 1 = false ∧
      ({ s {} with flash := { live.flash with owner := vset live.flash.owner 0 ide } }).ownerFlag 1 = true ∧ ((s {}).windows[finOf 32 0]).kind = 0 ∧
      (s w).scroll? 0 = some deep ∧ ok ((s w).touchRead 0 deep none (2 ^ 21)).1 = true ∧ ok ((s w).touchWrite 0 deep none (2 ^ 21)).1 = true ∧
      deep.wideOf (2 ^ 21) = none ∧ fails ((s w).touchRead 0 deep none (2 ^ 34)).1 = true ∧
      (let q := scroll [(0xC, 1)] [(0xC004, 4, 1), (0xC018, 8, 64), (0xC040, 8, 2 ^ 21), (0xC048, 8, 2 ^ 16)]
       (q.wideOf (2 ^ 21)).isSome = true) := by
  decide +kernel

/-! ### Ring commands -/

/-- The head that the checks of R330 pass for an opcode. -/
def headOf (r : Fin 9) (op : Nat) (ps : List Byte) : EntryHead := if opCritical op then tagged r op ps else plain

/-- Context 0 as given, and ring `r` enabled with the empty key, commands in progress and a ceiling in flash. -/
def asking (r : Fin 9) (cmds : List Cmd) (x : Ctx) : State :=
  let s := withCtx x
  { s with rings := vset s.rings r { en := true, key := some [], cmds := cmds }, flash := { s.flash with ceilings := vset s.flash.ceilings r 9 } }

/-- A started command of an opcode. -/
def started (op : Nat) : Cmd := { entry := plain.entry op [] [], phase := .started }

/-- The ring takes an entry of the opcode, but for its flag, counter and tag. -/
def ready (s : State) (r : Fin 9) (op : Nat) : Bool :=
  let x := s.rings[r]
  decide (Alive s ∧ Clear s ∧ Reached s) && x.en && !s.hng.running && (s.power == .active || opInRest op) && decide (op < 256)
    && opAllowed r op && (x.cmds.all fun j => j.entry.opcode != op) && (x.cmds.isEmpty || opConcurrent op || s.startsEarly r op)
    && decide (Unreloaded s r) && x.key == some [] && x.counter == 0 && s.flash.ceilings[r] == 9

theorem ready_taken {s : State} {r : Fin 9} {op : Nat} (h : ready s r op = true) (ps host : List Byte) :
    Taken s r ((headOf r op ps).entry op ps host) ∧ (headOf r op ps).wf = true := by
  simp only [ready, Bool.and_eq_true, Bool.or_eq_true, decide_eq_true_eq, Bool.not_eq_true', beq_iff_eq, List.all_eq_true, bne_iff_ne,
    List.isEmpty_iff, or_assoc] at h
  obtain ⟨⟨⟨⟨⟨⟨⟨⟨⟨⟨⟨⟨ha, hc, hr⟩, he⟩, hn⟩, hp⟩, hop⟩, hal⟩, hj⟩, hs⟩, hh⟩, hk⟩, hcnt⟩, hce⟩ := h
  have h256 : op % 256 = op := Nat.mod_eq_of_lt hop
  refine ⟨?_, ?_⟩
  · simp only [Taken, entry_opcode, h256, entry_flags]
    refine ⟨ha, hc, hr, he, hn, hp, hal, hj, hs, fun _ _ => hh, ?_, fun hcr => ?_⟩
    · cases hcr : opCritical op <;> simp [headOf, hcr, tagged, plain, bitAt]
    · rw [headOf, if_pos hcr]
      refine ⟨[], hk, tagged_genuine r op ps host, ?_, ?_⟩
      · rw [entry_counter, hcnt]; exact (by decide : 0 < 1)
      · rw [entry_counter, hce]; exact (by decide : 1 ≤ 9)
  · rw [headOf]
    split
    · simp [EntryHead.wf, tagged]
    · simp [EntryHead.wf, plain]

/-- A loaded context that reduces, and one that does not; running and in a step, and at the boundary, beside its
STEP_START; held by the host. -/
theorem witness_StepCommands :
    let s := fun (x : Ctx) => asking 0 [] { x with scroll := some ringed }
    let at_ := fun (b : Bool) => asking 0 [started 0x12] { state := .running, scroll := some ringed, inStep := b, starting := !b, stepsLeft := some 1 }
    (ready (s { state := .loaded }) 0 0x11 = true ∧ ringed.reduces = true ∧ weights.reduces = false) ∧
      (ready (s { state := .loaded, armed := true }) 0 0x12 = true ∧ (s {}).degraded = false) ∧ (s { stale := true }).degraded = true ∧
      (ready (at_ true) 0 0x13 = true ∧ ready (at_ false) 0 0x13 = true ∧ (at_ false).degraded = false ∧ (started 0x12).isStep = true) ∧
      (ready (s { state := .held, hostHold := true }) 0 0x14 = true ∧ ready (s { state := .held }) 0 0x14 = true) ∧
      ready (s {}) 0 0x19 = true ∧ ready (asking 8 [] {}) 8 0x19 = true ∧ (4096 : DWord).toNat % 4096 = 0 ∧ (4095 : DWord).toNat % 4096 ≠ 0 := by
  decide +kernel

/-- A staged scroll too short has a failure, and so a least one. -/
theorem leastFail_isSome (l : List Fail) (h : l ≠ []) : (leastFail l).isSome = true := by
  cases l with
  | nil => exact absurd rfl h
  | cons f fs => rw [leastFail]; split <;> rfl

theorem short_fails (s : State) (c : Fin 8) (q : Scroll) (h : q.sizeFails ≠ []) : (leastFail (s.scrollFails c q)).isSome = true := by
  apply leastFail_isSome
  rw [State.scrollFails]
  cases hq : q.sizeFails with
  | nil => exact absurd hq h
  | cons f fs => simp

/-- Each command of a context and its states: no staging and a staged scroll that fails; versions; a cut now and later;
restores. -/
theorem witness_ReloadCommands :
    let s := fun (x : Ctx) => asking 0 [] x
    let w := { s { state := .created } with windows := vset live.windows 0 { kind := 1 } }
    let q := stagedScroll { kind := 1 } 1
    let v := fun (k : Bank) (cur : Option (Fin 2)) => s { state := .loaded, scroll := some weights, current := cur
                                                          banks := vset (Vector.replicate 2 {}) 0 { k with version := 3 } }
    let c := s { state := .loaded, scroll := some ckpted, ckpt := { cut := { number := 1 } } }
    (ready w 0 0x10 = true ∧ ready (s {}) 0 0x10 = true ∧ q.sizeFails ≠ []) ∧
      (ready (v { state := .bad } none) 0 0x15 = true ∧ ((v { state := .bad } none).ctx 0).bankOf 3 = some 0 ∧
       ((v { state := .bad } none).ctx 0).bankOf 4 = none ∧ ((v { state := .bad } none).ctx 0).freeBank.isSome = true ∧
       ((v { state := .ready, stepPin := true } (some 1)).ctx 0).freeBank = none ∧ (weights.sec? 0xD).isSome = true ∧ (ckpted.sec? 0xD).isNone = true) ∧
      (ready c 0 0x16 = true ∧ (weights.sec? 0x10).isNone = true ∧ (ckpted.sec? 0x10).isSome = true ∧ c.ns = 0 ∧ c.stalled 0 = false) ∧
      (ready c 0 0x17 = true ∧ ckpted.homeServers = [] ∧ deep.homeServers ≠ [] ∧ ckpted.buddy ≠ 0xFFFF) ∧
      ready (s {}) 0 0x1A = true ∧ ready (asking 8 [] {}) 8 0x1A = true ∧ (s {}).blobCause 0 [] ≠ 0 := by
  decide +kernel

/-- Each command of the engine ring; parameters that fit and do not, a pool that suffices and does not, contexts that
stop a power state. -/
theorem witness_EngineCommands :
    let s := asking 8 [] {}
    let p : CreateParams := ⟨1, 0, 0, 0, 0, 8, 0, 1, 0, 0⟩
    let loaded := asking 8 [] { state := .loaded, scroll := some deep }
    ready s 8 1 = true ∧ ready s 8 4 = true ∧ ready s 8 5 = true ∧ ready s 8 6 = true ∧ ready s 8 7 = true ∧ ready s 8 8 = true ∧ ready s 8 9 = true ∧ ready loaded 8 8 = true ∧
      (s.ctx 1).state = .free ∧ (loaded.ctx 0).state ≠ .free ∧ 1 ≤ p.stacked.toNat ∧ s.taken + 1530 ≤ s.pool ∧
      s.pool < (asking 8 [] { state := .created, stacked := 1 }).taken + 1530 ∧
      (∀ f ∈ (Rect.mk 0 0 0 0).regions, s.ctxOfRegion f = none ∧ s.fret.lost.getLsbD f.1 = false ∧ s.reserved f = false ∧
        (s.regions[f]).silentAtBoot = false) ∧ s.grantAt 47 1 = some 31 ∧
      deep.pinned (2 ^ 21) (2 ^ 31) = false ∧ s.power = .active ∧ { s with power := .rest }.power = .rest := by
  decide +kernel

/-- A context loaded, in teardown at each order, and its STEP_START ended by TEARDOWN_CTX. -/
theorem witness_Teardown :
    let s := asking 0 [] { state := .loaded }
    let k := started 0x12
    let t := { asking 8 [] { state := .running } with rings := vset (asking 8 [] {}).rings 0 { en := true, cmds := [k] } }
    let y := fun (order : Nat) (acks : BitVec 5) (ns : Nat) =>
      { asking 0 [started 0x18] { state := .tearing, retire := some ⟨false, order, acks, 0, 0⟩ } with boot := { order := 10, elapsed := ns } }
    (ready s 0 0x18 = true ∧ (s.ctx 0).retire = none ∧ (s.rings[(0 : Fin 9)]).cmds = []) ∧
      (ready t 8 0x0A = true ∧ (t.rings[(0 : Fin 9)]).cmds = [k] ∧ k.entry.opcode ≠ 0x0A ∧ (t.ctx 0).retire = none) ∧
      (Alive (y 4 0 0) ∧ Clear (y 4 0 0) ∧ (y 4 0 0).edgeClear 0 0 = true ∧ (started 0x18).isOp 0x18 = true) ∧
      (let f : QFrame := { frame := frame 0 0 0 [], key := none, ctx := some 0 }
       (linked { queue := [f] }).edgeClear 0 0 = false) ∧
      (31 : BitVec 5) = 31 ∧ (0 : Nat) + 200000000 ≤ (y 5 31 200000000).phys := by
  decide +kernel

/-- A load before its commit, after the retirement it waited for, and before its end, where a home page is there,
awaited, or failed. -/
theorem witness_ScrollLoads :
    let l := fun (order : Nat) => (⟨order, ringed⟩ : Load)
    let s := fun (order : Nat) (x : Ctx) => asking 0 [started 0x10] { x with state := .created, load := some (l order) }
    let home := scroll [(0xC, 1)] [(0xC000, 4, 1), (0xC008, 8, 64), (0xC040, 8, 2 ^ 21), (0xC048, 4, 1), (0xC04E, 1, 1)]
    let h := fun (y : Page) => s 7 { scroll := some home, pages := [(1, y)] }
    Alive (s 3 {}) ∧ Clear (s 3 {}) ∧ (s 3 {}).hng.running = false ∧ ((s 3 {}).ctx 0).load = some (l 3) ∧
      ((s 3 { scroll := some deep }).ctx 0).scroll.isSome = true ∧ ((s 4 {}).ctx 0).retire = none ∧ (started 0x10).isOp 0x10 = true ∧
      home.homePages = [1] ∧ (h { poison := true }).homeFailed 0 home = some 0 ∧ (h {}).homeFailed 0 home = none ∧
      (((h {}).ctx 0).page home 1).state ≠ .resident ∧ (((h { state := .resident }).ctx 0).page home 1).state = .resident := by
  decide +kernel

/-- Commands by ring that fail their form, that are set aside, and whose form is good. -/
theorem witness_MembershipRing :
    let s := { asking 8 [] {} with regs := [(Reg.engIdent, 2 ^ 16 + 5)] }
    let b := member 1 0xFFFF 5 1
    ready s 8 2 = true ∧ ready s 8 3 = true ∧ (∀ p : Fin 64, (s.ports[p]).queue = []) ∧ memberFormat [] [1, 2] = false ∧
      memberFormat (slice b 0 4704) [1, 2] = true ∧ s.setAside b = false ∧ s.setAside (member 1 6 5 1) = true ∧ s.hng.memberWait = [] ∧
      memberFormat (member 3 5 5 1) [3] = true ∧ s.flash.memberCeiling.toNat = 0 ∧ memberSerial b = 5 ∧ s.memberCause b ≠ 0 := by
  decide +kernel

/-! ### Steps, power, heat, health, resets -/

/-- Every tile but tile 0 has finished its step. -/
def allBut : Tab Tile := (0, { stopped := false }) :: (List.range' 1 786431).map fun i => (i, { finished := true })

theorem getD_range' {α : Type} (x d : α) (n a k : Nat) (h : a ≤ k) (hk : k < a + n) :
    Tab.getD ((List.range' a n).map fun i => (i, x)) k d = x := by
  induction n generalizing a with
  | zero => omega
  | succ n ih =>
    simp only [List.range'_succ, List.map_cons, Tab.getD, Tab.get?]
    split
    · rfl
    · exact ih (a + 1) (by omega) (by omega)

/-- A context in a step whose scroll has a deep range and no reduction, with a state for its tiles. -/
def inStep_ (x : Ctx) (l : Tab Tile) : State := { withCtx (stepping deep x) with tiles := l }

theorem witness_StepsRun :
    let s := inStep_ {} [(0, { stopped := false })]
    let b := fun (x : Ctx) => withCtx { x with scroll := some deep, state := .running, starting := true }
    let w := scroll [(0xC, 1)] ([(0xC010, 8, 128), (0xC080, 8, 2 ^ 21)] ++ segment)
    let p := { withCtx (stepping w { pages := [(1, { state := .resident })] }) with tiles := [(0, { stopped := false })] }
    let ok := fun (r : Touch) => match r with | .ok => true | _ => false
    (Alive s ∧ Clear s ∧ s.ctxOf 0 = some 0 ∧ s.ctxOf 786431 = none ∧ s.tileRuns 0 = true ∧ (s.tile 0).stepDone = true ∧
      (s.tile 0).badIn ((s.tile 0).writeLines.map fun l => ⟨64 * l, 1⟩) = none ∧ deep.window 0 = none ∧ deep.targets = [] ∧
      s.tileGone 1 = false ∧ (s.tile 1).finished = false) ∧
      (w.window 0 = some (2 ^ 21) ∧ ok (p.touchWrite 0 w none (2 ^ 21)).1 = true) ∧
      ((b {}).mayBegin 0 = true ∧ (b {}).replays 0 = false ∧ (deep.sec? 0xD).isNone = true ∧ (weights.sec? 0xD).isSome = true ∧
       ({ b {} with regs := [(Reg.rplCtrl, 8)] }).replays 0 = true ∧ ({ b {} with regs := [(Reg.rplCtrl, 8)] }).recordOf 0 = none) ∧
      ((b { rerunning := true }).ctx 0).rerunning = true := by
  decide +kernel

/-- The last tile of a step, whose window is none. -/
theorem witness_StepsRun_last :
    let s := inStep_ {} allBut
    s.writeBackTile 0 deep 0 = (true, s) ∧ (((s.ctx 0).tileList.all fun v => v == 0 || s.tileGone v || (s.tile v).finished) = true) := by
  refine ⟨?_, List.all_eq_true.2 fun v _ => ?_⟩
  · have h : deep.window 0 = none := by decide +kernel
    rw [State.writeBackTile, h]
  · rw [Bool.or_eq_true, Bool.or_eq_true]
    by_cases h : v = 0
    · exact .inl (.inl (by rw [h]; rfl))
    · have hv : (inStep_ {} allBut).tile v = { finished := true } := by
        have h0 : v.1 ≠ 0 := fun e => h (Fin.ext e)
        have hd := getD_range' ({ finished := true } : Tile) {} 786431 1 v.1 (by omega) (by have := v.2; omega)
        show Tab.getD allBut v.1 {} = _
        rw [allBut, Tab.getD, Tab.get?, if_neg h0]
        exact hd
      exact .inr (by rw [hv])

/-- A scroll with state pages: as `ckpted`, PERIOD 1, and one shard of one page at byte 2^21. -/
def shadow : Scroll := scroll [(0xC, 1), (0xE, 1), (0x10, 1)] (segment ++ [(0xE014, 2, 7), (0x10000, 2, 7), (0x10002, 2, 7), (0x10004, 2, 9), (0x1000C, 4, 1)])

theorem witness_CutsDrain :
    let s := fun (k : Ckpt) => withCtx { stepping shadow {} with ckpt := k }
    let l := { withCtx { ({} : Ctx) with state := .loaded, scroll := some shadow } with time := { now := 2000000000 * 2 ^ 32 } }
    let d := fun (d : Drain) => s { drain := some d }
    (Alive (s {}) ∧ Clear (s {}) ∧ ckpted.period = 0 ∧ shadow.period = 1 ∧ l.ns = 2000000000 ∧ 0 < shadow.lastPeriod l.ns ∧ l.stalled 0 = false) ∧
      ((d {}).solo 0 = false ∧ ((d {}).ctx 0).snapRemote shadow = [] ∧ ((d {}).ctx 0).snapState shadow = [] ∧ (d {}).ownPages shadow = [] ∧
       shadow.homeServers ≠ []) ∧
      ((withCtx { ({} : Ctx) with state := .loaded }).ctx (finOf 8 0)).state = .loaded ∧ (live.ctx (finOf 8 0)).state = .free := by
  decide +kernel

/-- A state page snapped, and one owned and copied. -/
theorem witness_CutsDrain_pages :
    let q := scroll [(0xC, 1), (0xE, 1), (0x10, 1)] (segment ++ [(0xE014, 2, 7), (0x10000, 2, 7), (0x10004, 2, 9), (0x10010, 4, 1), (0x10018, 8, 64),
      (0x10040, 8, 2 ^ 21), (0x10048, 4, 1)])
    let s := fun (y : Page) => { withCtx { stepping q { pages := [(1, y)] } with ckpt := { drain := some {} } } with regs := [(8, 2 ^ 16)] }
    ((s { snap := true }).ctx 0).snapState q = [0] ∧ (s { snap := true }).pageServed (((s { snap := true }).ctx 0).page q (q.stateAt 0)) = true ∧ (s {}).ownPages q = [0] ∧ ((s {}).ctx 0).snapState q = [] ∧
      (((s { copied := true }).ctx 0).page q (q.stateAt 0)).copied = true := by
  decide +kernel

theorem witness_RailsAndBudget :
    let s := fun (x : Region) => { live with regions := vset live.regions 0 x }
    let k := { asking 8 [started 7] {} with budget := { live.budget with pendingLimit := some 10000 } }
    let a := { withCtx { state := .created } with regions := vset live.regions 0 { state := .active, peg := 700 } }
    Alive (s {}) ∧ ((s { state := .active, polled := true }).regions[(0 : Fin 48)]).polled = true ∧
      ((s { state := .lost }).regions[(0 : Fin 48)]).state = .lost ∧ (s {}).pins.regOffN = true ∧
      Clear k ∧ (started 7).isOp 7 = true ∧ (a.regions[(0 : Fin 48)]).state = .active ∧ (a.ctxOfRegion 0).isSome = true ∧ 700 ≤ a.rfld Reg.pwrCtrl 0 10 := by
  decide +kernel

/-- Readings at and beyond the ends of their range; a pair that differs; histories of turning points. -/
theorem witness_SensorsAndWear :
    let s := fun (x : Thermal) => { live with thermal := vset live.thermal 0 x }
    let y : Thermal := { temps := [50, 62, 50, 50] }
    spots 0 = 2 ∧ (-21 : Int) < -20 ∧ (150 : Int) < 151 ∧ Alive (s {}) ∧ Clear (s {}) ∧ y.differs 0 = true ∧ y.differs 1 = false ∧
      ({ y with disagree := 1 }).disagree.getLsbD 0 = true ∧ ((List.range (spots 0)).filterMap y.reading).max? = some 62 ∧
      ((List.range (spots 0)).filterMap ({} : Thermal).reading).max? = none ∧ (s {}).ctxOfRegion 0 = none := by
  decide +kernel

/-- No request yet, and one 599 s ago; the thresholds at reset; a probation. -/
theorem witness_HealthScores :
    let s := live
    Alive s ∧ Clear s ∧ s.health.sinceRequest = none ∧ (s.penalties []).toList.sum = 0 ∧ s.rfld Reg.ckpCtrl 0 10 = 700 ∧
      s.rfld Reg.ckpCtrl 10 10 = 150 ∧ ¬((0 : Nat) + 600000000000 ≤ ({ s with boot := { order := 10, elapsed := 599000000000 } }).phys) ∧
      { s with hng := { s.hng with probation := true } }.hng.fenced = false := by
  decide +kernel

/-- A context that waits for a version, one with a command queued, and one with nothing to do; a reset asked for,
running and in probation. -/
theorem witness_HangsAndResets :
    let s := fun (x : Ctx) => withCtx { x with scroll := some deep, state := .running }
    let q := { withCtx { ({} : Ctx) with scroll := some deep, state := .running } with tiles := [(0, { (tile : Tile) with slots := Vector.replicate 8 {}, tensorQ := [] })] }
    (Alive (s {}) ∧ (s {}).scroll? 0 = some deep ∧ (s {}).stalled 0 = false ∧ (s {}).advancedIn 0 [] = false ∧ (s {}).busyCtx 0 deep = false ∧
      (s { advanced := true }).advancedIn 0 [] = true ∧ (s { waitVersion := true }).busyCtx 0 deep = true ∧
      (s { waitVersion := true }).fabricWait 0 deep = true ∧ (∀ d : Fin 8, d ≠ 0 → ((s {}).ctx d).scroll = none)) ∧
      (q.hng.suspects = [] ∧ Clear (s {}) ∧ (∀ p : Fin 64, ((s {}).ports[p]).queue = []) ∧ (started 6).isOp 6 = true) := by
  decide +kernel

theorem witness_Failures :
    Alive live ∧ Alive { live with boot := { order := 9 } } ∧ 12 / 4 = 3 ∧ ((wired {}).ports[(0 : Fin 64)]).state = .up := by
  decide +kernel

/-! ### Bring-up, registers and security -/

/-- What a bring-up without a defect meets, on `puf` failed reads of the identity. -/
def seen (puf : Nat) (factory : Bool) (failing : BitVec 12) : BringUp :=
  ⟨⟨[], [], []⟩, ⟨[], [], []⟩, [3], [], failing, puf, if factory then [] else [([], [])], 0, [], [], [], false⟩

/-- Out of cold reset with a valid copy, with none, and with a pending copy; waiting for an image. -/
theorem witness_BringUpOrders :
    let f := State.reset.flash
    let none_ := { f with fw := Vector.replicate 2 {} }
    let trial := { f with fw := Vector.replicate 2 { valid := true }, pendingCopy := some 1 }
    State.reset.pins.coldResetN = false ∧ f.copyValid 0 = true ∧ none_.copyValid 0 = false ∧ none_.copyValid 1 = false ∧
      trial.copyValid 1 = true ∧ (seen 4 true 0).pufFailedReads = 4 ∧ factoryOk (seen 3 false 0) = false ∧ factoryOk (seen 3 true 0) = true ∧ (seen 3 true 0xFFF).stackFail = 0xFFF ∧
      (seen 3 true 0xFFE).stackFail ≠ 0xFFF ∧ (3 : Fin 48) ∈ (seen 3 true 0).silentRegulators ∧
      Alive { State.reset with boot := { order := 2, fwWait := true, input := some (seen 0 true 0) } } ∧
      (∀ r : Fin 48, State.reset.regions[r] = {}) ∧ (∀ p : Fin 64, State.reset.ports[p] = {}) := by
  decide +kernel

/-- Offsets of each kind on either path, with the link up and down. -/
theorem witness_Registers :
    let s := live
    let failed := { s with hng := { s.hng with failed := true } }
    s.reaches .bar0 = true ∧ s.reaches .sideband = true ∧ State.reset.reaches .sideband = false ∧
      wideOf 0xC = none ∧ wideOf 0x28 = some (0x28, 2) ∧ failedReads 0x20000 = false ∧ sideReads 0x20000 = false ∧ failed.hng.failed = true ∧
      Alive s ∧ (settingOf Reg.memCtrl).isSome = true ∧ isLeaf Reg.memCause = true ∧ isWideWrite 0x20100 = true ∧ isWideWrite 0x10010 = true ∧
      0x20118 + 0x40 * 8 = 0x20318 ∧ (wired {}).rings[(0 : Fin 9)].en = false ∧ (asking 8 [] {}).rings[(8 : Fin 9)].en = true ∧
      settingOf 0x4 = none ∧ isLeaf 0x4 = false ∧ isMsix 0x4 = false ∧
      (let w := (2 : Nat) * 2 + 50 * 2 ^ 5
       fld w 1 4 ≤ 8 ∧ 1 ≤ fld w 5 10 ∧ fld w 5 10 ≤ 1000 ∧ fld w 0 1 = 0) ∧
      s.rfld Reg.engIdent 16 1 = 0 ∧ s.boot.order = 10 ∧ { s with boot := { order := 2 } }.boot.order < 9 := by
  decide +kernel

/-- A connection in a state. -/
def speaking (x : SpdmConn) : State := { live with sec := { live.sec with conns := vset live.sec.conns 0 x } }

/-- A connection at each of its states. How long a certificate chain and a response are, and whether a FINISH verifies,
are opaque: no witness can show them. -/
theorem witness_SpdmRequests :
    let s := fun (x : SpdmConn) => speaking x
    Alive (s {}) ∧ (s {}).serves .doe = true ∧ { s {} with pins := { live.pins with linkUp := false } }.serves .doe = false ∧
      ((s { version := true, caps := true, algs := true }).conn .doe).algs = true ∧ ((s {}).conn .doe).version = false ∧
      ((s {}).conn .doe).session = none ∧ ((s { session := some 1 }).conn .doe).established = false ∧
      ((s { session := some 1, established := true }).conn .doe).session = some 1 ∧ (s {}).measurement 99 = none ∧
      ((s {}).measurement 3).isSome = true ∧ ((s {}).slots[(0 : Fin 16)]).state ≠ .enabled ∧ ((s { large := [1] }).conn .doe).large ≠ [] ∧
      (s {}).owner.length = 0 ∧ (s {}).sec.ideIoKey = none := by
  decide +kernel

/-- An unowned engine: a record of another form, a newer one, and a blob of another form for a ring without a key. -/
theorem witness_OwnershipAndKeys :
    let s := live
    let record := leBytes 4 0x524E574F ++ leBytes 4 1
    Alive s ∧ s.serves .doe = true ∧ ownerFormat [] = false ∧ s.owned = false ∧ s.sec.ownerWait = none ∧ s.hng.running = false ∧
      ownerSerial s.owner = 0 ∧ ownerSerial record = 1 ∧ (8 : Byte).toNat = (8 : Fin 9).1 ∧ (s.rings[(8 : Fin 9)]).key = none := by
  decide +kernel

/-- A key serial of ring 8 being written to flash. -/
def serialWait (via : Option Transport) (cmds : List Cmd) : State :=
  { live with sec := { live.sec with keyWait := [(8, 5, [], via)] }, rings := vset live.rings 8 { en := true, cmds := cmds } }

/-- Writes under way for ring 8, of a SET_CMD_KEY and of a KEY_CHANGE. -/
theorem witness_OwnershipAndKeys_wait :
    let k : Cmd := { started 0x1A with phase := .keySerial }
    (serialWait (some .doe) []).sec.keyWait = [(8, 5, [], some .doe)] ∧ ((serialWait (some .doe) []).sec.keyWait.all fun w => w.1 != 0) = true ∧
      Clear (serialWait none [k]) ∧ ((serialWait none [k]).rings[(8 : Fin 9)]).cmds = [k] ∧ k.phase = .keySerial := by
  decide +kernel

theorem witness_OwnershipAndKeys_ide :
    let s := { live with sec := { live.sec with ideIo := true, conns := vset live.sec.conns 0 { session := some 1, established := true } } }
    s.sec.ideIo = true ∧ (s.conn .doe).session = some 1 ∧ (s.conn .doe).established = true ∧ live.hostReady = true ∧ State.reset.hostReady = false := by
  decide +kernel

theorem witness_StepTakesFront : State.reset.pending = [] ∧ State.reset.boot.order = 0 ∧ live.pending = [] ∧ live.boot.order ≠ 0 := by
  decide +kernel

theorem witness_EveryCommandAnswers : Instr.wf .thermtrip = true ∧ Instr.wf (.hdmWrite 0 []) = false := by decide

theorem witness_FailedHolds :
    let s := { live with hng := { live.hng with failed := true } }
    s.hng.failed = true ∧ s.pins.coldResetN = true ∧ exec .thermtrip s = .next s.trip := by
  refine ⟨rfl, by decide +kernel, ?_⟩
  rfl

theorem witness_CountersBelowCeilings : CountersBounded State.reset ∧ ∃ u, step State.reset = .next u :=
  ⟨by decide +kernel, _, rfl⟩

/-! ### Further clauses -/

/-- The one STORE shard of version 3 arrives whole from engine 7, and its digest is to be checked. -/
theorem witness_VersionsBuild_shard :
    let bs : List Byte := [1, 2]
    let m := List.replicate 16 0 ++ leBytes 8 (crc64 bs).toNat ++ leBytes 4 2 ++ leBytes 4 0 ++ List.replicate 64 0
    let k : Bank := { state := .building, manifest := m, verified := true }
    let s := fun (k : Bank) => wired { bank k with obtains := [obtain_ 0] }
    let f := shardFrame 1 bs
    arrives (s k) 0x11 f = true ∧ shardFields f = (3, 0, 0) ∧ f.isEnd = true ∧ (weights.layout? 4).isSome = true ∧
      (weights.layouts.map fun l => ((weights.sources l.srclist).1[0]?, (weights.sources l.srclist).2, l.stream)) =
        [(some (1, 7), 0xFFFF, false)] ∧ ((s k).ctx 0).units = [] ∧ bs.length = manifestLen m (weights.manifestIndex 4 0) ∧
      (crc64 bs).toNat = manifestCrc m (weights.manifestIndex 4 0) ∧ k.checked.has 4 = false ∧ k.toCheck = [] ∧
      weights.storeShards.map (fun e => shardKey e.1.tensor e.2) = [4] := by
  decide +kernel

theorem witness_VersionsBuild_digest :
    let k : Bank := { state := .building, toCheck := [(4, [1, 2])] }
    (bank k).banks[(0 : Fin 2)].toCheck.get? (shardKey 4 0) = some [1, 2] ∧
      sha3_512 [1, 2] ≠ manifestSha k.manifest (weights.manifestIndex 4 0) := by
  decide +kernel

/-- No pre-pass of the ring has a block left, and no mask has bits still to come. -/
theorem witness_ReductionHops_ready :
    let s := reducing 5 { own := [(0, ones)], agreed := [(0, 127)], preNext := 32 }
    (s.ctx 0).redMode = false ∧ (s.ctx 0).replay = none ∧ (s.ctx 0).state = .running ∧
      (ringed.targets.all fun t => (s.ctx 0).maskReady ringed t) = true ∧ ((s.ctx 0).red 0 0).bypassed = [] ∧
      ((s.ctx 0).red 0 0).switched = none ∧ (ringed.ring 0).length = 3 := by
  decide +kernel

/-- A CREDIT frame of one entry, with and without an account for its context; a port without a role; REST. -/
theorem witness_ReceiveChecks_credit :
    let s := wired (stepping deep {})
    let f := frame 0 0 0 (leBytes 8 7 ++ leBytes 8 3)
    let a : Account := ⟨7, 7, 0, 0, 1, 0, 0, 0⟩
    f.payload.length = 16 ∧ arrives s 0x02 f = true ∧ ((s.accounts 7 (7, 0, 0)).find? fun b => b.ctx == f.context) = none ∧
      (({ s with held := [a] }.accounts 7 (7, 0, 0)).find? fun b => b.ctx == f.context) = some a ∧
      ({ s with plan := none } : State).role 0 = 0 ∧ ({ s with power := .rest } : State).power ≠ .active := by
  decide +kernel

/-- A valid area whose manifest fits one frame, and one whose manifest was asked for by its digest. -/
theorem witness_PartnerAreas_fetch :
    let z : BuddyArea := { state := .valid, manifest := [1] }
    z.manifest.length ≤ 4096 ∧ z.manifest ≠ [] ∧ fld (2 ^ 47) 0 48 = 2 ^ 47 := by
  decide +kernel

theorem witness_DrainAcknowledgements_seal :
    let d : Drain := { sealWait := [7] }
    let s := cutting { drain := some d, sealsOut := [(7, 0)] }
    ckptArrives s 6 (frame 1 0 0 (List.replicate 8 0)) = true ∧ ((s.ctx 0).ckpt.sealsOut.contains (7, leAt (List.replicate 8 0) 0 4)) = true ∧
      (s.ctx 0).ckpt.cut.number = 0 ∧ d.manifestAcked = false := by
  decide +kernel

/-- Port 0 UP with credit for two frames of class TIME, on an engine that has its identifier. -/
theorem witness_EngineTime_sync :
    let pt : Port := { state := .up, credit := vset (Vector.replicate 7 0) 6 2 }
    let s := { live with ports := vset live.ports 0 pt, regs := [(Reg.engIdent, 2 ^ 16 + 5)] }
    Alive s ∧ s.timeServers = [] ∧ ((fins 64).filter fun p => (s.ports[p]).state == .up) = [0] ∧ s.hng.fenced = false ∧
      s.hng.running = false ∧ s.rfld Reg.engIdent 16 1 = 1 ∧ pt.queue = [] ∧ pt.replay = [] ∧ pt.resync = false ∧
      (pt.credit[(6 : Fin 7)] - pt.spent[(6 : Fin 7)]).toNat = 2 := by
  decide +kernel

/-- A loaded context, and none; a source that has locked the engine, and one that has not. -/
theorem witness_EngineTime_measured :
    (wired (stepping deep {})).anyLoaded = true ∧ live.anyLoaded = false ∧ live.time.everLocked = false ∧
      { live.time with everLocked := true }.everLocked = true := by
  decide +kernel

/-- A command that waits for a ceiling above its counter. -/
theorem witness_RingChecks_ceiling :
    let e := (tagged 8 5 [1]).entry 5 [1] []
    let s := { live with rings := vset live.rings 8 { en := true, key := some [], cmds := [{ entry := e, phase := .ceiling }], ceilingTo := some 9 } }
    Alive s ∧ Clear s ∧ Reached s ∧ s.power = .active ∧ (s.rings[(8 : Fin 9)]).cmds = [{ entry := e, phase := .ceiling }] ∧
      (s.rings[(8 : Fin 9)]).ceilingTo = some 9 ∧ (s.flash.ceilings[(8 : Fin 9)]).toNat < 9 ∧ (s.rings[(8 : Fin 9)]).counter.toNat = 0 := by
  decide +kernel

/-- A window on a page whose line has an uncorrectable error. -/
theorem witness_WindowAccess_error :
    let s := { withCtx (stepping deep { pages := [(1, { state := .resident, dirty := 1 })], eccLines := [2 ^ 15] }) with
      windows := vset live.windows 0 { kind := 2, ctx := 0, base := 2 ^ 21 } }
    (match (s.touchRead 0 deep none (2 ^ 21)).1 with | .fail n => n == 4 | _ => false) = true := by
  decide +kernel

/-- A load whose only page is there, of a scroll without a layout of weights: no late check fails. -/
theorem witness_ScrollLoads_late :
    let home := scroll [(0xC, 1)] [(0xC000, 4, 1), (0xC008, 8, 64), (0xC040, 8, 2 ^ 21), (0xC048, 4, 1), (0xC04E, 1, 1)]
    (leastFail (home.lateFails [])).isNone = true := by
  decide +kernel

/-- A tile whose scratchpad has no bad word, and a context whose budget entries are its own. -/
theorem witness_StepsRun_words :
    let s := inStep_ {} [(0, { stopped := false })]
    (s.tile 0).badWords = [] ∧ (s.tile 1).badWords = [] ∧ (deep.window 0).isNone = true := by
  decide +kernel

/-- Regions in each state of R380 with a link that comes back; PEG_MAX at reset. -/
theorem witness_RailsAndBudget_link :
    let s := fun (x : Region) => { live with regions := vset live.regions 0 x }
    ((s { noLink := true, state := .active, peg := 700 }).regions[(0 : Fin 48)]).noLink = true ∧
      ((s { state := .active }).regions[(0 : Fin 48)]).state ≠ .lost ∧ (s {}).rfld Reg.pwrCtrl 0 10 = 850 := by
  decide +kernel

/-- One port with corrected symbols, and none. -/
theorem witness_MemoryUpkeep_counts :
    let s := live.countCorrected { bytes := [], corrected := 3, fec := [(0, 5, 1)] }
    s.health.corrected = 3 ∧ s.rfld (Reg.fabFec 0) 0 32 = 5 ∧ s.hng.fenced = false ∧ live.hng.probation = false := by
  decide +kernel

/-- A core in use, and the first spare of its row. -/
theorem witness_HangsAndResets_tree :
    let k : Core := ⟨21, 44, 40⟩
    let spare : Core := ⟨21, 44, 129⟩
    let s := withCtx { state := .running, inStep := true }
    (s.fret.tileOf k).isSome = true ∧ s.fret.tileOf spare = none ∧ spare ∉ s.hng.spares ∧ s.hng.running = false ∧ s.hng.suspects = [] ∧
      (s.ctx 0).state = .running ∧ (s.ctx 0).inStep = true := by
  decide +kernel

/-- A stream whose rows lie a page apart, in a segment of class PINNED that is brought from engine 7: page 1 is there, page 2
is within the run-ahead. -/
theorem witness_MemberTransfers_ahead :
    let d := 1 + 2 * 2 ^ 2 + 2 * 2 ^ 16 + 2 ^ 21 * 2 ^ 72 + (2 + 32768 * 2 ^ 16) * 2 ^ 312
    let q := scroll [(0xA, 1), (0xC, 1)] [(0xA000, 8, 128), (0xA008, 4, 1), (0xA080, 64, d), (0xC000, 4, 1), (0xC008, 8, 64),
      (0xC040, 8, 2 ^ 21), (0xC048, 4, 4), (0xC04E, 1, 1), (0xC04F, 1, 1), (0xC058, 2, 7)]
    let s := withCtx (stepping q { pages := [(1, { state := .resident })] })
    let e := s.edgeOf 0 0 0
    let y := (s.ctx 0).member 0 0 0
    let a := s.modMember 0 0 0 0 fun y => { y with cur := some { seq := y.next }, stop := .none }
    Alive s ∧ s.edgeCtx 0 0 = some 0 ∧ 0 < e.members ∧ s.edgeRuns 0 = true ∧ e.outbound = false ∧ y = {} ∧ y.atEnd e = false ∧
      e.markCount = 0 ∧ y.sentDown + e.prefetch = y.next + 2 ∧ e.lines = 1 ∧ e.kind = 2 ∧ e.persist = false ∧
      (s.ctx 0).forcedCode 0 0 0 0 0 = none ∧ pageOf (e.lineAddr (y.baseOf e 0) 1 0) = 2 ∧
      q.reach (2 * 2 ^ 21) ((e.memberTile 0).map regionOf) = q.segOf 2 ∧
      ((q.segOf 2).map fun g => (g.cls, g.init)) = some (0, 1) ∧
      (match State.readLines 0 q ((e.memberTile 0).map regionOf) ((pieceLines e.lines 0).map fun i =>
          e.lineAddr (y.baseOf e 0) 0 i) [] a with
        | (.done bs, t) => bs.length == 64 && ((t.ctx 0).page q 2).state == .unbacked && !((t.ctx 0).page q 2).poison
            && !(t.ctx 0).rolling && (t.ctx 0).member 0 0 0 == { y with cur := some { seq := 0 } }
        | _ => false) = true := by
  decide +kernel

/-- The first half of a transfer is there: a piece continues it, and one ends it. -/
theorem witness_DataFrames_later :
    let x : Xfer := { seq := 0, bytes := Memory.writeBytes [] 0 (List.replicate 32 1) }
    let s := wired (stepping (streamed ofFabric) { members := [(0, [(0, { asm := some x, expected := 32 })])] })
    let y := (s.ctx 0).member 0 0 0
    arrives s 0x01 (frame 0 5 32 (List.replicate 16 1)) = true ∧ arrives s 0x01 (frame 1 5 32 (List.replicate 32 1)) = true ∧
      y.expected = 32 ∧ y.asm = some x ∧ x.code = 0 ∧ x.bad = [] ∧ (s.ctx 0).replay = none ∧ 32 % 64 + 16 < 64 ∧ 32 % 64 + 32 = 64 := by
  decide +kernel

/-- A fetch of its alternate server, the last one: a piece out of order, the END frame before the last byte, and one into a
stack out of lock. -/
theorem witness_PageFetches_fails :
    let s := fun (t : Fetch) => { wired (stepping deep { fetches := [(1, t)] }) with clkLost := 1 }
    let f := { frame 0 0 64 (List.replicate 64 1) with source := 9 }
    let g := { frame 1 0 (2 ^ 21) (leBytes 8 0) with source := 9 }
    let t : Fetch := { source := 1 }
    let other : Fin 12 := 1
    let elsewhere := wired (stepping deep { fetches := [(1, t)], pages := [(1, { state := .moving, stack := other })] })
    arrives (s t) 0x22 f = true ∧ arrives (s t) 0x21 f = true ∧ arrives (s t) 0x21 g = true ∧ arrives elsewhere 0x21 g = true ∧
      ((s t).ctx 0).fetchOf deep f = some (1, t) ∧ ((s t).ctx 0).fetchEnd deep g = some (1, t) ∧ t.next ≠ 64 ∧ t.next ≠ 2 ^ 21 ∧
      (elsewhere.ctx 0).fetchEnd deep g = some (1, t) ∧ ((s t).ctx 0).bg = none ∧ ((s t).ctx 0).members = [] ∧ t.source = 1 ∧
      (s t).stackLost (((s t).ctx 0).page deep 1).stack = true ∧ elsewhere.stackLost ((elsewhere.ctx 0).page deep 1).stack = false := by
  decide +kernel

/-- A command whose ceiling is being written, on an engine without an owner, and a fenced one that sets it aside. -/
theorem witness_MembershipCommands_wait :
    let m : MemberCmd := ⟨member 1 0xFFFF 5 1, false, 7⟩
    let s := fun (fenced : Bool) => { live with
      regs := [(Reg.engIdent, 2 ^ 16 + 5)], hng := { live.hng with fenced := fenced, memberWait := [m] } }
    Alive (s false) ∧ Clear (s false) ∧ (∀ r : Fin 64, ((s false).ports[r]).queue = []) ∧ m.ring = false ∧
      (s true).setAside m.body = true ∧ (s false).setAside m.body = false ∧ (s false).memberCause m.body ≠ 0 ∧ Clear (s true) := by
  decide +kernel

theorem witness_MembershipCommands_wait_act (h : ∀ k m c g, Config.mlDsaVerify k m c g = true) :
    let b := member 1 0xFFFF 5 1
    let s := assembling false 1 []
    let s := { s with hng := { s.hng with memberWait := [⟨b, false, 7⟩] } }
    s.setAside b = false ∧ s.memberCause b = 0 ∧ memberKind b = 1 := by
  simp only [State.memberCause, State.quorum, h]
  decide +kernel

/-- A pending target in bank 0 that another replaces, without a pin and served to a peer; both banks in use. -/
theorem witness_ReloadCommands_target :
    let k : Bank := { state := .ready, version := 3 }
    let s := fun (k : Bank) => asking 0 [] { state := .loaded, scroll := some weights, pending := some 3
                                             banks := vset (Vector.replicate 2 {}) 0 k }
    let x := (s k).ctx 0
    let both := asking 0 [] { state := .loaded, scroll := some weights, current := some 0
                              banks := Vector.replicate 2 { state := .current, version := 3, stepPin := true } }
    ready (s k) 0 0x15 = true ∧ (weights.sec? 0xD).isSome = true ∧ x.pending = some 3 ∧ x.bankOf 3 = some 0 ∧ x.current ≠ some 0 ∧
      (x.banks[(0 : Fin 2)]).state ≠ .retiring ∧ (x.banks[(0 : Fin 2)]).pins = 0 ∧
      (((s { k with services := 1 }).ctx 0).banks[(0 : Fin 2)]).pins ≠ 0 ∧ x.bankOf 4 = none ∧ x.freeBank.isSome = true ∧
      ready both 0 0x15 = true ∧ (both.ctx 0).bankOf 4 = none ∧ ∀ b : Fin 2, ((both.ctx 0).banks[b]).pins ≠ 0 := by
  decide +kernel

/-- A cut whose home servers are sealed, and one whose are not; remote homes and none. -/
theorem witness_ReloadCommands_homes :
    let q := scroll [(0xC, 1), (0x10, 1)] segment
    let s := fun (q : Scroll) (k : Ckpt) => asking 0 [] { state := .loaded, scroll := some q, ckpt := k }
    let k : Ckpt := { cut := { number := 1 }, sealedCut := false }
    ready (s q k) 0 0x17 = true ∧ ready (s ckpted k) 0 0x17 = true ∧ (s q k).homesLeft 0 = true ∧
      (s q { k with sealedCut := true }).homesLeft 0 = false ∧ q.homeServers ≠ [] ∧ ckpted.homeServers = [] ∧
      (q.sec? 0x10).isSome = true ∧ ((s q k).ctx 0).rolling = false ∧ (s q k).stalled 0 = false := by
  decide +kernel

/-- A load whose retirement of an earlier one still stands; a gradient mask of zeros on a page that a remote home brings. -/
theorem witness_ScrollLoads_mask :
    let q := scroll [(0xC, 1), (0xE, 1)] [(0xC000, 4, 1), (0xC008, 8, 64), (0xC040, 8, 2 ^ 21), (0xC048, 4, 4), (0xC04C, 1, 2),
      (0xC04E, 1, 1), (0xC04F, 1, 1), (0xC058, 2, 7), (0xE018, 4, 1), (0xE01C, 4, 1), (0xE020, 8, 512), (0xE028, 8, 1024),
      (0xE206, 2, 1), (0xE208, 2, 1), (0xE400, 1, 2), (0xE404, 4, 32), (0xE408, 4, 32), (0xE410, 8, 2 ^ 21)]
    let s := fun (y : Page) => asking 0 [started 0x10] { state := .created, load := some ⟨7, q⟩, scroll := some q, pages := [(1, y)] }
    let r := asking 0 [started 0x10] { state := .created, load := some ⟨3, q⟩, retire := some ⟨true, 4, 0, 0, 0⟩ }
    Alive (s {}) ∧ Clear (s {}) ∧ q.homePages = [] ∧ q.mapPages = [1] ∧ (s {}).homeFailed 0 q = none ∧
      (((s {}).ctx 0).page q 1).state ≠ .resident ∧ (((s { state := .resident }).ctx 0).page q 1).state = .resident ∧
      (leastFail (q.lateFails [])).isSome = true ∧ (r.ctx 0).scroll = none ∧ (r.ctx 0).retire.isSome = true ∧ Alive r := by
  decide +kernel

/-- A scroll whose region 0 has its spill windows from byte 2^21 on. -/
def spilled : Scroll := scroll [(0xC, 1)] ([(0xC010, 8, 128), (0xC080, 8, 2 ^ 21)] ++ segment)

/-- Every stack serves: the windows of any scroll can be read. -/
theorem windowsServed_of (s : State) (c : Fin 8) (q : Scroll) (h : ∀ k, s.stackServes k = true) : s.windowsServed c q = true := by
  refine List.all_eq_true.2 fun t _ => ?_
  cases hw : q.window t <;> simp [State.pageServed, h]

/-- A context that is to reload, with its windows served and with the stack of a window in stall; a line of the handle table's
image with an uncorrectable error; a context without a version; a rerun. -/
theorem witness_StepsRun_reload :
    let x : Ctx := { scroll := some spilled, state := .running, starting := true, reload := true, pages := [(1, { state := .resident })] }
    let s := withCtx x
    let hot := { s with thermal := vset s.thermal 48 { stall := 1 } }
    let v := withCtx { scroll := some weights, state := .running, starting := true }
    let r := withCtx (stepping spilled { rerunning := true })
    Alive s ∧ Clear s ∧ s.mayBegin 0 = true ∧ hot.mayBegin 0 = true ∧ hot.windowsServed 0 spilled = false ∧ s.replays 0 = false ∧
      (spilled.sec? 0xD).isNone = true ∧ spilled.window 0 = some (2 ^ 21) ∧ s.tiles = [] ∧ s.tileGone 0 = false ∧
      ({ x with eccLines := [2 ^ 15] } : Ctx).badReload ((s.tile 0).begin (some (x.mem, 2 ^ 21)) 0 0) (2 ^ 21) = true ∧
      v.mayBegin 0 = true ∧ (v.ctx 0).reload = false ∧ v.replays 0 = false ∧ (weights.sec? 0xD).isSome = true ∧ (v.ctx 0).current = none ∧ (v.ctx 0).pending = none ∧
      (∀ k, s.stackServes k = true) ∧ (r.ctx 0).rerunning = true ∧ (r.ctx 0).inStep = true ∧ (r.ctx 0).state = .running ∧ r.tiles = [] ∧
      (∀ k, r.stackServes k = true) := by
  decide +kernel

/-- A scroll of one shard of one state page, written by this engine, of identifier 0. -/
def shard1 : Scroll := scroll [(0xC, 1), (0xE, 1), (0x10, 1)] (segment ++ [(0xE014, 2, 7), (0x10000, 2, 7), (0x10004, 2, 9), (0x10010, 4, 1),
  (0x10018, 8, 64), (0x10040, 8, 2 ^ 21), (0x10048, 4, 1)])

/-- A drain of the homes alone, and one whose state pages are copied and sent: a cut write-back to send, sent, none; alone;
SEALs sent. -/
theorem witness_CutsDrain_homes :
    let y : Page := { state := .resident, snap := true, cutDirty := 1 }
    let s := fun (d : Drain) (y : Page) => withCtx { stepping shadow { pages := [(1, y)] } with ckpt := { drain := some d } }
    let d : Drain := { onlyHomes := true }
    let u : Drain := { unacked := [0] }
    let x := fun y => (s d y).ctx 0
    let roll := withCtx { stepping shadow {} with ckpt := { rollDue := true, sealedCut := true } }
    let solo := { s d y with regs := [(Reg.rplCtrl, 8 + 16)] }
    Alive (s d y) ∧ (s d y).power = .active ∧ (s d y).hng.running = false ∧ (s d y).hng.fenced = false ∧ (s d y).solo 0 = false ∧
      (x y).snapRemote shadow = [(1, y)] ∧ (x y).snapState shadow = [] ∧ (s d y).pageServed y = true ∧
      (y.cutDirty &&& ~~~(y.flying ||| y.flying1)) ≠ 0 ∧ (x { y with flying := 1 }).snapRemote shadow = [(1, { y with flying := 1 })] ∧
      ((1 : BitVec 32) &&& ~~~(1 ||| 0)) = 0 ∧ (x {}).snapRemote shadow = [] ∧ solo.solo 0 = true ∧ u.unacked ≠ [] ∧ u.manifestAcked = false ∧
      (roll.ctx 0).ckpt.drain = none ∧ (roll.ctx 0).ckpt.rollDue = true ∧ roll.homesLeft 0 = false ∧ ((s d y).ctx 0).ckpt.rollDue = false := by
  decide +kernel

/-- A snapped state page that waits, served and of a stack in stall; a drain unanswered for BUDDY_WAIT; one with nothing left;
an own page copied that is not, and is; a periodic cut time within a step. -/
theorem witness_CutsDrain_order :
    let y : Page := { state := .resident, snap := true }
    let s := fun (d : Drain) (y : Page) (ns : Nat) =>
      { withCtx { stepping shard1 { pages := [(1, y)] } with ckpt := { drain := some d } } with
        regs := [(8, 2 ^ 16)], boot := { order := 10, elapsed := ns } }
    let d : Drain := { sealed := true, unacked := [0] }
    let hot := { s d y 0 with thermal := vset live.thermal 48 { stall := 1 } }
    let done : Drain := { sealed := true, manifestAcked := true, recordsSent := true, manifestSent := true, nextPage := 1 }
    let p := { withCtx (stepping shadow {}) with time := { now := 2000000000 * 2 ^ 32 } }
    ((s d y 0).ctx 0).snapState shard1 = [0] ∧ (s d y 0).pageServed (((s d y 0).ctx 0).page shard1 (shard1.stateAt 0)) = true ∧
      (hot.ctx 0).snapState shard1 = [0] ∧ hot.pageServed ((hot.ctx 0).page shard1 (shard1.stateAt 0)) = false ∧ d.onlyHomes = false ∧
      d.progressAt + (s d y 0).rfld Reg.ckpWait 0 8 * 100000000 = (s d y 2000000000).phys ∧ (s d y 1999999999).phys = 1999999999 ∧
      ((s d {} 0).ctx 0).snapState shard1 = [] ∧ (s d {} 0).ownPages shard1 = [0] ∧
      ((s d {} 0).ownPages shard1).find? (fun k => decide (0 ≤ k)) = some 0 ∧
      (((s d {} 0).ctx 0).page shard1 (shard1.stateAt 0)).copied = false ∧
      (((s d { copied := true } 0).ctx 0).page shard1 (shard1.stateAt 0)).copied = true ∧
      ((s d {} 0).ownPages shard1).find? (fun k => decide (done.nextPage ≤ k)) = none ∧
      (p.ctx 0).ckpt.pendingAt = none ∧ shadow.period ≠ 0 ∧ (p.ctx 0).ckpt.lastPeriodic < shadow.lastPeriod p.ns ∧
      (p.ctx 0).inStep = true ∧ (p.ctx 0).load = none ∧ Clear p := by
  decide +kernel

/-- A STEP_START that stands between steps; a region that enters REST. -/
theorem witness_RailsAndBudget_stands :
    let s := asking 0 [started 0x12] { state := .running, scroll := some deep, starting := true, stepsLeft := some 2 }
    let r := { s with regions := vset s.regions 0 { state := .rest, peg := 600, armed := true, entering := true } }
    Alive s ∧ (s.ctx 0).starting = true ∧ (s.ctx 0).inStep = false ∧ s.hng.running = false ∧ (s.rings[ringOf 0]).cmds = [started 0x12] ∧
      (started 0x12).isStep = true ∧ (s.regions[(0 : Fin 48)]).state ≠ .lost ∧ (s.ctx 0).load = none ∧
      (r.regions[(0 : Fin 48)]).entering = true ∧ (∀ c : Fin 8, c ≠ 0 → (s.ctx c).starting = false) := by
  decide +kernel

/-- Readings at the trip temperature of a region, and below it. -/
theorem witness_SensorsAndWear_trips :
    let s := live
    let hot : List Int := [125, 125, 50, 50]
    let warm : List Int := [50, 62, 50, 50]
    spots 0 = 2 ∧ hot.length = 2 * spots 0 ∧ ((s.storeReadings 0 hot).thermal[(0 : Fin 60)]).reading 0 = some 125 ∧
      ((List.range (spots 0)).all fun i => match ((s.storeReadings 0 warm).thermal[(0 : Fin 60)]).reading i with
        | some t => decide (t < 125)
        | none => true) = true ∧
      (s.thermal[(0 : Fin 60)]).suspect = 0 ∧ warm[0]? = some 50 ∧ warm[1]? = some 62 ∧ (warm.all fun y => decide (-20 ≤ y) && decide (y ≤ 150)) = true ∧
      (s.thermal[(0 : Fin 60)]).turns = [] := by
  decide +kernel

/-- A history whose penalties take the score from 1,000 below THRESH. -/
theorem witness_HealthScores_asks :
    let s := { live with health := { live.health with history := Vector.replicate 5 (10 ^ 15) :: List.replicate 600 (Vector.replicate 5 0) } }
    let history := ((Vector.ofFn fun i : Fin 5 => s.healthTotals[i] - s.health.last[i]) :: s.health.history).take 8640
    s.health.score = 1000 ∧ s.rfld Reg.ckpCtrl 0 10 = 700 ∧ 1000 - (s.penalties history).toList.sum < 700 ∧
      s.health.sinceRequest = none := by
  decide +kernel

/-- A context whose transit region is in thermal stall; a reset under way with a STALE context whose STEP_START stands. -/
theorem witness_HangsAndResets_stalled :
    let s := { withCtx { state := .running, scroll := some deep, transit := 2 } with thermal := vset live.thermal 1 { stall := 1 } }
    let r := asking 0 [started 0x12] { state := .running, stale := true, scroll := some deep, starting := true, stepsLeft := some 1 }
    let e := { r with hng := { r.hng with running := true } }
    let f := { asking 8 [started 6] {} with hng := { live.hng with running := true } }
    s.usesStalled 0 = true ∧ s.stalled 0 = false ∧ Alive e ∧ Clear e ∧ (∀ p : Fin 64, (e.ports[p]).queue = []) ∧
      ((fins 9).all fun k => (e.rings[k]).cmds.all fun j => j.phase != .ceiling) = true ∧ (e.ctx 0).stale = true ∧
      (e.ctx 0).state = .running ∧ (e.ctx 0).starting = true ∧ (started 0x12).isStep = true ∧ (withCtx {}).degraded = false ∧
      (f.rings[(8 : Fin 9)]).cmds = [started 6] ∧ (started 6).phase = .started ∧ Clear f ∧
      ({ live with hng := { live.hng with request := some 3 } }).hng.request = some 3 := by
  decide +kernel

/-- Before order 3 the watchdog is not counted; a fault before order 10 outside FW_WAIT. -/
theorem witness_Failures_early :
    let s := { live with boot := { order := 2 } }
    Alive s ∧ s.boot.order < 3 ∧ s.boot.fwWait = false ∧ { s with boot := { order := 2, fwWait := true } }.boot.fwWait = true := by
  decide +kernel

/-- A power loss tore the pending copy. -/
theorem witness_BringUpOrders_torn :
    let f := { State.reset.flash with fw := Vector.replicate 2 { valid := true }, pendingCopy := some 1 }
    let b := { seen 0 true 0 with tornFw := true }
    b.tornFw = true ∧ f.tearFw.copyValid 1 = false ∧ f.tearFw.copyValid 0 = true ∧ f.copyValid 1 = true ∧ f.tried = false ∧
      State.reset.fret.lost = 0 ∧ against b.first = [] := by
  decide +kernel

/-- A connection whose session waits for FINISH: its MAC is no empty string. Whether an answer fits the transport is opaque. -/
theorem witness_SpdmRequests_finish :
    let x : SpdmConn := { version := true, caps := true, algs := true, session := some 1 }
    (speaking x).serves .doe = true ∧ ((speaking x).conn .doe) = x ∧ x.established = false ∧
      leAt ([] : List Byte) 1 1 ≠ 0xFE ∧ ((if (99 : Byte) = 0xFF then measurementIndices else [99]).filterMap fun i =>
        ((speaking x).measurement i).map fun m => (i, m)) = [] := by
  decide +kernel

/-- A newer record written while a command key waits for the flash; a ring that waits and one that does not; a ring with a
key. -/
theorem witness_OwnershipAndKeys_drop :
    let record := leBytes 4 0x524E574F ++ leBytes 4 1
    let s := { live with sec := { live.sec with ownerWait := some (record, .doe), keyWait := [(8, 5, [], none)] } }
    let keyed := { live with rings := vset live.rings 8 { key := some [] } }
    Alive s ∧ Clear s ∧ s.sec.ownerWait = some (record, .doe) ∧ ownerSerial s.owner < ownerSerial record ∧ s.sec.keyWait ≠ [] ∧
      (∃ w ∈ s.sec.keyWait, w.1 = 8) ∧ (∀ w ∈ live.sec.keyWait, w.1 ≠ 8) ∧ (keyed.rings[(8 : Fin 9)]).key.isSome = true ∧
      (s.rings[(8 : Fin 9)]).key = none := by
  decide +kernel

/-- In FAILED with a message that waits for the link. -/
theorem witness_FailedHolds_link :
    let s := { live with
      hng := { live.hng with failed := true }
      pins := { live.pins with linkUp := false, perstN := true, pendingBit := true, vectorMasked := false } }
    s.mayLink = true ∧ s.vectorHeld = false ∧ s.pins.pendingBit = true ∧ s.pins.coldResetN = true ∧
      (match exec .cxlLinkUp s with | .next u => u.pins.linkUp && !u.pins.pendingBit && u.out == s.out ++ [.msix] | _ => false) = true := by
  decide +kernel

/-- A type that a port without a role does not carry. -/
theorem witness_ReceiveChecks_role :
    let s := { wired (stepping deep {}) with plan := some (Vector.replicate 16 0) }
    let f := frame 0 5 0 []
    s.carries 0 0x30 = false ∧ f.dest = 0xFFFF ∧ f.epoch = s.hng.epoch ∧ (s.ctx 0).loaded = true ∧
      f.generation = (s.ctx 0).gen ∧ s.power = .active := by
  decide +kernel

/-- A manifest whose CRC-64 is wrong. -/
theorem witness_RestoreFrames_manifest :
    let r : Restore := { source := 1, digest := [], manifest := [1] }
    ckptArrives (cutting { restore := some r }) 8 (frame 1 0 (2 ^ 47) (leBytes 8 0)) = true ∧
      (crc64 r.manifest).toNat ≠ leAt (leBytes 8 0) 0 8 := by
  decide +kernel

/-- One of another layout. -/
theorem witness_RestoreFrames_layout :
    (((manifestShards oneShard).map fun h => (h.1, h.2.1, h.2.2.1)) ≠ ckpted.shards.map fun h => (h.1, h.2.1, h.2.2.1)) ∧
      (crc64 oneShard).toNat = leAt (leBytes 8 (crc64 oneShard).toNat) 0 8 :=
  ⟨by decide +kernel, (leAt_crc _).symm⟩

/-- A manifest of one shard of some pages with a digest of one byte's copies. -/
def shardOf (pages : Nat) (b : Byte) : List Byte :=
  leBytes 4 0x4D4B4350 ++ List.replicate 8 0 ++ leBytes 4 1 ++ List.replicate 240 0 ++ List.replicate 8 0 ++ leBytes 4 pages ++
    List.replicate 4 0 ++ List.replicate 64 b ++ List.replicate 16 0

/-- A restore of that manifest, with page 0 arrived or not. -/
def pageRestore (pages : Nat) (b : Byte) (asm : Tab Nat) : Restore :=
  { source := 1, digest := [], manifest := shardOf pages b, manifestOk := true, asm := asm }

/-- The END frame of page 0 of a shard of one page and of two. -/
theorem witness_RestoreFrames_pages :
    let s := fun (n : Nat) (asm : Tab Nat) => cutting { restore := some (pageRestore n 0 asm) }
    let f := { frame 1 0 (2 ^ 21) (leBytes 8 7) with source := 9 }
    ckptArrives (s 1 []) 8 f = true ∧ ckptArrives (s 2 [(0, 2 ^ 21)]) 8 f = true ∧ (s 1 []).shardFrom ckpted 1 0 = 9 ∧
      (pageRestore 1 0 []).asm.getD 0 0 ≠ 2 ^ 21 ∧ (pageRestore 2 0 [(0, 2 ^ 21)]).asm.getD 0 0 = 2 ^ 21 ∧
      (pageRestore 2 0 []).got.has 0 = false ∧ (pageRestore 2 0 []).got.has 1 = false := by
  decide +kernel

theorem witness_RestoreFrames_shards (n : Fin 3) (b : Fin 2) (h : 0 < n.1) :
    (match (manifestShards (shardOf n.1 (BitVec.ofNat 8 b.1))).find? (fun h => decide (h.1 ≤ 0) && decide (0 < h.1 + h.2.2.1)) with
      | some k => k.1 == 0 && k.2.2.1 == n.1 && k.2.2.2.1 == 0 && k.2.2.2.2 == List.replicate 64 (BitVec.ofNat 8 b.1)
      | none => false) = true := by
  revert n b
  decide +kernel

/-- The END frame that carries the CRC-64 of the page; of two digests one is not the shard's. -/
theorem witness_RestoreFrames_whole (m : Mem) :
    let page := Memory.readBytes m 0 (2 ^ 21)
    (crc64 page).toNat = leAt (leBytes 8 (crc64 page).toNat) 0 8 ∧
      (sha3_512 page ≠ List.replicate 64 0 ∨ sha3_512 page ≠ List.replicate 64 1) := by
  refine ⟨(leAt_crc _).symm, ?_⟩
  by_cases h : sha3_512 (Memory.readBytes m 0 (2 ^ 21)) = List.replicate 64 0
  · exact .inr (by rw [h]; decide)
  · exact .inl h

/-- No MAC of FINISH is the empty string. -/
theorem witness_SpdmRequests_mac (x : SpdmConn) : [] ≠ spdmFinishMac x := fun h => by
  have := congrArg List.length h
  simp [spdmFinishMac, hmac3] at this

/-! ### Worked examples of the spec -/

/-- 00_scope.md after R6, 04_scratchpad_and_handles.md after R115: tile (700, 300) lies in region 21, at index 0x163C of it. -/
theorem test_tile_region : (tileAt 700 300).map (fun t => (regionOf t, localIndex t)) = some (21, 0x163C) := by decide +kernel

/-- 04_scratchpad_and_handles.md after R113: handle 5 of 272 lines at line 0x120, HINT STATE, writable by slots 0 and 2. -/
def handle5 : Tile := { pad := Memory.writeLE [] 20 4 0x05A43D20 }

/-- kblk 15 from line 17 of the buffer reads lines 17 to 271 and resolves; one block more does not. -/
theorem test_handle_end : handle5.resolve 8 0x14000440 true (64 * 15 * 17) .read = .ok (64 * (0x120 + 17)) ∧
    handle5.resolve 8 0x14000440 true (64 * 16 * 17) .read = .handle := by decide +kernel

/-- Slot 2 may write the buffer, slot 1 may not. -/
theorem test_handle_write : handle5.resolve 8 0x14000440 true 64 (.write 2) = .ok (64 * (0x120 + 17)) ∧
    handle5.resolve 8 0x14000440 true 64 (.write 1) = .handle := by decide +kernel

/-- 03_number_formats.md after R88: a block of 5.0, -0.625, 0.01 and 1.5 in MXFP8. -/
theorem test_mxfp8_block : (let r := mxBlock .mxfp8 (([0x40A00000, 0xBF200000, 0x3C240000, 0x3FC00000] ++ List.replicate 28 0).map val32)
    (r.1, r.2.take 5)) = (121, [0x7A, 0xE2, 0x32, 0x6C, 0]) := by decide +kernel

/-- 03_number_formats.md after R512: narrowing to BF16 and to FP8-E4M3. -/
theorem test_narrowing : (encodeElem .bf16 (val32 0x3F808000), encodeElem .bf16 (val32 0x3F818000), encodeElem .e4m3 (val32 0x43960000),
    encodeElem .e4m3 (val32 0x43FA0000), encodeElem .e4m3 (val32 0x7F800000)) = (0x3F80, 0x3F82, 0x79, 0x7E, 0x7F) := by decide +kernel

/-- 03_number_formats.md after R102: the four engines' block at headroom 0, elements 0 and 1. -/
def hop_ (e bump count : Nat) (last : Bool) (xs : List Nat) : Bsi := bsiQuantise e bump count false last (xs.map val32) []

theorem test_bsi_first : (let b := hop_ 129 0 1 false [0x40400000, 0xBFA00000]
    (b.e, b.bump, b.m.map (signed 16))) = (129, 0, [24576, -10240]) := by decide +kernel

/-- Engine 1 adds 2.5 and 0.75 to the widened block and bumps; engine 2 adds 3.75 and 0.1 and bumps again. -/
theorem test_bsi_bumps :
    let b1 := hop_ 129 0 2 false [add32 0x40400000 0x40200000, add32 0xBFA00000 0x3F400000]
    let b2 := hop_ b1.e b1.bump 3 true [add32 (round32 (b1.widen 0)) 0x40700000, add32 (round32 (b1.widen 1)) 0x3DCCCCCD]
    (b1.e, b1.bump, b1.m.map (signed 16)) = (130, 1, [22528, -2048]) ∧ (b2.e, b2.bump, b2.m.map (signed 16)) = (131, 2, [18944, -819]) := by
  decide +kernel

/-- 10_gradient_reduction.md after R295: r = 1/3, and the delivered elements of a block of COUNT 3. -/
theorem test_reciprocal : reciprocal 3 = 0x3EAAAAAB ∧ mul32 0x40D00000 (reciprocal 3) = 0x400AAAAB ∧
    mul32 0xBF680000 (reciprocal 3) = 0xBE9AAAAB := by decide +kernel

/-- 02_tile.md after R60: a SiLU table with LO -8, W -4, ABOVE IDENT, segment 149 as given; x = 1.34375 and 9.0. -/
def silu (c : Nat) : Mem := Memory.writeLE [] (6 * 149) 6 c

theorem test_silu : let h := 0xC1000000 + 0xFC * 2 ^ 32 + 1 * 2 ^ 41 + 2 * 2 ^ 43
    evalTable (silu (0x3F40 + 0x3E80 * 2 ^ 16 + 0xBE00 * 2 ^ 32)) h 0 0x3FAC0000 = 0x3F580000 ∧ evalTable [] h 0 0x41100000 = 0x41100000 := by
  decide +kernel

/-- 07_backward_pass.md after R193: its derivative table, with ABOVE CONST 1.0. -/
theorem test_silu_derivative : let h := 0xC1000000 + 0xFC * 2 ^ 32 + 1 * 2 ^ 41 + 1 * 2 ^ 43 + 0x3F80 * 2 ^ 64
    mul32 0x3F000000 (evalTable (silu (0x3F70 + 0x3E80 * 2 ^ 16 + 0xBF00 * 2 ^ 32)) h 0 0x3FAC0000) = 0x3EF00000 ∧
    mul32 0xBEC00000 (evalTable [] h 0 0x41100000) = 0xBEC00000 := by decide +kernel

/-- 06_sparsity_and_routing.md after R161: MXFP8 weights of nibbles F, 3, 0 and 8 take 32 lines. -/
theorem test_sparse_lines : extentB (Memory.writeLE [] 0 2 0x803F) .mxfp8 2 0 4 = 64 * 32 := by decide +kernel

/-- 06_sparsity_and_routing.md after R176: the batch of five tokens and four experts, scores as binary32 patterns. -/
def batch : List RouterSub :=
  [[(2, 0x3F400000), (0, 0x3E800000), (1, 0x3E800000)], [(2, 0x3F000000), (3, 0x3F000000)], [(2, 0x3F200000), (1, 0x3EC00000)],
    [(0, 0x3F000000), (1, 0x3F000000)], [(1, 0x3F600000), (0, 0x3E000000)]].zipIdx.map fun e => ⟨0, 0, 0, e.2, true, 0, e.1⟩

def desc : RouterDesc := ⟨false, true, 2, 0, 4, 2, 5, 1, 0⟩

theorem test_router_slots : (batchAssign desc batch).map (·.map fun a => (a.expert, a.slot)) =
    [[(2, 0), (0, 0)], [(2, 1), (3, 0)], [(2, 0xFFFF), (1, 0)], [(0, 1), (1, 1)], [(1, 0xFFFF), (0, 0xFFFF)]] := by decide +kernel

/-- Token 2's record and expert 1's list header. -/
theorem test_router_records : tokenRecord 2 ((batchAssign desc batch).getD 2 []) = leBytes 8 0x00000000FFFF0002 ++ leBytes 8 0x3EC0000000000001 ∧
    (expertList desc batch (batchAssign desc batch) 1).take 8 = leBytes 8 0x10002 := by decide +kernel

/-- 06_sparsity_and_routing.md after R180: with SEL 8, SINK 1 and LOCAL 2 of 40 keys, 0, 38 and 39 and the five best others. -/
theorem test_selection : chooseKeys 8 1 2 40 ((List.range 40).map fun i => (i, 0x3F800000 + 0x10000 * (i % 7))) =
    [0, 6, 13, 20, 27, 34, 38, 39] := by decide +kernel

/-- 09_weight_streaming.md after R263: the packed shard of 80 bytes, and elements 19 and 28 of it. -/
def packed : List Byte := leBytes 16 0x5002015043 ++ [0x00, 0xC0, 0x80, 0x3F, 0xA3, 0xF0, 0x55, 0x1C, 0x28, 0x7E, 0x90, 0xB4, 0x87] ++ List.replicate 16 7

theorem test_cp1 : packed.length = 45 ∧ (cp1Decode .bf16 packed).map (fun b => (b.length, leAt b 38 2, leAt b 56 2)) = some (80, 0x3F8F, 0x3F80) := by
  decide +kernel

/-- 07_backward_pass.md after R210: 1.0, 2^-24, 2^-24 and -1.0 accumulate to +0 in ascending order, to 2^-23 in another. -/
theorem test_wide_order : [0x3F800000, 0x33800000, 0x33800000, 0xBF800000].foldl add32 0 = 0 ∧
    [0xBF800000, 0x33800000, 0x33800000, 0x3F800000].foldl add32 0 = 0x34000000 := by decide +kernel

/-- 13_scroll_and_fret_map.md after R376: columns 40 and then 101 condemned. -/
theorem test_placement : [39, 40, 127].map (physOf (placeOf [40])) = [39, 41, 128] ∧
    [39, 40, 99, 100, 127].map (physOf (placeOf [40, 101])) = [39, 41, 100, 102, 129] := by decide +kernel

/-- 17_bring_up_and_self_test.md after R467: three FAIL votes of four condemn column 40, one vote of column 128 leaves
the spare. -/
theorem test_votes : let k : Core := ⟨21, 44, 40⟩
    let spare : Core := ⟨21, 44, 129⟩
    let v : Votes := ⟨[(k, .west), (k, .east), (k, .south), (spare, .west)], [], []⟩
    condemns (({} : Fret).votes [] v k) = true ∧ ({} : Fret).votes [] v k = (3, 4) ∧ condemns (({} : Fret).votes [] v spare) = false := by
  decide +kernel

/-- 14_power_thermal_scheduling.md after R395: a full cycle of 18 K wears 0.405 ppm, one of 40 K 2 ppm, in units of
1/1600 ppm. -/
theorem test_wear : (({} : Thermal).cycle 18 2).wear = 648 ∧ (({} : Thermal).cycle 40 2).wear = 3200 := by decide

/-- 15_checkpoint_and_replay.md after R403: three parity events over 0.4 per hour cost 250; dips at three times their
base rate cost 60. -/
theorem test_penalties : penalty 1 50 250 3 10 8640 = 250 ∧ penalty 10 30 150 6 288 8640 = 60 := by decide

/-- 11_fabric_and_string_modules.md after R314: an hour at 75 C counts twice an hour at 65 C. -/
theorem test_life : lifeFactorOf 75 = 2 * lifeFactorOf 65 := by decide +kernel

/-- 12_host_interface_and_contexts.md after R331: COUNTER 3,145,800 writes CEIL 4,194,304. -/
theorem test_ceiling : ceilingOf 3145800 = 4194304 := by decide

/-- 20_electrical_and_mechanical.md after R511: water at 40 and 50 C and 60.0 L/min. -/
theorem test_coolant : ∃ u, exec (.coolantSample 40 50 600) live = .next u ∧ u.coolant = BitVec.ofNat 32 (80 + 90 * 2 ^ 8 + 600 * 2 ^ 16) := by
  exact ⟨_, rfl, by decide +kernel⟩

/-- R42, R68: the last index of the store is 1,535; `br` to it goes there. -/
theorem test_branch : ∃ u, exec (.br 0 (BitVec.ofNat 54 (1535 * 2 ^ 43))) (running tile {}) = .next u ∧ ((u.slotOf 0 1).pc, (u.slotOf 0 1).progress) = (1535, 1) := by
  exact ⟨_, rfl, by decide +kernel⟩

/-- Words written out from R73 and R513, the last two of an opcode and of a class that R513 does not assign. -/
theorem test_decode_words :
    [0x0180000000000001, 0x1240000000000000, 0x2040000000000000, 0x3040000000000000, 0x3041000000000000,
      0x4000000000000000, 0x5440000000000000, 0x6080000000000000, 0x7040000000000000, 0x0200000000000000#64,
      0x8000000000000000].map (decodeTileWord 5) =
    [some (.wait 5 1), some (.cmp 5 0), some (.st 5 0), some (.send 5 0), some (.sendChain 5 0x1000000000000), some (.mma 5 0),
      some (.vred 5 0), some (.fnb 5 0), some (.asub 5 0), none, none] := by decide

/-! ### Ill-formed commands (WellFormed.lean) -/

/-- A line of 63 bytes, an entry of 127, six credits, a payload of 4,097, a tag of 31 and a digest of 63 are refused by `wf`. -/
theorem test_ill_formed :
    Instr.wf (.hdmWrite 0 (List.replicate 63 0)) = false ∧ Instr.wf (.tailLineWrite 0 1 [some ⟨List.replicate 127 0, []⟩] false) = false ∧
      Instr.wf (.linkCredit 0 (List.replicate 6 0)) = false ∧
      Instr.wf (.data 0 ⟨1, 0, 0, 7, 5, 0, 0, 0, 4, 0, 0, List.replicate 4097 0⟩) = false ∧
      Instr.wf (.time 0 ⟨0x50, 0, 0, 7, 5, 0, 0, 0, 6, 0, 0, List.replicate 4097 0⟩ ⟨.sync, 0, 0⟩ 0) = false ∧
      Instr.wf (.resume 0 ⟨0, 0, 0, List.replicate 31 0⟩) = false ∧
      Instr.wf (.switchVersion 0 ⟨0, 0, 0, List.replicate 32 0⟩ 0 (List.replicate 63 0)) = false := by decide +kernel

/-- What they are answered with (log 5). -/
theorem test_ill_formed_fault : exec (.hdmWrite 0 []) live = .fault .malformed := rfl

end Sys2Proof.Tests
end

namespace Sys2Proof

/-- The rows that do more in OFF or FAILED than nothing, or whose outcome is not framed by `act`: pins and link, clock
domains, resets, and accesses to the registers that answer in those states (R3, R443, R503 to R505). -/
def Instr.unframed : Instr → Bool
  | .cxlLinkUp | .cxlPerstAssert | .cxlPerstRelease | .thermtrip | .pllLockLost _ | .pllLockRegained _
  | .coldResetAssert | .coldResetRelease _ | .powerLoss | .msixUnmask | .regReadLatch .. | .registerWrite .. => true
  | _ => false

end Sys2Proof

namespace Sys2Proof.Machine

theorem exec_framed_of_act {c : Instr} {f : State → State} (hw : c.wf = true) (he : ∀ s, exec c s = act f s) :
    ∃ g, ∀ s, exec c s = actIf c.wf g s :=
  ⟨f, fun s => by rw [he, hw]; rfl⟩

/-- Every other row is a function of the state in the frame of `actIf`, guarded by its own well-formedness. -/
theorem exec_framed (c : Instr) (h : c.unframed = false) : ∃ f, ∀ s, exec c s = actIf c.wf f s := by
  cases c with
  | cxlLinkUp | cxlPerstAssert | cxlPerstRelease | thermtrip | pllLockLost | pllLockRegained | coldResetAssert
  | coldResetRelease | powerLoss | msixUnmask | regReadLatch | registerWrite => exact absurd h (by simp [Instr.unframed])
  | hdmWrite | tailLineWrite | linkCredit | data | credit | settled | shardReq | shardData | shardAbsent | shardPush
  | manifestData | pageData | pageErr | wbAck | wbNak | redBlock | redPrepass | bypassNotice | ckptPage | ckptPageAck
  | ckptRecord | ckptManifest | ckptManifestAck | ckptSealAck | ckptFetch | ckptFetchData | ckptAbsent | ckptDurable
  | mgmt | reject | time | loadScroll | startReduction | stepStart | hold | holdEnd | resume | capo | teardown
  | teardownCtx | readStatus | create | fwUpdate | timeRole | recoveryReset | powerLimit | mapWindow | powerStateActive
  | powerStateRest | powerStatePark | keyChange | fence | readmit | switchVersion | restoreMemory | restoreBuddy
  | restoreDurable => exact ⟨_, fun _ => rfl⟩
  | _ => exact exec_framed_of_act rfl fun _ => rfl

end Sys2Proof.Machine

namespace Sys2Proof.Machine

/-- A row outside the frame of `actIf` carries no byte string, and is answered with a next state. -/
theorem exec_unframed {c : Instr} (h : c.unframed = true) (s : State) : c.wf = true ∧ ∃ u, exec c s = .next u := by
  cases c with
  | cxlLinkUp | cxlPerstAssert | cxlPerstRelease | thermtrip | pllLockLost | pllLockRegained | coldResetAssert
  | coldResetRelease | powerLoss | msixUnmask | regReadLatch => exact ⟨rfl, _, rfl⟩
  | registerWrite path off v =>
    refine ⟨rfl, ?_⟩
    simp only [exec, execRegisterWrite]
    split <;> exact ⟨_, rfl⟩
  | _ => cases h

end Sys2Proof.Machine

section
open Sys2Proof Sys2Proof.Machine

/-- Settles O57: a row either stands in the frame of `actIf`, which answers by its well-formedness, or carries no byte
string and answers with a next state. -/
theorem everyCommandAnswers : Obligations.EveryCommandAnswers := by
  intro c s
  cases hu : c.unframed with
  | true =>
    obtain ⟨hw, hn⟩ := exec_unframed hu s
    exact ⟨fun _ => hn, fun h => absurd hw (by simp [h])⟩
  | false =>
    obtain ⟨f, hf⟩ := exec_framed c hu
    refine ⟨fun h => ⟨_, by rw [hf, h]; rfl⟩, fun h => by rw [hf, h]; rfl⟩

end

namespace Sys2Proof.Machine


end Sys2Proof.Machine

namespace Sys2Proof.Machine

variable {s u : State} {c : Instr}

/-- In FAILED a framed row has no effect (R443). -/
theorem exec_framed_failed (h : c.unframed = false) (hf : s.hng.failed = true) (hx : exec c s = .next u) : u = s := by
  obtain ⟨f, hc⟩ := exec_framed c h
  rw [hc, actIf] at hx
  split at hx
  · simpa [act, actOr, State.dead, hf, eq_comm] using hx
  · cases hx

theorem exec_actOr_failed {d f : State → State} (hf : s.hng.failed = true) (he : ∀ s, exec c s = actOr d f s)
    (hx : exec c s = .next u) : u = d s := by
  rw [he] at hx
  simpa [actOr, State.dead, hf, eq_comm] using hx

/-- What accesses to the MSI-X table may change in FAILED: its words and masks, and a pending message that leaves. -/
structure MsixOnly (s u : State) : Prop where
  regs : ∀ o, o < 0x18000 ∨ 0x18010 ≤ o → u.reg o = s.reg o
  sent : u.out = s.out ∨ u.out = s.out ++ [.msix] ∧ s.pins.pendingBit = true ∧ u.pins.pendingBit = false
  rest : u = { s with
    regs := u.regs, out := u.out
    pins := { s.pins with
      vectorMasked := u.pins.vectorMasked, functionMasked := u.pins.functionMasked, pendingBit := u.pins.pendingBit } }

theorem MsixOnly.refl (s : State) : MsixOnly s s := ⟨fun _ _ => rfl, .inl rfl, rfl⟩

/-- A pending message leaves in FAILED, the vector open and the link up, whatever causes are set (R443). -/
theorem release_failed (hf : s.hng.failed = true) (hl : s.pins.linkUp = true) (hv : s.vectorHeld = false)
    (hp : s.pins.pendingBit = true) :
    s.release = { s with pins := { s.pins with pendingBit := false }, out := s.out ++ [.msix] } := by
  simp [State.release, hl, hv, hp, State.alert, hf, State.emit]

theorem release_failed_cases (hf : s.hng.failed = true) : s.release = s ∨ s.pins.pendingBit = true ∧
    s.release = { s with pins := { s.pins with pendingBit := false }, out := s.out ++ [.msix] } := by
  by_cases h : (s.pins.linkUp && !s.vectorHeld && s.pins.pendingBit) = true
  · simp only [Bool.and_eq_true, Bool.not_eq_true'] at h
    obtain ⟨⟨hl, hv⟩, hp⟩ := h
    exact .inr ⟨hp, release_failed hf hl hv hp⟩
  · exact .inl (by simp [State.release, h])

theorem msixOnly_masks (hf : s.hng.failed = true) (v f : Bool) :
    MsixOnly s ({ s with pins := { s.pins with vectorMasked := v, functionMasked := f } } : State).release := by
  rcases release_failed_cases (s := { s with pins := { s.pins with vectorMasked := v, functionMasked := f } }) hf with
    h | ⟨hp, h⟩
  · rw [h]; exact ⟨fun _ _ => rfl, .inl rfl, rfl⟩
  · rw [h]; exact ⟨fun _ _ => rfl, .inr ⟨rfl, hp, rfl⟩, rfl⟩

theorem msixOnly_writeMsix (hf : s.hng.failed = true) {o : Nat} (ho : isMsix o = true) (v : Word) :
    MsixOnly s (s.writeMsix o v) := by
  unfold State.writeMsix
  split
  · exact msixOnly_masks hf _ _
  · split
    · have h0 : 0x18000 ≤ o := by
        simp only [isMsix, Bool.or_eq_true, Bool.and_eq_true, decide_eq_true_eq] at ho
        omega
      exact ⟨fun q hq => s.reg_setReg_ne _ (by omega), .inl rfl, rfl⟩
    · exact .refl s

theorem msixOnly_registerWrite (hf : s.hng.failed = true) {path : RegPath} {off : Nat} {v : Word}
    (hx : exec (.registerWrite path off v) s = .next u) : MsixOnly s u := by
  simp only [exec, execRegisterWrite, hf, Bool.true_and] at hx
  split at hx
  · rename_i h
    obtain ⟨hm, hp⟩ := Bool.and_eq_true_iff.mp h
    obtain rfl := eq_of_beq hp
    cases hx
    unfold State.writeBy
    split
    · exact .refl s
    · simpa only [State.writeWord, hm, if_true] using msixOnly_writeMsix hf hm v
  · obtain rfl : s = u := by simpa [act, actOr, State.dead, hf] using hx
    exact .refl s

theorem msixOnly_msixUnmask (hf : s.hng.failed = true) (hx : exec .msixUnmask s = .next u) : MsixOnly s u := by
  simp only [exec, execMsixUnmask, Host.Outcome.next.injEq] at hx
  subst hx
  split
  · exact .refl s
  · exact msixOnly_masks hf _ _

/-- A read changes the latches of its path and answers one word. -/
theorem readReg_cases (s : State) (path : RegPath) (off : Nat) :
    (s.readReg path off).2 = s ∨ ∃ t, (s.readReg path off).2 = s.setLatch path t := by
  unfold State.readReg
  split
  · exact .inl rfl
  · split
    · exact .inr ⟨_, rfl⟩
    · exact .inl rfl

/-- What a read leaves in FAILED: nothing, a zero, or one word of a block that is read there, with the latches it sets. -/
theorem regReadLatch_failed {path : RegPath} {off : Nat} (hf : s.hng.failed = true)
    (hx : exec (.regReadLatch path off) s = .next u) : u = s ∨ u = s.emit (.registerData path 0) ∨
      (off % 4 = 0 → failedReads off = true) ∧ ∃ w t, u = (s.setLatch path t).emit (.registerData path w) := by
  simp only [exec, execRegReadLatch, Host.Outcome.next.injEq] at hx
  rw [if_pos hf] at hx
  by_cases hr : (!s.reaches path) = true
  · exact .inl (by rw [← hx, if_pos hr])
  rw [if_neg hr] at hx
  by_cases ha : off % 4 ≠ 0 ∨ 0x4000000 ≤ off ∨ (!failedReads off) = true
  · exact .inr (.inl (by rw [← hx, if_pos ha]))
  rw [if_neg ha] at hx
  refine .inr (.inr ⟨fun _ => by simpa using (not_or.mp (not_or.mp ha).2).2, ?_⟩)
  subst hx
  have self : s = s.setLatch path (s.latchOf path) := by cases path <;> rfl
  rcases readReg_cases s path off with hq | ⟨t, hq⟩
  · exact ⟨(s.readReg path off).1, s.latchOf path, by simp only [hq]; rw [← self]⟩
  · exact ⟨(s.readReg path off).1, t, by simp only [hq]⟩

/-- What a row other than the two that reset leaves in FAILED. The clauses of single rows hold by default of the others. -/
structure FailedStep (s u : State) (c : Instr) : Prop where
  failed : u.hng.failed = true
  up : u.pins.coldResetN = true
  out : u.out = s.out ∨ u.out = s.out ++ [.msix] ∨ ∃ path w, u.out = s.out ++ [.registerData path w]
  regs : ∀ o, o < 0x18000 ∨ 0x18010 ≤ o → u.reg o = s.reg o
  rest : u = { s with
    regs := u.regs, out := u.out, latch := u.latch, sideLatch := u.sideLatch, clkLost := u.clkLost
    pins := { u.pins with regOffN := s.pins.regOffN, coldResetN := s.pins.coldResetN } }
  pins : c ≠ .cxlPerstAssert → c ≠ .cxlPerstRelease → c ≠ .cxlLinkUp →
    (∀ d, c ≠ .pllLockLost d ∧ c ≠ .pllLockRegained d) → u.clkLost = s.clkLost ∧ u.pins = { s.pins with
      vectorMasked := u.pins.vectorMasked, functionMasked := u.pins.functionMasked, pendingBit := u.pins.pendingBit
      thermtripN := s.pins.thermtripN && c != .thermtrip }
  perstAssert : c = .cxlPerstAssert → u.pins.perstN = false ∧ u.pins.linkUp = false := by nofun
  perstRelease : c = .cxlPerstRelease → u.pins = { s.pins with perstN := true } := by nofun
  link : c = .cxlLinkUp → s.mayLink = true → u.pins.linkUp = true ∧
    (s.pins.linkUp = false → s.pins.pendingBit = true → s.vectorHeld = false →
      u.pins.pendingBit = false ∧ u.out = s.out ++ [.msix]) := by nofun
  sent : (∀ path off, c ≠ .regReadLatch path off) → u.latch = s.latch ∧ u.sideLatch = s.sideLatch ∧
    (u.out ≠ s.out → s.pins.pendingBit = true ∧ u.pins.pendingBit = false)
  read : ∀ path off, c = .regReadLatch path off → u.regs = s.regs ∧ u.pins = s.pins ∧
    (off % 4 = 0 → 0x10000 ≤ off → (off < 0x18000 ∨ 0x18010 ≤ off) → (off < 0x19000 ∨ 0x19008 ≤ off) →
      (off < 0x500000 ∨ 0x580000 ≤ off) → u.latch = s.latch ∧ u.sideLatch = s.sideLatch ∧
        (u.out = s.out ∨ u.out = s.out ++ [.registerData path 0])) := by nofun

section
variable (hf : s.hng.failed = true) (hr : s.pins.coldResetN = true)
include hf hr

/-- An access to the MSI-X table is such a step, for a row that has no clause of its own. -/
theorem MsixOnly.failedStep (h : MsixOnly s u) (ht : c ≠ .thermtrip) (ha : c ≠ .cxlPerstAssert)
    (hp : c ≠ .cxlPerstRelease) (hl : c ≠ .cxlLinkUp) (hd : ∀ path off, c ≠ .regReadLatch path off) : FailedStep s u c := by
  obtain ⟨hregs, hsent, hrest⟩ := h
  have hpins := congrArg State.pins hrest
  exact {
    failed := by rw [hrest]; exact hf
    up := by rw [hrest]; exact hr
    out := by tauto
    regs := hregs
    rest := by rw [hrest]
    pins := fun _ _ _ _ => ⟨by rw [hrest], by rw [hpins]; simp [ht]⟩
    perstAssert := fun h => absurd h ha
    perstRelease := fun h => absurd h hp
    link := fun h => absurd h hl
    sent := fun _ => ⟨by rw [hrest], by rw [hrest], by tauto⟩
    read := fun path off h => absurd h (hd path off) }

theorem failedStep_thermtrip : FailedStep s s.trip .thermtrip where
  failed := hf
  up := hr
  out := .inl rfl
  regs _ _ := rfl
  rest := rfl
  pins _ _ _ _ := ⟨rfl, by simp [State.trip]⟩
  sent _ := ⟨rfl, rfl, fun h => absurd rfl h⟩

/-- The rows that only move the pins and clocks that others drive. -/
theorem failedStep_pins (p : Pins) (m : BitVec 40) (hp : p.coldResetN = true) (ho : p.regOffN = s.pins.regOffN)
    (hc : c = .cxlPerstAssert ∧ p.perstN = false ∧ p.linkUp = false ∨
      c = .cxlPerstRelease ∧ p = { s.pins with perstN := true } ∨
      ∃ d, c = .pllLockLost d ∨ c = .pllLockRegained d) :
    FailedStep s { s with pins := p, clkLost := m } c where
  failed := hf
  up := hp
  out := .inl rfl
  regs _ _ := rfl
  rest := by obtain ⟨⟩ := p; simp_all
  pins h1 h2 _ h3 := by
    obtain h | h | ⟨d, h | h⟩ := hc
    exacts [absurd h.1 h1, absurd h.1 h2, absurd h (h3 d).1, absurd h (h3 d).2]
  perstAssert h := by subst h; simpa using hc
  perstRelease h := by subst h; simpa using hc
  link h := by subst h; simp at hc
  sent _ := ⟨rfl, rfl, fun h => absurd rfl h⟩
  read _ _ h := by subst h; simp at hc

/-- The link comes up where it may train and is down; a pending message leaves with it (R443, R505). -/
theorem failedStep_linkUp (hx : exec .cxlLinkUp s = .next u) : FailedStep s u .cxlLinkUp := by
  simp only [exec, execCxlLinkUp, actOr, State.dead, hf, Bool.true_or, if_true, Host.Outcome.next.injEq] at hx
  by_cases hup : (!s.mayLink || s.pins.linkUp) = true
  · rw [if_pos hup] at hx
    subst hx
    refine ⟨hf, hr, .inl rfl, fun _ _ => rfl, rfl, fun _ _ h _ => absurd rfl h, nofun, nofun, fun _ hm => ?_,
      fun _ => ⟨rfl, rfl, fun h => absurd rfl h⟩, nofun⟩
    have hl : s.pins.linkUp = true := by simpa [hm] using hup
    exact ⟨hl, fun h => by simp [hl] at h⟩
  · rw [if_neg hup] at hx
    have hfu : ({ s with pins := { s.pins with linkUp := true } } : State).hng.failed = true := hf
    have link : s.pins.pendingBit = true → s.vectorHeld = false → u.pins.pendingBit = false ∧ u.out = s.out ++ [.msix] :=
      fun hp hv => by subst hx; rw [release_failed hfu rfl hv hp]; exact ⟨rfl, rfl⟩
    rcases release_failed_cases hfu with h | ⟨hp, h⟩
    all_goals
      rw [h] at hx
      subst hx
    · exact ⟨hf, hr, .inl rfl, fun _ _ => rfl, rfl, fun _ _ h _ => absurd rfl h, nofun, nofun, fun _ _ => ⟨rfl, fun _ => link⟩,
        fun _ => ⟨rfl, rfl, fun h => absurd rfl h⟩, nofun⟩
    · exact ⟨hf, hr, .inr (.inl rfl), fun _ _ => rfl, rfl, fun _ _ h _ => absurd rfl h, nofun, nofun,
        fun _ _ => ⟨rfl, fun _ => link⟩, fun _ => ⟨rfl, rfl, fun _ => ⟨hp, rfl⟩⟩, nofun⟩

/-- A read answers one word and sets its latches; what it may change is so for any path, word and latches `t`. -/
theorem failedStep_read {path : RegPath} {off : Nat} (hx : exec (.regReadLatch path off) s = .next u) :
    FailedStep s u (.regReadLatch path off) := by
  have step : ∀ (l m : Tab Word) (o : List Output), (o = s.out ∨ ∃ w, o = s.out ++ [.registerData path w]) →
      (off % 4 = 0 → failedReads off = false → l = s.latch ∧ m = s.sideLatch ∧
        (o = s.out ∨ o = s.out ++ [.registerData path 0])) →
      FailedStep s { s with latch := l, sideLatch := m, out := o } (.regReadLatch path off) := by
    intro l m o hout hread
    refine ⟨hf, hr, hout.imp_right fun ⟨w, h⟩ => .inr ⟨path, w, h⟩, fun _ _ => rfl, rfl, fun _ _ _ _ => ⟨rfl, ?_⟩,
      nofun, nofun, nofun, fun h => absurd rfl (h path off), ?_⟩
    · rw [show (Instr.regReadLatch path off != .thermtrip) = true from bne_iff_ne.mpr nofun, Bool.and_true]
    · rintro _ _ ⟨⟩
      refine ⟨rfl, rfl, fun h4 h1 h2 h3 h5 => hread h4 ?_⟩
      simp only [failedReads, isMsix, Bool.or_eq_false_iff, Bool.and_eq_false_iff, decide_eq_false_iff_not]
      omega
  rcases regReadLatch_failed hf hx with rfl | rfl | ⟨hb, w, t, rfl⟩
  · exact step _ _ _ (.inl rfl) fun _ _ => ⟨rfl, rfl, .inl rfl⟩
  · exact step _ _ _ (.inr ⟨0, rfl⟩) fun _ _ => ⟨rfl, rfl, .inr rfl⟩
  · have none : off % 4 = 0 → failedReads off = false → False := fun h h' => by simp [hb h] at h'
    cases path with
    | bar0 => exact step t s.sideLatch _ (.inr ⟨w, rfl⟩) fun h h' => (none h h').elim
    | sideband => exact step s.latch t _ (.inr ⟨w, rfl⟩) fun h h' => (none h h').elim

/-- Every row but the two resets: a framed one stands still, any other has its own outcome. -/
theorem failedStep (hx : exec c s = .next u) (h1 : c ≠ .coldResetAssert) (h2 : c ≠ .powerLoss) : FailedStep s u c := by
  cases hu : c.unframed with
  | false =>
    obtain rfl := exec_framed_failed hu hf hx
    have ne : ∀ d, d.unframed = true → c ≠ d := by rintro _ hd rfl; simp [hu] at hd
    exact (MsixOnly.refl u).failedStep hf hr (ne _ rfl) (ne _ rfl) (ne _ rfl) (ne _ rfl) fun _ _ => ne _ rfl
  | true =>
    cases c with
    | thermtrip => rw [exec_actOr_failed hf (fun _ => rfl) hx]; exact failedStep_thermtrip hf hr
    | cxlPerstAssert =>
      rw [exec_actOr_failed hf (fun _ => rfl) hx]
      exact failedStep_pins hf hr _ s.clkLost hr rfl (.inl ⟨rfl, rfl, rfl⟩)
    | cxlPerstRelease =>
      rw [exec_actOr_failed hf (fun _ => rfl) hx]
      exact failedStep_pins hf hr _ s.clkLost hr rfl (.inr (.inl ⟨rfl, rfl⟩))
    | pllLockLost d =>
      rw [exec_actOr_failed hf (fun _ => rfl) hx]
      dsimp only
      split
      · exact failedStep_pins hf hr _ _ hr rfl (.inr (.inr ⟨d, .inl rfl⟩))
      · exact failedStep_pins hf hr s.pins _ hr rfl (.inr (.inr ⟨d, .inl rfl⟩))
    | pllLockRegained d =>
      rw [exec_actOr_failed hf (fun _ => rfl) hx]
      exact failedStep_pins hf hr s.pins _ hr rfl (.inr (.inr ⟨d, .inr rfl⟩))
    | cxlLinkUp => exact failedStep_linkUp hf hr hx
    | regReadLatch path off => exact failedStep_read hf hr hx
    | coldResetRelease b =>
      obtain rfl : s = u := by simpa [exec, execColdResetRelease, hr] using hx
      exact (MsixOnly.refl s).failedStep hf hr nofun nofun nofun nofun nofun
    | msixUnmask => exact (msixOnly_msixUnmask hf hx).failedStep hf hr nofun nofun nofun nofun nofun
    | registerWrite => exact (msixOnly_registerWrite hf hx).failedStep hf hr nofun nofun nofun nofun nofun
    | coldResetAssert => exact absurd rfl h1
    | powerLoss => exact absurd rfl h2
    | _ => cases hu

end

end Sys2Proof.Machine

section
open Sys2Proof Sys2Proof.Machine

/-- Settles O58: the two resets leave FAILED by what `State.cold` keeps, and every other row is a `FailedStep`. -/
theorem failedHolds : Obligations.FailedHolds := by
  intro s u c hf hr hx
  refine ⟨?_, fun h1 h2 => ?_⟩
  · rintro (rfl | rfl)
    · cases hx; exact ⟨rfl, rfl, rfl⟩
    · cases hx; exact ⟨rfl, rfl, rfl⟩
  · obtain ⟨failed, up, out, regs, rest, pins, assert, release, link, sent, read⟩ := failedStep hf hr hx h1 h2
    exact ⟨failed, up, out, regs, rest, pins, assert, release, link, sent, read⟩

end

section
open Sys2Proof Sys2Proof.Machine

/-- Settles O60: what is stored after reset is read off the reset state, and the settings from `resetOf`. -/
theorem afterReset : Obligations.AfterReset := by
  have bounded : CountersBounded State.reset := by decide +kernel
  have rings : ∀ r : Fin 9, State.reset.rings[r] = {} := fun r => Vector.getElem_replicate r.2
  have ctxs : ∀ c : Fin 8, State.reset.ctx c = {} := fun c => Vector.getElem_replicate c.2
  have ports : ∀ p : Fin 64, State.reset.ports[p] = {} := fun p => Vector.getElem_replicate p.2
  have windows : ∀ w : Fin 32, State.reset.windows[w] = {} := fun w => Vector.getElem_replicate w.2
  have tiles : ∀ t : TileId, State.reset.tile t = {} := fun _ => rfl
  refine ⟨bounded, rfl, rfl, rfl, rfl, rfl, rfl, rfl, rfl, fun r => ?_, fun c => ?_, fun p => ?_, fun w => ?_, fun t k => ?_, ?_⟩
  · rw [rings]; exact ⟨rfl, rfl, rfl, rfl⟩
  · rw [ctxs]; exact ⟨rfl, rfl, rfl, rfl⟩
  · rw [ports]
  · rw [windows]
  · rw [State.slotOf, tiles]
    exact ⟨rfl, rfl, by revert k; decide⟩
  · decide +kernel

end

/-! ### Registers -/

namespace Sys2Proof.Machine

variable (s : State)

theorem State.reg_lt (o : Nat) : s.reg o < 2 ^ 32 := BitVec.isLt _

theorem act_congr {f g : State → State} (h : f s = g s) : act f s = act g s := by simp only [act, actOr, h]

/-! #### Reads -/

theorem wordAt_zero (v : Nat) : wordAt v 0 = BitVec.ofNat 32 v := by simp [wordAt]

theorem readReg_narrow (path : RegPath) {o : Nat} (h : wideOf o = none) :
    s.readReg path o = (BitVec.ofNat 32 (s.view o), s) := by
  simp only [State.readReg, h, wordAt_zero]

theorem readReg_latched (path : RegPath) {o b n : Nat} (h : wideOf o = some (b, n)) (hb : o ≠ b) :
    s.readReg path o = ((s.latchOf path).getD o 0, s) := by
  simp only [State.readReg, h, if_neg hb]

/-- The latches of the words of a wide register above the first, as its first word is read. -/
def latchWords (b v : Nat) (m : Nat) (t : Tab Word) : Tab Word :=
  (List.range m).foldl (fun (t : Tab Word) i => t.set (b + 4 * (i + 1)) (wordAt v (i + 1))) t

theorem latchWords_getD (b v m : Nat) (t : Tab Word) {i : Nat} (h0 : 0 < i) (hi : i ≤ m) :
    (latchWords b v m t).getD (b + 4 * i) 0 = wordAt v i := by
  induction m with
  | zero => omega
  | succ m ih =>
    simp only [latchWords, List.range_succ, List.foldl_append, List.foldl_cons, List.foldl_nil] at ih ⊢
    by_cases he : i = m + 1
    · subst he; exact getD_set_eq _ _ _ _
    · rw [getD_set_ne _ _ _ (by omega)]; exact ih (by omega)

theorem readReg_first (path : RegPath) {b n : Nat} (h : wideOf b = some (b, n)) :
    s.readReg path b = (wordAt (s.view b) 0, s.setLatch path (latchWords b (s.view b) (n - 1) (s.latchOf path))) := by
  simp only [State.readReg, h, if_pos, latchWords]

theorem latchOf_setLatch (path : RegPath) (t : Tab Word) : (s.setLatch path t).latchOf path = t := by cases path <;> rfl

theorem wideOf_ringHead (r : Fin 9) : wideOf (0x2011C + 0x40 * r.1) = none := by revert r; decide

theorem view_ringHead (r : Fin 9) : s.view (0x2011C + 0x40 * r.1) = (s.rings[r]).head.toNat := by
  have hr := r.2
  have hi : finOf 9 ((0x2011C + 0x40 * r.1 - 0x20100) / 0x40) = r := by revert r; decide
  have hk : (0x2011C + 0x40 * r.1 - 0x20100) % 0x40 = 0x1C := by omega
  rw [State.view, if_neg (by omega), if_neg (by omega), if_pos (by omega), State.viewCmd, if_pos (by omega), hi, hk]
  rfl

theorem view_engConfig : s.view 0xC = 0x3FFFE408 := rfl

theorem view_gap {o : Nat} (h : 0x600000 ≤ o) (h' : o < 0x1000000) : s.view o = 0 := by
  simp only [State.view]
  repeat rw [if_neg (by omega)]

theorem wideOf_gap {o : Nat} (h : 0x600000 ≤ o) : wideOf o = none := by
  simp only [wideOf]
  repeat rw [if_neg (by omega)]

/-- The answer to a read that reaches the registers. -/
theorem exec_read (path : RegPath) (off : Nat) (hr : s.reaches path = true) :
    exec (.regReadLatch path off) s =
      .next (if off % 4 ≠ 0 ∨ 0x4000000 ≤ off ∨ (s.hng.failed = true ∧ failedReads off = false) ∨
          (s.hng.failed = false ∧ path = .sideband ∧ sideReads off = false)
        then s.emit (.registerData path 0)
        else (s.readReg path off).2.emit (.registerData path (s.readReg path off).1)) := by
  simp only [exec, execRegReadLatch, hr]
  cases hf : s.hng.failed <;> simp

/-! #### Writes: which of the writes a word is -/

section
variable {s}

theorem write_completes {path : RegPath} {off : Nat} {v : Word} {P : State → Prop} (ha : Alive s)
    (hp : P (s.writeBy path off v)) : Completes s (.registerWrite path off v) P :=
  act_completes (f := fun s => s.writeBy path off v) (by simp [exec, execRegisterWrite, ha.1]) ha hp

theorem writeBy_ignored {path : RegPath} {off : Nat} {v : Word} (h : s.reaches path = false ∨ off % 4 ≠ 0 ∨
    (path = .sideband ∧ off ≠ Reg.irqMask ∧ off ≠ Reg.engIdent)) : s.writeBy path off v = s := by
  unfold State.writeBy
  split
  · rfl
  · rename_i hn
    obtain h | h | ⟨rfl, h1, h2⟩ := h
    · simp [h] at hn
    · exact absurd (.inr h) hn
    · simp [h1, h2]

theorem writeBy_bar0 {off : Nat} {v : Word} (hr : s.reaches .bar0 = true) (h : off % 4 = 0) :
    s.writeBy .bar0 off v = s.writeWord off v := by
  simp [State.writeBy, hr, h]

/-- An offset that none of the writes with an effect of its own takes: a setting's register, or none. -/
structure Plain (o : Nat) : Prop where
  msix : isMsix o = false
  leaf : isLeaf o = false
  low : isWideWrite o = false
  high : ¬(4 ≤ o ∧ isWideWrite (o - 4) = true)
  src : o ≠ Reg.timSrc
  rpl : o ≠ Reg.rplCtrl
  grd : ¬(0x200100 ≤ o ∧ o < 0x200180 ∧ o % 16 = 0)
  ring : ¬(0x20100 ≤ o ∧ o < 0x20340 ∧ (o - 0x20100) % 0x40 = 0x18)
  tile : ¬(0x1000000 ≤ o ∧ o < 0x4000000 ∧ o % 64 = 0x20)

theorem writeWord_plain {o : Nat} (h : Plain o) (hx : settingOf o = none) (v : Word) : s.writeWord o v = s := by
  simp only [State.writeWord, h.msix, h.leaf, h.low, if_neg h.high, if_neg h.src, if_neg h.rpl, if_neg h.grd, if_neg h.ring,
    if_neg h.tile, Bool.false_eq_true, if_false, hx]

theorem plain_of_setting {o : Nat} {x : Setting} (h : settingOf o = some x) : Plain o := by
  have listed : o ∈ [Reg.actSel, Reg.irqMask, Reg.scrCtrl, Reg.memCtrl, Reg.wstCtrl, Reg.grdDigSel, Reg.fabCtrl, Reg.timCtrl,
      Reg.pwrCtrl, Reg.thmCtrl, Reg.thmSel, Reg.ckpCtrl, Reg.ckpWait, Reg.hngCtrl, Reg.samplePage] := by
    by_contra hn
    simp only [List.mem_cons, List.not_mem_nil, or_false, not_or] at hn
    simp [settingOf, hn] at h
  simp only [List.mem_cons, List.not_mem_nil, or_false] at listed
  obtain rfl | rfl | rfl | rfl | rfl | rfl | rfl | rfl | rfl | rfl | rfl | rfl | rfl | rfl | rfl := listed
  all_goals exact ⟨by decide, by decide, by decide, by decide, by decide, by decide, by decide, by decide, by decide⟩

theorem writeWord_setting {o : Nat} {x : Setting} (h : settingOf o = some x) (v : Word) :
    s.writeWord o v = s.writeSetting o x v.toNat := by
  have p := plain_of_setting h
  simp only [State.writeWord, p.msix, p.leaf, p.low, if_neg p.high, if_neg p.src, if_neg p.rpl, if_neg p.grd, if_neg p.ring,
    if_neg p.tile, Bool.false_eq_true, if_false, h]

/-- A cause register is none of the MSI-X table's. -/
theorem isMsix_of_isLeaf {o : Nat} (h : isLeaf o = true) : isMsix o = false := by
  have none : ∀ o ∈ leaves.flatten, isMsix o = false := by decide
  exact none o (by simpa [isLeaf] using h)

theorem writeWord_leaf {o : Nat} (h : isLeaf o = true) (v : Word) : s.writeWord o v = s.clearLeaf o v.toNat := by
  simp only [State.writeWord, isMsix_of_isLeaf h, h, Bool.false_eq_true, if_false, if_true]

end

end Sys2Proof.Machine

namespace Sys2Proof.Machine

variable {s : State}

/-! #### Bits cleared -/

/-- Clearing bit `b` leaves the bits below it. -/
theorem fld_clear_below (x b : Nat) : fld (x - (x &&& 2 ^ b)) 0 b = fld x 0 b := by
  simp only [fld, Nat.shiftRight_zero, Nat.and_two_pow]
  cases h : x.testBit b with
  | false => simp
  | true => rw [Bool.toNat_true, one_mul, ← Nat.mod_eq_sub_mod (Nat.ge_two_pow_of_testBit h)]

/-- Clearing bit `b` clears it. -/
theorem fld_clear_self (x b : Nat) : fld (x - (x &&& 2 ^ b)) b 1 = 0 := by
  simp only [fld, Nat.shiftRight_eq_div_pow, Nat.and_two_pow, pow_one]
  cases h : x.testBit b with
  | false => simpa [Nat.testBit_eq_decide_div_mod_eq] using h
  | true =>
    rw [Nat.testBit_eq_decide_div_mod_eq, decide_eq_true_eq] at h
    rw [Bool.toNat_true, Nat.mul_comm, Nat.sub_mul_div]
    omega

theorem reg_clear (s : State) (o m : Nat) : (s.setReg o (s.reg o - (s.reg o &&& m))).reg o = s.reg o - (s.reg o &&& m) := by
  rw [s.reg_setReg_eq, Nat.mod_eq_of_lt (by have := s.reg_lt o; omega)]

/-- One recording register follows its leaf at `o` (R498). -/
def followLeaf (o : Nat) (s : State) (r : Nat × Nat × Nat) : State :=
  if s.reg o &&& r.1 = 0 then s.setReg r.2.1 (s.reg r.2.1 - (s.reg r.2.1 &&& 2 ^ r.2.2)) else s

theorem clearLeaf_eq (s : State) (o v : Nat) :
    s.clearLeaf o v = (recordsOf o).foldl (followLeaf o) (s.setReg o (s.reg o - (s.reg o &&& v))) := rfl

theorem followLeaf_only (o : Nat) (s : State) (r : Nat × Nat × Nat) :
    followLeaf o s r = { s with regs := (followLeaf o s r).regs } := by
  unfold followLeaf; split <;> rfl

theorem followLeaf_ne {o q : Nat} (s : State) {r : Nat × Nat × Nat} (h : r.2.1 ≠ q) : (followLeaf o s r).reg q = s.reg q := by
  unfold followLeaf
  split
  · exact s.reg_setReg_ne _ h.symm
  · rfl

theorem follow_only (o : Nat) (l : List (Nat × Nat × Nat)) (s : State) :
    l.foldl (followLeaf o) s = { s with regs := (l.foldl (followLeaf o) s).regs } := by
  induction l generalizing s with
  | nil => rfl
  | cons r l ih => rw [List.foldl_cons, ih, followLeaf_only]

theorem follow_ne {o q : Nat} {l : List (Nat × Nat × Nat)} (s : State) (h : ∀ r ∈ l, r.2.1 ≠ q) :
    (l.foldl (followLeaf o) s).reg q = s.reg q := by
  induction l generalizing s with
  | nil => rfl
  | cons r l ih => rw [List.foldl_cons, ih _ fun r hr => h r (.tail _ hr), followLeaf_ne s (h r (.head _))]

/-- Registers that differ each follow the leaf, as if alone. -/
theorem follow_mem {o : Nat} {l : List (Nat × Nat × Nat)} (s : State) (ho : ∀ r ∈ l, r.2.1 ≠ o)
    (hd : l.Pairwise fun a b => a.2.1 ≠ b.2.1) {r : Nat × Nat × Nat} (hr : r ∈ l) :
    (l.foldl (followLeaf o) s).reg r.2.1 = if s.reg o &&& r.1 = 0
      then s.reg r.2.1 - (s.reg r.2.1 &&& 2 ^ r.2.2) else s.reg r.2.1 := by
  induction l generalizing s with
  | nil => cases hr
  | cons a l ih =>
    obtain ⟨ha, hl⟩ := List.pairwise_cons.mp hd
    rw [List.foldl_cons]
    rcases List.mem_cons.mp hr with rfl | hm
    · rw [follow_ne _ fun b hb => (ha b hb).symm, followLeaf]
      split
      · rw [reg_clear]
      · rfl
    · rw [ih _ (fun r h => ho r (.tail _ h)) hl hm, followLeaf_ne s (ho a (.head _)), followLeaf_ne s (ha r hm)]

/-- The recording registers of a leaf differ from it and from each other. -/
theorem recordsOf_apart {o : Nat} (h : isLeaf o = true) :
    (∀ r ∈ recordsOf o, r.2.1 ≠ o) ∧ (recordsOf o).Pairwise fun a b => a.2.1 ≠ b.2.1 := by
  have all : ∀ o ∈ leaves.flatten, (∀ r ∈ recordsOf o, r.2.1 ≠ o) ∧ (recordsOf o).Pairwise fun a b => a.2.1 ≠ b.2.1 := by
    decide
  exact all o (by simpa [isLeaf] using h)

/-- What a write to a leaf leaves: the leaf without the bits written 1, each recording register's value, and VALID gone
where its bits are clear (R494, R498). -/
theorem clearLeaf_spec (s : State) {o : Nat} (v : Nat) (h : isLeaf o = true) :
    let u := s.clearLeaf o v
    u = { s with regs := u.regs } ∧ u.reg o = s.reg o - (s.reg o &&& v) ∧
      (∀ q, q ≠ o → (∀ r ∈ recordsOf o, r.2.1 ≠ q) → u.reg q = s.reg q) ∧
      ∀ r ∈ recordsOf o, u.rfld r.2.1 0 r.2.2 = s.rfld r.2.1 0 r.2.2 ∧
        u.rfld r.2.1 r.2.2 1 = if u.reg o &&& r.1 = 0 then 0 else s.rfld r.2.1 r.2.2 1 := by
  intro u
  obtain ⟨apart, pairs⟩ := recordsOf_apart h
  have leaf : u.reg o = s.reg o - (s.reg o &&& v) := (follow_ne _ apart).trans (reg_clear s o v)
  refine ⟨follow_only _ _ _, leaf, fun q hq hr => (follow_ne _ hr).trans (s.reg_setReg_ne _ hq), fun r hr => ?_⟩
  have value : u.reg r.2.1 = _ := follow_mem (s.setReg o (s.reg o - (s.reg o &&& v))) apart pairs hr
  rw [reg_clear, s.reg_setReg_ne _ (apart r hr)] at value
  simp only [State.rfld, value, leaf]
  split
  · exact ⟨fld_clear_below _ _, fld_clear_self _ _⟩
  · exact ⟨rfl, rfl⟩

/-! #### Writes: what each leaves -/

theorem writeSetting_plain {o : Nat} {x : Setting} (s : State) (v : Nat) (ho : o ≠ Reg.timCtrl) :
    s.writeSetting o x v = if x.admits v then s.setReg o (x.apply (s.reg o) v) else s.cause x.reject.1 x.reject.2 := by
  simp only [State.writeSetting, if_neg ho]

theorem ppsOff_eq (s : State) : s.ppsOff = { s with time := { s.time with
    state := if s.time.grandmaster = true ∧ s.rfld Reg.timCtrl 3 1 = 0 then .free else s.time.state } } := by
  unfold State.ppsOff
  by_cases h : s.time.grandmaster = true ∧ s.rfld Reg.timCtrl 3 1 = 0
  · rw [if_pos h]
    by_cases hs : s.time.state = .free
    · rw [if_neg (by simp [hs]), ← hs]
    · rw [if_pos (by simp [h, hs])]
  · rw [if_neg h, if_neg]
    simpa using fun h1 h2 => absurd ⟨h1, h2⟩ h

/-- TIM_CTRL takes PPS_IN and PRIORITY, whatever is written, and a grandmaster without PPS_IN runs free (R316). -/
theorem writeWord_timCtrl (s : State) (v : Word) :
    let u := s.writeWord Reg.timCtrl v
    u.rfld Reg.timCtrl 3 4 = fld v.toNat 3 4 ∧ u = { s with
      regs := u.regs
      time := { s.time with state := if s.time.grandmaster = true ∧ fld v.toNat 3 1 = 0 then .free else s.time.state } } := by
  have hset : settingOf Reg.timCtrl = some ⟨[(3, 1, 0, 1), (4, 3, 0, 7)], (Reg.timCause, 4)⟩ := rfl
  have admitted : Setting.admits ⟨[(3, 1, 0, 1), (4, 3, 0, 7)], (Reg.timCause, 4)⟩ v.toNat = true := by
    have one : fld v.toNat 3 1 ≤ 1 := by unfold fld; omega
    have seven : fld v.toNat 4 3 ≤ 7 := by unfold fld; omega
    simp [Setting.admits, one, seven]
  have value : ∀ w : Nat, w % 2 ^ 32 / 2 ^ 3 % 2 ^ 4 = w / 2 ^ 3 % 2 ^ 4 := by omega
  have stored : ((s.setReg Reg.timCtrl (Setting.apply ⟨[(3, 1, 0, 1), (4, 3, 0, 7)], (Reg.timCause, 4)⟩ (s.reg Reg.timCtrl)
      v.toNat)).rfld Reg.timCtrl 3 4) = fld v.toNat 3 4 := by
    simp only [State.rfld, State.reg_setReg_eq, Setting.apply, List.foldl_cons, List.foldl_nil, fld, putFld,
      Nat.shiftRight_eq_div_pow, value]
    omega
  have pps : ∀ u : State, u.rfld Reg.timCtrl 3 4 = fld v.toNat 3 4 → u.rfld Reg.timCtrl 3 1 = fld v.toNat 3 1 := by
    intro u h
    simp only [State.rfld, fld] at h ⊢
    omega
  rw [writeWord_setting hset, State.writeSetting, if_pos admitted, if_pos rfl, ppsOff_eq, pps _ stored]
  exact ⟨stored, rfl⟩

end Sys2Proof.Machine

namespace Sys2Proof.Machine

variable {s : State}

theorem isLeaf_bound {o : Nat} (h : 0x600000 ≤ o) : isLeaf o = false := by
  have bound : ∀ o ∈ leaves.flatten, o < 0x600000 := by decide
  by_contra hn
  have := bound o (by simpa [isLeaf] using hn)
  omega

theorem isMsix_iff (o : Nat) : isMsix o = true ↔ 0x18000 ≤ o ∧ o < 0x18010 ∨ 0x19000 ≤ o ∧ o < 0x19008 := by
  simp [isMsix]

theorem isWideWrite_iff (o : Nat) : isWideWrite o = true ↔
    (0x20100 ≤ o ∧ o < 0x20340 ∧ (o - 0x20100) % 0x40 < 0x18 ∧ o % 8 = 0) ∨ (0x10010 ≤ o ∧ o < 0x10028 ∧ o % 8 = 0) := by
  simp [isWideWrite, and_assoc]

theorem wideOf_locator {o : Nat} (h : 0x10010 ≤ o) (h' : o < 0x10028) : wideOf o = some (o / 8 * 8, 2) := by
  rw [wideOf, if_neg (by omega), if_neg (by omega), if_pos ⟨h, h'⟩]

/-- TILE_ERR of tile `t` (R70, R72). -/
theorem writeWord_tileErr (s : State) (t : TileId) (v : Word) :
    s.writeWord (0x1000020 + 64 * t.1) v = s.clearTileErr t v.toNat := by
  have ht := t.2
  have msix : ¬isMsix (0x1000020 + 64 * t.1) = true := by rw [isMsix_iff]; omega
  have leaf : ¬isLeaf (0x1000020 + 64 * t.1) = true := by simp [isLeaf_bound (show 0x600000 ≤ 0x1000020 + 64 * t.1 by omega)]
  have low : ¬isWideWrite (0x1000020 + 64 * t.1) = true := by rw [isWideWrite_iff]; omega
  have high : ¬(4 ≤ 0x1000020 + 64 * t.1 ∧ isWideWrite (0x1000020 + 64 * t.1 - 4) = true) := by rw [isWideWrite_iff]; omega
  have index : finOf 786432 ((0x1000020 + 64 * t.1 - 0x1000000) / 64) = t := by
    rw [show (0x1000020 + 64 * t.1 - 0x1000000) / 64 = t.1 by omega, finOf, dif_pos ht]
  rw [State.writeWord, if_neg msix, if_neg leaf, if_neg low, if_neg high, if_neg (by simp only [Reg.timSrc]; omega),
    if_neg (by simp only [Reg.rplCtrl]; omega), if_neg (by omega), if_neg (by omega), if_pos (by omega), index]

theorem clearTileErr_spec (s : State) (t : TileId) (v : Word) : OnlyTiles s (s.clearTileErr t v.toNat) [t] ∧
    let err := (s.tile t).err &&& ~~~(BitVec.ofNat 6 v.toNat)
    (s.clearTileErr t v.toNat).tile t = { s.tile t with err := err, fault := if err = 0 then 0 else (s.tile t).fault } :=
  ⟨⟨rfl, fun _ hk => s.tile_modTile_ne _ (by simpa using hk)⟩, s.tile_modTile_eq t _⟩

theorem writeWord_timSrc (s : State) (v : Word) : (s.writeWord Reg.timSrc v).rfld Reg.timSrc 0 16 = v.toNat % 65536 := by
  have word : s.writeWord Reg.timSrc v = s.writeTimSrc v.toNat := by
    simp [State.writeWord, show isMsix Reg.timSrc = false by decide, show isLeaf Reg.timSrc = false by decide,
      show isWideWrite Reg.timSrc = false by decide, show isWideWrite (Reg.timSrc - 4) = false by decide]
  have fld16 : fld v.toNat 0 16 = v.toNat % 65536 := rfl
  have stored : (s.setReg Reg.timSrc (fld v.toNat 0 16)).rfld Reg.timSrc 0 16 = v.toNat % 65536 := by
    rw [State.rfld, State.reg_setReg_eq, fld16, fld]
    omega
  rw [word, State.writeTimSrc]
  split
  · rename_i h
    rw [← h, fld16]
  · dsimp only
    split
    · exact stored
    · exact stored

/-- CMD_RINGn_CTRL: EN starts or stops the ring (R325). -/
theorem writeWord_ringCtrl (s : State) (r : Fin 9) (v : Word) :
    s.writeWord (0x20118 + 0x40 * r.1) v = if v.getLsbD 0 then s.startRing r else s.stopRing r := by
  have hr := r.2
  have msix : ¬isMsix (0x20118 + 0x40 * r.1) = true := by rw [isMsix_iff]; omega
  have leaf : ¬isLeaf (0x20118 + 0x40 * r.1) = true := by revert r; decide
  have low : ¬isWideWrite (0x20118 + 0x40 * r.1) = true := by rw [isWideWrite_iff]; omega
  have high : ¬(4 ≤ 0x20118 + 0x40 * r.1 ∧ isWideWrite (0x20118 + 0x40 * r.1 - 4) = true) := by rw [isWideWrite_iff]; omega
  have index : finOf 9 ((0x20118 + 0x40 * r.1 - 0x20100) / 0x40) = r := by
    rw [show (0x20118 + 0x40 * r.1 - 0x20100) / 0x40 = r.1 by omega, finOf, dif_pos hr]
  rw [State.writeWord, if_neg msix, if_neg leaf, if_neg low, if_neg high, if_neg (by simp only [Reg.timSrc]; omega),
    if_neg (by simp only [Reg.rplCtrl]; omega), if_neg (by omega), if_pos (by omega), index]

theorem release_frame (s : State) : s.release.pins.vectorMasked = s.pins.vectorMasked ∧ s.release.regs = s.regs ∧
    s.release.tiles = s.tiles := by
  unfold State.release
  split
  · dsimp only
    split <;> exact ⟨rfl, rfl, rfl⟩
  · exact ⟨rfl, rfl, rfl⟩

/-- The mask bit of the MSI-X table's entry (R497). -/
theorem writeWord_vectorMask (s : State) (v : Word) :
    let u := s.writeWord 0x1800C v
    u.pins.vectorMasked = v.getLsbD 0 ∧ u.regs = s.regs ∧ u.tiles = s.tiles := by
  have word : s.writeWord 0x1800C v = ({ s with pins := { s.pins with vectorMasked := v.getLsbD 0 } } : State).release := by
    simp [State.writeWord, show isMsix 0x1800C = true by decide, State.writeMsix]
  rw [word]
  exact release_frame _

/-- An offset below the tiles that no write takes. -/
theorem plain_of_unwritten {o : Nat} (h4 : o % 4 = 0) (hb : o < 0x1000000) (hw : ∀ b n, wideOf o ≠ some (b, n))
    (hl : isLeaf o = false) (hm : isMsix o = false) (hs : o ≠ Reg.timSrc) (hr : o ≠ Reg.rplCtrl)
    (hg : ¬(0x200100 ≤ o ∧ o < 0x200180)) (hc : ¬(0x20100 ≤ o ∧ o < 0x20340)) : Plain o := by
  have locator : ¬(0x10010 ≤ o ∧ o < 0x10028) := fun h => hw _ _ (wideOf_locator h.1 h.2)
  exact {
    msix := hm, leaf := hl, src := hs, rpl := hr
    low := by rw [← Bool.not_eq_true, isWideWrite_iff]; omega
    high := by rw [isWideWrite_iff]; omega
    grd := by omega, ring := by omega, tile := by omega }

/-! #### Wide writes -/

theorem writeLow_completes {off : Nat} {v : Word} (ha : Alive s) (hr : s.reaches .bar0 = true) (hw : isWideWrite off = true) :
    Completes s (.regWriteLowHalf off v) fun u => u = { s with lowHalf := s.lowHalf.set off v } :=
  act_completes (f := fun s => if s.bar0 && isWideWrite off then s.writeLow off v else s) rfl ha
    (if_pos (by rw [hw, show s.bar0 = true from hr]; rfl))

theorem writeHigh_completes {off : Nat} {v : Word} {P : State → Prop} (ha : Alive s) (hr : s.reaches .bar0 = true)
    (hw : isWideWrite off = true) (hp : P (s.writeHigh off v)) : Completes s (.regWriteHighHalf (off + 4) v) P :=
  act_completes
    (f := fun s => if s.bar0 && decide (4 ≤ off + 4) && isWideWrite (off + 4 - 4) then s.writeHigh (off + 4 - 4) v else s)
    rfl ha (by simpa [hw, show s.bar0 = true from hr] using hp)

/-- A write to a high half changes registers and takes the low half that waits. -/
def HighOnly (s u : State) (off : Nat) : Prop :=
  u = { s with regs := u.regs, lowHalf := s.lowHalf.erase off } ∧
    ∀ o, o ≠ off → o ≠ off + 4 → o ≠ Reg.cmdCause → u.reg o = s.reg o

/-- A locator's bits written 1 clear, in both halves (R496). -/
theorem writeHigh_locator (s : State) {off : Nat} (v : Word) (h : off < 0x20000) :
    let u := s.writeHigh off v
    (u.reg off = s.reg off - (s.reg off &&& ((s.lowHalf.get? off).getD 0).toNat) ∧
      u.reg (off + 4) = s.reg (off + 4) - (s.reg (off + 4) &&& v.toNat)) ∧ HighOnly s u off := by
  have value : s.writeHigh off v =
      ({ s with lowHalf := s.lowHalf.erase off } : State).clearLocator off ((s.lowHalf.get? off).getD 0).toNat v.toNat := by
    rw [State.writeHigh, if_pos h]
    cases s.lowHalf.get? off with
    | none => rfl
    | some w => simp only [Option.getD_some]
  generalize ((s.lowHalf.get? off).getD 0).toNat = l at value
  rw [value, State.clearLocator]
  generalize hz : ({ s with lowHalf := s.lowHalf.erase off } : State) = z
  have hreg : ∀ o, z.reg o = s.reg o := by subst hz; exact fun _ => rfl
  refine ⟨⟨?_, ?_⟩, ?_, fun o h1 h2 _ => ?_⟩
  · rw [State.reg_setReg_ne _ _ (by omega), reg_clear, hreg]
  · rw [State.reg_setReg_eq, hreg, Nat.mod_eq_of_lt (by have := s.reg_lt (off + 4); omega)]
  · subst hz; rfl
  · rw [State.reg_setReg_ne _ _ h2, State.reg_setReg_ne _ _ h1, hreg]

/-- The low half of a ring's address as the ring keeps it (R344). -/
def keptLow (s : State) (off : Nat) : Nat :=
  (match s.lowHalf.get? off with | some w => w.toNat | none => s.reg off) / 2 ^ ringAlign off * 2 ^ ringAlign off

theorem ringAlign_ringReg (r : Fin 9) {off : Nat} (ho : off = ringReg r 0 ∨ off = ringReg r 8 ∨ off = ringReg r 16) :
    2 ^ ringAlign off = if off = ringReg r 0 then 2 ^ 16 else if off = ringReg r 8 then 2 ^ 6 else 2 ^ 12 := by
  obtain rfl | rfl | rfl := ho
  all_goals
    revert r
    decide

theorem keptLow_lt (s : State) (off : Nat) : keptLow s off < 2 ^ 32 := by
  refine Nat.lt_of_le_of_lt (Nat.div_mul_le_self _ _) ?_
  cases s.lowHalf.get? off with
  | none => exact s.reg_lt off
  | some w => exact w.isLt

section
variable (s) (r : Fin 9) {off : Nat} (v : Word) (ho : off = ringReg r 0 ∨ off = ringReg r 8 ∨ off = ringReg r 16)
include ho

theorem writeHigh_ring : s.writeHigh off v =
    let t : State := { s with lowHalf := s.lowHalf.erase off }
    if (s.rings[r]).en then t.cause Reg.cmdCause 6 else (t.setReg off (keptLow s off)).setReg (off + 4) v.toNat := by
  have hr := r.2
  have index : finOf 9 ((off - 0x20100) / 0x40) = r := by
    obtain rfl | rfl | rfl := ho
    all_goals
      revert r
      decide
  have above : ¬off < 0x20000 := by
    simp only [ringReg] at ho
    omega
  simp only [State.writeHigh, if_neg above, index]
  rfl

/-- The addresses of an enabled ring stay (R325). -/
theorem writeHigh_enabled (he : (s.rings[r]).en = true) :
    let u := s.writeHigh off v
    (u.rfld Reg.cmdCause 6 1 = 1 ∧ u.reg off = s.reg off ∧ u.reg (off + 4) = s.reg (off + 4)) ∧ HighOnly s u off := by
  have apart : off ≠ Reg.cmdCause ∧ off + 4 ≠ Reg.cmdCause := by
    simp only [ringReg] at ho
    simp only [Reg.cmdCause]
    omega
  rw [writeHigh_ring s r v ho, he, if_pos rfl]
  refine ⟨⟨State.rfld_cause_eq _ _ _ (by decide), ?_, ?_⟩, rfl, fun o _ _ h => ?_⟩
  · rw [State.reg_cause_ne _ _ apart.1]; rfl
  · rw [State.reg_cause_ne _ _ apart.2]; rfl
  · rw [State.reg_cause_ne _ _ h]; rfl

/-- Both halves of an address are taken at the high half (R321). -/
theorem writeHigh_disabled (he : (s.rings[r]).en = false) :
    let u := s.writeHigh off v
    (u.reg (off + 4) = v.toNat ∧ u.reg off = keptLow s off) ∧ HighOnly s u off := by
  rw [writeHigh_ring s r v ho, he, if_neg Bool.false_ne_true]
  refine ⟨⟨?_, ?_⟩, rfl, fun o h1 h2 _ => ?_⟩
  · rw [State.reg_setReg_eq, Nat.mod_eq_of_lt v.isLt]
  · rw [State.reg_setReg_ne _ _ (by omega), State.reg_setReg_eq, Nat.mod_eq_of_lt (keptLow_lt s off)]
  · rw [State.reg_setReg_ne _ _ h2, State.reg_setReg_ne _ _ h1]; rfl

end

/-! #### Rows of single registers -/

theorem isGrdCtl (c : Fin 8) : Reg.grdCtl c.1 % 4 = 0 ∧ Reg.grdCtl c.1 = 0x200100 + 16 * c.1 :=
  ⟨by simp only [Reg.grdCtl]; omega, rfl⟩

theorem writeWord_grdCtl (s : State) (c : Fin 8) (v : Word) : s.writeWord (Reg.grdCtl c.1) v = s.writeGrdCtrl c v.toNat := by
  have hc := c.2
  have msix : ¬isMsix (Reg.grdCtl c.1) = true := by revert c; decide
  have leaf : ¬isLeaf (Reg.grdCtl c.1) = true := by revert c; decide
  have low : ¬isWideWrite (Reg.grdCtl c.1) = true := by revert c; decide
  have high : ¬(4 ≤ Reg.grdCtl c.1 ∧ isWideWrite (Reg.grdCtl c.1 - 4) = true) := by revert c; decide
  have index : finOf 8 ((Reg.grdCtl c.1 - 0x200100) / 16) = c := by revert c; decide
  rw [State.writeWord, if_neg msix, if_neg leaf, if_neg low, if_neg high, if_neg (by simp only [Reg.timSrc, Reg.grdCtl]; omega),
    if_neg (by simp only [Reg.rplCtrl, Reg.grdCtl]; omega), if_pos (by simp only [Reg.grdCtl]; omega), index]

/-- What GRD_CTXn_CTRL takes: values in range, DEADLINE only with a scroll that has RSTAGE (R292, R298). -/
def GrdAdmits (s : State) (c : Fin 8) (w : Nat) : Prop :=
  fld w 1 4 ≤ 8 ∧ 1 ≤ fld w 5 10 ∧ fld w 5 10 ≤ 1000 ∧ (fld w 0 1 = 1 → ∃ q, (s.ctx c).scroll = some q ∧ q.rstage ≠ 0)

/-- Has the scroll of a context an RSTAGE? -/
def State.staged (s : State) (c : Fin 8) : Bool := match s.scroll? c with | some q => q.rstage != 0 | none => false

theorem staged_iff (s : State) (c : Fin 8) : s.staged c = true ↔ ∃ q, (s.ctx c).scroll = some q ∧ q.rstage ≠ 0 := by
  unfold State.staged State.scroll?
  cases (s.ctx c).scroll <;> simp

theorem writeGrdCtrl_eq (s : State) (c : Fin 8) (w : Nat) : s.writeGrdCtrl c w =
    if 8 < fld w 1 4 ∨ fld w 5 10 = 0 ∨ 1000 < fld w 5 10 ∨ (fld w 0 1 = 1 ∧ (!s.staged c) = true) then
      s.cause Reg.grdCause 5
    else s.setReg (Reg.grdCtl c.1) (w % 2 ^ 15) := rfl

theorem writeGrdCtrl_admitted {c : Fin 8} {w : Nat} (h : GrdAdmits s c w) :
    s.writeGrdCtrl c w = s.setReg (Reg.grdCtl c.1) (w % 2 ^ 15) := by
  obtain ⟨k, p, q, d⟩ := h
  rw [writeGrdCtrl_eq, if_neg]
  rw [← staged_iff] at d
  rintro (h | h | h | ⟨h, hn⟩)
  · omega
  · omega
  · omega
  · simp [d h] at hn

theorem writeGrdCtrl_rejected {c : Fin 8} {w : Nat} (h : ¬GrdAdmits s c w) : s.writeGrdCtrl c w = s.cause Reg.grdCause 5 := by
  rw [writeGrdCtrl_eq, if_pos]
  by_contra hn
  simp only [not_or, not_and, Bool.not_eq_true', Bool.not_eq_false] at hn
  obtain ⟨k, p, q, d⟩ := hn
  exact h ⟨by omega, by omega, by omega, fun hd => (staged_iff s c).mp (d hd)⟩

theorem writeWord_irqMask (s : State) (v : Word) :
    let u := s.writeWord Reg.irqMask v
    u = { s with regs := u.regs } ∧ u.rfld Reg.irqMask 0 15 = v.toNat % 2 ^ 15 ∧ ∀ o, o ≠ Reg.irqMask → u.reg o = s.reg o := by
  have hset : settingOf Reg.irqMask = some ⟨[(0, 15, 0, 2 ^ 15 - 1)], (0, 0)⟩ := rfl
  have admitted : Setting.admits ⟨[(0, 15, 0, 2 ^ 15 - 1)], (0, 0)⟩ v.toNat = true := by
    have most : fld v.toNat 0 15 ≤ 2 ^ 15 - 1 := by unfold fld; omega
    simpa [Setting.admits] using most
  rw [writeWord_setting hset, writeSetting_plain _ _ (by decide), if_pos admitted]
  refine ⟨rfl, ?_, fun o ho => s.reg_setReg_ne _ ho⟩
  rw [State.rfld, State.reg_setReg_eq]
  simp only [Setting.apply, List.foldl_cons, List.foldl_nil, fld, putFld, Nat.shiftRight_eq_div_pow]
  omega

/-- ENG_IDENT takes its first value up to 65,534 between order 2 and order 9 (R489). -/
theorem writeBy_engIdent (s : State) (v : Word) : s.writeBy .sideband Reg.engIdent v =
    if s.rfld Reg.engIdent 16 1 = 0 ∧ 2 ≤ s.boot.order ∧ s.boot.order < 9 ∧ v.toNat ≤ 65534 then
      s.setReg Reg.engIdent (v.toNat + 65536) else s := by
  have value : s.writeBy .sideband Reg.engIdent v = if 2 ≤ s.boot.order then s.writeIdent v else s := by
    have four : ¬Reg.engIdent % 4 ≠ 0 := by decide
    simp only [State.writeBy, State.reaches, four, or_false, if_neg (show Reg.engIdent ≠ Reg.irqMask by decide)]
    by_cases h : 2 ≤ s.boot.order
    · simp [h]
    · simp [h]
  rw [value, State.writeIdent]
  by_cases h : s.rfld Reg.engIdent 16 1 = 0 ∧ 2 ≤ s.boot.order ∧ s.boot.order < 9 ∧ v.toNat ≤ 65534
  · rw [if_pos h, if_pos h.2.1, if_pos ⟨h.1, h.2.1, h.2.2.1, by omega⟩]
    rfl
  · rw [if_neg h]
    split
    · exact if_neg fun g => h ⟨g.1, g.2.1, g.2.2.1, by omega⟩
    · rfl

/-- The vector unmasked sends what was pending, if a cause is still set (R495). -/
theorem exec_msixUnmask_up (s : State) (ho : s.boot.order ≠ 0) (hl : s.pins.linkUp = true) :
    exec .msixUnmask s = .next { s with
      pins := { s.pins with vectorMasked := false, functionMasked := false, pendingBit := false }
      out := s.out ++ if s.pins.pendingBit && s.alert then [.msix] else [] } := by
  have opened : ¬(s.boot.order = 0 ∨ (!s.pins.linkUp) = true) := by simp [ho, hl]
  rw [exec, execMsixUnmask, if_neg opened]
  cases hp : s.pins.pendingBit with
  | false => simp [State.release, hp]
  | true =>
    have alert : ∀ p : Pins, ({ s with pins := p } : State).alert = s.alert := fun _ => rfl
    cases ha : s.alert with
    | false => simp [State.release, State.vectorHeld, hl, hp, alert, ha]
    | true => simp [State.release, State.vectorHeld, hl, hp, alert, ha, State.emit]

end Sys2Proof.Machine

namespace Sys2Proof.Machine

/-- Every read that reaches the registers: absent offsets answer zero, a narrow register its word, a wide one its latched
words, which its first word sets. -/
theorem reads_spec (s : State) (path : RegPath) (off : Nat) (hr : s.reaches path = true) :
    let reads := fun (w : Word) => exec (.regReadLatch path off) s = .next (s.emit (.registerData path w))
    let absent := off % 4 ≠ 0 ∨ 0x4000000 ≤ off ∨ (s.hng.failed = true ∧ failedReads off = false) ∨
      (s.hng.failed = false ∧ path = .sideband ∧ sideReads off = false)
    (absent → reads 0) ∧
    (¬absent →
      (wideOf off = none → reads (BitVec.ofNat 32 (s.view off))) ∧
      (off = 0xC → reads 0x3FFFE408) ∧ (0x600000 ≤ off → off < 0x1000000 → reads 0) ∧
      (∀ r : Fin 9, off = 0x2011C + 0x40 * r.1 → reads (s.rings[r]).head) ∧
      ∀ b n, wideOf off = some (b, n) →
        (off ≠ b → reads ((s.latchOf path).getD off 0)) ∧
        (off = b → ∃ u, exec (.regReadLatch path off) s = .next u ∧ u.out = s.out ++ [.registerData path (wordAt (s.view b) 0)] ∧
          (∀ i, 0 < i → i < n → (u.latchOf path).getD (b + 4 * i) 0 = wordAt (s.view b) i) ∧
          u = { s with latch := u.latch, sideLatch := u.sideLatch, out := u.out } ∧
          (path = .bar0 → u.sideLatch = s.sideLatch) ∧ (path = .sideband → u.latch = s.latch))) := by
  intro reads absent
  have answer := exec_read s path off hr
  refine ⟨fun h => by rw [if_pos h] at answer; exact answer, fun h => ?_⟩
  rw [if_neg h] at answer
  have narrow : wideOf off = none → reads (BitVec.ofNat 32 (s.view off)) := fun hw => by
    rw [readReg_narrow s path hw] at answer; exact answer
  refine ⟨narrow, ?_, fun h1 h2 => ?_, ?_, fun b n hw => ⟨fun hb => ?_, ?_⟩⟩
  · rintro rfl
    have := narrow rfl
    rwa [view_engConfig] at this
  · have := narrow (wideOf_gap h1)
    rwa [view_gap s h1 h2] at this
  · rintro r rfl
    have := narrow (wideOf_ringHead r)
    rwa [view_ringHead, BitVec.ofNat_toNat, BitVec.setWidth_eq] at this
  · rw [readReg_latched s path hw hb] at answer
    exact answer
  · rintro rfl
    rw [readReg_first s path hw] at answer
    refine ⟨_, answer, ?_, fun i h0 hi => ?_, ?_⟩
    · cases path <;> rfl
    · have : ∀ u : State, (u.emit (.registerData path (wordAt (s.view off) 0))).latchOf path = u.latchOf path := by
        intro u; cases path <;> rfl
      rw [this, latchOf_setLatch, latchWords_getD _ _ _ _ h0 (by omega)]
    · cases path with
      | bar0 => exact ⟨rfl, fun _ => rfl, nofun⟩
      | sideband => exact ⟨rfl, nofun, fun _ => rfl⟩

end Sys2Proof.Machine

section
open Sys2Proof Sys2Proof.Machine

/-- Settles O53: each access is followed through the lemma on the register it meets. -/
theorem registers : Obligations.Registers := by
  intro s path off v
  refine ⟨fun h => by simp [exec, execRegReadLatch, h], fun h => reads_spec s path off h, fun ha => ?_, fun h => ?_,
    fun ho hl => exec_msixUnmask_up s ho hl⟩
  · refine ⟨fun h => write_completes ha (writeBy_ignored h), ?_, ?_, fun c hr => ?_, fun hr => ?_, ?_⟩
    · rintro hr h4 rfl
      have word : ∀ {P : State → Prop}, P (s.writeWord off v) → Completes s (.registerWrite .bar0 off v) P := fun hp =>
        write_completes ha (by rwa [writeBy_bar0 hr h4])
      refine ⟨fun x hx ho => word ?_, ?_, fun hl => ⟨word ?_, ?_⟩, ?_, ?_, ?_, ?_, fun hb hw hx hl hm hs hp hg hc => word ?_⟩
      · rw [writeWord_setting hx, writeSetting_plain _ _ ho]
        refine ⟨?_, rfl⟩
        split <;> rfl
      · rintro rfl
        exact word (writeWord_timCtrl s v)
      · rw [writeWord_leaf hl]
        exact clearLeaf_spec s v.toNat hl
      · simp [exec, execCauseClear, execRegisterWrite, ha.1]
      · rintro t rfl
        refine act_completes (f := fun s => s.writeBy .bar0 _ v) rfl ha ?_
        rw [writeBy_bar0 hr h4, writeWord_tileErr]
        exact clearTileErr_spec s t v
      · rintro rfl
        exact word (writeWord_timSrc s v)
      · rintro r rfl
        have up : s.bar0 = true := hr
        have written : exec (.registerWrite .bar0 (0x20118 + 0x40 * r.1) v) s =
            act (fun s => if v.getLsbD 0 then s.startRing r else s.stopRing r) s := by
          simp only [exec, execRegisterWrite, ha.1, Bool.false_and, Bool.false_eq_true, if_false]
          exact act_congr s (by rw [writeBy_bar0 hr h4, writeWord_ringCtrl])
        rw [written]
        cases v.getLsbD 0 with
        | true => exact act_congr s (by simp [up])
        | false => exact act_congr s (by simp [up])
      · rintro rfl
        exact word (writeWord_vectorMask s v)
      · exact writeWord_plain (plain_of_unwritten h4 hb hw hl hm hs hp hg hc) hx v
    · intro hw hr
      refine ⟨writeLow_completes ha hr hw, ?_⟩
      rintro low rfl
      refine ⟨fun h => ?_, fun r ho => ⟨fun he => ?_, fun he => ?_⟩⟩
      · exact writeHigh_completes ha hr hw (writeHigh_locator s v h)
      · exact writeHigh_completes ha hr hw (writeHigh_enabled s r v ho he)
      · have disabled := writeHigh_disabled s r v ho he
        rw [keptLow, ringAlign_ringReg r ho] at disabled
        exact writeHigh_completes ha hr hw disabled
    · have value : s.writeBy .bar0 (Reg.grdCtl c.1) v = s.writeGrdCtrl c v.toNat := by
        rw [writeBy_bar0 hr (isGrdCtl c).1, writeWord_grdCtl]
      have row : ∀ {P : State → Prop}, P (s.writeGrdCtrl c v.toNat) → Completes s (.grdCtrlWrite c v) P := fun hp =>
        act_completes (f := fun s => s.writeBy .bar0 (Reg.grdCtl c.1) v) rfl ha (by rwa [value])
      exact ⟨fun h => row (writeGrdCtrl_admitted h), fun h => row (writeGrdCtrl_rejected h)⟩
    · have value : s.writeBy path Reg.irqMask v = s.writeWord Reg.irqMask v := by
        have four : ¬Reg.irqMask % 4 ≠ 0 := by decide
        simp only [State.writeBy, hr, four]
        cases path <;> rfl
      refine act_completes (f := fun s => s.writeBy path Reg.irqMask v) rfl ha ?_
      rw [value]
      exact writeWord_irqMask s v
    · have row : ∀ {P : State → Prop}, P (s.writeBy .sideband Reg.engIdent v) → Completes s (.engIdentWrite v) P := fun hp =>
        act_completes (f := fun s => s.writeBy .sideband Reg.engIdent v) rfl ha hp
      exact ⟨fun h => row (by rw [writeBy_engIdent, if_pos h]), fun h => row (by rw [writeBy_engIdent, if_neg h])⟩
  · have closed : s.boot.order = 0 ∨ (!s.pins.linkUp) = true := by simpa using h
    rw [exec, execMsixUnmask, if_pos closed]

end

/-! ### Bring-up -/

namespace Sys2Proof.Machine

variable {s t u : State}

/-! #### What bring-up changes -/

/-- `u` is `s` but for what orders 4 to 9 of bring-up change. -/
def Built (s u : State) : Prop :=
  u = { s with
    out := u.out, freeCtr := u.freeCtr, regs := u.regs, tiles := u.tiles, mesh := u.mesh, slots := u.slots, fret := u.fret
    regions := u.regions, actions := u.actions, actionCount := u.actionCount, ports := u.ports
    boot := { s.boot with
      order := u.boot.order, new := u.boot.new, single := u.boot.single, stackFail := u.boot.stackFail
      portsLeft := u.boot.portsLeft } }

theorem Built.refl (s : State) : Built s s := rfl

theorem Built.trans (h : Built s t) (g : Built t u) : Built s u := by
  unfold Built at h g ⊢
  rw [g, h]

/-- A region out of use (R394). -/
abbrev Region.muted (x : Region) : Prop := x.state = .lost ∧ x.peg = 0

/-- A step of bring-up that reaches no further order and trains no port: no lost region comes back, and no region forgets
that its regulator was silent. -/
structure Quiet (s u : State) : Prop where
  built : Built s u
  boot : u.boot = s.boot
  ports : u.ports = s.ports
  lost : ∀ r : Fin 48, s.fret.lost.getLsbD r.1 = true → u.fret.lost.getLsbD r.1 = true
  cores : u.fret.fieldCores = s.fret.fieldCores
  muted : ∀ r : Fin 48, (s.regions[r]).muted → (u.regions[r]).muted
  silent : ∀ r : Fin 48, (s.regions[r]).silentAtBoot = true → (u.regions[r]).silentAtBoot = true

theorem Quiet.refl (s : State) : Quiet s s := ⟨rfl, rfl, rfl, fun _ => id, rfl, fun _ => id, fun _ => id⟩

theorem Quiet.trans (h : Quiet s t) (g : Quiet t u) : Quiet s u :=
  ⟨h.built.trans g.built, g.boot.trans h.boot, g.ports.trans h.ports, fun r x => g.lost r (h.lost r x),
    g.cores.trans h.cores, fun r x => g.muted r (h.muted r x), fun r x => g.silent r (h.silent r x)⟩

/-- A step that leaves fret map and regions alone. -/
theorem Quiet.of_same (hb : Built s u) (h1 : u.boot = s.boot) (h2 : u.ports = s.ports) (h3 : u.fret = s.fret)
    (h4 : u.regions = s.regions) : Quiet s u :=
  ⟨hb, h1, h2, fun _ => by rw [h3]; exact id, by rw [h3], fun _ => by rw [h4]; exact id, fun _ => by rw [h4]; exact id⟩

theorem Quiet.emit (s : State) (o : Output) : Quiet s (s.emit o) := .of_same rfl rfl rfl rfl rfl

theorem Quiet.action (s : State) (k n c a : Nat) : Quiet s (s.action k n c a) := .of_same rfl rfl rfl rfl rfl

theorem Quiet.cause (s : State) (o b : Nat) : Quiet s (s.cause o b) := .of_same rfl rfl rfl rfl rfl

theorem Quiet.causeAt (s : State) (o b k n : Nat) : Quiet s (s.causeAt o b k n) := by
  unfold State.causeAt State.locate
  split <;> exact .of_same rfl rfl rfl rfl rfl

/-- One region changed, which stays out of use if it was, and silent if it was. -/
theorem Quiet.modRegion (s : State) (r : Fin 48) (f : Region → Region)
    (hm : (s.regions[r]).muted → (f s.regions[r]).muted)
    (hs : (s.regions[r]).silentAtBoot = true → (f s.regions[r]).silentAtBoot = true) : Quiet s (s.modRegion r f) := by
  refine ⟨rfl, rfl, rfl, fun _ => id, rfl, fun q => ?_, fun q => ?_⟩
  all_goals
    by_cases h : q = r
    · subst h; simpa only [State.modRegion, vget_vmod_eq]
    · simpa only [State.modRegion, vget_vmod_ne _ _ h] using id

/-! #### Contexts that stand as after reset -/

/-- No context has been created. -/
abbrev Unused (s : State) : Prop := s.ctxs = State.reset.ctxs

theorem Unused.ctx (h : Unused s) (c : Fin 8) : s.ctx c = {} := by
  rw [State.ctx, h]
  exact Vector.getElem_replicate c.2

theorem Built.unused (hb : Built s u) (h : Unused s) : Unused u := (congrArg State.ctxs hb).trans h

theorem markStale_unused (h : Unused s) : s.markStale = s :=
  List.foldl_fixed' (fun c => by simp [State.scroll?, h.ctx]) _

theorem abortStanding_unused (h : Unused s) : s.abortStanding = s := by
  unfold State.abortStanding
  split
  · rfl
  · exact List.foldl_fixed' (fun c => by simp [h.ctx]) _

/-- A fold of quiet steps over states without a context in use is quiet. -/
theorem Quiet.foldl {α : Type} {f : State → α → State} (hf : ∀ s a, Unused s → Quiet s (f s a)) (l : List α) (h : Unused s) :
    Quiet s (l.foldl f s) := by
  induction l generalizing s with
  | nil => exact .refl s
  | cons a l ih =>
    have step := hf s a h
    exact step.trans (ih (step.built.unused h))

/-! #### Regions lost -/

/-- A region out of use, as `State.loseRegion` leaves it. -/
def Region.gone (x : Region) : Region :=
  { x with state := .lost, peg := 0, armed := false, inDip := false, entering := false, floorTime := 0, highTime := 0 }

theorem getLsbD_or_bit {n : Nat} (m : BitVec n) (k q : Nat) (hq : q < n) :
    (m ||| BitVec.ofNat n (2 ^ k)).getLsbD q = (m.getLsbD q || decide (k = q)) := by
  simp only [BitVec.getLsbD_or, BitVec.getLsbD_ofNat, Nat.testBit_two_pow, hq, decide_true, Bool.true_and]

/-- The loss of a region: the state that its steps leave. -/
theorem loseRegion_quiet (r : Fin 48) (cause_ : Nat) (h : Unused s) : Quiet s (s.loseRegion r cause_) := by
  unfold State.loseRegion
  split
  · exact .refl s
  · extract_lets a b c _ d
    have ha : Quiet s a := by
      simp only [a]
      split
      · exact .refl s
      · exact .action _ _ _ _ _
    have hb : Quiet a b := .modRegion a r Region.gone (fun _ => ⟨rfl, rfl⟩) id
    have hc : Quiet b c := ((Quiet.emit _ _).trans (.causeAt _ _ _ _ _)).trans (.action _ _ _ _ _)
    have hd : Quiet c d := by
      refine ⟨rfl, rfl, rfl, fun q hq => ?_, rfl, fun _ => id, fun _ => id⟩
      simp only [d, getLsbD_or_bit _ _ _ q.2, hq, Bool.true_or]
    have all := ((ha.trans hb).trans hc).trans hd
    have hu := all.built.unused h
    rwa [markStale_unused hu, abortStanding_unused hu]

end Sys2Proof.Machine

namespace Sys2Proof.Machine

variable {s t u : State}

theorem modRegion_region (s : State) (r q : Fin 48) (f : Region → Region) :
    (s.modRegion r f).regions[q] = if q = r then f s.regions[r] else s.regions[q] := by
  split
  · subst_vars; exact vget_vmod_eq _ _ _
  · rename_i h; exact vget_vmod_ne _ _ h

/-- A region that is not out of use may be commanded (R380). -/
theorem setPeg_quiet (r : Fin 48) (mv cause_ : Nat) (h : ¬(s.regions[r]).muted) : Quiet s (s.setPeg r mv cause_) := by
  unfold State.setPeg
  extract_lets x t
  split
  · exact .refl s
  · exact ((Quiet.modRegion s r _ (fun hm => absurd hm h) id).trans (.emit _ _)).trans (.action _ _ _ _ _)

theorem setPeg_other (s : State) (r : Fin 48) (mv cause_ : Nat) :
    (∀ q, q ≠ r → (s.setPeg r mv cause_).regions[q] = s.regions[q]) ∧ (s.setPeg r mv cause_).fret = s.fret := by
  unfold State.setPeg
  extract_lets x t
  split
  · exact ⟨fun _ _ => rfl, rfl⟩
  · exact ⟨fun q h => by rw [State.action, State.emit]; exact (modRegion_region s r q _).trans (if_neg h), rfl⟩

/-- A region put in a state and on a peg, which is not out of use before or after. -/
theorem modRegion_setPeg_quiet (r : Fin 48) (mv cause_ : Nat) (f : Region → Region) (h : (s.regions[r]).state ≠ .lost)
    (hf : (f s.regions[r]).state ≠ .lost) (hs : (f s.regions[r]).silentAtBoot = (s.regions[r]).silentAtBoot) :
    Quiet s ((s.modRegion r f).setPeg r mv cause_) := by
  refine (Quiet.modRegion s r f (fun hm => absurd hm.1 h) fun h => hs.trans h).trans (setPeg_quiet r mv cause_ fun hm => hf ?_)
  rw [modRegion_region, if_pos rfl] at hm
  exact hm.1

theorem settleRegion_quiet (s : State) (r : Fin 48) (cause_ : Nat) : Quiet s (s.settleRegion r cause_) := by
  unfold State.settleRegion
  extract_lets x held stalled put
  split
  · exact .refl s
  · rename_i h
    have hput : ∀ (st : RegionState) (mv : Nat), st ≠ .lost → Quiet s (put st mv) := fun st mv hst =>
      modRegion_setPeg_quiet r mv cause_ _ h hst rfl
    split
    · exact hput _ _ nofun
    · split
      · exact hput _ _ nofun
      · exact modRegion_setPeg_quiet r 600 cause_ _ h nofun rfl
      · split
        · exact hput _ _ nofun
        · split
          · exact hput _ _ nofun
          · exact hput _ _ nofun

theorem settleRegions_quiet (h : Unused s) : Quiet s s.settleRegions :=
  Quiet.foldl (fun s r _ => settleRegion_quiet s r _) _ h

/-! #### Placement -/

theorem deadTile_quiet (s : State) (d : NatSet) (o : Bool) : Quiet s { s with fret := { s.fret with dead := d, openRecord := o } } :=
  ⟨rfl, rfl, rfl, fun _ => id, rfl, fun _ => id, fun _ => id⟩

/-- One condemned core placed: its tile is DEAD, or its region is lost with it (R371, R373). -/
def placeOne (fresh : List (Nat × Nat)) (cause_ : Nat) (s : State) (e : Nat × Nat) : State :=
  match s.fret.deadTile e with
  | none => s
  | some t =>
    if s.fret.lost.getLsbD (regionOf t).1 || s.fret.dead.has t.1 then s
    else if 4096 ≤ s.fret.dead.length then s.loseRegion (regionOf t) cause_
    else { s with fret := { s.fret with
      dead := s.fret.dead.add t.1, openRecord := s.fret.openRecord || fresh.contains e } }

theorem placeOne_cases (fresh : List (Nat × Nat)) (cause_ : Nat) (s : State) (e : Nat × Nat) :
    placeOne fresh cause_ s e = s ∨ (∃ r, placeOne fresh cause_ s e = s.loseRegion r cause_) ∨
      ∃ d o, placeOne fresh cause_ s e = { s with fret := { s.fret with dead := d, openRecord := o } } := by
  unfold placeOne
  split
  · exact .inl rfl
  · split
    · exact .inl rfl
    · split
      · exact .inr (.inl ⟨_, rfl⟩)
      · exact .inr (.inr ⟨_, _, rfl⟩)

theorem placeOne_quiet (fresh : List (Nat × Nat)) (cause_ : Nat) (s : State) (e : Nat × Nat) (h : Unused s) :
    Quiet s (placeOne fresh cause_ s e) := by
  obtain hp | ⟨r, hp⟩ | ⟨d, o, hp⟩ := placeOne_cases fresh cause_ s e
  · rw [hp]; exact .refl s
  · rw [hp]; exact loseRegion_quiet r cause_ h
  · rw [hp]; exact deadTile_quiet s d o

/-- The state with the placement recomputed for the segments of the records (R371). -/
def State.replaced (s : State) : State :=
  let f := s.fret
  let segs := ((f.order.map (·.1)).eraseDups).filter fun g => !f.segLost g
  { s with fret := { f with placed := segs.foldl (fun (p : Tab SegRec) g => p.set g (f.cores g)) f.placed } }

theorem replaced_quiet (s : State) : Quiet s s.replaced := ⟨rfl, rfl, rfl, fun _ => id, rfl, fun _ => id, fun _ => id⟩

/-- The state with every condemned core placed (R371, R373). -/
def State.placedAll (s : State) (fresh : List (Nat × Nat)) (cause_ : Nat) : State :=
  s.fret.order.foldl (placeOne fresh cause_) s.replaced

theorem placedAll_quiet (fresh : List (Nat × Nat)) (cause_ : Nat) (h : Unused s) : Quiet s (s.placedAll fresh cause_) :=
  (replaced_quiet s).trans (Quiet.foldl (placeOne_quiet fresh cause_) _ h)

/-- The tiles on the dead list off (R373). -/
def State.deadOff (s : State) : State := { s with tiles := s.tiles.keep fun k _ => !s.fret.dead.has k }

theorem deadOff_quiet (s : State) : Quiet s s.deadOff := .of_same rfl rfl rfl rfl rfl

theorem place_eq (s : State) (fresh : List (Nat × Nat)) (cause_ : Nat) :
    s.place fresh cause_ = (s.placedAll fresh cause_).deadOff.markStale.abortStanding := by
  rw [State.place, State.placedAll, State.replaced, State.deadOff]
  congr 2

/-- Where no context is in use, placement leaves what its fold leaves, but for the tiles. -/
theorem place_unused (fresh : List (Nat × Nat)) (cause_ : Nat) (h : Unused s) :
    s.place fresh cause_ = (s.placedAll fresh cause_).deadOff := by
  have hu : Unused (s.placedAll fresh cause_).deadOff := (placedAll_quiet fresh cause_ h).built.unused h
  rw [place_eq, markStale_unused hu, abortStanding_unused hu]

theorem place_quiet (fresh : List (Nat × Nat)) (cause_ : Nat) (h : Unused s) : Quiet s (s.place fresh cause_) := by
  rw [place_unused fresh cause_ h]
  exact (placedAll_quiet fresh cause_ h).trans (deadOff_quiet _)

/-! #### Rails that stay at 0 V -/

/-- Losing a region raises no peg. -/
theorem loseRegion_peg (r q : Fin 48) (cause_ : Nat) (h : Unused s) (hq : (s.regions[q]).peg = 0) :
    ((s.loseRegion r cause_).regions[q]).peg = 0 := by
  unfold State.loseRegion
  split
  · exact hq
  · extract_lets a b c f d
    have ha : a.regions = s.regions ∧ a.ctxs = s.ctxs := by
      simp only [a]
      split <;> exact ⟨rfl, rfl⟩
    have hc : c.regions = b.regions ∧ c.ctxs = a.ctxs := by
      simp only [c, State.causeAt, State.locate]
      split <;> exact ⟨rfl, rfl⟩
    have hu : Unused d := hc.2.trans (ha.2.trans h)
    rw [markStale_unused hu, abortStanding_unused hu]
    have hb : b.regions[q] = if q = r then (a.regions[r]).gone else a.regions[q] := modRegion_region a r q _
    show (c.regions[q]).peg = 0
    rw [hc.1, hb]
    split
    · rfl
    · rw [ha.1]; exact hq

theorem place_peg (fresh : List (Nat × Nat)) (cause_ : Nat) (h : Unused s) {q : Fin 48} (hq : (s.regions[q]).peg = 0) :
    ((s.place fresh cause_).regions[q]).peg = 0 := by
  rw [place_unused fresh cause_ h]
  show ((s.placedAll fresh cause_).regions[q]).peg = 0
  have step : ∀ (l : List (Nat × Nat)) (t : State), Unused t → (t.regions[q]).peg = 0 →
      ((l.foldl (placeOne fresh cause_) t).regions[q]).peg = 0 := by
    intro l
    induction l with
    | nil => exact fun _ _ => id
    | cons e l ih =>
      intro t ht hp
      refine ih _ ((placeOne_quiet fresh cause_ t e ht).built.unused ht) ?_
      obtain he | ⟨r, he⟩ | ⟨d, o, he⟩ := placeOne_cases fresh cause_ t e
      · rwa [he]
      · rw [he]; exact loseRegion_peg r q cause_ ht hp
      · rw [he]; exact hp
  exact step _ _ h hq

end Sys2Proof.Machine

namespace Sys2Proof.Machine

variable {s t u : State} {b : BringUp}

/-- A stretch of bring-up before its ports train: what `Quiet` keeps, but for the order reached and the fret map. -/
structure Kept (s u : State) : Prop where
  built : Built s u
  ports : u.ports = s.ports
  muted : ∀ r : Fin 48, (s.regions[r]).muted → (u.regions[r]).muted
  silent : ∀ r : Fin 48, (s.regions[r]).silentAtBoot = true → (u.regions[r]).silentAtBoot = true

theorem Quiet.kept (h : Quiet s u) : Kept s u := ⟨h.built, h.ports, h.muted, h.silent⟩

theorem Kept.trans (h : Kept s t) (g : Kept t u) : Kept s u :=
  ⟨h.built.trans g.built, g.ports.trans h.ports, fun r x => g.muted r (h.muted r x), fun r x => g.silent r (h.silent r x)⟩

theorem Kept.of_same (hb : Built s u) (h1 : u.ports = s.ports) (h2 : u.regions = s.regions) : Kept s u :=
  ⟨hb, h1, fun _ => by rw [h2]; exact id, fun _ => by rw [h2]; exact id⟩

/-- A fold over distinct elements ends in `Q` where the step at `a` makes `Q` of `P` and every other keeps both. -/
theorem foldl_visits {α β : Type} {f : β → α → β} {a : α} {P Q : β → Prop} (hP : ∀ x c, c ≠ a → P x → P (f x c))
    (hQ : ∀ x c, c ≠ a → Q x → Q (f x c)) (ha : ∀ x, P x → Q (f x a)) {l : List α} (hn : l.Nodup) (hm : a ∈ l) {x : β}
    (hx : P x) : Q (l.foldl f x) := by
  have after : ∀ (l : List α) (x : β), a ∉ l → Q x → Q (l.foldl f x) := by
    intro l
    induction l with
    | nil => exact fun _ _ => id
    | cons c l ih =>
      intro x hc hq
      rw [List.mem_cons, not_or] at hc
      exact ih _ hc.2 (hQ x c (Ne.symm hc.1) hq)
  induction l generalizing x with
  | nil => cases hm
  | cons c l ih =>
    obtain ⟨hc, hl⟩ := List.nodup_cons.mp hn
    rcases List.mem_cons.mp hm with rfl | hm
    · exact after l _ hc (ha x hx)
    · exact ih hl hm (hP x c (fun h => hc (h ▸ hm)) hx)

/-! #### Records that fail their CRC-32C (R463) -/

theorem clearBits_getLsbD (l : List (Fin 48)) (m : BitVec 48) {r : Fin 48} (h : r ∉ l) :
    (l.foldl (fun (m : BitVec 48) r => m &&& ~~~(BitVec.ofNat 48 (2 ^ r.1))) m).getLsbD r.1 = m.getLsbD r.1 := by
  induction l generalizing m with
  | nil => rfl
  | cons q l ih =>
    rw [List.mem_cons, not_or] at h
    have hq : ¬q.1 = r.1 := fun e => h.1 (Fin.ext e.symm)
    rw [List.foldl_cons, ih _ h.2, BitVec.getLsbD_and, BitVec.getLsbD_not, BitVec.getLsbD_ofNat, Nat.testBit_two_pow]
    simp [hq]

/-- The field records that pass. -/
def Fret.whole (f : Fret) (b : BringUp) : List (Nat × Nat) :=
  f.fieldCores.filter fun e => !(b.tornCores.map Core.key).contains e

/-- The lost regions whose records pass. -/
def Fret.lostWhole (f : Fret) (b : BringUp) : BitVec 48 :=
  b.tornRegions.foldl (fun (m : BitVec 48) r => m &&& ~~~(BitVec.ofNat 48 (2 ^ r.1))) f.lost

theorem ignoreTorn_cases (s : State) (b : BringUp) :
    (s.ignoreTorn b = s ∧ s.fret.whole b = s.fret.fieldCores) ∨
    (¬(b.tornCores = [] ∧ b.tornRegions = []) ∧ ∃ n p, s.ignoreTorn b = ({ s with fret := { s.fret with
      fieldCores := s.fret.whole b, lost := s.fret.lostWhole b, revision := n, placed := p, dead := [] } } : State).place []) := by
  unfold State.ignoreTorn
  extract_lets f lost cores gone
  split
  · rename_i h
    refine .inl ⟨rfl, ?_⟩
    have full : f.fieldCores.length ≤ cores.length := by omega
    exact List.filter_eq_self.mpr (List.length_filter_eq_length_iff.mp (Nat.le_antisymm (List.length_filter_le _ _) full))
  · rename_i h
    refine .inr ⟨fun ⟨h1, h2⟩ => h ?_, _, _, rfl⟩
    have hl : lost = f.lost := by simp only [lost, h2, List.foldl_nil]
    have hc : cores = f.fieldCores := by simp [cores, h1]
    simp [gone, hl, hc]

/-- What ignoring torn records leaves: the records that pass, and every region without power. -/
theorem ignoreTorn_spec (h : Unused s) (b : BringUp) : Built s (s.ignoreTorn b) ∧ (s.ignoreTorn b).ports = s.ports ∧
    (∀ r : Fin 48, s.fret.lost.getLsbD r.1 = true → r ∉ b.tornRegions → (s.ignoreTorn b).fret.lost.getLsbD r.1 = true) ∧
    (∀ r : Fin 48, (s.regions[r]).peg = 0 → ((s.ignoreTorn b).regions[r]).peg = 0) ∧
    (s.ignoreTorn b).fret.fieldCores = s.fret.whole b ∧
    (b.tornCores = [] → b.tornRegions = [] → s.ignoreTorn b = s) := by
  obtain ⟨hs, hc⟩ | ⟨ht, n, p, hp⟩ := ignoreTorn_cases s b
  · rw [hs]
    exact ⟨rfl, rfl, fun _ hl _ => hl, fun _ => id, hc.symm, fun _ _ => rfl⟩
  · generalize hv : ({ s with fret := { s.fret with
      fieldCores := s.fret.whole b, lost := s.fret.lostWhole b, revision := n, placed := p, dead := [] } } : State) = v at hp
    have hu : Unused v := by subst hv; exact h
    have hb : Built s v := by subst hv; rfl
    have placed := place_quiet [] 0xFFFF hu
    rw [hp]
    refine ⟨hb.trans placed.built, placed.ports.trans (by subst hv; rfl), fun r hl ht => placed.lost r ?_,
      fun r h0 => place_peg [] _ hu (by subst hv; exact h0), placed.cores.trans (by subst hv; rfl),
      fun h1 h2 => absurd ⟨h1, h2⟩ ht⟩
    subst hv
    exact (clearBits_getLsbD _ _ ht).trans hl

end Sys2Proof.Machine

namespace Sys2Proof.Machine

variable {s t u : State} {b : BringUp}

/-! #### Orders 5 to 7 (R460 to R463) -/

@[simp] theorem reached_fret (s : State) (n : Nat) : (s.reached n).fret = s.fret := rfl

theorem reached_kept (s : State) (n : Nat) : Kept s (s.reached n) := .of_same rfl rfl rfl

/-- Order 5 at one region: out, left out, or on its rail. -/
def powerOne (b : BringUp) (s : State) (r : Fin 48) : State :=
  if s.fret.lost.getLsbD r.1 then s.modRegion r fun x => { x with state := .lost }
  else if b.silentRegulators.contains r then s.modRegion r fun x => { x with silentAtBoot := true }
  else (s.modRegion r fun x => { x with state := .test }).setPeg r 720

/-- Every region brought to its rail. -/
def powerAll (b : BringUp) (s : State) : State := (fins 48).foldl (powerOne b) s

/-- Regions lost. -/
def State.loseAll (s : State) (l : List (Fin 48)) : State := l.foldl (fun (s : State) r => s.loseRegion r) s

theorem loseAll_quiet (h : Unused s) (l : List (Fin 48)) : Quiet s (s.loseAll l) :=
  Quiet.foldl (fun _ r hs => loseRegion_quiet r _ hs) l h

theorem bootPower_eq (s : State) (b : BringUp) : s.bootPower b =
    ((powerAll b s).loseAll (((powerAll b s).powered b).filter b.railFails.contains)).reached 5 := rfl

theorem powerOne_frame (b : BringUp) (s : State) (r : Fin 48) : Built s (powerOne b s r) ∧
    (powerOne b s r).boot = s.boot ∧ (powerOne b s r).ports = s.ports ∧ (powerOne b s r).fret = s.fret ∧
    ∀ q, q ≠ r → (powerOne b s r).regions[q] = s.regions[q] := by
  have mod : ∀ (f : Region → Region) (q : Fin 48), q ≠ r → (s.modRegion r f).regions[q] = s.regions[q] := fun f q hq =>
    (modRegion_region s r q f).trans (if_neg hq)
  unfold powerOne
  split
  · exact ⟨rfl, rfl, rfl, rfl, mod _⟩
  · split
    · exact ⟨rfl, rfl, rfl, rfl, mod _⟩
    · generalize hv : s.modRegion r (fun x => { x with state := .test }) = v
      have hr : v.regions[r] = { s.regions[r] with state := .test } := by
        subst hv
        exact (modRegion_region s r r _).trans (if_pos rfl)
      have set := setPeg_quiet (s := v) r 720 0xFFFF (by rw [hr]; exact fun h => absurd h.1 nofun)
      have hb : Built s v := by subst hv; rfl
      obtain ⟨others, fret⟩ := setPeg_other v r 720 0xFFFF
      refine ⟨hb.trans set.built, set.boot.trans (by subst hv; rfl), set.ports.trans (by subst hv; rfl),
        fret.trans (by subst hv; rfl), fun q hq => (others q hq).trans ?_⟩
      subst hv
      exact mod _ q hq

theorem powerAll_frame (b : BringUp) (s : State) : Built s (powerAll b s) ∧ (powerAll b s).ports = s.ports ∧
    (powerAll b s).fret = s.fret := by
  have fold : ∀ (l : List (Fin 48)) (s : State), Built s (l.foldl (powerOne b) s) ∧
      (l.foldl (powerOne b) s).ports = s.ports ∧ (l.foldl (powerOne b) s).fret = s.fret := by
    intro l
    induction l with
    | nil => exact fun _ => ⟨rfl, rfl, rfl⟩
    | cons r l ih =>
      intro s
      obtain ⟨hb, -, hp, hf, -⟩ := powerOne_frame b s r
      obtain ⟨ib, ip, ifr⟩ := ih (powerOne b s r)
      exact ⟨hb.trans ib, ip.trans hp, ifr.trans hf⟩
  exact fold _ s

/-- A region out, or with a silent regulator, after order 5 has come to it. -/
theorem powerAll_region (b : BringUp) (s : State) (r : Fin 48) :
    (s.fret.lost.getLsbD r.1 = true → (powerAll b s).regions[r] = { s.regions[r] with state := .lost }) ∧
    (s.fret.lost.getLsbD r.1 = false → r ∈ b.silentRegulators →
      (powerAll b s).regions[r] = { s.regions[r] with silentAtBoot := true }) := by
  have visit : ∀ y : Region, (∀ x : State, x.fret = s.fret → x.regions[r] = s.regions[r] → (powerOne b x r).regions[r] = y) →
      (powerAll b s).regions[r] = y := fun y hy =>
    foldl_visits (P := fun x => x.fret = s.fret ∧ x.regions[r] = s.regions[r]) (Q := fun x => x.regions[r] = y)
      (fun x c hc hx => by
        obtain ⟨-, -, -, hf, ho⟩ := powerOne_frame b x c
        exact ⟨hf.trans hx.1, (ho r hc.symm).trans hx.2⟩)
      (fun x c hc hx => by
        obtain ⟨-, -, -, -, ho⟩ := powerOne_frame b x c
        exact (ho r hc.symm).trans hx)
      (fun x hx => hy x hx.1 hx.2) (List.nodup_finRange 48) (List.mem_finRange r) ⟨rfl, rfl⟩
  refine ⟨fun hl => visit _ fun x hf hx => ?_, fun hl hs => visit _ fun x hf hx => ?_⟩
  · rw [powerOne, hf, hl, if_pos rfl, modRegion_region, if_pos rfl, hx]
  · rw [powerOne, hf, hl, if_neg Bool.false_ne_true, if_pos (by simpa using hs), modRegion_region, if_pos rfl, hx]

theorem bootPower_spec (h : Unused s) (b : BringUp) : Built s (s.bootPower b) ∧ (s.bootPower b).ports = s.ports ∧
    (s.bootPower b).fret.fieldCores = s.fret.fieldCores ∧
    (∀ r : Fin 48, s.fret.lost.getLsbD r.1 = true → (s.regions[r]).peg = 0 → ((s.bootPower b).regions[r]).muted) ∧
    (∀ r : Fin 48, s.fret.lost.getLsbD r.1 = false → r ∈ b.silentRegulators →
      ((s.bootPower b).regions[r]).silentAtBoot = true) := by
  have region := powerAll_region b s
  obtain ⟨hb, hports, hf⟩ := powerAll_frame b s
  have lose := loseAll_quiet (hb.unused h) (((powerAll b s).powered b).filter b.railFails.contains)
  rw [bootPower_eq]
  refine ⟨(hb.trans lose.built).trans (reached_kept _ 5).built, lose.ports.trans hports, lose.cores.trans (by rw [hf]),
    fun r hl h0 => lose.muted r ?_, fun r hl hs => lose.silent r ?_⟩
  · rw [(region r).1 hl]; exact ⟨rfl, h0⟩
  · rw [(region r).2 hl hs]

/-- One condemned core entered in the action log (R491). -/
def condemnOne (cause_ : Nat) (s : State) (k : Core) : State :=
  match s.fret.tileOf k with
  | some t => s.action 4 k.region.1 cause_ t.1
  | none =>
    let (w, s) := s.freeWord
    s.action 4 k.region.1 cause_ (w.toNat % 2 ^ 31)

theorem condemnOne_quiet (cause_ : Nat) (s : State) (k : Core) : Quiet s (condemnOne cause_ s k) := by
  unfold condemnOne
  split <;> exact .of_same rfl rfl rfl rfl rfl

/-- Condemned cores added to the field records (R463). -/
def State.addCores (s : State) (ks : List Core) : State :=
  { s with fret := { s.fret with
    fieldCores := s.fret.fieldCores ++ ks.map Core.key, revision := s.fret.revision + BitVec.ofNat 32 ks.length } }

theorem condemn_eq (s : State) (ks : List Core) (cause_ : Nat) :
    s.condemn ks cause_ = ((ks.foldl (condemnOne cause_) s).addCores ks).place (ks.map Core.key) cause_ := by
  rw [State.condemn, State.addCores]
  congr 1

theorem condemn_spec (h : Unused s) (ks : List Core) (cause_ : Nat) : Kept s (s.condemn ks cause_) ∧
    (s.condemn ks cause_).fret.fieldCores = s.fret.fieldCores ++ ks.map Core.key := by
  have log : Quiet s (ks.foldl (condemnOne cause_) s) := Quiet.foldl (fun s k _ => condemnOne_quiet cause_ s k) ks h
  have add : ∀ v : State, Kept v (v.addCores ks) := fun _ => .of_same rfl rfl rfl
  have hu : Unused ((ks.foldl (condemnOne cause_) s).addCores ks) := (add _).built.unused (log.built.unused h)
  have placed := place_quiet (ks.map Core.key) cause_ hu
  rw [condemn_eq]
  refine ⟨(log.kept.trans (add _)).trans placed.kept, placed.cores.trans ?_⟩
  rw [State.addCores, log.cores]

theorem bootTest_spec (h : Unused s) (b : BringUp) : Kept s (s.bootTest b) ∧
    (against b.first = [] → (s.bootTest b).fret.fieldCores = s.fret.fieldCores) := by
  unfold State.bootTest
  extract_lets off tested votes bad single _ v
  have hv : Kept s v := .of_same rfl rfl rfl
  obtain ⟨hc, cores⟩ := condemn_spec (hv.built.unused h) bad 0xFFFF
  have settled := settleRegions_quiet (hc.built.unused (hv.built.unused h))
  refine ⟨((hv.trans hc).trans settled.kept).trans (reached_kept _ 7), fun ha => ?_⟩
  rw [reached_fret, settled.cores, cores]
  simp [bad, tested, ha, v]

/-- Orders 4 to 7: the field records that pass, the supplies, the self-test. -/
def State.tested (s : State) (b : BringUp) : State := (((s.reached 4).ignoreTorn b).bootPower b).bootTest b

theorem tested_spec (h : Unused s) (b : BringUp) : Built s (s.tested b) ∧ (s.tested b).ports = s.ports ∧
    (against b.first = [] → (s.tested b).fret.fieldCores = s.fret.whole b) ∧
    ((∀ r : Fin 48, s.regions[r] = {}) →
      (∀ r : Fin 48, s.fret.lost.getLsbD r.1 = true → r ∉ b.tornRegions → ((s.tested b).regions[r]).muted) ∧
      (b.tornCores = [] → b.tornRegions = [] → ∀ r : Fin 48, r ∈ b.silentRegulators → s.fret.lost.getLsbD r.1 = false →
        ((s.tested b).regions[r]).silentAtBoot = true)) := by
  have h4 : Unused (s.reached 4) := h
  obtain ⟨tb, tp, tl, tpeg, tc, ts⟩ := ignoreTorn_spec h4 b
  obtain ⟨pb, pp, pc, pm, psil⟩ := bootPower_spec (tb.unused h4) b
  obtain ⟨test, cores⟩ := bootTest_spec (pb.unused (tb.unused h4)) b
  refine ⟨(((reached_kept s 4).built.trans tb).trans pb).trans test.built, (test.ports.trans pp).trans tp,
    fun ha => (cores ha).trans (pc.trans tc), fun hr => ⟨fun r hl ht => test.muted r (pm r (tl r hl ht) (tpeg r ?_)),
      fun h1 h2 r hs hl => test.silent r (psil r ?_ hs)⟩⟩
  · show (s.regions[r]).peg = 0
    rw [hr]
  · rw [ts h1 h2]
    exact hl

end Sys2Proof.Machine

namespace Sys2Proof.Machine

variable {s t u x : State} {b : BringUp}

/-! #### Orders 8 and 9 (R456, R464) -/

theorem insertModule_quiet (s : State) (k : Fin 16) (m : ModuleId) (new : Bool) : Quiet s (s.insertModule k m new) := by
  unfold State.insertModule
  split
  · exact .refl s
  · dsimp only
    split <;> exact .of_same rfl rfl rfl rfl rfl

/-- The first attempt of a port to train. -/
def trainOne (b : BringUp) (s : State) (p : Fin 64) : State :=
  if !s.mayTrain p then s
  else if b.portFail.getLsbD p.1 then s.modPort p fun x => { x with tried := true }
  else
    let s := s.modPort p fun x => { x with state := .training }
    { s with boot := { s.boot with portsLeft := s.boot.portsLeft ||| BitVec.ofNat 64 (2 ^ p.1) } }

/-- A port that trains has not failed and is waited for. -/
def Awaited (b : BringUp) (s : State) : Prop :=
  ∀ p : Fin 64, (s.ports[p]).state = .training → b.portFail.getLsbD p.1 = false ∧ s.boot.portsLeft.getLsbD p.1 = true

/-- What training leaves of the state before it. -/
structure Trains (b : BringUp) (s u : State) : Prop where
  built : Built s u
  fret : u.fret = s.fret
  regions : u.regions = s.regions
  order : u.boot.order = s.boot.order
  stackFail : u.boot.stackFail = s.boot.stackFail
  awaited : Awaited b s → Awaited b u

theorem Trains.refl (b : BringUp) (s : State) : Trains b s s := ⟨rfl, rfl, rfl, rfl, rfl, id⟩

theorem Trains.trans (h : Trains b s t) (g : Trains b t u) : Trains b s u :=
  ⟨h.built.trans g.built, g.fret.trans h.fret, g.regions.trans h.regions, g.order.trans h.order, g.stackFail.trans h.stackFail,
    fun w => g.awaited (h.awaited w)⟩

theorem modPort_port (s : State) (p q : Fin 64) (f : Port → Port) :
    (s.modPort p f).ports[q] = if q = p then f s.ports[p] else s.ports[q] := by
  split
  · subst_vars; exact vget_vmod_eq _ _ _
  · rename_i h; exact vget_vmod_ne _ _ h

theorem trainOne_trains (b : BringUp) (s : State) (p : Fin 64) : Trains b s (trainOne b s p) := by
  unfold trainOne
  split
  · exact .refl b s
  · split
    · refine ⟨rfl, rfl, rfl, rfl, rfl, fun w q hq => w q ?_⟩
      rw [modPort_port] at hq
      split at hq
      · subst_vars; exact hq
      · exact hq
    · rename_i hf
      refine ⟨rfl, rfl, rfl, rfl, rfl, fun w q hq => ?_⟩
      show _ ∧ (s.boot.portsLeft ||| BitVec.ofNat 64 (2 ^ p.1)).getLsbD q.1 = true
      rw [getLsbD_or_bit _ _ _ q.2]
      by_cases h : q = p
      · subst h
        exact ⟨by simpa using hf, by simp⟩
      · have hs : (s.ports[q]).state = .training := by
          have : (s.modPort p fun x => { x with state := .training }).ports[q] = s.ports[q] := by
            rw [modPort_port, if_neg h]
          rw [← this]
          exact hq
        obtain ⟨h1, h2⟩ := w q hs
        exact ⟨h1, by rw [h2, Bool.true_or]⟩

theorem trainAll_trains (b : BringUp) (l : List (Fin 64)) (s : State) : Trains b s (l.foldl (trainOne b) s) := by
  induction l generalizing s with
  | nil => exact .refl b s
  | cons p l ih => exact (trainOne_trains b s p).trans (ih _)

/-- The stacks' results entered. -/
def State.stacked (s : State) (b : BringUp) : State := { s with boot := { s.boot with stackFail := b.stackFail } }

theorem stacked_kept (s : State) (b : BringUp) : Kept s (s.stacked b) := .of_same rfl rfl rfl

/-- The string modules verified (R313, R466). -/
def State.moduled (s : State) (b : BringUp) : State :=
  b.modules.foldl (fun (s : State) (m : Fin 16 × ModuleId) => s.insertModule m.1 m.2 false) s

theorem bootTrain_eq (s : State) (b : BringUp) : s.bootTrain b =
    if b.stackFail = BitVec.allOnes 12 then (s.stacked b).bootFail 3
    else (fins 64).foldl (trainOne b) (((s.stacked b).moduled b).reached 8) := rfl

theorem bootTrain_spec (h : Unused s) (hb : b.stackFail ≠ BitVec.allOnes 12) : Built s (s.bootTrain b) ∧
    (∀ r : Fin 48, (s.regions[r]).muted → ((s.bootTrain b).regions[r]).muted) ∧
    (∀ r : Fin 48, (s.regions[r]).silentAtBoot = true → ((s.bootTrain b).regions[r]).silentAtBoot = true) ∧
    (s.bootTrain b).fret.fieldCores = s.fret.fieldCores ∧ (s.bootTrain b).boot.order = 8 ∧
    (s.bootTrain b).boot.stackFail = b.stackFail ∧ ((∀ p : Fin 64, s.ports[p] = {}) → Awaited b (s.bootTrain b)) := by
  have stack := stacked_kept s b
  have mods : Quiet (s.stacked b) ((s.stacked b).moduled b) :=
    Quiet.foldl (fun s m _ => insertModule_quiet s m.1 m.2 false) _ (stack.built.unused h)
  have eight := reached_kept ((s.stacked b).moduled b) 8
  have train := trainAll_trains b (fins 64) (((s.stacked b).moduled b).reached 8)
  have kept := (stack.trans mods.kept).trans eight
  rw [bootTrain_eq, if_neg hb]
  refine ⟨kept.built.trans train.built, fun r hm => ?_, fun r hs => ?_, ?_, train.order, train.stackFail.trans ?_,
    fun hp => train.awaited fun p hq => ?_⟩
  · rw [train.regions]; exact kept.muted r hm
  · rw [train.regions]; exact kept.silent r hs
  · rw [train.fret, reached_fret, mods.cores]; rfl
  · show ((s.stacked b).moduled b).boot.stackFail = b.stackFail
    rw [mods.boot]; rfl
  · rw [kept.ports, hp p] at hq
    cases hq

/-! #### Failure and what follows the choice of a copy -/

/-- What stays of the state in which a copy has been chosen (R457), whether bring-up succeeds or fails. -/
structure Follows (s u : State) : Prop where
  pending : u.pending = s.pending
  rings : u.rings = s.rings
  time : u.time = s.time
  flash : u.flash = s.flash
  serial : u.hng.serial = s.hng.serial
  epoch : u.hng.epoch = s.hng.epoch
  coldResetN : u.pins.coldResetN = s.pins.coldResetN
  linkUp : u.pins.linkUp = s.pins.linkUp
  copy : u.boot.copy = s.boot.copy
  trial : u.boot.trial = s.boot.trial
  fallback : u.boot.fallback = s.boot.fallback
  fwWait : u.boot.fwWait = s.boot.fwWait

theorem Follows.trans (h : Follows s t) (g : Follows t u) : Follows s u :=
  ⟨g.pending.trans h.pending, g.rings.trans h.rings, g.time.trans h.time, g.flash.trans h.flash, g.serial.trans h.serial,
    g.epoch.trans h.epoch, g.coldResetN.trans h.coldResetN, g.linkUp.trans h.linkUp, g.copy.trans h.copy,
    g.trial.trans h.trial, g.fallback.trans h.fallback, g.fwWait.trans h.fwWait⟩

theorem Built.follows (h : Built s u) : Follows s u := by
  unfold Built at h
  constructor <;> rw [h]

theorem bootFail_spec (s : State) (code : Nat) : Follows s (s.bootFail code) ∧ (s.bootFail code).hng.failed = true ∧
    (s.bootFail code).boot = { s.boot with fail := code } := by
  unfold State.bootFail State.enterFailed
  split
  · rename_i h
    exact ⟨⟨rfl, rfl, rfl, rfl, rfl, rfl, rfl, rfl, rfl, rfl, rfl, rfl⟩, h, rfl⟩
  · exact ⟨⟨rfl, rfl, rfl, rfl, rfl, rfl, rfl, rfl, rfl, rfl, rfl, rfl⟩, rfl, rfl⟩

/-! #### Order 3 (R457, R458) -/

/-- The state with a copy chosen and its operand taken. -/
def State.selected (x : State) : State := { x.bootSelect with boot := { x.bootSelect.boot with input := none } }

/-- The choice of a copy changes only what the flash says of the copies, and how bring-up stands. -/
theorem bootSelect_frame (x : State) : x.bootSelect = { x with
    boot := x.bootSelect.boot
    flash := { x.flash with
      pendingCopy := x.bootSelect.flash.pendingCopy, tried := x.bootSelect.flash.tried
      active := x.bootSelect.flash.active } } := by
  generalize hu : x.bootSelect = u
  unfold State.bootSelect at hu
  extract_lets f run at hu
  split at hu
  · subst hu; rfl
  · extract_lets t at hu
    have ht : t = x ∨ t = { x with flash := { x.flash with pendingCopy := none, tried := false } } := by
      simp only [t]
      split
      · exact .inr rfl
      · exact .inl rfl
    clear_value t
    obtain rfl | rfl := ht
    all_goals
      split_ifs at hu
      all_goals
        subst hu
        rfl

theorem trial_none {f : Flash} (h : f.pendingCopy = none) : f.trial = (none, false) := by
  simp only [Flash.trial, h]

theorem trial_valid {f : Flash} {p : Fin 2} (h : f.pendingCopy = some p) (ht : f.tried = false) (hv : f.copyValid p = true) :
    f.trial = (some p, false) := by
  simp [Flash.trial, h, ht, hv]

theorem trial_invalid {f : Flash} {p : Fin 2} (h : f.pendingCopy = some p) (hv : f.copyValid p = false) :
    f.trial = (none, true) := by
  simp [Flash.trial, h, hv]

/-- A copy on trial boots (R457). -/
theorem bootSelect_trial {p : Fin 2} {k : Bool} (h : x.flash.trial = (some p, k)) :
    let u := x.bootSelect
    u.boot.fwWait = false ∧ u.boot.copy = p ∧ u.boot.trial = true ∧ u.flash.tried = true := by
  simp [State.bootSelect, h]

theorem copyValid_other {f : Flash} (h : f.copyValid 0 = true ∨ f.copyValid 1 = true) (ha : f.copyValid f.active = false) :
    f.copyValid (f.active + 1) = true := by
  have two : f.active = 0 ∨ f.active = 1 := by omega
  obtain hf | hf := two
  · rw [hf] at ha ⊢
    simpa [ha] using h
  · rw [hf] at ha ⊢
    simpa [ha] using h

/-- Without a trial the active copy boots, else the other one (R457). -/
theorem bootSelect_valid {back : Bool} (h : x.flash.trial = (none, back))
    (hv : x.flash.copyValid 0 = true ∨ x.flash.copyValid 1 = true) :
    let u := x.bootSelect
    u.boot.fwWait = false ∧
      u.boot.copy = (if x.flash.copyValid x.flash.active then x.flash.active else x.flash.active + 1) ∧
      u.boot.trial = false ∧ (back = true → u.boot.fallback = true ∧ u.flash.pendingCopy = none) := by
  simp only [State.bootSelect, h]
  cases ha : x.flash.copyValid x.flash.active with
  | true => cases back <;> simp
  | false => cases back <;> simp [copyValid_other hv ha]

/-- Without a valid copy the luthier waits for an image (R458). -/
theorem bootSelect_wait (h0 : x.flash.copyValid 0 = false) (h1 : x.flash.copyValid 1 = false) :
    x.bootSelect.boot.fwWait = true ∧ x.bootSelect.boot.order = 2 := by
  have never : ∀ i, x.flash.copyValid i = false := by
    intro i
    have two : i = 0 ∨ i = 1 := by omega
    obtain rfl | rfl := two
    · exact h0
    · exact h1
  have trial : ∃ back, x.flash.trial = (none, back) := by
    cases hp : x.flash.pendingCopy with
    | none => exact ⟨_, trial_none hp⟩
    | some p => exact ⟨_, trial_invalid hp (never p)⟩
  obtain ⟨back, hb⟩ := trial
  simp only [State.bootSelect, hb, never]
  exact ⟨rfl, rfl⟩

theorem bootSelect_fwWait (h : x.flash.copyValid 0 = true ∨ x.flash.copyValid 1 = true) : x.bootSelect.boot.fwWait = false := by
  rcases ht : x.flash.trial with ⟨o, back⟩
  cases o with
  | none => exact (bootSelect_valid ht h).1
  | some p => exact (bootSelect_trial ht).1

/-! #### Bring-up as a whole -/

theorem bringUp_waits (h : x.bootSelect.boot.fwWait = true) :
    x.bringUp b = { x.bootSelect with boot := { x.bootSelect.boot with input := some b } } := by
  rw [State.bringUp, if_pos h]

theorem bringUp_runs (h : x.bootSelect.boot.fwWait = false) : x.bringUp b =
    if 4 ≤ b.pufFailedReads then x.selected.bootFail 1
    else if !factoryOk b then x.selected.bootFail 2
    else (x.selected.tested b).bootTrain b := by
  rw [State.bringUp, if_neg (by simp [h])]
  rfl

theorem selected_frame (x : State) : x.selected.ctxs = x.ctxs ∧ x.selected.regions = x.regions ∧ x.selected.ports = x.ports ∧
    x.selected.fret = x.fret ∧ x.selected.hng = x.hng ∧ x.selected.pins = x.pins := by
  unfold State.selected
  rw [bootSelect_frame]
  exact ⟨rfl, rfl, rfl, rfl, rfl, rfl⟩

/-- What follows the choice of a copy keeps it, and the counters that bring-up has read. -/
theorem bringUp_follows (h : Unused x) (b : BringUp) : Follows x.bootSelect (x.bringUp b) := by
  cases hw : x.bootSelect.boot.fwWait with
  | true =>
    rw [bringUp_waits hw]
    exact ⟨rfl, rfl, rfl, rfl, rfl, rfl, rfl, rfl, rfl, rfl, rfl, rfl⟩
  | false =>
    have sel : Follows x.bootSelect x.selected := ⟨rfl, rfl, rfl, rfl, rfl, rfl, rfl, rfl, rfl, rfl, rfl, rfl⟩
    have hs : Unused x.selected := (selected_frame x).1.trans h
    obtain ⟨tested, -⟩ := tested_spec hs b
    rw [bringUp_runs hw]
    split
    · exact sel.trans (bootFail_spec _ 1).1
    · split
      · exact sel.trans (bootFail_spec _ 2).1
      · refine (sel.trans tested.follows).trans ?_
        by_cases hk : b.stackFail = BitVec.allOnes 12
        · rw [bootTrain_eq, if_pos hk]
          exact (stacked_kept _ b).built.follows.trans (bootFail_spec _ 3).1
        · exact (bootTrain_spec (tested.unused hs) hk).1.follows

end Sys2Proof.Machine

namespace Sys2Proof.Machine

variable {s x : State} {b : BringUp}

/-! #### How bring-up ends -/

theorem bringUp_identity (hw : x.bootSelect.boot.fwWait = false) (h : 4 ≤ b.pufFailedReads) :
    (x.bringUp b).hng.failed = true ∧ (x.bringUp b).boot.fail = 1 ∧ (x.bringUp b).boot.fwWait = false := by
  obtain ⟨-, failed, boot⟩ := bootFail_spec x.selected 1
  rw [bringUp_runs hw, if_pos h, boot]
  exact ⟨failed, rfl, hw⟩

theorem bringUp_factory (hw : x.bootSelect.boot.fwWait = false) (h : b.pufFailedReads < 4) (hf : ¬factoryOk b = true) :
    (x.bringUp b).hng.failed = true ∧ (x.bringUp b).boot.fail = 2 := by
  obtain ⟨-, failed, boot⟩ := bootFail_spec x.selected 2
  rw [bringUp_runs hw, if_neg (by omega), if_pos (by simpa using hf), boot]
  exact ⟨failed, rfl⟩

theorem bringUp_trains (hw : x.bootSelect.boot.fwWait = false) (h : b.pufFailedReads < 4) (hf : factoryOk b = true) :
    x.bringUp b = (x.selected.tested b).bootTrain b := by
  rw [bringUp_runs hw, if_neg (by omega), if_neg (by simp [hf])]

theorem bringUp_stacks (hw : x.bootSelect.boot.fwWait = false) (h : b.pufFailedReads < 4) (hf : factoryOk b = true)
    (hk : b.stackFail = 0xFFF) :
    (x.bringUp b).hng.failed = true ∧ (x.bringUp b).boot.fail = 3 ∧ (x.bringUp b).boot.stackFail = 0xFFF := by
  obtain ⟨-, failed, boot⟩ := bootFail_spec ((x.selected.tested b).stacked b) 3
  rw [bringUp_trains hw h hf, bootTrain_eq, if_pos (show b.stackFail = BitVec.allOnes 12 from hk), boot]
  exact ⟨failed, rfl, hk⟩

/-- A state from which bring-up runs, for the fret map of `s`: nothing is in use and a copy boots. -/
structure Ready (s x : State) : Prop where
  unused : Unused x
  failed : x.hng.failed = false
  chosen : x.bootSelect.boot.fwWait = false
  regOffN : x.pins.regOffN = true
  regions : ∀ r : Fin 48, x.regions[r] = {}
  ports : ∀ p : Fin 64, x.ports[p] = {}
  lost : x.fret.lost = s.fret.lost
  cores : x.fret.fieldCores = s.fret.fieldCores

/-- Bring-up without a failure (R459 to R464). -/
theorem bringUp_up (hr : Ready s x) (h : b.pufFailedReads < 4) (hf : factoryOk b = true) (hk : b.stackFail ≠ 0xFFF) :
    let u := x.bringUp b
    u.hng.failed = false ∧ u.boot.order = 8 ∧ u.boot.fwWait = false ∧ u.boot.stackFail = b.stackFail ∧
      u.pins.regOffN = true ∧ (∀ k : Fin 8, u.ctx k = {}) ∧
      (∀ r : Fin 48, s.fret.lost.getLsbD r.1 = true → r ∉ b.tornRegions →
        (u.regions[r]).state = .lost ∧ (u.regions[r]).peg = 0) ∧
      (b.tornCores = [] → b.tornRegions = [] → ∀ r : Fin 48, r ∈ b.silentRegulators → s.fret.lost.getLsbD r.1 = false →
        (u.regions[r]).silentAtBoot = true) ∧
      (against b.first = [] → u.fret.fieldCores = s.fret.whole b) ∧ Awaited b u := by
  obtain ⟨ctxs, regions, ports, fret, hng, pins⟩ := selected_frame x
  have unused : Unused x.selected := ctxs.trans hr.unused
  obtain ⟨tb, tp, tcores, tregions⟩ := tested_spec unused b
  obtain ⟨out, silent⟩ := tregions fun r => by rw [regions]; exact hr.regions r
  obtain ⟨bb, muted, sil, cores, order, stack, awaited⟩ := bootTrain_spec (tb.unused unused) (b := b) hk
  rw [fret, hr.lost] at out silent
  rw [bringUp_trains hr.chosen h hf]
  have built := tb.trans bb
  refine ⟨(congrArg (·.hng.failed) built).trans (by rw [hng]; exact hr.failed), order, built.follows.fwWait.trans hr.chosen,
    stack, (congrArg (·.pins.regOffN) built).trans (by rw [pins]; exact hr.regOffN), (built.unused unused).ctx,
    fun r hl ht => muted r (out r hl ht), fun h1 h2 r hs hl => sil r (silent h1 h2 r hs hl), fun ha => ?_,
    awaited fun p => by rw [tp, ports]; exact hr.ports p⟩
  rw [cores, tcores ha, Fret.whole, Fret.whole, fret, hr.cores]

/-! #### The release of COLD_RESET_N -/

/-- The flash as bring-up finds it: the copy that FW_UPDATE wrote may be torn. -/
def Flash.found (f : Flash) (torn : Bool) : Flash := if torn then f.tearFw else f

theorem found_frame (f : Flash) (torn : Bool) : f.found torn = { f with fw := (f.found torn).fw } := by
  unfold Flash.found Flash.tearFw
  split
  · split <;> rfl
  · rfl

theorem found_none {f : Flash} (torn : Bool) (h : f.pendingCopy = none) : f.found torn = f := by
  simp [Flash.found, Flash.tearFw, h]

theorem bootStart_flash (s : State) (torn : Bool) :
    (s.bootStart torn).flash = { s.flash.found torn with owner := s.flash.ownerCopies } := by
  unfold State.bootStart Flash.found Flash.tearFw
  cases torn
  · rfl
  · cases h : s.flash.pendingCopy <;> simp [h]

theorem bootStart_unused (s : State) (torn : Bool) : Unused (s.bootStart torn) := rfl

theorem bootStart_copyValid (s : State) (torn : Bool) (i : Fin 2) :
    (s.bootStart torn).flash.copyValid i = (s.flash.found torn).copyValid i := by
  rw [bootStart_flash]; rfl

theorem bootStart_trial (s : State) (torn : Bool) : (s.bootStart torn).flash.trial = (s.flash.found torn).trial := by
  rw [bootStart_flash]; rfl

/-- COLD_RESET_N low, its release completes in what bring-up leaves. -/
theorem release_completes {P : State → Prop} (h : s.pins.coldResetN = false) (hp : P ((s.bootStart b.tornFw).bringUp b)) :
    Completes s (.coldResetRelease b) P :=
  ⟨_, settle (s.bootStart b.tornFw) ((s.bootStart b.tornFw).bringUp b), by simp [exec, execColdResetRelease, h],
    settle_settled _ _, hp⟩

/-- The counters, the owner record and the pins that orders 1 and 2 set stay (R331, R448, R455, R475). -/
theorem release_started (s : State) (b : BringUp) :
    let u := (s.bootStart b.tornFw).bringUp b
    u.pins.coldResetN = true ∧ u.time.now = 0 ∧ u.flash.ceilings = s.flash.ceilings ∧
      (∀ i : Fin 2, u.flash.owner[i] = if crc32c s.flash.owner[i] = s.flash.ownerCrc[i] then s.flash.owner[i] else []) ∧
      u.hng.serial = s.flash.memberCeiling ∧ u.hng.epoch = 0 ∧
      (∀ r : Fin 9, (u.rings[r]).counter = s.flash.ceilings[r] ∧ (u.rings[r]).en = false ∧ (u.rings[r]).key = none) ∧
      u.pins.linkUp = false ∧ u.pending = s.pending := by
  have follows := bringUp_follows (bootStart_unused s b.tornFw) b
  have frame := bootSelect_frame (s.bootStart b.tornFw)
  have flash : (s.bootStart b.tornFw).bootSelect.flash.ceilings = s.flash.ceilings ∧
      (s.bootStart b.tornFw).bootSelect.flash.owner = s.flash.ownerCopies := by
    rw [frame]
    dsimp only
    rw [bootStart_flash, found_frame]
    exact ⟨rfl, rfl⟩
  have rings : ∀ r : Fin 9, (s.bootStart b.tornFw).rings[r] = { ({} : Ring) with counter := s.flash.ceilings[r] } := by
    intro r
    simp [State.bootStart, State.cold, State.reset]
  refine ⟨follows.coldResetN.trans (by rw [frame]; rfl), by rw [follows.time, frame]; rfl, by rw [follows.flash]; exact flash.1,
    fun i => ?_, follows.serial.trans (by rw [frame]; rfl), follows.epoch.trans (by rw [frame]; rfl), fun r => ?_,
    follows.linkUp.trans (by rw [frame]; rfl), follows.pending.trans (by rw [frame]; rfl)⟩
  · rw [follows.flash, flash.2]
    simp [Flash.ownerCopies]
  · rw [follows.rings, frame]
    show ((s.bootStart b.tornFw).rings[r]).counter = _ ∧ ((s.bootStart b.tornFw).rings[r]).en = _ ∧
      ((s.bootStart b.tornFw).rings[r]).key = _
    rw [rings]
    exact ⟨rfl, rfl, rfl⟩

end Sys2Proof.Machine

namespace Sys2Proof.Machine

variable {s x : State} {b : BringUp}

theorem release_ready (s : State) (h : (s.flash.found b.tornFw).copyValid 0 = true ∨ (s.flash.found b.tornFw).copyValid 1 = true) :
    Ready s (s.bootStart b.tornFw) where
  unused := rfl
  failed := rfl
  chosen := bootSelect_fwWait (by rwa [bootStart_copyValid, bootStart_copyValid])
  regOffN := rfl
  regions r := Vector.getElem_replicate r.2
  ports p := Vector.getElem_replicate p.2
  lost := rfl
  cores := rfl

/-- Without a valid copy the release leaves FW_WAIT, with what bring-up is to meet (R458). -/
theorem release_waits (s : State)
    (h : ¬((s.flash.found b.tornFw).copyValid 0 = true ∨ (s.flash.found b.tornFw).copyValid 1 = true)) :
    let u := (s.bootStart b.tornFw).bringUp b
    u.boot.fwWait = true ∧ u.boot.order = 2 ∧ u.boot.input = some b ∧ u.hng.failed = false := by
  rw [not_or, Bool.not_eq_true, Bool.not_eq_true] at h
  obtain ⟨wait, order⟩ := bootSelect_wait (x := s.bootStart b.tornFw) (by rw [bootStart_copyValid]; exact h.1)
    (by rw [bootStart_copyValid]; exact h.2)
  rw [bringUp_waits wait]
  refine ⟨wait, order, rfl, ?_⟩
  show (s.bootStart b.tornFw).bootSelect.hng.failed = false
  rw [bootSelect_frame]
  rfl

/-- The copy that the release boots: the active one or the other, or the one on trial; a torn or invalid pending copy is
given up (R457, R458, R466). -/
theorem release_copy (s : State) (b : BringUp)
    (h : (s.flash.found b.tornFw).copyValid 0 = true ∨ (s.flash.found b.tornFw).copyValid 1 = true) :
    let f := s.flash
    let g := f.found b.tornFw
    let u := (s.bootStart b.tornFw).bringUp b
    (f.pendingCopy = none → u.boot.copy = (if f.copyValid f.active then f.active else f.active + 1) ∧ u.boot.trial = false) ∧
      ∀ p, f.pendingCopy = some p → f.tried = false →
        (g.copyValid p = true → u.boot.copy = p ∧ u.boot.trial = true ∧ u.flash.tried = true) ∧
        (g.copyValid p = false → u.boot.trial = false ∧ u.boot.fallback = true ∧ u.flash.pendingCopy = none) ∧
        (b.tornFw = true → (u.flash.fw[p]).valid = false) := by
  intro f g u
  have follows : Follows (s.bootStart b.tornFw).bootSelect u := bringUp_follows (bootStart_unused s b.tornFw) b
  have valid : (s.bootStart b.tornFw).flash.copyValid 0 = true ∨ (s.bootStart b.tornFw).flash.copyValid 1 = true := by
    rwa [bootStart_copyValid, bootStart_copyValid]
  have trial := bootStart_trial s b.tornFw
  have pending : g.pendingCopy = f.pendingCopy ∧ g.tried = f.tried := by
    simp only [g]
    rw [found_frame]
    exact ⟨rfl, rfl⟩
  refine ⟨fun hp => ?_, fun p hp ht => ⟨fun hv => ?_, fun hv => ?_, fun torn => ?_⟩⟩
  · obtain ⟨-, copy, notTrial, -⟩ := bootSelect_valid (trial.trans (trial_none (pending.1.trans hp))) valid
    refine ⟨follows.copy.trans (copy.trans ?_), follows.trial.trans notTrial⟩
    rw [bootStart_copyValid, bootStart_flash, found_none _ hp]
  · obtain ⟨-, copy, onTrial, tried⟩ :=
      bootSelect_trial (trial.trans (trial_valid (pending.1.trans hp) (pending.2.trans ht) hv))
    exact ⟨follows.copy.trans copy, follows.trial.trans onTrial, (congrArg Flash.tried follows.flash).trans tried⟩
  · obtain ⟨-, -, notTrial, back⟩ := bootSelect_valid (trial.trans (trial_invalid (pending.1.trans hp) hv)) valid
    obtain ⟨fallback, gone⟩ := back rfl
    exact ⟨follows.trial.trans notTrial, follows.fallback.trans fallback, (congrArg Flash.pendingCopy follows.flash).trans gone⟩
  · have fw : u.flash.fw = (f.found b.tornFw).fw := by
      rw [follows.flash, bootSelect_frame]
      show (s.bootStart b.tornFw).flash.fw = _
      rw [bootStart_flash]
    rw [fw, torn]
    simp only [Flash.found, if_true, Flash.tearFw, hp]
    rw [vget_vset_eq]

/-! #### An image for FW_WAIT (R458) -/

/-- The state with the image as copy A. -/
def State.imaged (s : State) (image : List Byte) : State :=
  { s with flash := { s.flash with fw := vset s.flash.fw 0 (FwCopy.ofImage image) } }

/-- What FW_WAIT_IMAGE does (R458). -/
def State.tryImage (s : State) (image : List Byte) : State :=
  match s.boot.input with
  | some b => if s.boot.fwWait && fwValid s.flash.minSvn.toNat image then (s.imaged image).bringUp b else s
  | none => s

theorem exec_fwWaitImage (s : State) (image : List Byte) : exec (.fwWaitImage image) s = act (fun s => s.tryImage image) s := rfl

theorem tryImage_refused {image : List Byte} (h : s.boot.fwWait = false ∨ s.boot.input = none ∨
    ¬fwValid s.flash.minSvn.toNat image = true) : s.tryImage image = s := by
  unfold State.tryImage
  obtain h | h | h := h
  · cases s.boot.input <;> simp [h]
  · simp [h]
  · cases s.boot.input <;> simp [h]

theorem tryImage_taken {image : List Byte} (hw : s.boot.fwWait = true) (hi : s.boot.input = some b)
    (hv : fwValid s.flash.minSvn.toNat image = true) : s.tryImage image = (s.imaged image).bringUp b := by
  simp [State.tryImage, hw, hi, hv]

/-- A verified image is a valid copy. -/
theorem imaged_copyValid {image : List Byte} (hv : fwValid s.flash.minSvn.toNat image = true) :
    (s.imaged image).flash.copyValid 0 = true := by
  simp only [fwValid, Bool.and_eq_true] at hv
  have copyA : (s.imaged image).flash.fw[(0 : Fin 2)] = FwCopy.ofImage image := vget_vset_eq _ _ _
  simp only [Flash.copyValid, copyA]
  exact hv.2

theorem imaged_ready {image : List Byte} (ha : Alive s) (hv : fwValid s.flash.minSvn.toNat image = true)
    (hc : s.ctxs = State.reset.ctxs) (ho : s.pins.regOffN = true) (hr : ∀ r : Fin 48, s.regions[r] = {})
    (hp : ∀ p : Fin 64, s.ports[p] = {}) : Ready s (s.imaged image) where
  unused := hc
  failed := ha.1
  chosen := bootSelect_fwWait (.inl (imaged_copyValid hv))
  regOffN := ho
  regions := hr
  ports := hp
  lost := rfl
  cores := rfl

theorem imaged_fw {image : List Byte} (h : Unused s) :
    ((s.imaged image).bringUp b).flash.fw = vset s.flash.fw 0 (FwCopy.ofImage image) := by
  have hu : Unused (s.imaged image) := h
  rw [(bringUp_follows hu b).flash, bootSelect_frame]
  rfl

end Sys2Proof.Machine

section
open Sys2Proof Sys2Proof.Machine

/-- Settles O52: cold reset and power loss by what `State.cold` keeps, the release and an image by the copy that order 3
chooses and by how bring-up ends from there. -/
theorem bringUpOrders : Obligations.BringUpOrders := by
  intro s b off counted f g valid brought
  have ends : ∀ {x : State} {c : Instr}, Ready s x → (∀ {P : State → Prop}, P (x.bringUp b) → Completes s c P) → brought s c :=
    fun hr hc => ⟨fun h => hc (bringUp_identity hr.chosen h), fun h hf => hc (bringUp_factory hr.chosen h hf),
      fun h hf hk => hc (bringUp_stacks hr.chosen h hf hk), fun h hf hk => hc (bringUp_up hr h hf hk)⟩
  refine ⟨rfl, ?_, fun h => by simp [exec, execColdResetRelease, h], fun h => ⟨?_, fun hv => ?_, fun hv => ⟨?_, ?_⟩⟩,
    fun image ha => ⟨fun hn => ?_, fun hw hi hg hc _ ho hr hp => ?_⟩⟩
  · have thermal : s.cold.thermal.mapFinIdx (fun i _ h =>
        ({ cyc10 := s.flash.cyc10[i], cyc40 := s.flash.cyc40[i], wear := s.flash.wear[i] } : Thermal)) =
        Vector.ofFn fun i : Fin 60 => { cyc10 := f.cyc10[i], cyc40 := f.cyc40[i], wear := f.wear[i] } := by
      ext i hi
      simp [f]
    rw [exec, execPowerLoss, thermal]
    rfl
  · exact release_completes h (release_started s b)
  · exact release_completes h (release_waits s hv)
  · exact ends (release_ready s hv) (release_completes h)
  · exact release_completes h (release_copy s b hv)
  · exact act_completes (exec_fwWaitImage s image) ha (tryImage_refused hn)
  · have taken : ∀ {P : State → Prop}, P ((s.imaged image).bringUp b) → Completes s (.fwWaitImage image) P := fun hP =>
      act_completes (exec_fwWaitImage s image) ha (by rwa [tryImage_taken hw hi hg])
    exact ⟨ends (imaged_ready ha hg hc ho hr hp) taken, taken (imaged_fw hc)⟩

end

/-! ### Failures -/

namespace Sys2Proof.Machine

variable {s : State}

/-! #### Cause bits -/

theorem rfld_cause_self (s : State) (o : Nat) {b : Nat} (h : b < 32) : (s.cause o b).rfld o b 1 = 1 := by
  have set : ((s.reg o ||| 2 ^ b) % 2 ^ 32).testBit b = true := by
    rw [Nat.testBit_mod_two_pow, Nat.testBit_or, Nat.testBit_two_pow_self]
    simp [h]
  rw [State.rfld, State.cause, State.reg_setReg_eq, fld, Nat.shiftRight_eq_div_pow, pow_one]
  simpa [Nat.testBit_eq_decide_div_mod_eq] using set

/-- A locator's bit lies in the locators (R496). -/
theorem reg_locate_ne (s : State) {k n o : Nat} (h : o ≠ Reg.irqLoc k) (h' : o ≠ Reg.irqLoc k + 4) :
    (s.locate k n).reg o = s.reg o := by
  unfold State.locate
  split
  · exact s.reg_cause_ne _ h
  · exact s.reg_cause_ne _ h'

/-- The cause bit of LINK_DOWN, with its locator. -/
theorem fabCause_causeAt (s : State) (n : Nat) : (s.causeAt Reg.fabCause 0 0 n).rfld Reg.fabCause 0 1 = 1 := by
  rw [State.rfld, State.causeAt, reg_locate_ne _ (by decide) (by decide)]
  exact rfld_cause_self s Reg.fabCause (by decide)

/-! #### Ports that leave UP (R300) -/

theorem getLsbD_clear_bit {n : Nat} (m : BitVec n) (k q : Fin n) :
    (m &&& ~~~(BitVec.ofNat n (2 ^ k.1))).getLsbD q.1 = (m.getLsbD q.1 && q != k) := by
  rw [BitVec.getLsbD_and, BitVec.getLsbD_not, BitVec.getLsbD_ofNat, Nat.testBit_two_pow]
  simp [q.2, bne, beq_eq_decide, Fin.ext_iff, eq_comm]

/-- A port out of use, as `State.portDown` leaves it. -/
def Port.downed (x : Port) : Port := { x with state := .down, lanes := 0 }

theorem portDown_frame (s : State) (p : Fin 64) : s.portDown p = { s with
    ports := vmod s.ports p Port.downed, regs := (s.portDown p).regs
    boot := { s.boot with portsLeft := s.boot.portsLeft &&& ~~~(BitVec.ofNat 64 (2 ^ p.1)) } } := by
  unfold State.portDown State.causeAt State.locate
  dsimp only
  split
  · split <;> rfl
  · rfl

theorem portDown_port (s : State) (p q : Fin 64) :
    (s.portDown p).ports[q] = if q = p then (s.ports[q]).downed else s.ports[q] := by
  rw [portDown_frame]
  split
  · subst_vars; exact vget_vmod_eq _ _ _
  · rename_i h; exact vget_vmod_ne _ _ h

theorem portDown_portsLeft (s : State) (p q : Fin 64) :
    (s.portDown p).boot.portsLeft.getLsbD q.1 = (s.boot.portsLeft.getLsbD q.1 && q != p) := by
  rw [portDown_frame]
  exact getLsbD_clear_bit _ p q

/-- A port that leaves UP sets LINK_DOWN. -/
theorem portDown_linkDown {p : Fin 64} (h : (s.ports[p]).state = .up) : (s.portDown p).rfld Reg.fabCause 0 1 = 1 := by
  unfold State.portDown
  dsimp only
  rw [if_pos (.inl h)]
  exact fabCause_causeAt _ _

/-- LINK_DOWN stays set as another port goes down. -/
theorem portDown_linkDown_stays (p : Fin 64) (h : s.rfld Reg.fabCause 0 1 = 1) :
    (s.portDown p).rfld Reg.fabCause 0 1 = 1 := by
  unfold State.portDown
  dsimp only
  split
  · exact fabCause_causeAt _ _
  · exact h

/-- The ports of a list leave UP. -/
def State.portsDown (s : State) (l : List (Fin 64)) : State := l.foldl (fun (s : State) p => s.portDown p) s

theorem portsDown_frame (l : List (Fin 64)) (s : State) : s.portsDown l = { s with
    ports := (s.portsDown l).ports, regs := (s.portsDown l).regs
    boot := { s.boot with portsLeft := (s.portsDown l).boot.portsLeft } } := by
  induction l generalizing s with
  | nil => rfl
  | cons p l ih =>
    have step : s.portsDown (p :: l) = (s.portDown p).portsDown l := rfl
    rw [step, ih, portDown_frame]

theorem portsDown_port (l : List (Fin 64)) (s : State) (q : Fin 64) :
    (s.portsDown l).ports[q] = if q ∈ l then (s.ports[q]).downed else s.ports[q] := by
  induction l generalizing s with
  | nil => rfl
  | cons p l ih =>
    have step : s.portsDown (p :: l) = (s.portDown p).portsDown l := rfl
    rw [step, ih, portDown_port]
    by_cases hq : q = p <;> by_cases hl : q ∈ l <;> simp [hq, hl, Port.downed]

theorem portsDown_portsLeft (l : List (Fin 64)) (s : State) (q : Fin 64) :
    (s.portsDown l).boot.portsLeft.getLsbD q.1 = (s.boot.portsLeft.getLsbD q.1 && decide (q ∉ l)) := by
  induction l generalizing s with
  | nil => simp [State.portsDown]
  | cons p l ih =>
    have step : s.portsDown (p :: l) = (s.portDown p).portsDown l := rfl
    rw [step, ih, portDown_portsLeft]
    simp [Bool.and_assoc, bne, beq_eq_decide]

/-- LINK_DOWN is set where one of the ports was UP. -/
theorem portsDown_linkDown {l : List (Fin 64)} {p : Fin 64} (hn : l.Nodup) (hm : p ∈ l) (h : (s.ports[p]).state = .up) :
    (s.portsDown l).rfld Reg.fabCause 0 1 = 1 :=
  foldl_visits (P := fun x : State => (x.ports[p]).state = .up) (Q := fun x => x.rfld Reg.fabCause 0 1 = 1)
    (fun x c hc hx => by rwa [portDown_port, if_neg hc.symm]) (fun _ c _ hx => portDown_linkDown_stays c hx)
    (fun _ hx => portDown_linkDown hx) hn hm h

/-! #### What enters FAILED, and a loss of lock (R30, R32, R443) -/

theorem enterFailed_alive (h : s.hng.failed = false) : s.enterFailed = { s with
    hng := { s.hng with failed := true }, tiles := [], mesh := [], out := s.out ++ [.serdesOff]
    pins := { s.pins with regOffN := false }
    regions := s.regions.map fun x => { x with peg := 0, armed := false } } := by
  rw [State.enterFailed, if_neg (by simp [h])]
  rfl

/-- A row with an effect of its own in OFF and FAILED completes, outside them, in what `f` leaves. -/
theorem actOr_completes {c : Instr} {d f : State → State} {P : State → Prop} (he : exec c s = actOr d f s) (ha : Alive s)
    (hp : P (f s)) : Completes s c P := by
  have served : s.dead = false := by simp [State.dead, ha.1, ha.2]
  exact act_completes (he.trans (by simp only [act, actOr, served, Bool.false_eq_true, if_false])) ha hp

theorem exec_watchdogExpiry (s : State) :
    exec .watchdogExpiry s = act (fun s => if s.boot.order < 3 then s else s.enterFailed) s := rfl

theorem exec_bringupWatchdog (s : State) :
    exec .bringupWatchdog s = act (fun s => if s.boot.order < 10 ∧ !s.boot.fwWait then s.bootFail 4 else s) s := rfl

theorem ideStop_io (s : State) (b : Nat) : s.ideStop .io b = { s with
    regs := (s.ideStop .io b).regs
    sec := { s.sec with
      ideIo := false, ideIoKey := (s.ideStop .io b).sec.ideIoKey, ideIoKeys := (s.ideStop .io b).sec.ideIoKeys } } := by
  simp only [State.ideStop]
  split
  · rfl
  · rename_i h; simp [← Bool.eq_false_iff.mpr h]

theorem ideStop_cacheMem (s : State) (b : Nat) : s.ideStop .cacheMem b = { s with
    regs := (s.ideStop .cacheMem b).regs
    sec := { s.sec with
      ideCm := false, ideCmKey := (s.ideStop .cacheMem b).sec.ideCmKey, ideCmKeys := (s.ideStop .cacheMem b).sec.ideCmKeys } } := by
  simp only [State.ideStop]
  split
  · rfl
  · rename_i h; simp [← Bool.eq_false_iff.mpr h]

/-- The host link down: IDE is stopped on each protocol (R477). -/
theorem linkLost_frame (s : State) : s.linkLost = { s with
      pins := { s.pins with linkUp := false }, regs := s.linkLost.regs, sec := s.linkLost.sec } ∧
    s.linkLost.sec = { s.sec with
      ideIo := false, ideIoKey := s.linkLost.sec.ideIoKey, ideIoKeys := s.linkLost.sec.ideIoKeys
      ideCm := false, ideCmKey := s.linkLost.sec.ideCmKey, ideCmKeys := s.linkLost.sec.ideCmKeys } := by
  unfold State.linkLost
  rw [ideStop_cacheMem, ideStop_io]
  exact ⟨rfl, rfl⟩

/-- The state once the loss of lock of a domain is recorded. -/
def State.unlocked (s : State) (d : Fin 40) : State :=
  ({ s with clkLost := s.clkLost ||| BitVec.ofNat 40 (2 ^ d.1) } : State).cause Reg.engCause 1

/-- The ports of a SerDes chiplet's domain (R30). -/
def portsOf (d : Fin 40) : List (Fin 64) := (fins 64).filter fun p => serdesDomain p == d.1

theorem portsOf_nodup (d : Fin 40) : (portsOf d).Nodup := (List.nodup_finRange 64).filter _

theorem mem_portsOf {d : Fin 40} (h : 12 ≤ d.1) (p : Fin 64) : p ∈ portsOf d ↔ p.1 / 4 = d.1 - 12 := by
  simp only [portsOf, List.mem_filter, fins, List.mem_finRange, true_and, serdesDomain, beq_iff_eq]
  omega

theorem chipletDown_portsLeft {d : Fin 40} (h : 12 ≤ d.1) (s : State) (q : Fin 64) :
    (s.portsDown (portsOf d)).boot.portsLeft.getLsbD q.1 = (s.boot.portsLeft.getLsbD q.1 && decide (q.1 / 4 ≠ d.1 - 12)) := by
  simp only [portsDown_portsLeft, mem_portsOf h, ne_eq]

theorem chipletDown_ports {d : Fin 40} (h : 12 ≤ d.1) (s : State) : (s.portsDown (portsOf d)).ports =
    Vector.ofFn fun p : Fin 64 => if p.1 / 4 = d.1 - 12 then (s.ports[p]).downed else s.ports[p] := by
  ext1 i hi
  have port := portsDown_port (portsOf d) s ⟨i, hi⟩
  simp only [mem_portsOf h] at port
  rw [Vector.getElem_ofFn]
  exact port

/-- What a loss of lock of a domain leaves (R32). -/
def State.lockLost (s : State) (d : Fin 40) : State :=
  if 12 ≤ d.1 ∧ d.1 < 28 then (s.unlocked d).portsDown (portsOf d)
  else if d = 28 ∨ d = 29 then (s.unlocked d).linkLost
  else if d = 30 ∨ d = 31 ∨ d = 39 then (s.unlocked d).enterFailed
  else s.unlocked d

theorem lockLost_ports {d : Fin 40} (h : 12 ≤ d.1) (h' : d.1 < 28) :
    s.lockLost d = (s.unlocked d).portsDown (portsOf d) := by
  rw [State.lockLost, if_pos ⟨h, h'⟩]

theorem lockLost_link {d : Fin 40} (h : d.1 = 28 ∨ d.1 = 29) : s.lockLost d = (s.unlocked d).linkLost := by
  rw [State.lockLost, if_neg (by omega), if_pos (by omega)]

theorem lockLost_fails {d : Fin 40} (h : d.1 = 30 ∨ d.1 = 31 ∨ d.1 = 39) : s.lockLost d = (s.unlocked d).enterFailed := by
  rw [State.lockLost, if_neg (by omega), if_neg (by omega), if_pos (by omega)]

theorem lockLost_recorded {d : Fin 40} (h : d.1 < 12 ∨ 32 ≤ d.1 ∧ d.1 < 39) : s.lockLost d = s.unlocked d := by
  rw [State.lockLost, if_neg (by omega), if_neg (by omega), if_neg (by omega)]

theorem lockLost_completes {d : Fin 40} {P : State → Prop} (ha : Alive s) (hp : P (s.lockLost d)) :
    Completes s (.pllLockLost d) P := by
  have he : exec (.pllLockLost d) s = actOr (fun s => if d = 28 ∨ d = 29
      then ({ s with clkLost := s.clkLost ||| BitVec.ofNat 40 (2 ^ d.1) } : State).linkDown
      else { s with clkLost := s.clkLost ||| BitVec.ofNat 40 (2 ^ d.1) }) (fun s => s.lockLost d) s := by
    unfold State.lockLost
    rfl
  exact actOr_completes he ha hp

theorem exec_pllLockRegained (d : Fin 40) (s : State) : exec (.pllLockRegained d) s =
    actOr (fun s => { s with clkLost := s.clkLost &&& ~~~(BitVec.ofNat 40 (2 ^ d.1)) })
      (fun s => { s with clkLost := s.clkLost &&& ~~~(BitVec.ofNat 40 (2 ^ d.1)) }) s := rfl

end Sys2Proof.Machine

section
open Sys2Proof Sys2Proof.Machine

/-- Settles O51: each row completes in what its effect leaves, which is an entry to FAILED or what a loss of lock does to
the ports or the host link. -/
theorem failures : Obligations.Failures := by
  intro s ha failed
  have fails : ∀ {x : State}, x.hng.failed = false → failed x x.enterFailed := fun h => enterFailed_alive h
  refine ⟨actOr_completes (f := fun s => s.trip.enterFailed) rfl ha (fails ha.1),
    fun _ => act_completes (f := State.enterFailed) rfl ha (fails ha.1), fun h => ?_, fun h => ?_, fun h hw => ?_, fun h => ?_,
    fun d => ?_⟩
  · exact act_completes (exec_watchdogExpiry s) ha (by rw [if_neg (by omega)]; exact fails ha.1)
  · exact act_completes (exec_watchdogExpiry s) ha (if_pos h)
  · exact act_completes (exec_bringupWatchdog s) ha (by rw [if_pos (by simp [h, hw])]; exact fails ha.1)
  · exact act_completes (exec_bringupWatchdog s) ha (if_neg (by simpa [imp_iff_not_or, Nat.not_lt] using h))
  intro gone lost
  refine ⟨fun h => ?_, fun h h' => ?_, fun h => ?_, fun h => ?_, ?_⟩
  · exact lockLost_completes ha (lockLost_recorded h)
  · refine lockLost_completes ha ?_
    rw [lockLost_ports h h']
    refine ⟨portsDown_frame _ _, chipletDown_portsLeft h _, chipletDown_ports h _, fun ⟨p, hp, up⟩ => ?_⟩
    exact portsDown_linkDown (portsOf_nodup d) ((mem_portsOf h p).mpr hp) up
  · exact lockLost_completes ha (by rw [lockLost_link h]; exact linkLost_frame _)
  · exact lockLost_completes ha (by rw [lockLost_fails h]; exact fails ha.1)
  · exact actOr_completes (exec_pllLockRegained d s) ha ⟨rfl, getLsbD_clear_bit s.clkLost d⟩

end

/-! ### Page fetches -/

namespace Sys2Proof.Machine

variable {s : State} {c : Fin 8} {q : Scroll}

/-! #### Tables, contexts and pages -/

theorem get?_set_eq {α : Type} (l : Tab α) (k : Nat) (x : α) : (l.set k x).get? k = some x := by
  induction l with
  | nil => simp [Tab.set, Tab.get?]
  | cons e l ih =>
    simp only [Tab.set]
    split
    · simp [Tab.get?]
    · split
      · simp [Tab.get?]
      · rename_i h; simp [Tab.get?, h, ih]

theorem get?_set_ne {α : Type} (l : Tab α) {k o : Nat} (x : α) (h : o ≠ k) : (l.set k x).get? o = l.get? o := by
  induction l with
  | nil => simp [Tab.set, Tab.get?, h]
  | cons e l ih =>
    simp only [Tab.set]
    split
    · simp [Tab.get?, h]
    · split
      · subst_vars; simp [Tab.get?, h]
      · simp [Tab.get?, ih]

theorem ctx_modCtx_eq (s : State) (c : Fin 8) (f : Ctx → Ctx) : (s.modCtx c f).ctx c = f (s.ctx c) := vget_vset_eq _ _ _

theorem ctx_modCtx_ne (s : State) {c d : Fin 8} (f : Ctx → Ctx) (h : d ≠ c) : (s.modCtx c f).ctx d = s.ctx d :=
  vget_vset_ne _ _ h

theorem page_setPage_eq (x : Ctx) (q : Scroll) (p : Nat) (g : Page) : (x.setPage p g).page q p = g := by
  simp only [Ctx.page, Ctx.setPage, get?_set_eq]

theorem page_setPage_ne (x : Ctx) (q : Scroll) {p o : Nat} (g : Page) (h : o ≠ p) :
    (x.setPage p g).page q o = x.page q o := by
  simp only [Ctx.page, Ctx.setPage, get?_set_ne _ _ h]

theorem page_modPage_eq (x : Ctx) (q : Scroll) (p : Nat) (f : Page → Page) : (x.modPage q p f).page q p = f (x.page q p) :=
  page_setPage_eq x q p _

theorem page_modPage_ne (x : Ctx) (q : Scroll) {p o : Nat} (f : Page → Page) (h : o ≠ p) :
    (x.modPage q p f).page q o = x.page q o := page_setPage_ne x q _ h

theorem page_congr {x y : Ctx} (h : x.pages = y.pages) (q : Scroll) (p : Nat) : x.page q p = y.page q p := by
  simp only [Ctx.page, h]

/-- The entry of a page whose frame is freed (R225). -/
def Page.dropped (y : Page) : Page := { y with
  state := .remote, dirty := 0, flying := 0, flying1 := 0, fresh := 0, newer := 0, snap := false, copied := false, written := false }

theorem dropFrame_pages (x : Ctx) (q : Scroll) (p : Nat) : (x.dropFrame q p).pages = (x.modPage q p Page.dropped).pages := by
  simp only [Ctx.dropFrame, Ctx.modPage, Ctx.setPage, Page.dropped]

theorem dropFrame_page_eq (x : Ctx) (q : Scroll) (p : Nat) : (x.dropFrame q p).page q p = (x.page q p).dropped := by
  rw [page_congr (dropFrame_pages x q p), page_modPage_eq]

theorem dropFrame_page_ne (x : Ctx) (q : Scroll) {p o : Nat} (h : o ≠ p) : (x.dropFrame q p).page q o = x.page q o := by
  rw [page_congr (dropFrame_pages x q p), page_modPage_ne _ _ _ h]

/-- A context once a page's fetch ends without the page, which is REMOTE again. -/
def Ctx.unfetched (x : Ctx) (q : Scroll) (p : Nat) : Ctx := { x.dropFrame q p with fetches := x.fetches.erase p }

/-- A context once a page's fetch has failed at its last server: the page is poisoned (R223). -/
def Ctx.fetchLost (x : Ctx) (q : Scroll) (p : Nat) : Ctx :=
  { (x.dropFrame q p).modPage q p (fun y => { y with poison := true }) with fetches := x.fetches.erase p }

/-- A context once a page has been fetched: the page is RESIDENT with the bytes fetched (R223). -/
def Ctx.fetched (x : Ctx) (q : Scroll) (p : Nat) (t : Fetch) : Ctx :=
  let x := x.modPage q p fun y => { y with state := .resident, poison := false, dirty := 0 }
  { x with mem := Memory.copy x.mem t.bytes (p * 2 ^ 21) 0 (2 ^ 21), fetches := x.fetches.erase p }

theorem unfetched_members (x : Ctx) (q : Scroll) (p : Nat) : (x.unfetched q p).members = x.members := by
  simp only [Ctx.unfetched, Ctx.dropFrame, Ctx.modPage, Ctx.setPage]

theorem unfetched_bg (x : Ctx) (q : Scroll) (p : Nat) : (x.unfetched q p).bg = x.bg := by
  simp only [Ctx.unfetched, Ctx.dropFrame, Ctx.modPage, Ctx.setPage]

theorem fetchLost_members (x : Ctx) (q : Scroll) (p : Nat) : (x.fetchLost q p).members = x.members := by
  simp only [Ctx.fetchLost, Ctx.dropFrame, Ctx.modPage, Ctx.setPage]

theorem fetchLost_bg (x : Ctx) (q : Scroll) (p : Nat) : (x.fetchLost q p).bg = x.bg := by
  simp only [Ctx.fetchLost, Ctx.dropFrame, Ctx.modPage, Ctx.setPage]

theorem fetched_bg (x : Ctx) (q : Scroll) (p : Nat) (t : Fetch) : (x.fetched q p t).bg = x.bg := by
  simp only [Ctx.fetched, Ctx.modPage, Ctx.setPage]

theorem unfetched_page_eq (x : Ctx) (q : Scroll) (p : Nat) : (x.unfetched q p).page q p = (x.page q p).dropped :=
  dropFrame_page_eq x q p

/-- Poisoned, as `State.fetchFailed` leaves an entry. -/
def Page.poisoned (y : Page) : Page := { y with poison := true }

theorem fetchLost_pages (x : Ctx) (q : Scroll) (p : Nat) :
    (x.fetchLost q p).pages = ((x.dropFrame q p).modPage q p Page.poisoned).pages := rfl

theorem fetchLost_page_eq (x : Ctx) (q : Scroll) (p : Nat) : (x.fetchLost q p).page q p = (x.page q p).dropped.poisoned := by
  rw [page_congr (fetchLost_pages x q p), page_modPage_eq, dropFrame_page_eq]

theorem fetchLost_fetches (x : Ctx) (q : Scroll) (p : Nat) : (x.fetchLost q p).fetches = x.fetches.erase p := by
  simp only [Ctx.fetchLost]

theorem fetchLost_page_ne (x : Ctx) (q : Scroll) {p o : Nat} (h : o ≠ p) : (x.fetchLost q p).page q o = x.page q o := by
  rw [page_congr (fetchLost_pages x q p), page_modPage_ne _ _ _ h, dropFrame_page_ne _ _ h]

theorem fetched_page_eq (x : Ctx) (q : Scroll) (p : Nat) (t : Fetch) :
    (x.fetched q p t).page q p = { x.page q p with state := .resident, poison := false, dirty := 0 } :=
  page_modPage_eq x q p fun y => { y with state := .resident, poison := false, dirty := 0 }

theorem member_modMember_eq (x : Ctx) (side n m : Nat) (f : Member → Member) :
    (x.modMember side n m f).member side n m = f (x.member side n m) := by
  simp only [Ctx.member, Ctx.modMember, getD_set_eq]

/-! #### What follows a fetch: requests that waited, and the next background fetch -/

/-- Without a background fetch left nothing is fetched (R216). -/
theorem background_none (h : (s.ctx c).bg = none) : s.background c = s := by
  unfold State.background
  split
  · split
    · rfl
    · simp only [State.backgroundLoop, h]
  · rfl

/-- Without members no request waits. -/
theorem endWaiting_none (page code : Nat) (h : (s.ctx c).members = []) : s.endWaiting c q page code = s := by
  simp only [State.endWaiting, h, List.foldl_nil]

/-- The page's fetch is over, and no member or background fetch follows. -/
theorem fetchOver (f : Ctx → Ctx) (page code : Nat) (hm : (f (s.ctx c)).members = []) (hb : (f (s.ctx c)).bg = none) :
    ((s.modCtx c f).endWaiting c q page code).background c = s.modCtx c f := by
  rw [endWaiting_none _ _ (by rwa [ctx_modCtx_eq]), background_none (by rwa [ctx_modCtx_eq])]

theorem requestPage_ctxs (s : State) (c : Fin 8) (q : Scroll) (p k : Nat) : (s.requestPage c q p k).ctxs = s.ctxs := by
  unfold State.requestPage
  split
  · rfl
  · exact enqueue_ctxs _ _ _ _ _ _

theorem requestPage_ctx (s : State) (c : Fin 8) (q : Scroll) (p k : Nat) (d : Fin 8) :
    (s.requestPage c q p k).ctx d = s.ctx d := by
  simp only [State.ctx, requestPage_ctxs]

/-- `u` is `s` but for what has left by the interfaces. -/
def OutOnly (s u : State) : Prop := u = { s with out := u.out }

theorem OutOnly.trans {s t u : State} (h : OutOnly s t) (g : OutOnly t u) : OutOnly s u := by
  unfold OutOnly at h g ⊢
  rw [g, h]

theorem OutOnly.foldl {α : Type} {f : State → α → State} (hf : ∀ s a, OutOnly s (f s a)) (l : List α) (s : State) :
    OutOnly s (l.foldl f s) := by
  induction l generalizing s with
  | nil => exact rfl
  | cons a l ih => exact (hf s a).trans (ih _)

/-- Lines back-invalidated leave by the interface (R323). -/
theorem backInvalidate_outOnly (s : State) (c : Fin 8) (a n : Nat) : OutOnly s (s.backInvalidate c a n) := by
  unfold State.backInvalidate State.invalidate
  refine OutOnly.foldl (fun s w => ?_) _ _
  refine OutOnly.foldl (fun s b => ?_) _ _
  split
  · exact rfl
  · exact rfl

theorem OutOnly.ctx {s u : State} (h : OutOnly s u) (c : Fin 8) : u.ctx c = s.ctx c := by
  rw [show u = _ from h]; rfl

theorem OutOnly.reg {s u : State} (h : OutOnly s u) (o : Nat) : u.reg o = s.reg o := by
  rw [show u = _ from h]; rfl

/-! #### A fetch that fails (R223) -/

section
variable {page : Nat} {t : Fetch} {g : Segment} (ht : (s.ctx c).fetches.get? page = some t) (hg : q.segOf page = some g)
include ht hg

theorem fetchFailed_alternate (h : t.source.1 + 1 < g.sources.length) : s.fetchFailed c q page =
    (s.modCtx c fun x => { x with fetches := x.fetches.set page { source := 1 } }).requestPage c q page 1 := by
  simp only [State.fetchFailed, ht, hg, if_pos h]

/-- The fetch starts again at the alternate server. -/
theorem fetchFailed_turns (h : t.source.1 + 1 < g.sources.length) :
    let u := s.fetchFailed c q page
    (u.ctx c).fetches.get? page = some { source := 1 } ∧ (u.ctx c).mem = (s.ctx c).mem ∧ (u.ctx c).pages = (s.ctx c).pages := by
  intro u
  have here : u.ctx c = { s.ctx c with fetches := (s.ctx c).fetches.set page { source := 1 } } := by
    rw [show u = _ from fetchFailed_alternate ht hg h, requestPage_ctx, ctx_modCtx_eq]
  rw [here]
  exact ⟨get?_set_eq _ _ _, rfl, rfl⟩

theorem fetchFailed_last (h : ¬t.source.1 + 1 < g.sources.length) (hb : (s.ctx c).bg = none) (hm : (s.ctx c).members = []) :
    s.fetchFailed c q page = s.modCtx c fun x => x.fetchLost q page := by
  simp only [State.fetchFailed, ht, hg, if_neg h]
  exact fetchOver (fun x => x.fetchLost q page) _ _ (by rw [fetchLost_members, hm]) (by rw [fetchLost_bg, hb])

/-- The page is poisoned once no server is left. -/
theorem fetchFailed_poisons (h : ¬t.source.1 + 1 < g.sources.length) (hb : (s.ctx c).bg = none)
    (hm : (s.ctx c).members = []) :
    let u := s.fetchFailed c q page
    u = { s with ctxs := u.ctxs } ∧ (∀ d, d ≠ c → u.ctx d = s.ctx d) ∧ ((u.ctx c).page q page).poison = true ∧
      ((u.ctx c).page q page).state = .remote ∧ (u.ctx c).fetches = (s.ctx c).fetches.erase page ∧
      ∀ o, o ≠ page → (u.ctx c).page q o = (s.ctx c).page q o := by
  intro u
  have result : u = s.modCtx c fun x => x.fetchLost q page := fetchFailed_last ht hg h hb hm
  have here : u.ctx c = (s.ctx c).fetchLost q page := by rw [result, ctx_modCtx_eq]
  rw [here, fetchLost_page_eq]
  exact ⟨by rw [result]; rfl, fun d hd => by rw [result, ctx_modCtx_ne _ _ hd], rfl, rfl, fetchLost_fetches _ _ _,
    fun o ho => fetchLost_page_ne _ q ho⟩

end

/-! #### Page frames -/

/-- What a piece of a page under fetch leaves. -/
def State.takePiece (s : State) (c : Fin 8) (q : Scroll) (page : Nat) (t : Fetch) (f : Frame) : State :=
  if f.offset.toNat % 2 ^ 21 ≠ t.next then s.fetchFailed c q page
  else s.modCtx c fun x => { x with fetches := x.fetches.set page { t with
    bytes := Memory.writeBytes t.bytes t.next f.payload, next := t.next + f.payload.length } }

/-- What the END frame of a page under fetch leaves. -/
def State.takeEnd (s : State) (c : Fin 8) (q : Scroll) (page : Nat) (t : Fetch) (f : Frame) : State :=
  if s.stackLost ((s.ctx c).page q page).stack then
    ((s.modCtx c fun x => x.unfetched q page).endWaiting c q page 4).background c
  else if t.next = 2 ^ 21 ∧ (crc64 (Memory.readBytes t.bytes 0 (2 ^ 21))).toNat = leAt f.payload 0 8 then
    (((s.backInvalidate c (page * 2 ^ 21) (2 ^ 21)).modCtx c fun x => x.fetched q page t).countMod Reg.memMigIn 1).background c
  else s.fetchFailed c q page

section
variable {p : Fin 64} {f : Frame} {P : State → Prop} {page : Nat} {t : Fetch} (hc : finOf 8 f.context.toNat = c)
  (hq : s.scroll? c = some q)

theorem sources_length (g : Segment) : g.sources.length ≤ 2 := by
  unfold Segment.sources
  split <;> simp

theorem accepts_stackLost (s : State) (p : Fin 64) (f : Frame) (k : Fin 12) :
    (s.accepts p f).stackLost k = s.stackLost k := by
  obtain ⟨_, _, h⟩ := accepts_eq s p f; rw [h]; rfl

include hc hq

theorem pageErr_completes (h : Arrives s p 0x22 f) (hx : (s.ctx c).fetchOf q f = some (page, t))
    (hp : P ((s.accepts p f).fetchFailed c q page)) : Completes s (.pageErr p f) P := by
  subst hc
  refine frame_completes rfl h ?_
  simp only [State.scroll?, accepts_ctx] at hq ⊢
  simp only [hq, hx]
  exact hp

/-- PAGE_DATA that carries a piece. -/
theorem pageData_piece (h : Arrives s p 0x21 f) (he : f.isEnd = false) (hx : (s.ctx c).fetchOf q f = some (page, t))
    (hp : P ((s.accepts p f).takePiece c q page t f)) : Completes s (.pageData p f) P := by
  subst hc
  refine frame_completes rfl h ?_
  simp only [State.scroll?, accepts_ctx] at hq ⊢
  simp only [hq, hx, he, Bool.not_false, Bool.false_eq_true, if_true, if_false]
  exact hp

/-- PAGE_DATA with END. -/
theorem pageData_end (h : Arrives s p 0x21 f) (he : f.isEnd = true) (hx : (s.ctx c).fetchEnd q f = some (page, t))
    (hp : P ((s.accepts p f).takeEnd c q page t f)) : Completes s (.pageData p f) P := by
  subst hc
  refine frame_completes rfl h ?_
  simp only [State.takeEnd, State.scroll?, accepts_ctx] at hq hp ⊢
  simp only [hq, hx, he, Bool.not_true, Bool.false_eq_true, if_true, if_false]
  exact hp

end

section
variable {f : Frame} {page : Nat} {t : Fetch}

/-- The frame's stack is out of lock: the fetch ends (R32). -/
theorem takeEnd_lost (hl : s.stackLost ((s.ctx c).page q page).stack = true) (hb : (s.ctx c).bg = none)
    (hm : (s.ctx c).members = []) :
    let u := s.takeEnd c q page t f
    u = { s with ctxs := u.ctxs } ∧ ((u.ctx c).page q page).state = .remote ∧
      (u.ctx c).fetches = (s.ctx c).fetches.erase page ∧ ∀ d, d ≠ c → u.ctx d = s.ctx d := by
  intro u
  have result : u = s.modCtx c fun x => x.unfetched q page := by
    simp only [u, State.takeEnd, if_pos hl]
    exact fetchOver (fun x => x.unfetched q page) _ _ (by rw [unfetched_members, hm]) (by rw [unfetched_bg, hb])
  have here : u.ctx c = (s.ctx c).unfetched q page := by rw [result, ctx_modCtx_eq]
  rw [here, unfetched_page_eq]
  exact ⟨by rw [result]; rfl, rfl, rfl, fun d hd => by rw [result, ctx_modCtx_ne _ _ hd]⟩

/-- The whole page has come, and its CRC-64 agrees (R223). -/
theorem takeEnd_whole (hl : s.stackLost ((s.ctx c).page q page).stack = false)
    (hw : t.next = 2 ^ 21 ∧ (crc64 (Memory.readBytes t.bytes 0 (2 ^ 21))).toNat = leAt f.payload 0 8)
    (hb : (s.ctx c).bg = none) :
    let u := s.takeEnd c q page t f
    u.ctx c = (s.ctx c).fetched q page t ∧ u.reg Reg.memMigIn = (s.reg Reg.memMigIn + 1) % 2 ^ 32 := by
  have sent := backInvalidate_outOnly s c (page * 2 ^ 21) (2 ^ 21)
  generalize hv : s.backInvalidate c (page * 2 ^ 21) (2 ^ 21) = v at sent
  have ctx : ((v.modCtx c fun x => x.fetched q page t).countMod Reg.memMigIn 1).ctx c = (s.ctx c).fetched q page t := by
    rw [← sent.ctx]; exact ctx_modCtx_eq v c fun x => x.fetched q page t
  have result : s.takeEnd c q page t f = (v.modCtx c fun x => x.fetched q page t).countMod Reg.memMigIn 1 := by
    rw [State.takeEnd, if_neg (by simp [hl]), if_pos hw, hv]
    exact background_none (by rw [ctx, fetched_bg, hb])
  rw [result]
  refine ⟨ctx, ?_⟩
  rw [← sent.reg]
  exact State.reg_setReg_eq _ _ _

/-- Bytes are missing, or the CRC-64 does not agree. -/
theorem takeEnd_bad (hl : s.stackLost ((s.ctx c).page q page).stack = false)
    (hw : ¬(t.next = 2 ^ 21 ∧ (crc64 (Memory.readBytes t.bytes 0 (2 ^ 21))).toNat = leAt f.payload 0 8)) :
    s.takeEnd c q page t f = s.fetchFailed c q page := by
  rw [State.takeEnd, if_neg (by simp [hl]), if_neg hw]

end

/-! #### The deadline of a request (R234) -/

/-- What an error leaves stays within the registers (R242). -/
theorem memError_regs (s : State) (c : Fin 8) (code a stack : Nat) :
    s.memError c code a stack = { s with regs := (s.memError c code a stack).regs } := by
  unfold State.memError State.memCause
  dsimp only
  split <;> rfl

/-- Code LATE sets MEM_CAUSE.LATE. -/
theorem memError_late (s : State) (c : Fin 8) (a stack : Nat) : (s.memError c 3 a stack).rfld Reg.memCause 1 1 = 1 := by
  have cause : (s.memError c 3 a stack).reg Reg.memCause = (s.cause Reg.memCause 1).reg Reg.memCause := by
    unfold State.memError State.memCause State.count State.setFld
    dsimp only
    rw [State.reg_setReg_ne _ _ (by decide)]
    split
    · rw [State.reg_setReg_ne _ _ (by decide), State.reg_setReg_ne _ _ (by decide)]
      rfl
    · rfl
  rw [State.rfld, cause]
  exact rfld_cause_self s Reg.memCause (by decide)

/-- Without a credit of its tile the oldest transfer stays where it is (R138). -/
theorem feed_uncredited {side : Fin 4} {stream m : Nat} {x : Xfer} {rest : List Xfer} (n : Nat)
    (hx : ((s.ctx c).member side.1 stream m).staged = x :: rest) (hn : x.credited = false)
    (hc : ((s.ctx c).member side.1 stream m).credits = 0) : State.feed c side stream m n s = s := by
  cases n with
  | zero => rfl
  | succ n =>
    unfold State.feed
    dsimp only
    split
    · rename_i head
      have : _ = x := (Option.some.inj (by simpa [hx] using head)).symm
      subst this
      simp [hn, hc]
    · rfl

theorem finOf_val {n : Nat} (i : Fin n) (h : 0 < n) : finOf n i.1 h = i := dif_pos i.2

section
variable {side : Fin 4} {stream m page : Nat} {y : Member} {x : Xfer}

/-- The one transfer of the one member of a context waits for a page. -/
structure Waits (s : State) (c : Fin 8) (side : Fin 4) (stream m page : Nat) (y : Member) (x : Xfer) : Prop where
  members : (s.ctx c).members = [(16384 * side.1 + stream, [(m, y)])]
  inbound : (s.edgeOf c side.1 stream).outbound = false
  stop : y.stop = .fetch page
  cur : y.cur = some x
  staged : y.staged = []
  /-- The transfer is the one to be delivered next (R231). -/
  due : x.seq ≤ y.sentDown
  uncredited : x.credited = false
  credits : y.credits = 0

theorem Waits.member (h : Waits s c side stream m page y x) : (s.ctx c).member side.1 stream m = y := by
  simp [Ctx.member, Tab.getD, Tab.get?, h.members]

/-- The state once the transfer that waits has failed with LATE. -/
def State.late (s : State) (c : Fin 8) (q : Scroll) (side : Fin 4) (stream m page : Nat) (x : Xfer) : State :=
  ((s.memError c 3 (page * 2 ^ 21) ((s.ctx c).page q page).stack.1).errEntry c side.1 stream m x.seq x.piece 3).modMember
    c side.1 stream m fun y => y.readDone (x.fail 3 (((s.edgeOf c side.1 stream).lines + 63) / 64))

theorem late_ctx (s : State) (c : Fin 8) (q : Scroll) (side : Fin 4) (stream m page : Nat) (x : Xfer) :
    (s.late c q side stream m page x).ctx c =
      ({ s.ctx c with errs := (s.ctx c).errs ++ [⟨side, 3, stream, m, x.seq, x.piece⟩] } : Ctx).modMember side.1 stream m
        fun y => y.readDone (x.fail 3 (((s.edgeOf c side.1 stream).lines + 63) / 64)) := by
  rw [State.late, State.modMember, ctx_modCtx_eq, State.errEntry, ctx_modCtx_eq, memError_regs, finOf_val]
  rfl

theorem late_cause (s : State) (c : Fin 8) (q : Scroll) (side : Fin 4) (stream m page : Nat) (x : Xfer) :
    (s.late c q side stream m page x).rfld Reg.memCause 1 1 = 1 :=
  memError_late s c (page * 2 ^ 21) ((s.ctx c).page q page).stack.1

theorem Waits.endRequest (h : Waits s c side stream m page y x) :
    s.endRequest c q side stream m page 3 = s.late c q side stream m page x := by
  simp only [State.endRequest, h.member, h.cur, h.inbound, Bool.false_eq_true, if_false, if_neg (Nat.not_lt.mpr h.due)]
  have after : ((s.late c q side stream m page x).ctx c).member side.1 stream m =
      y.readDone (x.fail 3 (((s.edgeOf c side.1 stream).lines + 63) / 64)) := by
    rw [late_ctx, member_modMember_eq]
    exact congrArg (fun y : Member => y.readDone _) h.member
  have staged : (y.readDone (x.fail 3 (((s.edgeOf c side.1 stream).lines + 63) / 64))).staged =
      [x.fail 3 (((s.edgeOf c side.1 stream).lines + 63) / 64)] := by
    rw [Member.readDone, h.staged]
    rfl
  exact feed_uncredited 66 ((congrArg Member.staged after).trans staged) h.uncredited
    ((congrArg Member.credits after).trans h.credits)

/-- At its deadline the request that waits ends with LATE. -/
theorem Waits.endWaiting (h : Waits s c side stream m page y x) (hn : stream < 16384) :
    s.endWaiting c q page 3 = s.late c q side stream m page x := by
  have hside : (16384 * side.1 + stream) / 16384 = side.1 := by omega
  have hstream : (16384 * side.1 + stream) % 16384 = stream := by omega
  simp only [State.endWaiting, h.members, List.foldl_cons, List.foldl_nil, h.stop, if_true, hside, hstream, finOf_val,
    h.endRequest]

theorem deadline_completes {P : State → Prop} (hq : s.scroll? c = some q) (ha : Alive s)
    (hp : P (if s.rfld Reg.memCtrl 0 14 = 0 ∨ (s.ctx c).replay.isSome ∨ ((s.ctx c).fetches.get? page).isNone then s
      else s.endWaiting c q page 3)) : Completes s (.remoteFetchDeadline c page) P := by
  refine act_completes (by rw [exec, execRemoteFetchDeadline]) ha ?_
  simp only [hq]
  exact hp

/-- What the failure with LATE leaves: the fetch goes on. -/
theorem Waits.late (h : Waits s c side stream m page y x) :
    let u := s.late c q side stream m page x
    (u.ctx c).fetches = (s.ctx c).fetches ∧ (u.ctx c).mem = (s.ctx c).mem ∧
      (u.ctx c).member side.1 stream m = { y with
        cur := none, stop := .none, next := y.next + 1
        staged := [x.fail 3 (((s.edgeOf c side.1 stream).lines + 63) / 64)] } ∧
      (u.ctx c).errs = (s.ctx c).errs ++ [⟨side, 3, stream, m, x.seq, x.piece⟩] ∧ u.rfld Reg.memCause 1 1 = 1 := by
  intro u
  rw [late_ctx, member_modMember_eq]
  refine ⟨rfl, rfl, ?_, rfl, late_cause s c q side stream m page x⟩
  refine (congrArg (fun y : Member => y.readDone _) h.member).trans ?_
  rw [Member.readDone, h.staged]
  rfl

end

end Sys2Proof.Machine

section
open Sys2Proof Sys2Proof.Machine

/-- Settles O20: a frame of a page by what it leaves of the fetch (`takePiece`, `takeEnd`, `fetchFailed`), the deadline by
the one request that waits. -/
theorem pageFetches : Obligations.PageFetches := by
  refine ⟨fun s p f q pg t g => ?_, fun s c q pg t side stream m y x ha hq hd hr ht hm ho hs hx hg hdue hn hc => ?_⟩
  · intro c x hq hg ht
    have here : (s.accepts p f).ctx c = x := accepts_ctx s p f c
    have others : ∀ d, (s.accepts p f).ctx d = s.ctx d := accepts_ctx s p f
    have locked : ∀ k, (s.accepts p f).stackLost k = s.stackLost k := accepts_stackLost s p f
    have fetch : ((s.accepts p f).ctx c).fetches.get? pg = some t := by rw [here, ht]
    refine ⟨fun h he hx hn => pageData_piece rfl hq h he hx ?_, fun h he hx hn hl hcrc hb => pageData_end rfl hq h he hx ?_, ?_⟩
    · rw [State.takePiece, if_neg (not_not.mpr hn), ctx_modCtx_eq, here]
      exact ⟨rfl, rfl⟩
    · obtain ⟨ctx, count⟩ := takeEnd_whole (s := s.accepts p f) (c := c) (q := q) (page := pg) (t := t) (f := f)
        (by rw [here, locked]; exact hl) ⟨hn, hcrc⟩ (by rw [here]; exact hb)
      rw [ctx, here, fetched_page_eq, count, accepts_reg]
      exact ⟨rfl, rfl, rfl, rfl⟩
    · intro fails
      have failing : ∀ {i : Instr}, (∀ {P : State → Prop}, P ((s.accepts p f).fetchFailed c q pg) → Completes s i P) → fails i := by
        intro i run
        refine ⟨fun h0 h2 => run ?_, fun h hb hm => run ?_⟩
        · rw [← here]
          exact fetchFailed_turns fetch hg (by rw [h0]; exact h2)
        · have last : ¬t.source.1 + 1 < g.sources.length := by
            have two := sources_length g
            rcases h with h | h
            · rw [h]; simp; omega
            · omega
          have poisoned := fetchFailed_poisons fetch hg last (by rwa [here]) (by rwa [here])
          simpa only [others] using poisoned
      refine ⟨fun h hx => failing fun hp => pageErr_completes rfl hq h hx hp, fun h he hx hn => failing fun hp => ?_,
        fun h he hx hl hw => failing fun hp => ?_, fun h he hx hl hb hm => ?_⟩
      · exact pageData_piece rfl hq h he hx (by rwa [State.takePiece, if_pos hn])
      · exact pageData_end rfl hq h he hx (by rwa [takeEnd_bad (by rwa [here, locked]) hw])
      · have lost := takeEnd_lost (s := s.accepts p f) (c := c) (q := q) (page := pg) (t := t) (f := f)
          (by rwa [here, locked]) (by rwa [here]) (by rwa [here])
        simp only [others] at lost
        exact pageData_end rfl hq h he hx lost
  · have waits : Waits s c side stream.1 m pg y x := ⟨hm, ho, hs, hx, hg, hdue, hn, hc⟩
    have due : ¬(s.rfld Reg.memCtrl 0 14 = 0 ∨ (s.ctx c).replay.isSome = true ∨ ((s.ctx c).fetches.get? pg).isNone = true) := by
      simp [hd, hr, ht]
    refine deadline_completes hq ha ?_
    rw [if_neg due, waits.endWaiting stream.2]
    exact waits.late

end

/-! ### Instructions of a tile: control, scalar and narrow memory -/

namespace Sys2Proof.Machine

variable {s : State} {t : TileId} {k : Fin 8} {f : Fields} {c : Instr} {cls op : Nat} {yields : Bool}
  {body : State → TileId → Fin 8 → Nat → Nat → Issue}

/-! #### Class fields of a word -/

/-- Reserved bits of a class, as the command's class-field bits hold them (R513). -/
theorem reserved_word {lo w : Nat} (f : Fields) (hc : cls < 16) (ho : op < 64) (h : lo + w ≤ 54) :
    (fld (word cls op f).toNat lo w != 0) = decide (f.extractLsb' lo w ≠ 0) := by
  rw [fld_word f hc ho h, Bool.eq_iff_iff]
  simp [BitVec.toNat_eq]

theorem finOf_word {lo w n : Nat} (h0 : 0 < n) (f : Fields) (hc : cls < 16) (ho : op < 64) (h : lo + w ≤ 54) (hn : 2 ^ w = n) :
    finOf n (fld (word cls op f).toNat lo w) h0 = ⟨(f.extractLsb' lo w).toNat, hn ▸ (f.extractLsb' lo w).isLt⟩ := by
  rw [fld_word f hc ho h, finOf_bits h0 _ hn]

theorem Slot.reg_word {lo : Nat} (z : Slot) (f : Fields) (hc : cls < 16) (ho : op < 64) (h : lo + 4 ≤ 54) :
    z.reg (fld (word cls op f).toNat lo 4) = z.value (f.extractLsb' lo 4) := by
  rw [fld_word f hc ho h, Slot.reg_bits]

theorem Slot.setReg_word {lo : Nat} (z : Slot) (f : Fields) (v : Word) (hc : cls < 16) (ho : op < 64) (h : lo + 4 ≤ 54) :
    z.setReg (fld (word cls op f).toNat lo 4) v = z.written (f.extractLsb' lo 4) v := by
  rw [fld_word f hc ho h, Slot.setReg_bits]

/-! #### Outcomes of an issue -/

/-- The slot that issues reads the registers that it held before the handshake. -/
theorem State.readied_value (s : State) (t : TileId) (k : Fin 8) (run : Nat) (r : BitVec 4) :
    ((s.readied t k run).slotOf t k).value r = (s.slotOf t k).value r := by
  rw [State.readied_slot, State.value_ready]

/-- An instruction whose whole effect is the slot's next index. -/
theorem issue_goes {pc : BitVec 11} (h : Issues s t k)
    (he : ∀ s, exec c s = act (fun s => s.issueAs t (word cls op f) body yields) s)
    (hb : ∀ run, body (s.readied t k run) t k (s.slotOf t k).pc.toNat (word cls op f).toNat =
      .go (s.readied t k run) pc.toNat []) :
    Completes s c fun u => OnlyTiles s u [t] ∧
      (s.tile t).Issued (u.tile t) k ((s.slotOf t k).onto pc .running) (!yields) :=
  issue_running (g := id) (gz := id) h he (fun run => by rw [hb run, State.readied_id])
    (fun run => by simp only [id, vset_self]; rfl) rfl (fun _ => ⟨rfl, fun _ => rfl⟩)

/-- An instruction whose effect is a register of its slot. -/
theorem issue_writes {g : Slot → Slot} {d : BitVec 4} {v : Word} (h : Issues s t k)
    (he : ∀ s, exec c s = act (fun s => s.issueAs t (word cls op f) body false) s)
    (hb : ∀ run, body (s.readied t k run) t k (s.slotOf t k).pc.toNat (word cls op f).toNat =
      goNext ((s.readied t k run).modSlot t k g) (s.slotOf t k).pc.toNat)
    (hg : g (s.tile t).settleRunning.slots[k] = ((s.tile t).settleRunning.slots[k]).written d v) :
    Completes s c fun u => OnlyTiles s u [t] ∧
      (s.tile t).Issued (u.tile t) k (((s.slotOf t k).written d v).onto ((s.slotOf t k).pc + 1) .running) true := by
  obtain ⟨-, -, -, hpc, -⟩ := id h
  refine issue_running (gz := (·.written d v)) h he (fun run => by rw [hb run, goNext_eq _ _ hpc]; rfl) (fun run => ?_) rfl
    (fun _ => ⟨rfl, fun _ => rfl⟩)
  simp only [vmod, ← hg]
  rfl

/-! #### The scalar class (R515) -/

theorem scalarReserved_word (f : Fields) (ho : op < 64) :
    scalarReserved (word 1 op f).toNat = decide (f.extractLsb' 32 6 ≠ 0) := reserved_word f (by decide) ho (by decide)

/-- The second operand of a scalar operation: IMM32 with IMM set, else RB (R515). -/
def Slot.second (z : Slot) (f : Fields) : Word := if f.getLsbD 41 then f.extractLsb' 0 32 else z.value (f.extractLsb' 42 4)

theorem scalar_faults {g : Word → Word → Word} (h : Issues s t k) (ho : op < 64)
    (he : ∀ s, exec c s = act (fun s => s.issueAs t (word 1 op f) (doScalar g) false) s) (hr : f.extractLsb' 32 6 ≠ 0) :
    Completes s c fun u => Faulted s u t k .illegal :=
  issue_fault h he (by decide) fun run => if_pos (by rw [scalarReserved_word f ho]; exact decide_eq_true hr)

theorem scalar_writes {g : Word → Word → Word} (h : Issues s t k) (ho : op < 64)
    (he : ∀ s, exec c s = act (fun s => s.issueAs t (word 1 op f) body false) s)
    (hb : ∀ s pc, body s t k pc (word 1 op f).toNat = doScalar g s t k pc (word 1 op f).toNat) (hr : f.extractLsb' 32 6 = 0) :
    Completes s c fun u => OnlyTiles s u [t] ∧ (s.tile t).Issued (u.tile t) k
      (((s.slotOf t k).written (f.extractLsb' 50 4) (g ((s.slotOf t k).value (f.extractLsb' 46 4)) ((s.slotOf t k).second f))).onto
        ((s.slotOf t k).pc + 1) .running) true := by
  have free : ¬scalarReserved (word 1 op f).toNat = true := by rw [scalarReserved_word f ho]; simp [hr]
  refine issue_writes (g := fun z => z.setReg (fld (word 1 op f).toNat 50 4) (g (z.reg (fld (word 1 op f).toNat 46 4))
    ((s.slotOf t k).second f))) h he (fun run => ?_) ?_
  · rw [hb, doScalar, if_neg free]
    simp only [bitAt_word f (by decide : 1 < 16) ho (by decide : 41 < 54), imm_word f (by decide : 1 < 16) ho,
      Slot.reg_word _ f (by decide : 1 < 16) ho (by decide : 42 + 4 ≤ 54), State.readied_value]
    rfl
  · simp only [Slot.reg_word _ f (by decide : 1 < 16) ho (by decide : 46 + 4 ≤ 54), State.value_ready,
      Slot.setReg_word _ f _ (by decide : 1 < 16) ho (by decide : 50 + 4 ≤ 54)]

theorem li_faults (h : Issues s t k) (hr : f.extractLsb' 32 6 ≠ 0) : Completes s (.li t f) fun u => Faulted s u t k .illegal :=
  issue_fault (body := doLi) h (fun _ => rfl) (by decide) fun run =>
    if_pos (by rw [scalarReserved_word f (by decide)]; exact decide_eq_true hr)

theorem li_writes (h : Issues s t k) (hr : f.extractLsb' 32 6 = 0) :
    Completes s (.li t f) fun u => OnlyTiles s u [t] ∧ (s.tile t).Issued (u.tile t) k
      (((s.slotOf t k).written (f.extractLsb' 50 4) (f.extractLsb' 0 32)).onto ((s.slotOf t k).pc + 1) .running) true := by
  have free : ¬scalarReserved (word 1 0 f).toNat = true := by rw [scalarReserved_word f (by decide)]; simp [hr]
  refine issue_writes (g := fun z => z.setReg (fld (word 1 0 f).toNat 50 4) (BitVec.ofNat 32 (word 1 0 f).toNat)) (body := doLi) h
    (fun _ => rfl) (fun run => by rw [doLi, if_neg free]) ?_
  rw [imm_word f (by decide) (by decide), Slot.setReg_word _ f _ (by decide) (by decide) (by decide)]

/-- COND of `cmp` (R515). -/
theorem cmp_cond (f : Fields) : fld (word 1 9 f).toNat 38 3 = (f.extractLsb' 38 3).toNat :=
  fld_word f (by decide) (by decide) (by decide)

/-- `cmp` of an assigned condition is a scalar operation. -/
theorem doCmp_some {p : Word → Word → Bool} (hp : scalarCond (f.extractLsb' 38 3).toNat = some p) (pc : Nat) :
    doCmp s t k pc (word 1 9 f).toNat = doScalar (fun a b => if p a b then 1 else 0) s t k pc (word 1 9 f).toNat := by
  rw [doCmp, cmp_cond, hp]

theorem doCmp_none (hp : scalarCond (f.extractLsb' 38 3).toNat = none) (pc : Nat) :
    doCmp s t k pc (word 1 9 f).toNat = .fault .illegal 0 0 := by
  rw [doCmp, cmp_cond, hp]

theorem scalarCond_reserved {n : Nat} (h : 6 ≤ n) : scalarCond n = none :=
  match n, h with
  | _ + 6, _ => rfl

theorem cmp_reserved (h : Issues s t k) (hn : 6 ≤ (f.extractLsb' 38 3).toNat) :
    Completes s (.cmp t f) fun u => Faulted s u t k .illegal :=
  issue_fault (body := doCmp) h (fun _ => rfl) (by decide) fun run => doCmp_none (scalarCond_reserved hn) _

theorem cmp_faults (h : Issues s t k) (hr : f.extractLsb' 32 6 ≠ 0) : Completes s (.cmp t f) fun u => Faulted s u t k .illegal := by
  refine issue_fault (body := doCmp) h (fun _ => rfl) (by decide) fun run => ?_
  rcases hp : scalarCond (f.extractLsb' 38 3).toNat with _ | p
  · exact doCmp_none hp _
  · rw [doCmp_some hp]
    exact if_pos (by rw [scalarReserved_word f (by decide)]; exact decide_eq_true hr)

theorem cmp_writes {p : Word → Word → Bool} (h : Issues s t k) (hr : f.extractLsb' 32 6 = 0)
    (hp : scalarCond (f.extractLsb' 38 3).toNat = some p) {v : Word}
    (hv : v = if p ((s.slotOf t k).value (f.extractLsb' 46 4)) ((s.slotOf t k).second f) then 1 else 0) :
    Completes s (.cmp t f) fun u => OnlyTiles s u [t] ∧ (s.tile t).Issued (u.tile t) k
      (((s.slotOf t k).written (f.extractLsb' 50 4) v).onto ((s.slotOf t k).pc + 1) .running) true :=
  hv ▸ scalar_writes (body := doCmp) h (by decide) (fun _ => rfl) (fun _ => doCmp_some hp) hr

end Sys2Proof.Machine

section
open Sys2Proof Sys2Proof.Machine

/-- Settles O1: an operation of the scalar class by `scalar_writes` and `scalar_faults`, `cmp` as the one its COND names. -/
theorem scalarResults : Obligations.ScalarResults := by
  intro s t k f h
  refine ⟨fun hr => ⟨li_faults h hr, ?_⟩, fun hn => cmp_reserved h hn, fun hr => ⟨li_writes h hr, ?_⟩⟩
  · have bad {c : Instr} {g : Word → Word → Word} (op : Nat) (ho : op < 64)
        (he : ∀ s, exec c s = act (fun s => s.issueAs t (word 1 op f) (doScalar g) false) s) := scalar_faults h ho he hr
    exact ⟨bad 1 (by decide) fun _ => rfl, bad 2 (by decide) fun _ => rfl, bad 3 (by decide) fun _ => rfl,
      bad 4 (by decide) fun _ => rfl, bad 5 (by decide) fun _ => rfl, bad 6 (by decide) fun _ => rfl,
      bad 7 (by decide) fun _ => rfl, bad 8 (by decide) fun _ => rfl, cmp_faults h hr⟩
  · have good {c : Instr} (op : Nat) (g : Word → Word → Word) (ho : op < 64)
        (he : ∀ s, exec c s = act (fun s => s.issueAs t (word 1 op f) (doScalar g) false) s) :=
      scalar_writes h ho he (fun _ _ => rfl) hr
    have cond {n : BitVec 3} (hn : f.extractLsb' 38 3 = n) {p : Word → Word → Bool} (hp : scalarCond n.toNat = some p) :=
      @cmp_writes s t k f p h hr (hn ▸ hp)
    refine ⟨good 1 (· + ·) (by decide) fun _ => rfl, good 2 (· - ·) (by decide) fun _ => rfl,
      good 3 (· * ·) (by decide) fun _ => rfl, good 4 (· &&& ·) (by decide) fun _ => rfl,
      good 5 (· ||| ·) (by decide) fun _ => rfl, good 6 (· ^^^ ·) (by decide) fun _ => rfl,
      good 7 (fun a b => a <<< (b.toNat % 32)) (by decide) fun _ => rfl,
      good 8 (fun a b => a >>> (b.toNat % 32)) (by decide) fun _ => rfl,
      fun hn => cond hn rfl ?_, fun hn => cond hn rfl ?_,
      fun hn => cond hn rfl ?_, fun hn => cond hn rfl ?_, fun hn => cond hn rfl ?_, fun hn => cond hn rfl ?_⟩
    all_goals simp [Slot.second, BitVec.slt, BitVec.ult]

end

namespace Sys2Proof.Machine

variable {s : State} {t : TileId} {k : Fin 8} {f : Fields} {c : Instr} {cls op : Nat} {yields : Bool}
  {body : State → TileId → Fin 8 → Nat → Nat → Issue}

/-! #### The handshake of the slot that is picked -/

/-- The tile after slot `k` blocks, waiting to issue `w` (R63, R71). -/
def Tile.blocks (x : Tile) (k : Fin 8) (w : DWord) (r : BlockReason) (obj : Nat) : Tile :=
  { x with
    eligible := false
    slots := vmod x.slots k fun z =>
      { z with state := .blocked, reason := r, object := BitVec.ofNat 6 obj, held := some w, readyWhole := false } }

/-- What a handshake leaves of the state in which its slot issues, by the outcome of the attempt (R64). -/
def State.handshake (r : State) (t : TileId) (k : Fin 8) (w : DWord) (yields : Bool) : Issue → State
  | .fault c src v => (r.taskFault t k (r.slotOf t k).pc c src v).wake t
  | .block why obj => r.modTile t (Tile.blocks · k w why obj)
  | .go u next wakes => ((u.modTile t (Tile.onward · k next yields)).wake t).wakeAll wakes

theorem State.readied_pc (s : State) (t : TileId) (k : Fin 8) (run : Nat) :
    ((s.readied t k run).slotOf t k).pc = (s.slotOf t k).pc := by
  rw [State.readied_slot, Tile.settleRunning_slot]
  split <;> rfl

/-- The slot that is picked issues, unless the store holds an unassigned word there (R64, R74). -/
theorem issueAs_picked (hr : s.tileRuns t = true) (hp : ((s.tile t).settleRunning.pick).map Prod.fst = some k)
    (hb : (s.tile t).badFetch (s.slotOf t k).pc.toNat = none) :
    ∃ run, ∀ (w : DWord) (body : State → TileId → Fin 8 → Nat → Nat → Issue) (yields : Bool),
      s.issueAs t w body yields = (s.readied t k run).handshake t k w yields
        (if 1535 < (s.slotOf t k).pc.toNat ∨ !assigned ((s.tile t).imem.getD (s.slotOf t k).pc.toNat 0).toNat then
          .fault .illegal 0 0 else body (s.readied t k run) t k (s.slotOf t k).pc.toNat w.toNat) := by
  obtain ⟨⟨k', run⟩, hq, rfl⟩ := Option.map_eq_some_iff.mp hp
  refine ⟨run, fun w body yields => ?_⟩
  have hpc : ((s.modTile t Tile.settleRunning).slotOf t k').pc = (s.slotOf t k').pc := by
    rw [← s.readied_pc t k' run, State.readied_slot, State.slotOf, State.tile_modTile_eq]
  have hb' : Tile.badFetch { (s.tile t).settleRunning with last := k', runLen := run } (s.slotOf t k').pc.toNat = none := hb
  unfold State.issueAs
  simp only [hr, Bool.not_true, Bool.false_eq_true, if_false, State.tile_modTile_eq, hq, hpc, hb']
  rw [State.handshake.eq_def, State.readied_pc]
  rfl

/-- A word of the store that no row of R513 assigns faults the task, whatever command stands there (R74). -/
theorem unassigned_faults (ha : Alive s) (hr : s.tileRuns t = true)
    (hp : ((s.tile t).settleRunning.pick).map Prod.fst = some k) (hb : (s.tile t).badFetch (s.slotOf t k).pc.toNat = none)
    (hn : assigned ((s.tile t).imem.getD (s.slotOf t k).pc.toNat 0).toNat = false) {w : DWord}
    (he : ∀ s, exec c s = act (fun s => s.issueAs t w body yields) s) :
    Completes s c fun u => Faulted s u t k .illegal := by
  refine act_completes (he s) ha ?_
  obtain ⟨run, hi⟩ := issueAs_picked hr hp hb
  rw [hi, if_pos (.inr (by rw [hn]; rfl))]
  exact (taskFault_faulted run (by decide) _ (s.readied_pc t k run)).wake

/-- An instruction that blocks its slot: no slot wakes, and nothing else of the tile changes but the handshake's own. -/
theorem issue_block {why : BlockReason} {obj : Nat} {w : DWord} (h : Issues s t k)
    (he : ∀ s, exec c s = act (fun s => s.issueAs t w body yields) s)
    (hb : ∀ run, body (s.readied t k run) t k (s.slotOf t k).pc.toNat w.toNat = .block why obj) :
    Completes s c fun u => OnlyTiles s u [t] ∧
      u.tile t = { s.tile t with slots := (u.tile t).slots, last := k, runLen := (u.tile t).runLen, eligible := false } ∧
      u.slotOf t k = { s.slotOf t k with
        state := .blocked, reason := why, object := BitVec.ofNat 6 obj, readyWhole := false, held := some w } ∧
      ∀ j : Fin 8, j ≠ k → (s.slotOf t j).Stood (u.slotOf t j) := by
  obtain ⟨ha, hr, hp, hpc, hf, hw⟩ := h
  refine act_completes (he s) ha ?_
  obtain ⟨run, hi⟩ := issueAs_picked hr hp hf
  have hin : ¬(1535 < (s.slotOf t k).pc.toNat ∨ (!assigned ((s.tile t).imem.getD (s.slotOf t k).pc.toNat 0).toNat) = true) := by
    rw [hw]; simpa using hpc
  rw [hi, if_neg hin, hb]
  have tile : ((s.readied t k run).modTile t (Tile.blocks · k w why obj)).tile t = ((s.tile t).readied k run).blocks k w why obj := by
    rw [State.tile_modTile_eq, State.readied_tile]
  refine ⟨⟨rfl, fun v hv => ?_⟩, ?_, ?_, fun j hj => ?_⟩
  · rw [List.mem_singleton] at hv
    exact (State.tile_modTile_ne _ _ hv).trans (State.readied_ne _ _ _ hv)
  · rw [State.handshake, tile]; rfl
  · rw [State.handshake, State.slotOf, tile, Tile.blocks, vget_vmod_eq, Tile.readied, Tile.settleRunning_slot]
    split <;> rfl
  · rw [State.handshake, State.slotOf, State.slotOf, tile, Tile.blocks, vget_vmod_ne _ _ hj, Tile.readied, Tile.settleRunning_slot]
    exact .inl rfl

/-! #### The control class (R514) -/

theorem controlReserved_word (f : Fields) (ho : op < 64) :
    controlReserved (word 0 op f).toNat = decide (f.extractLsb' 0 35 ≠ 0) := reserved_word f (by decide) ho (by decide)

theorem control_reserved (f : Fields) (ho : op < 64) (hr : f.extractLsb' 0 35 ≠ 0) : controlReserved (word 0 op f).toNat = true := by
  rw [controlReserved_word f ho]; exact decide_eq_true hr

theorem control_free (f : Fields) (ho : op < 64) (hr : f.extractLsb' 0 35 = 0) : ¬controlReserved (word 0 op f).toNat = true := by
  rw [controlReserved_word f ho]; simp [hr]

/-- A reserved bit faults every instruction of the control class. -/
theorem control_faults (h : Issues s t k) (hr : f.extractLsb' 0 35 ≠ 0) :
    let faults := fun (c : Instr) => Completes s c fun u => Faulted s u t k .illegal
    faults (.nop t f) ∧ faults (.br t f) ∧ faults (.bz t f) ∧ faults (.bnz t f) ∧ faults (.yield t f) ∧ faults (.sig t f) ∧
      faults (.wait t f) ∧ faults (.halt t f) := by
  have bad {c : Instr} (op : Nat) (ho : op < 64) {yields : Bool} {body : State → TileId → Fin 8 → Nat → Nat → Issue}
      (he : ∀ s, exec c s = act (fun s => s.issueAs t (word 0 op f) body yields) s)
      (hb : ∀ r pc, controlReserved (word 0 op f).toNat = true → body r t k pc (word 0 op f).toNat = .fault .illegal 0 0) :=
    issue_fault h he (by decide) fun run => hb _ _ (control_reserved f ho hr)
  exact ⟨bad 0 (by decide) (fun _ => rfl) fun _ _ hc => if_pos hc, bad 1 (by decide) (fun _ => rfl) fun _ _ hc => if_pos hc,
    bad 2 (by decide) (fun _ => rfl) fun _ _ hc => if_pos hc, bad 3 (by decide) (fun _ => rfl) fun _ _ hc => if_pos hc,
    bad 4 (by decide) (fun _ => rfl) fun _ _ hc => if_pos hc, bad 5 (by decide) (fun _ => rfl) fun _ _ hc => if_pos hc,
    bad 6 (by decide) (fun _ => rfl) fun _ _ hc => if_pos hc, bad 7 (by decide) (fun _ => rfl) fun _ _ hc => if_pos hc⟩

/-- TARGET of a branch (R514). -/
theorem target_word (f : Fields) (ho : op < 64) : fld (word 0 op f).toNat 43 11 = (f.extractLsb' 43 11).toNat :=
  fld_word f (by decide) ho (by decide)

/-- A branch to an index beyond the store faults, taken or not. -/
theorem branch_faults {taken : Word → Bool} (h : Issues s t k) (ho : op < 64)
    (he : ∀ s, exec c s = act (fun s => s.issueAs t (word 0 op f) (doBranch taken) false) s) (hr : f.extractLsb' 0 35 = 0)
    (ht : 1535 < (f.extractLsb' 43 11).toNat) : Completes s c fun u => Faulted s u t k .illegal :=
  issue_fault h he (by decide) fun run => by
    rw [doBranch, if_neg (control_free f ho hr), if_pos (by rwa [target_word f ho])]

/-- A branch goes to TARGET when it is taken, and on when it is not. -/
theorem branch_goes {taken : Word → Bool} {pc : BitVec 11} (h : Issues s t k) (ho : op < 64)
    (he : ∀ s, exec c s = act (fun s => s.issueAs t (word 0 op f) (doBranch taken) false) s) (hr : f.extractLsb' 0 35 = 0)
    (ht : (f.extractLsb' 43 11).toNat ≤ 1535)
    (hpc : pc = if taken ((s.slotOf t k).value (f.extractLsb' 39 4)) then f.extractLsb' 43 11 else (s.slotOf t k).pc + 1) :
    Completes s c fun u => OnlyTiles s u [t] ∧ (s.tile t).Issued (u.tile t) k ((s.slotOf t k).onto pc .running) true := by
  obtain ⟨-, -, -, inside, -⟩ := id h
  refine issue_goes h he fun run => ?_
  rw [doBranch, if_neg (control_free f ho hr), if_neg (by rw [target_word f ho]; omega), target_word f ho,
    Slot.reg_word _ f (by decide) ho (by decide), State.readied_value, goNext_eq _ _ inside, hpc]
  split <;> rfl

/-- The event that `sig` and `wait` name (R514). -/
theorem event_word (f : Fields) (ho : op < 64) : finOf 16 (fld (word 0 op f).toNat 35 4) = (f.extractLsb' 35 4).toFin :=
  finOf_word (by decide) f (by decide) ho (by decide) rfl

/-- The tile with an event's count stored. -/
def Tile.counting (x : Tile) (e : Fin 16) (n : Byte) : Tile := { x with events := vset x.events e n }

/-- `sig` with its reserved bits zero, in the state in which it issues. -/
theorem doSig_readied (hr : f.extractLsb' 0 35 = 0) (pc run : Nat) :
    doSig (s.readied t k run) t k pc (word 0 5 f).toNat =
      if (s.tile t).events[(f.extractLsb' 35 4).toFin] = 255 then .fault .sync 0 0
      else .go ((s.readied t k run).modTile t fun x => { x with events := vmod x.events (f.extractLsb' 35 4).toFin (· + 1) })
        (pc + 1) [t] := by
  have events : ((s.readied t k run).tile t).events = (s.tile t).events := by rw [State.readied_tile]; rfl
  unfold doSig
  simp only [event_word f (by decide : 5 < 64), events, if_neg (control_free f (by decide : 5 < 64) hr)]

/-- `wait` with its reserved bits zero, in the state in which it issues. -/
theorem doWait_readied (hr : f.extractLsb' 0 35 = 0) (pc run : Nat) :
    doWait (s.readied t k run) t k pc (word 0 6 f).toNat =
      if (s.tile t).waiters[(f.extractLsb' 35 4).toFin] ≠ k then .fault .sync 0 0
      else if (s.tile t).events[(f.extractLsb' 35 4).toFin] = 0 then .block .wait (f.extractLsb' 35 4).toNat
      else goNext ((s.readied t k run).modTile t fun x =>
        { x with events := vmod x.events (f.extractLsb' 35 4).toFin (· - 1) }) pc := by
  have events : ((s.readied t k run).tile t).events = (s.tile t).events := by rw [State.readied_tile]; rfl
  have waiters : ((s.readied t k run).tile t).waiters = (s.tile t).waiters := by rw [State.readied_tile]; rfl
  unfold doWait
  simp only [event_word f (by decide : 6 < 64), events, waiters, if_neg (control_free f (by decide : 6 < 64) hr)]
  rfl

/-- Once RUNNING again, the slot that issues differs from what it was by nothing but its index and its count. -/
theorem settled_onto (s : State) (t : TileId) (k : Fin 8) (pc : BitVec 11) (st : SlotState) :
    ((s.tile t).settleRunning.slots[k]).onto pc st = (s.slotOf t k).onto pc st := by
  rw [Tile.settleRunning_slot]; split <;> rfl

/-- `sig` below the largest count (R68). -/
theorem sig_goes (h : Issues s t k) (hr : f.extractLsb' 0 35 = 0) (hn : (s.tile t).events[(f.extractLsb' 35 4).toFin] ≠ 255) :
    Completes s (.sig t f) fun u => OnlyTiles s u [t] ∧
      ((s.tile t).counting (f.extractLsb' 35 4).toFin ((s.tile t).events[(f.extractLsb' 35 4).toFin] + 1)).Issued (u.tile t) k
        ((s.slotOf t k).onto ((s.slotOf t k).pc + 1) .running) true := by
  refine act_completes (f := fun s => s.issueAs t (word 0 5 f) doSig false) rfl h.1 ?_
  obtain ⟨only, -, issued⟩ := issue_tile (w := word 0 5 f) (body := doSig) (yields := false) (wakes := [t])
    (g := fun x => { x with events := vmod x.events (f.extractLsb' 35 4).toFin (· + 1) })
    (z0 := (s.tile t).settleRunning.slots[k])
    (x' := (s.tile t).counting (f.extractLsb' 35 4).toFin ((s.tile t).events[(f.extractLsb' 35 4).toFin] + 1)) h
    (fun run => by rw [doSig_readied hr, if_neg hn]) (fun run => by rw [vset_self]; rfl) rfl (by rw [h.ready]; decide)
  rw [h.ready, next_pc, settled_onto] at issued
  exact ⟨⟨only.1, fun v hv => only.2 v (by simpa using hv)⟩, issued⟩

/-- A `sig` on the largest count (R68). -/
theorem sig_faults (h : Issues s t k) (hr : f.extractLsb' 0 35 = 0) (hn : (s.tile t).events[(f.extractLsb' 35 4).toFin] = 255) :
    Completes s (.sig t f) fun u => Faulted s u t k .sync :=
  issue_fault (body := doSig) h (fun _ => rfl) (by decide) fun run => by rw [doSig_readied hr, if_pos hn]

/-- A `wait` by another slot than the event's waiter (R68). -/
theorem wait_faults (h : Issues s t k) (hr : f.extractLsb' 0 35 = 0) (hw : (s.tile t).waiters[(f.extractLsb' 35 4).toFin] ≠ k) :
    Completes s (.wait t f) fun u => Faulted s u t k .sync :=
  issue_fault (body := doWait) h (fun _ => rfl) (by decide) fun run => by rw [doWait_readied hr, if_pos hw]

/-- The waiter's `wait` on a count that is not zero (R68). -/
theorem wait_goes (h : Issues s t k) (hr : f.extractLsb' 0 35 = 0) (hw : (s.tile t).waiters[(f.extractLsb' 35 4).toFin] = k)
    (hn : (s.tile t).events[(f.extractLsb' 35 4).toFin] ≠ 0) :
    Completes s (.wait t f) fun u => OnlyTiles s u [t] ∧
      ((s.tile t).counting (f.extractLsb' 35 4).toFin ((s.tile t).events[(f.extractLsb' 35 4).toFin] - 1)).Issued (u.tile t) k
        ((s.slotOf t k).onto ((s.slotOf t k).pc + 1) .running) true := by
  obtain ⟨-, -, -, inside, -⟩ := id h
  refine issue_running (c := .wait t f) (cls := 0) (op := 6) (f := f) (yields := false) (body := doWait) (gz := id)
    (g := fun x => { x with events := vmod x.events (f.extractLsb' 35 4).toFin (· - 1) })
    (x' := (s.tile t).counting (f.extractLsb' 35 4).toFin ((s.tile t).events[(f.extractLsb' 35 4).toFin] - 1))
    h (fun _ => rfl) (fun run => ?_) (fun run => by simp only [id, vset_self]; rfl) rfl (fun _ => ⟨rfl, fun _ => rfl⟩)
  rw [doWait_readied hr, if_neg (not_not.mpr hw), if_neg hn, goNext_eq _ _ inside]

/-- The waiter's `wait` on a count of zero (R68). -/
theorem wait_blocks (hr : f.extractLsb' 0 35 = 0) (hw : (s.tile t).waiters[(f.extractLsb' 35 4).toFin] = k)
    (hn : (s.tile t).events[(f.extractLsb' 35 4).toFin] = 0) (run : Nat) :
    doWait (s.readied t k run) t k (s.slotOf t k).pc.toNat (word 0 6 f).toNat = .block .wait (f.extractLsb' 35 4).toNat := by
  rw [doWait_readied hr, if_neg (not_not.mpr hw), if_pos hn]

/-- `halt` (R62). -/
theorem halt_goes (h : Issues s t k) (hr : f.extractLsb' 0 35 = 0) :
    Completes s (.halt t f) fun u => OnlyTiles s u [t] ∧
      (s.tile t).Issued (u.tile t) k ((s.slotOf t k).onto ((s.slotOf t k).pc + 1) .done) false := by
  refine act_completes (f := fun s => s.issueAs t (word 0 7 f) doHalt false) rfl h.1 ?_
  obtain ⟨only, -, issued⟩ := issue_tile (w := word 0 7 f) (body := doHalt) (yields := false) (wakes := [])
    (g := fun x => { x with slots := vmod x.slots k fun z => { z with state := .done } })
    (z0 := { (s.tile t).settleRunning.slots[k] with state := .done }) (x' := s.tile t) h
    (fun run => by rw [doHalt, if_neg (control_free f (by decide) hr)]; rfl) (fun run => rfl) rfl SlotState.noConfusion
  rw [next_pc] at issued
  refine ⟨only, ?_⟩
  rw [← settled_onto]
  exact issued

end Sys2Proof.Machine

section
open Sys2Proof Sys2Proof.Machine

/-- Settles O2: each instruction by what its issue leaves, a `wait` on a count of zero by `issue_block`. -/
theorem controlFlow : Obligations.ControlFlow := by
  intro s t k f h
  obtain ⟨-, -, -, inside, -⟩ := id h
  refine ⟨fun hr => control_faults h hr, fun hr => ?_⟩
  have free {op : Nat} (ho : op < 64) := control_free f ho hr
  refine ⟨issue_goes (body := doNop) (yields := false) h (fun _ => rfl) fun run => ?_,
    issue_goes (body := doYield) (yields := true) h (fun _ => rfl) fun run => ?_,
    halt_goes h hr, fun ht => ⟨?_, ?_, ?_⟩, sig_goes h hr, wait_goes h hr, fun hw hn => ?_, wait_faults h hr, sig_faults h hr,
    fun ht => ⟨?_, ?_, ?_⟩⟩
  · rw [doNop, if_neg (free (by decide)), goNext_eq _ _ inside]
  · rw [doYield, if_neg (free (by decide)), goNext_eq _ _ inside]
  · exact branch_goes (op := 1) h (by decide) (fun _ => rfl) hr ht rfl
  · exact branch_goes (op := 2) h (by decide) (fun _ => rfl) hr ht (by simp)
  · exact branch_goes (op := 3) h (by decide) (fun _ => rfl) hr ht (by simp)
  · obtain ⟨u, v, hx, hs, only, tile, slot, others⟩ := issue_block (c := .wait t f) (w := word 0 6 f)
      (yields := false) (body := doWait) h (fun _ => rfl) (wait_blocks hr hw hn)
    refine ⟨u, v, hx, hs, only, tile, ?_, others⟩
    rw [slot, BitVec.ofNat_toNat]
  · exact branch_faults (op := 1) h (by decide) (fun _ => rfl) hr ht
  · exact branch_faults (op := 2) h (by decide) (fun _ => rfl) hr ht
  · exact branch_faults (op := 3) h (by decide) (fun _ => rfl) hr ht

end

namespace Sys2Proof.Machine

variable {s : State} {t : TileId} {k : Fin 8} {f : Fields} {c : Instr} {op a : Nat}
  {body : State → TileId → Fin 8 → Nat → Nat → Issue}

/-! #### The narrow memory class (R516) -/

theorem narrowReserved_word (f : Fields) (ho : op < 64) :
    narrowReserved (word 2 op f).toNat = decide (f.extractLsb' 0 46 ≠ 0) := reserved_word f (by decide) ho (by decide)

theorem narrow_free (f : Fields) (ho : op < 64) (hr : f.extractLsb' 0 46 = 0) : ¬narrowReserved (word 2 op f).toNat = true := by
  rw [narrowReserved_word f ho]; simp [hr]

/-- A reserved bit faults `ld` and `st`. -/
theorem narrow_faults (h : Issues s t k) (hr : f.extractLsb' 0 46 ≠ 0) :
    (Completes s (.ld t f) fun u => Faulted s u t k .illegal) ∧ Completes s (.st t f) fun u => Faulted s u t k .illegal := by
  have bad {op : Nat} (ho : op < 64) : narrowReserved (word 2 op f).toNat = true := by
    rw [narrowReserved_word f ho]; exact decide_eq_true hr
  exact ⟨issue_fault (body := doLd) h (fun _ => rfl) (by decide) fun _ => if_pos (bad (by decide)),
    issue_fault (body := doSt) h (fun _ => rfl) (by decide) fun _ => if_pos (bad (by decide))⟩

/-- How `ld` and `st` resolve the address word in RA (R110, R516). -/
def State.narrowResolve (s : State) (t : TileId) (k : Fin 8) (f : Fields) (acc : Access) : Resolve :=
  (s.tile t).resolve (s.hquotaOf t) ((s.slotOf t k).value (f.extractLsb' 46 4)) false 4 acc

/-- The handshake leaves the tile's memory and its commands as they are, so the resolution and the interlock too. -/
theorem narrowResolve_readied (run : Nat) (acc : Access) (ho : op < 64) :
    (((s.tile t).readied k run).resolve ((s.readied t k run).hquotaOf t)
      (((s.tile t).readied k run).slots[k].reg (fld (word 2 op f).toNat 46 4)) false 4 acc) = s.narrowResolve t k f acc := by
  have value : ((s.tile t).readied k run).slots[k].reg (fld (word 2 op f).toNat 46 4) = (s.slotOf t k).value (f.extractLsb' 46 4) := by
    rw [Slot.reg_word _ f (by decide) ho (by decide)]
    exact s.value_ready t k _
  rw [value]
  rfl

/-- `ld` with its reserved bits zero, in the state in which it issues. -/
theorem doLd_readied (hr : f.extractLsb' 0 46 = 0) (pc run : Nat) :
    doLd (s.readied t k run) t k pc (word 2 0 f).toNat = (s.narrowResolve t k f .read).issue fun a =>
      if (s.tile t).interlocked k false [⟨a, 1⟩] [] then .block .unit 3
      else if (s.tile t).badWord (a / 4) then .fault .parity 1 (a / 4)
      else goNext ((s.readied t k run).modSlot t k fun z => z.setReg (fld (word 2 0 f).toNat 50 4) ((s.tile t).narrowRead a)) pc := by
  rw [doLd, if_neg (narrow_free f (by decide) hr), ← narrowResolve_readied run _ (by decide : 0 < 64), State.readied_tile]
  rfl

/-- `st` with its reserved bits zero, in the state in which it issues. -/
theorem doSt_readied (hr : f.extractLsb' 0 46 = 0) (pc run : Nat) :
    doSt (s.readied t k run) t k pc (word 2 1 f).toNat = (s.narrowResolve t k f (.write k)).issue fun a =>
      if a = 0 then .fault .handle 0 0
      else if (s.tile t).interlocked k false [] [⟨a, 1⟩] then .block .unit 3
      else goNext ((s.readied t k run).modTile t (·.narrowWrite a ((s.slotOf t k).value (f.extractLsb' 50 4)))) pc := by
  have value : ((s.tile t).readied k run).slots[k].reg (fld (word 2 1 f).toNat 50 4) = (s.slotOf t k).value (f.extractLsb' 50 4) := by
    rw [Slot.reg_word _ f (by decide) (by decide) (by decide)]
    exact s.value_ready t k _
  rw [doSt, if_neg (narrow_free f (by decide) hr), ← narrowResolve_readied run _ (by decide : 1 < 64), State.readied_tile, ← value]
  rfl

/-- An address word that does not resolve faults `ld`. -/
theorem ld_handle (h : Issues s t k) (hr : f.extractLsb' 0 46 = 0) (hres : s.narrowResolve t k f .read = .handle) :
    Completes s (.ld t f) fun u => Faulted s u t k .handle :=
  issue_fault (body := doLd) h (fun _ => rfl) (by decide) fun run => by rw [doLd_readied hr, hres]; rfl

/-- An address word that does not resolve, or that names bytes 0 to 3, faults `st` (R109). -/
theorem st_handle (h : Issues s t k) (hr : f.extractLsb' 0 46 = 0)
    (hres : s.narrowResolve t k f (.write k) = .handle ∨ s.narrowResolve t k f (.write k) = .ok 0) :
    Completes s (.st t f) fun u => Faulted s u t k .handle :=
  issue_fault (body := doSt) h (fun _ => rfl) (by decide) fun run => by
    rw [doSt_readied hr]
    rcases hres with hres | hres <;> rw [hres] <;> rfl

/-- A command whose line an earlier command of the task holds waits (R66). -/
theorem narrow_blocks {w : DWord} (h : Issues s t k) (he : ∀ s, exec c s = act (fun s => s.issueAs t w body false) s)
    (hb : ∀ run, body (s.readied t k run) t k (s.slotOf t k).pc.toNat w.toNat = .block .unit 3) :
    Completes s c fun u => OnlyTiles s u [t] ∧ (u.tile t).pad = (s.tile t).pad ∧ (u.slotOf t k).state = .blocked ∧
      (u.slotOf t k).reason = .unit ∧ (u.slotOf t k).object = 3 ∧ (u.slotOf t k).regs = (s.slotOf t k).regs ∧
      (u.slotOf t k).pc = (s.slotOf t k).pc := by
  obtain ⟨u, v, hx, hs, only, tile, slot, -⟩ := issue_block h he hb
  exact ⟨u, v, hx, hs, only, by rw [tile], by rw [slot], by rw [slot], by rw [slot]; rfl, by rw [slot], by rw [slot]⟩

theorem ld_blocks (hr : f.extractLsb' 0 46 = 0) (hres : s.narrowResolve t k f .read = .ok a)
    (hi : (s.tile t).interlocked k false [⟨a, 1⟩] [] = true) (run : Nat) :
    doLd (s.readied t k run) t k (s.slotOf t k).pc.toNat (word 2 0 f).toNat = .block .unit 3 := by
  rw [doLd_readied hr, hres, Resolve.issue, if_pos hi]

theorem st_blocks (hr : f.extractLsb' 0 46 = 0) (hres : s.narrowResolve t k f (.write k) = .ok a) (hz : a ≠ 0)
    (hi : (s.tile t).interlocked k false [] [⟨a, 1⟩] = true) (run : Nat) :
    doSt (s.readied t k run) t k (s.slotOf t k).pc.toNat (word 2 1 f).toNat = .block .unit 3 := by
  rw [doSt_readied hr, hres, Resolve.issue, if_neg hz, if_pos hi]

/-- `ld` reads the word that its address names. -/
theorem ld_reads (h : Issues s t k) (hr : f.extractLsb' 0 46 = 0) (hres : s.narrowResolve t k f .read = .ok a)
    (hi : (s.tile t).interlocked k false [⟨a, 1⟩] [] = false) (hb : (s.tile t).badWord (a / 4) = false) :
    Completes s (.ld t f) fun u => OnlyTiles s u [t] ∧ (s.tile t).Issued (u.tile t) k
      (((s.slotOf t k).written (f.extractLsb' 50 4) ((s.tile t).narrowRead a)).onto ((s.slotOf t k).pc + 1) .running) true := by
  refine issue_writes (body := doLd) (g := fun z => z.setReg (fld (word 2 0 f).toNat 50 4) ((s.tile t).narrowRead a)) h
    (fun _ => rfl) (fun run => ?_) (Slot.setReg_word _ f _ (by decide) (by decide) (by decide))
  rw [doLd_readied hr, hres, Resolve.issue, if_neg (by simp [hi]), if_neg (by simp [hb])]

/-- `st` writes the word that its address names. -/
theorem st_writes (h : Issues s t k) (hr : f.extractLsb' 0 46 = 0) (hres : s.narrowResolve t k f (.write k) = .ok a) (hz : a ≠ 0)
    (hi : (s.tile t).interlocked k false [] [⟨a, 1⟩] = false) :
    Completes s (.st t f) fun u => OnlyTiles s u [t] ∧
      ((s.tile t).narrowWrite a ((s.slotOf t k).value (f.extractLsb' 50 4))).Issued (u.tile t) k
        ((s.slotOf t k).onto ((s.slotOf t k).pc + 1) .running) true := by
  obtain ⟨-, -, -, inside, -⟩ := id h
  refine issue_running (c := .st t f) (cls := 2) (op := 1) (f := f) (yields := false) (body := doSt) (gz := id)
    (x' := (s.tile t).narrowWrite a ((s.slotOf t k).value (f.extractLsb' 50 4)))
    (g := (·.narrowWrite a ((s.slotOf t k).value (f.extractLsb' 50 4)))) h (fun _ => rfl) (fun run => ?_)
    (fun run => by simp only [id, vset_self]; rfl) rfl (fun _ => ⟨rfl, fun _ => rfl⟩)
  rw [doSt_readied hr, hres, Resolve.issue, if_neg hz, if_neg (by simp [hi]), goNext_eq _ _ inside]

/-- The word that a narrow write leaves at its address. -/
theorem readLE_narrowWrite (x : Tile) (a : Nat) (v : Word) : Memory.readLE (x.narrowWrite a v).pad a 4 = v.toNat := by
  have bytes := Memory.readBytes_writeBytes (leBytes 4 v.toNat) x.pad a
  rw [leBytes_length] at bytes
  rw [Memory.readLE, Tile.narrowWrite, Memory.writeLE, bytes, leNat_leBytes]
  exact Nat.mod_eq_of_lt v.isLt

/-- A narrow write leaves every other byte. -/
theorem read_narrowWrite (x : Tile) {a b : Nat} (v : Word) (h : b < a ∨ a + 4 ≤ b) :
    Memory.read (x.narrowWrite a v).pad b = Memory.read x.pad b :=
  Memory.read_writeBytes_out _ _ (by rwa [leBytes_length])

end Sys2Proof.Machine

section
open Sys2Proof Sys2Proof.Machine

/-- Settles O3: each outcome of `doLd` and `doSt` by the resolution of the address word and the interlock. -/
theorem loadAndStore : Obligations.LoadAndStore := by
  intro s t k f a h
  refine ⟨fun hr => narrow_faults h hr, fun hr => ⟨ld_handle h hr, st_handle h hr, fun hres hi => ?_, fun hres hz hi => ?_,
    ld_reads h hr, fun hres hz hi => ?_⟩⟩
  · exact narrow_blocks (w := word 2 0 f) (body := doLd) h (fun _ => rfl) (ld_blocks hr hres hi)
  · exact narrow_blocks (w := word 2 1 f) (body := doSt) h (fun _ => rfl) (st_blocks hr hres hz hi)
  · obtain ⟨u, v, hx, hs, only, issued⟩ := st_writes h hr hres hz hi
    have pad : (u.tile t).pad = ((s.tile t).narrowWrite a ((s.slotOf t k).value (f.extractLsb' 50 4))).pad := by
      rw [issued.1]
    refine ⟨u, v, hx, hs, only, issued, ?_, fun b hb => ?_⟩
    · rw [pad]; exact readLE_narrowWrite _ _ _
    · rw [pad]; exact read_narrowWrite _ _ hb

end

section
open Sys2Proof Sys2Proof.Machine

/-- Settles O9: an unassigned word by `unassigned_faults`, the other causes by the lemmas of their classes. -/
theorem taskFaults : Obligations.TaskFaults := by
  refine ⟨fun s t k f ha hr hp _ hb hn => ?_, fun s t k f h => ?_⟩
  · have bad {c : Instr} {w : DWord} {body : State → TileId → Fin 8 → Nat → Nat → Issue}
        (he : ∀ s, exec c s = act (fun s => s.issueAs t w body false) s) := unassigned_faults ha hr hp hb hn he
    simp only [List.forall_mem_cons]
    exact ⟨bad fun _ => rfl, bad fun _ => rfl, bad fun _ => rfl, bad fun _ => rfl, bad fun _ => rfl, bad fun _ => rfl,
      bad fun _ => rfl, bad fun _ => rfl, List.forall_mem_nil _⟩
  · exact ⟨control_faults h,
      fun hr ht => ⟨branch_faults (op := 1) h (by decide) (fun _ => rfl) hr ht,
        branch_faults (op := 2) h (by decide) (fun _ => rfl) hr ht, branch_faults (op := 3) h (by decide) (fun _ => rfl) hr ht⟩,
      sig_faults h, wait_faults h,
      fun hr => ⟨li_faults h hr, scalar_faults (op := 1) h (by decide) (fun _ => rfl) hr, cmp_faults h hr⟩,
      cmp_reserved h, narrow_faults h, ld_handle h, st_handle h⟩

end

/-! ### Commands of the units -/

namespace Sys2Proof.Machine

/-! #### The queues of a tile -/

@[simp] theorem Tile.queue_setQueue_same (x : Tile) (u : UnitSel) (q : List UnitCmd) : (x.setQueue u q).queue u = q := by
  cases u <;> rfl

theorem Tile.queue_setQueue_ne (x : Tile) {u w : UnitSel} (q : List UnitCmd) (h : w ≠ u) :
    (x.setQueue u q).queue w = x.queue w := by
  cases u <;> cases w <;> simp [Tile.setQueue, Tile.queue] at h ⊢

@[simp] theorem Tile.pad_setQueue (x : Tile) (u : UnitSel) (q : List UnitCmd) : (x.setQueue u q).pad = x.pad := by
  cases u <;> rfl

/-- A queue whose first command has elements stays as it is (R517). -/
theorem Tile.dropEmpty_of_head {x : Tile} {u : UnitSel} (h : (x.queue u).head?.any UnitCmd.empty = false) (n : Nat) :
    x.dropEmpty u n = x := by
  cases n with
  | zero => rfl
  | succ n =>
    rw [Tile.dropEmpty]
    rcases hq : x.queue u with _ | ⟨c, q⟩
    · rfl
    · rw [hq] at h
      exact if_neg (by simpa using h)

/-! #### What a command's issue does not read -/

/-- The tile with other slots and another standing of its sequencer. -/
def Tile.sequenced (x : Tile) (slots : Vector Slot 8) (last : Fin 8) (run : Nat) : Tile :=
  { x with slots := slots, last := last, runLen := run }

theorem Tile.readied_sequenced (x : Tile) (k : Fin 8) (run : Nat) :
    x.readied k run = x.sequenced x.settleRunning.slots k run := rfl

theorem Tile.chainStep_sequenced (x : Tile) (slots : Vector Slot 8) (last : Fin 8) (run : Nat) (g : ChainTag) :
    (x.sequenced slots last run).chainStep g = (x.chainStep g).sequenced slots last run := by
  have runs : (x.sequenced slots last run).runs = x.runs := rfl
  rcases hr : x.runs[g.chain] with _ | r <;> simp only [Tile.chainStep, runs, hr]
  split <;> rfl

theorem Tile.setQueue_sequenced (x : Tile) (slots : Vector Slot 8) (last : Fin 8) (run : Nat) (u : UnitSel) (q : List UnitCmd) :
    (x.sequenced slots last run).setQueue u q = (x.setQueue u q).sequenced slots last run := by
  cases u <;> rfl

theorem Tile.queue_sequenced (x : Tile) (slots : Vector Slot 8) (last : Fin 8) (run : Nat) (u : UnitSel) :
    (x.sequenced slots last run).queue u = x.queue u := by
  cases u <;> rfl

theorem Tile.dropEmpty_sequenced (x : Tile) (slots : Vector Slot 8) (last : Fin 8) (run : Nat) (u : UnitSel) (n : Nat) :
    (x.sequenced slots last run).dropEmpty u n = (x.dropEmpty u n).sequenced slots last run := by
  induction n generalizing x with
  | zero => rfl
  | succ n ih =>
    simp only [Tile.dropEmpty, Tile.queue_sequenced]
    rcases x.queue u with _ | ⟨c, q⟩
    · rfl
    · simp only [Tile.setQueue_sequenced, Tile.chainStep_sequenced]
      split
      · rcases c.chain with _ | g
        · exact ih _
        · exact ih _
      · rfl

theorem Tile.enqueue_sequenced (x : Tile) (slots : Vector Slot 8) (last : Fin 8) (run : Nat) (u : UnitSel) (cmd : UnitCmd) :
    (x.sequenced slots last run).enqueue u cmd = (x.enqueue u cmd).sequenced slots last run := by
  simp only [Tile.enqueue, Tile.queue_sequenced, Tile.setQueue_sequenced, Tile.dropEmpty_sequenced]

/-- Entering a queue leaves the slots. -/
theorem Tile.enqueue_slots (x : Tile) (u : UnitSel) (cmd : UnitCmd) : (x.enqueue u cmd).slots = x.slots :=
  (congrArg Tile.slots (x.enqueue_sequenced x.slots x.last x.runLen u cmd) :)

/-- A command behind one with elements, or with elements itself, waits in its queue. -/
theorem Tile.enqueue_of_head {x : Tile} {u : UnitSel} {cmd : UnitCmd}
    (h : (x.queue u ++ [cmd]).head?.any UnitCmd.empty = false) : x.enqueue u cmd = x.setQueue u (x.queue u ++ [cmd]) :=
  Tile.dropEmpty_of_head (by rwa [Tile.queue_setQueue_same]) _

/-- How a unit's instructions plan their command. -/
abbrev Planner :=
  Tile → Resolver → Fin 8 → BitVec 11 → (Nat → Word) → Nat → Option RingSlot → Option RingSlot → Option ChainTag → Plan

variable {s : State} {t : TileId} {k : Fin 8} {f : Fields} {c : Instr} {cls op : Nat} {u : UnitSel} {cmd : UnitCmd}
  {plan : Planner}

/-- A command with room, a plan and no earlier command in its way enters its unit's queue (R65, R66). -/
theorem doUnit_readied (hplan : ∀ x slots last run, plan (Tile.sequenced x slots last run) = plan x)
    (hfull : (s.tile t).full u = false)
    (hok : plan (s.tile t) ((s.tile t).resolver (s.hquotaOf t)) k (s.slotOf t k).pc (s.slotOf t k).reg (word cls op f).toNat
      none none none = .ok cmd)
    (hi : (s.tile t).interlocked k false cmd.reads cmd.writes = false) (run : Nat) :
    doUnit plan u (s.readied t k run) t k (s.slotOf t k).pc.toNat (word cls op f).toNat =
      goNext ((s.readied t k run).modTile t (·.enqueue u cmd)) (s.slotOf t k).pc.toNat := by
  have regs : ((s.tile t).readied k run).slots[k].reg = (s.slotOf t k).reg := by
    rw [Tile.readied, Tile.settleRunning_slot]
    split <;> rfl
  have full : ((s.tile t).readied k run).full u = false := by
    rwa [Tile.readied_sequenced, Tile.full, Tile.queue_sequenced]
  have planned : plan ((s.tile t).readied k run) (((s.tile t).readied k run).resolver ((s.readied t k run).hquotaOf t)) k
      (BitVec.ofNat 11 (s.slotOf t k).pc.toNat) ((s.tile t).readied k run).slots[k].reg (word cls op f).toNat none none none =
        .ok cmd := by
    rw [regs, BitVec.ofNat_toNat, BitVec.setWidth_eq, Tile.readied_sequenced, hplan]
    exact hok
  have waits : ((s.tile t).readied k run).interlocked k false cmd.reads cmd.writes = false := hi
  simp only [doUnit, State.readied_tile, full, planned, waits, Bool.false_eq_true, if_false]

theorem unit_enters (h : Issues s t k) (he : ∀ s, exec c s = act (fun s => s.issueAs t (word cls op f) (doUnit plan u) false) s)
    (hplan : ∀ x slots last run, plan (Tile.sequenced x slots last run) = plan x) (hfull : (s.tile t).full u = false)
    (hok : plan (s.tile t) ((s.tile t).resolver (s.hquotaOf t)) k (s.slotOf t k).pc (s.slotOf t k).reg (word cls op f).toNat
      none none none = .ok cmd)
    (hi : (s.tile t).interlocked k false cmd.reads cmd.writes = false) :
    Completes s c fun v => OnlyTiles s v [t] ∧
      ((s.tile t).enqueue u cmd).Issued (v.tile t) k ((s.slotOf t k).onto ((s.slotOf t k).pc + 1) .running) true ∧
      (((s.tile t).queue u ++ [cmd]).head?.any UnitCmd.empty = false →
        (v.tile t).queue u = (s.tile t).queue u ++ [cmd] ∧ (v.tile t).pad = (s.tile t).pad) := by
  obtain ⟨-, -, -, inside, -⟩ := id h
  have enters := issue_running (g := (·.enqueue u cmd)) (x' := (s.tile t).enqueue u cmd) (gz := id) h he
    (fun run => by rw [doUnit_readied hplan hfull hok hi, goNext_eq _ _ inside])
    (fun run => by rw [Tile.readied_sequenced, Tile.enqueue_sequenced, id, vset_self]; rfl) (Tile.enqueue_slots _ _ _)
    (fun _ => ⟨rfl, fun _ => rfl⟩)
  obtain ⟨v, w, hx, hs, only, issued⟩ := enters
  refine ⟨v, w, hx, hs, only, issued, fun hne => ?_⟩
  rw [issued.1, Tile.enqueue_of_head hne]
  cases u <;> exact ⟨rfl, rfl⟩

end Sys2Proof.Machine

section
open Sys2Proof Sys2Proof.Machine

/-- Settles O5: `unit_enters` for each command, since no plan reads the slots or the sequencer. -/
theorem unitCommandsQueue : Obligations.UnitCommandsQueue := by
  intro s t k f cmd h
  have vec {c : Instr} {op : Nat} (o : VOp)
      (he : ∀ s, exec c s = act (fun s => s.issueAs t (word 5 op f) (doVector o) false) s) :=
    unit_enters (cmd := cmd) (plan := planVector o) h he fun _ _ _ _ => rfl
  have fn {c : Instr} {op : Nat} (deriv grad : Bool)
      (he : ∀ s, exec c s = act (fun s => s.issueAs t (word 6 op f) (doFunction deriv grad) false) s) :=
    unit_enters (cmd := cmd) (plan := planFunction deriv grad) h he fun _ _ _ _ => rfl
  exact ⟨unit_enters (plan := planMma) h (fun _ => rfl) fun _ _ _ _ => rfl,
    vec .add fun _ => rfl, vec .sub fun _ => rfl, vec .mul fun _ => rfl, vec .fma fun _ => rfl, vec .min fun _ => rfl,
    vec .max fun _ => rfl, vec .abs fun _ => rfl, vec .neg fun _ => rfl, vec .cmp fun _ => rfl, vec .sel fun _ => rfl,
    vec .scl fun _ => rfl, vec .and fun _ => rfl, vec .or fun _ => rfl, vec .xor fun _ => rfl, vec .shl fun _ => rfl,
    vec .shr fun _ => rfl, vec .cvt fun _ => rfl, vec .red fun _ => rfl, fn false false fun _ => rfl,
    fn true false fun _ => rfl, fn true true fun _ => rfl⟩

end

namespace Sys2Proof.Machine

/-! #### The results of a unit's command -/

/-- Tile `y` differs from `x` by nothing but parity and zero tags (R119, R162). -/
def Tile.Retagged (x y : Tile) : Prop :=
  y = { x with badWords := y.badWords, badTags := y.badTags, clearTags := y.clearTags }

theorem Tile.Retagged.refl (x : Tile) : x.Retagged x := rfl

theorem Tile.Retagged.trans {x y z : Tile} (h : x.Retagged y) (g : y.Retagged z) : x.Retagged z := by
  unfold Tile.Retagged at h g ⊢
  rw [g, h]

theorem Tile.Retagged.queue {x y : Tile} (h : x.Retagged y) (u : UnitSel) : y.queue u = x.queue u := by
  rw [h]; cases u <;> rfl

/-- A wide write leaves its bytes, and of the rest of the tile changes nothing but tags. -/
theorem Tile.wideWrite_retagged (x : Tile) (a : Nat) (bs : List Byte) :
    Tile.Retagged { x with pad := Memory.writeBytes x.pad a bs } (x.wideWrite a bs) := by
  have retag (y : Tile) (i : Nat) : y.Retagged (y.retag i) := by unfold Tile.retag; split <;> rfl
  have tags (l : List Nat) (y : Tile) : y.Retagged (l.foldl (fun y i => y.retag (4 * (a / 64) + i)) y) := by
    induction l generalizing y with
    | nil => rfl
    | cons i l ih => exact Tile.Retagged.trans (retag y _) (ih _)
  unfold Tile.wideWrite
  split
  · next h => rw [List.isEmpty_iff.mp h]; rfl
  · extract_lets e x1 x2 x3
    have parity : Tile.Retagged { x with pad := Memory.writeBytes x.pad a bs } x1 := rfl
    have first : x2.Retagged x3 := by simp only [x3]; split <;> rfl
    refine ((parity.trans (tags _ x1)).trans first).trans ?_
    split <;> rfl

/-- The runs of bytes of a command's results, written one after the other. -/
theorem Tile.writeRuns_retagged (ws : List (Nat × List Byte)) (x : Tile) :
    Tile.Retagged { x with pad := ws.foldl (fun m e => Memory.writeBytes m e.1 e.2) x.pad }
      (ws.foldl (fun (x : Tile) (a, bs) => x.wideWrite a bs) x) := by
  induction ws generalizing x with
  | nil => rfl
  | cons e ws ih =>
    have pad := congrArg Tile.pad (x.wideWrite_retagged e.1 e.2)
    have rest := ih (x.wideWrite e.1 e.2)
    refine Tile.Retagged.trans ?_ rest
    simp only [List.foldl_cons, pad]
    generalize ws.foldl _ _ = m
    exact congrArg (fun y : Tile => { y with pad := m }) (x.wideWrite_retagged e.1 e.2)

/-- Runs of bytes leave every byte outside them. -/
theorem read_writeRuns_out (ws : List (Nat × List Byte)) (m : Mem) {b : Nat}
    (h : ∀ e ∈ ws, b < e.1 ∨ e.1 + e.2.length ≤ b) :
    Memory.read (ws.foldl (fun m e => Memory.writeBytes m e.1 e.2) m) b = Memory.read m b := by
  induction ws generalizing m with
  | nil => rfl
  | cons e ws ih =>
    obtain ⟨he, hws⟩ := List.forall_mem_cons.mp h
    rw [List.foldl_cons, ih _ hws, Memory.read_writeBytes_out _ _ he]

/-- Tile `y` differs from `x` by nothing but queue `u` and what the tile's chains count. -/
def Tile.Requeued (u : UnitSel) (x y : Tile) : Prop :=
  y = { x with
    tensorQ := y.tensorQ, vectorQ := y.vectorQ, functionQ := y.functionQ, runs := y.runs, chainsDone := y.chainsDone } ∧
    ∀ w, w ≠ u → y.queue w = x.queue w

theorem Tile.Requeued.refl (u : UnitSel) (x : Tile) : x.Requeued u x := ⟨rfl, fun _ _ => rfl⟩

theorem Tile.Requeued.trans {u : UnitSel} {x y z : Tile} (h : x.Requeued u y) (g : y.Requeued u z) : x.Requeued u z := by
  obtain ⟨hxy, hq⟩ := h
  obtain ⟨hyz, gq⟩ := g
  refine ⟨?_, fun w hw => (gq w hw).trans (hq w hw)⟩
  rw [hyz, hxy]

theorem Tile.setQueue_requeued (x : Tile) (u : UnitSel) (q : List UnitCmd) : x.Requeued u (x.setQueue u q) :=
  ⟨by cases u <;> rfl, fun _ hw => x.queue_setQueue_ne q hw⟩

theorem Tile.chainStep_requeued (u : UnitSel) (x : Tile) (g : ChainTag) : x.Requeued u (x.chainStep g) := by
  unfold Tile.chainStep
  split
  · exact .refl u x
  · dsimp only
    split <;> exact ⟨rfl, fun w _ => by cases w <;> rfl⟩

theorem Tile.dropEmpty_requeued (u : UnitSel) (n : Nat) (x : Tile) : x.Requeued u (x.dropEmpty u n) := by
  induction n generalizing x with
  | zero => exact .refl u x
  | succ n ih =>
    rw [Tile.dropEmpty]
    rcases x.queue u with _ | ⟨c, q⟩
    · exact .refl u x
    · dsimp only
      split
      · rcases c.chain with _ | g
        · exact (x.setQueue_requeued u q).trans (ih _)
        · exact ((x.setQueue_requeued u q).trans (Tile.chainStep_requeued u _ g)).trans (ih _)
      · exact .refl u x

variable {s : State} {t : TileId} {u : UnitSel} {c : UnitCmd} {q : List UnitCmd}

/-- The tile once a unit's command has written its results, before the commands without elements behind it complete. -/
def Tile.unitWrites (x : Tile) (u : UnitSel) (c : UnitCmd) (q : List UnitCmd) : Tile :=
  let y := (c.results x).foldl (fun (x : Tile) (a, bs) => x.wideWrite a bs) { x.setQueue u q with advanced := true }
  c.nibble.elim y y.merged

theorem Tile.unitWrites_retagged (x : Tile) (u : UnitSel) (c : UnitCmd) (q : List UnitCmd) :
    Tile.Retagged { x.setQueue u q with
      advanced := true, pad := (c.results x).foldl (fun m e => Memory.writeBytes m e.1 e.2) x.pad } (x.unitWrites u c q) := by
  have runs := Tile.writeRuns_retagged (c.results x) { x.setQueue u q with advanced := true }
  rw [Tile.pad_setQueue] at runs
  unfold Tile.unitWrites
  rcases c.nibble with _ | w
  · exact runs
  · exact runs.trans rfl

/-- The command at the head finishes without a fault. -/
theorem unitComplete_eq (hq : (s.tile t).queue u = c :: q) (hc : c.chain = none)
    (hp : c.parity (s.tile t) (c.results (s.tile t)) = none) (hm : ¬(fld c.word.toNat 60 4 = 4 ∧ badMeta (s.tile t).pad c = true)) :
    ∃ n, s.unitComplete t u = (s.setTile t (((s.tile t).unitWrites u c q).dropEmpty u n)).wake t := by
  refine ⟨(((s.tile t).unitWrites u c q).queue u).length, ?_⟩
  unfold State.unitComplete
  simp only [hq, hp, if_neg hm, hc, State.modTile, State.tile_setTile_eq]
  rw [State.setTile, State.setTile, set_set]
  rfl

end Sys2Proof.Machine

section
open Sys2Proof Sys2Proof.Machine

/-- Settles O6: `unitComplete_eq`, with what each part of it keeps. -/
theorem unitResultsLand : Obligations.UnitResultsLand := by
  intro s t u c q ha hr x ws hq hc hp hm
  obtain ⟨n, he⟩ := unitComplete_eq (s := s) hq hc hp hm
  refine act_completes (f := fun s => if s.unitsRun t then s.unitComplete t u else s) rfl ha ?_
  rw [if_pos hr, he]
  have written := x.unitWrites_retagged u c q
  obtain ⟨dropped, others⟩ := Tile.dropEmpty_requeued u n (x.unitWrites u c q)
  obtain ⟨woken, -⟩ := State.wake_tile (s.setTile t ((x.unitWrites u c q).dropEmpty u n)) t
  rw [State.tile_setTile_eq] at woken
  have queue (w : UnitSel) : (((s.setTile t ((x.unitWrites u c q).dropEmpty u n)).wake t).tile t).queue w =
      ((x.unitWrites u c q).dropEmpty u n).queue w := by rw [woken]; cases w <;> rfl
  have pad : (((s.setTile t ((x.unitWrites u c q).dropEmpty u n)).wake t).tile t).pad =
      ws.foldl (fun m e => Memory.writeBytes m e.1 e.2) x.pad := by rw [woken, dropped, written]
  refine ⟨⟨rfl, fun v hv => ?_⟩, fun hne => ?_, fun w hw => ?_, ?_, ?_, pad, fun b hb => ?_⟩
  · rw [List.mem_singleton] at hv
    rw [State.wake_ne _ hv, State.tile_setTile_ne _ _ hv]
  · have head : (x.unitWrites u c q).queue u = q := by rw [written.queue]; cases u <;> rfl
    rw [queue, Tile.dropEmpty_of_head (by rwa [head]), head]
  · rw [queue, others w hw, written.queue]
    exact (x.queue_setQueue_ne q hw ▸ by cases w <;> rfl)
  · rw [woken, dropped, written]; cases u <;> rfl
  · rw [woken, dropped, written]; cases u <;> rfl
  · rw [pad, read_writeRuns_out ws x.pad hb]

end

/-! ### What goes on beside a step -/

namespace Sys2Proof.Machine

/-- Context `y` is `x` but for what its memory (07), its weights (09), its reduction (10) and its phases (16) keep. -/
def Ctx.Worked (x y : Ctx) : Prop :=
  y = { x with
    pages := y.pages, mem := y.mem, badLines := y.badLines, eccLines := y.eccLines, accesses := y.accesses
    fetches := y.fetches, reds := y.reds, skips := y.skips, released := y.released, banks := y.banks
    current := y.current, pending := y.pending, pendDigest := y.pendDigest, pendUnbuilt := y.pendUnbuilt
    obtains := y.obtains
    ckpt := { x.ckpt with snapshot := y.ckpt.snapshot, homeCopies := y.ckpt.homeCopies } }

theorem Ctx.Worked.refl (x : Ctx) : x.Worked x := rfl

theorem Ctx.Worked.trans {x y z : Ctx} (h : x.Worked y) (g : y.Worked z) : x.Worked z := by
  unfold Ctx.Worked at h g ⊢
  rw [g, h]

theorem Ctx.modPage_worked (x : Ctx) (q : Scroll) (p : Nat) (f : Page → Page) : x.Worked (x.modPage q p f) := rfl

theorem Ctx.dropFrame_worked (x : Ctx) (q : Scroll) (p : Nat) : x.Worked (x.dropFrame q p) := by
  have cleared (y : Ctx) (m : Mem) (l : NatSet) : y.Worked { y with mem := m, eccLines := l } := rfl
  exact (x.modPage_worked ..).trans (cleared ..)

/-- State `u` is `s` but for what context `c` has worked on, the fabric, the interfaces, the power budget, the action log
and registers other than SCR_CAUSE. -/
structure Meanwhile (c : Fin 8) (s u : State) : Prop where
  frame : u = { s with
    ctxs := u.ctxs, ports := u.ports, held := u.held, given := u.given, out := u.out, time := u.time, regs := u.regs
    budget := u.budget, actions := u.actions, actionCount := u.actionCount, freeCtr := u.freeCtr }
  ctx : (s.ctx c).Worked (u.ctx c)
  others : ∀ d, d ≠ c → u.ctx d = s.ctx d
  cause : u.reg Reg.scrCause = s.reg Reg.scrCause

namespace Meanwhile

variable {c : Fin 8} {s t u : State}

theorem refl (c : Fin 8) (s : State) : Meanwhile c s s := ⟨rfl, rfl, fun _ _ => rfl, rfl⟩

theorem trans (h : Meanwhile c s t) (g : Meanwhile c t u) : Meanwhile c s u where
  frame := by rw [g.frame, h.frame]
  ctx := h.ctx.trans g.ctx
  others d hd := (g.others d hd).trans (h.others d hd)
  cause := g.cause.trans h.cause

theorem foldl {α : Type} {f : State → α → State} (hf : ∀ s a, Meanwhile c s (f s a)) (l : List α) (s : State) :
    Meanwhile c s (l.foldl f s) := by
  induction l generalizing s with
  | nil => exact refl c s
  | cons a l ih => exact (hf s a).trans (ih _)

theorem snd {α : Type} {a : α} (h : Meanwhile c s u) : Meanwhile c s (a, u).2 := h

theorem ite {p : Prop} [Decidable p] (ht : Meanwhile c s t) (hu : Meanwhile c s u) : Meanwhile c s (if p then t else u) := by
  split
  · exact ht
  · exact hu

/-- What changes neither a context nor a register. -/
theorem of_frame (hf : u = { s with
    ports := u.ports, held := u.held, given := u.given, out := u.out, time := u.time
    budget := u.budget, actions := u.actions, actionCount := u.actionCount, freeCtr := u.freeCtr }) : Meanwhile c s u where
  frame := by rw [hf]
  ctx := by rw [hf]; exact rfl
  others _ _ := by rw [hf]; rfl
  cause := by rw [hf]; rfl

theorem setCtx {x : Ctx} (h : (s.ctx c).Worked x) : Meanwhile c s (s.setCtx c x) where
  frame := rfl
  ctx := by
    have here : (s.setCtx c x).ctx c = x := vget_vset_eq _ _ _
    rwa [here]
  others _ hd := vget_vset_ne _ _ hd
  cause := rfl

theorem modCtx {f : Ctx → Ctx} (h : (s.ctx c).Worked (f (s.ctx c))) : Meanwhile c s (s.modCtx c f) := setCtx h

theorem thenModCtx (h : Meanwhile c s t) {f : Ctx → Ctx} (hf : (t.ctx c).Worked (f (t.ctx c))) : Meanwhile c s (t.modCtx c f) :=
  h.trans (.modCtx hf)

theorem thenSetCtx (h : Meanwhile c s t) {x : Ctx} (hx : (t.ctx c).Worked x) : Meanwhile c s (t.setCtx c x) :=
  h.trans (.setCtx hx)

theorem setReg (s : State) {o : Nat} (v : Nat) (h : Reg.scrCause ≠ o) : Meanwhile c s (s.setReg o v) where
  frame := rfl
  ctx := rfl
  others _ _ := rfl
  cause := s.reg_setReg_ne v h

theorem enqueue (s : State) (p : Option (Fin 64)) (f : Frame) (k : Option (Nat × Nat × Nat)) (d : Option (Fin 8)) (w : Bool) :
    Meanwhile c s (s.enqueue p f k d w) := by
  obtain ⟨pt, a, o, tm, h⟩ := enqueue_eq s p f k d w
  rw [h]
  exact of_frame rfl

theorem outOnly (h : OutOnly s u) : Meanwhile c s u := of_frame (by rw [h])

theorem tile (h : Meanwhile c s u) (t : TileId) : u.tile t = s.tile t := by rw [h.frame]; rfl
theorem tiles (h : Meanwhile c s u) : u.tiles = s.tiles := by rw [h.frame]
theorem rings (h : Meanwhile c s u) : u.rings = s.rings := by rw [h.frame]
theorem hng (h : Meanwhile c s u) : u.hng = s.hng := by rw [h.frame]
theorem fret (h : Meanwhile c s u) : u.fret = s.fret := by rw [h.frame]
theorem replayHead (h : Meanwhile c s u) : u.replayHead = s.replayHead := by rw [h.frame]

/-- No cut comes due. -/
theorem due (h : Meanwhile c s u) (d : Fin 8) : (u.ctx d).ckpt.due = (s.ctx d).ckpt.due := by
  by_cases hd : d = c
  · rw [hd, h.ctx]
  · rw [h.others d hd]

theorem stale (h : Meanwhile c s u) (d : Fin 8) : (u.ctx d).stale = (s.ctx d).stale := by
  by_cases hd : d = c
  · rw [hd, h.ctx]
  · rw [h.others d hd]

theorem degraded (h : Meanwhile c s u) : u.degraded = s.degraded := by
  simp only [State.degraded, h.stale, h.fret]

theorem clear (h : Meanwhile c s u) (hc : Clear s) : Clear u := by
  obtain ⟨rings, due⟩ := hc
  exact ⟨by rwa [h.rings], fun d => (h.due d).trans (due d)⟩

end Meanwhile

/-! #### The memory tier (R216, R222 to R225) -/

variable {s : State} {c : Fin 8}

theorem writeBack_meanwhile (s : State) (c : Fin 8) (q : Scroll) (p : Nat) (mask : BitVec 32) (src : Mem) (base : Nat) (old : Bool) :
    Meanwhile c s (s.writeBack c q p mask src base old) := by
  have pageFrame (s : State) (p : Nat) (k : Fin 12) (ty dest offset : Nat) (fin : Bool) (pay : List Byte) :
      Meanwhile c s (s.pageFrame c p k ty dest offset fin pay) := .enqueue _ _ _ _ _ _
  have send (s : State) (p n d : Nat) (bs : List Byte) : Meanwhile c s (s.writeBackTo c q p n d bs) := by
    unfold State.writeBackTo
    split
    · exact .refl c s
    · exact (Meanwhile.foldl (fun s i => pageFrame ..) _ _).trans (pageFrame ..)
  unfold State.writeBack
  split
  · exact .refl c s
  · refine .trans ?_ (.foldl (fun s n => .foldl (fun s d => send ..) _ _) _ _)
    exact .modCtx rfl

theorem getFrame_meanwhile (s : State) (c : Fin 8) (q : Scroll) : Meanwhile c s (s.getFrame c q).2 := by
  unfold State.getFrame
  extract_lets x
  split
  · exact .refl c s
  · split
    · split <;> exact .refl c s
    · next v _ =>
      extract_lets g s1
      have moving : Meanwhile c s s1 := .modCtx (Ctx.modPage_worked ..)
      split
      · exact .snd (.modCtx (Ctx.dropFrame_worked ..))
      · split
        · exact .snd (.modCtx ((Ctx.dropFrame_worked ..).trans (Ctx.modPage_worked ..)))
        · exact .snd (moving.trans (writeBack_meanwhile ..))

theorem startFetch_meanwhile (s : State) (c : Fin 8) (q : Scroll) (g : Segment) (p : Nat) :
    Meanwhile c s (s.startFetch c q g p).2 := by
  have asks : Meanwhile c s
      (if (s.ctx c).rolling then (FrameGrant.wait, s) else if g.cls = 0 then (FrameGrant.free, s) else s.getFrame c q).2 := by
    split
    · exact .refl c s
    · split
      · exact .refl c s
      · exact getFrame_meanwhile s c q
  unfold State.startFetch
  extract_lets r s1 s2 f s3
  split
  · exact asks
  · exact asks
  · have inexact : Meanwhile c s1 s2 := .ite (.setReg _ _ (by decide)) (.refl c s1)
    have frame : Meanwhile c s2 s3 := .modCtx rfl
    have request : Meanwhile c s3 (s3.requestPage c q p 0) := by
      unfold State.requestPage
      split
      · exact .refl c s3
      · exact .enqueue _ _ _ _ _ _
    exact .snd (((asks.trans inexact).trans frame).trans request)

theorem memCause_meanwhile (s : State) (c : Fin 8) (code a stack : Nat) : Meanwhile c s (s.memCause c code a stack) := by
  unfold State.memCause
  extract_lets first b s1
  have cause : Meanwhile c s s1 := .setReg s _ (by decide)
  split
  · refine (cause.trans ?_).trans (.setReg _ _ (by decide))
    exact .setReg _ _ (by decide)
  · exact cause

theorem accessed_worked (x : Ctx) (q : Scroll) (p : Nat) : x.Worked
    (let y := { x with accesses := x.accesses + 1 }; y.modPage q p fun g => { g with used := y.accesses }) := by
  have counted (n : Nat) : x.Worked { x with accesses := n } := rfl
  exact (counted _).trans (Ctx.modPage_worked ..)

theorem touchRead_meanwhile (s : State) (c : Fin 8) (q : Scroll) (r : Option (Fin 48)) (a : Nat) :
    Meanwhile c s (s.touchRead c q r a).2 := by
  have same := Meanwhile.refl c s
  have fetch (g : Segment) (p : Nat) := startFetch_meanwhile s c q g p
  unfold State.touchRead
  extract_lets p x y s1
  split
  · exact same
  · have used : Meanwhile c s s1 := .modCtx (accessed_worked ..)
    split
    · exact same
    · split
      · split
        · exact fetch ..
        · exact same
      · exact fetch ..
      · split <;> exact same
      · split
        · exact used
        · split
          · exact used
          · split
            · exact used
            · split
              · split
                · exact (used.thenModCtx (Ctx.dropFrame_worked ..)).trans (startFetch_meanwhile ..)
                · exact .snd ((used.trans (memCause_meanwhile ..)).thenModCtx rfl)
              · exact used

theorem copyBefore_worked {x y : Ctx} {q : Scroll} {p : Nat} (h : x.copyBefore q p = some y) : x.Worked y := by
  unfold Ctx.copyBefore at h
  extract_lets z base at h
  split at h
  · obtain rfl := Option.some.inj h
    exact .trans (y := if z.snap && !z.copied then _ else x) (by split <;> rfl) rfl
  · split at h
    · split at h
      · obtain rfl := Option.some.inj h; rfl
      · cases h
    · obtain rfl := Option.some.inj h; rfl

theorem touchWrite_meanwhile (s : State) (c : Fin 8) (q : Scroll) (r : Option (Fin 48)) (a : Nat) :
    Meanwhile c s (s.touchWrite c q r a).2 := by
  have same := Meanwhile.refl c s
  have fetch (g : Segment) (p : Nat) := startFetch_meanwhile s c q g p
  unfold State.touchWrite
  extract_lets p x y ready held
  split
  · exact same
  · split
    · exact same
    · have readied (s : State) : Meanwhile c s (ready s).2 := by
        have used : Meanwhile c s (s.accessed c q p) := .modCtx (accessed_worked ..)
        have copied {x : Ctx} (h : ((s.accessed c q p).ctx c).copyBefore q p = some x) :
            Meanwhile c s ((s.accessed c q p).setCtx c x) := used.trans (.setCtx (copyBefore_worked h))
        simp only [ready]
        split
        · split
          · split
            · next h => exact .snd (copied h)
            · exact .snd used
          · exact .snd used
        · split
          · next h => exact .snd (copied h)
          · exact .snd used
      clear_value ready
      have helds (k : Fin 12) (s : State) : Meanwhile c s (held k s).2 := by
        simp only [held]
        split
        · exact .refl c s
        · split
          · exact .refl c s
          · exact readied s
      clear_value held
      split
      · exact same
      · split
        · split
          · exact fetch ..
          · extract_lets fr
            have asks : Meanwhile c s fr.2 := by
              simp only [fr]
              split
              · exact same
              · exact getFrame_meanwhile ..
            split
            · exact asks
            · exact asks
            · exact (asks.thenModCtx (Ctx.modPage_worked ..)).trans (helds _ _)
        · exact fetch ..
        · split <;> exact same
        · exact helds _ _

end Sys2Proof.Machine

namespace Sys2Proof.Machine

variable {c : Fin 8} {s t u : State}

/-! #### Credits (R306, R307) -/

/-- Only the fabric differs: frames that queue and leave, and the accounts of credits. -/
def Credited (s u : State) : Prop :=
  u = { s with ports := u.ports, held := u.held, given := u.given, out := u.out, time := u.time }

theorem Credited.refl (s : State) : Credited s s := rfl

theorem Credited.trans (h : Credited s t) (g : Credited t u) : Credited s u := by
  unfold Credited at h g ⊢
  rw [g, h]

theorem Credited.foldl {α : Type} {f : State → α → State} (hf : ∀ s a, Credited s (f s a)) (l : List α) (s : State) :
    Credited s (l.foldl f s) := by
  induction l generalizing s with
  | nil => exact rfl
  | cons a l ih => exact (hf s a).trans (ih _)

theorem Credited.meanwhile (h : Credited s u) (c : Fin 8) : Meanwhile c s u := .of_frame (by rw [h])

theorem Credited.ctxs (h : Credited s u) : u.ctxs = s.ctxs := by rw [h]

theorem enqueue_credited (s : State) (p : Option (Fin 64)) (f : Frame) (k : Option (Nat × Nat × Nat)) (d : Option (Fin 8)) (w : Bool) :
    Credited s (s.enqueue p f k d w) := by
  obtain ⟨pt, a, o, tm, h⟩ := enqueue_eq s p f k d w
  rw [h]
  rfl

theorem grant_credited (s : State) (p : Option (Fin 64)) (c : Fin 8) (peer : Half) (ks : List ((Nat × Nat × Nat) × Nat)) :
    Credited s (s.grant p c peer ks) := by
  unfold State.grant
  extract_lets find s1 pay
  have accounts : Credited s s1 := by
    refine Credited.foldl (fun s a => ?_) _ _
    dsimp only
    split <;> exact rfl
  split
  · exact accounts
  · exact accounts.trans (enqueue_credited ..)

theorem partnerCredits_credited (s : State) (c : Fin 8) (q : Scroll) (ms : List (EdgeDesc × Nat × Nat)) :
    Credited s (s.partnerCredits c q ms) := by
  unfold State.partnerCredits
  split
  · exact .refl s
  · exact .foldl (fun s a => grant_credited ..) _ _

theorem stepCredits_credited (s : State) (c : Fin 8) (q : Scroll) : Credited s (s.stepCredits c q) := by
  unfold State.stepCredits
  extract_lets s1 s2 s3 chain
  have data : Credited s s1 := by
    refine .foldl (fun s e => ?_) _ _
    dsimp only
    split
    · unfold State.grantData
      dsimp only
      split
      · exact .refl s
      · exact grant_credited ..
    · exact .refl s
  have partner : Credited s1 s2 := partnerCredits_credited ..
  have reduction : Credited s2 s3 := .foldl (fun s l => .foldl (fun s e => grant_credited ..) _ _) _ _
  exact ((data.trans partner).trans reduction).trans (.foldl (fun s e => grant_credited ..) _ _)

/-! #### Phases (R386, R387) -/

/-- Only the phases of context `c` differ that are released, the power budget and the action log. -/
structure Phased (c : Fin 8) (s u : State) : Prop where
  frame : u = { s with ctxs := u.ctxs, budget := u.budget, actions := u.actions, actionCount := u.actionCount }
  ctx : u.ctx c = { s.ctx c with released := (u.ctx c).released }
  others : ∀ d, d ≠ c → u.ctx d = s.ctx d

theorem Phased.refl (c : Fin 8) (s : State) : Phased c s s := ⟨rfl, rfl, fun _ _ => rfl⟩

theorem Phased.trans (h : Phased c s t) (g : Phased c t u) : Phased c s u where
  frame := by rw [g.frame, h.frame]
  ctx := by rw [g.ctx, h.ctx]
  others d hd := (g.others d hd).trans (h.others d hd)

theorem Phased.meanwhile (h : Phased c s u) : Meanwhile c s u where
  frame := by rw [h.frame]
  ctx := by rw [h.ctx]; exact rfl
  others := h.others
  cause := by rw [h.frame]; rfl

theorem releaseReady_phased (c : Fin 8) (q : Scroll) (ps : List Phase) (fit : Bool) (s : State) :
    Phased c s (State.releaseReady c q ps fit s) := by
  induction ps generalizing fit s with
  | nil => exact .refl c s
  | cons p ps ih =>
    rw [State.releaseReady]
    split
    · exact ih fit s
    · extract_lets fit'
      refine Phased.trans ?_ (ih fit' _)
      split
      · unfold State.releasePhase
        extract_lets past s1
        have logged : Phased c s s1 := by simp only [s1]; split <;> exact ⟨rfl, rfl, fun _ _ => rfl⟩
        exact logged.trans ⟨rfl, by rw [ctx_modCtx_eq]; rfl, fun d hd => ctx_modCtx_ne _ _ hd⟩
      · unfold State.deferPhase
        split
        · exact .refl c s
        · exact ⟨rfl, rfl, fun _ _ => rfl⟩

theorem releasePhases_phased (s : State) (c : Fin 8) : Phased c s (s.releasePhases c) := by
  unfold State.releasePhases
  split
  · exact .refl c s
  · exact releaseReady_phased ..

/-! #### The pre-pass of reduction (R283, R288 to R291) -/

theorem modRed_meanwhile (s : State) (c : Fin 8) (l : Fin 2) (entry : Nat) (f : RedLevel → RedLevel) :
    Meanwhile c s (s.modRed c l entry f) := .modCtx rfl

theorem redFrame_meanwhile (s : State) (c : Fin 8) (t : Target) (l : Fin 2) (entry ty : Nat) (dest : Half) (sl b : Nat)
    (pay : List Byte) : Meanwhile c s (s.redFrame c t l entry ty dest sl b pay) := by
  unfold State.redFrame
  exact .ite (.refl c s) (.enqueue _ _ _ _ _ _)

theorem settled_meanwhile (s : State) (c : Fin 8) (q : Scroll) (t : Target) (l : Fin 2) (entry : Nat) (dest : Half) (b : Nat) :
    Meanwhile c s (s.settled c q t l entry dest b) := .ite (redFrame_meanwhile ..) (.refl c s)

theorem recordSkip_meanwhile (s : State) (c : Fin 8) (l : Fin 2) (entry b : Nat) (pre : Bool) (who : Half) :
    Meanwhile c s (s.recordSkip c l entry b pre who) := by
  unfold State.recordSkip
  extract_lets first s1 s2
  have counted : Meanwhile c s s1 := .trans (t := s.cause Reg.grdCause 0) (.setReg _ _ (by decide)) (.setReg _ _ (by decide))
  have placed : Meanwhile c s1 s2 := by
    refine .ite ?_ (.refl c s1)
    refine .trans ?_ (.setReg _ _ (by decide))
    refine .trans ?_ (.setReg _ _ (by decide))
    exact .setReg _ _ (by decide)
  exact (counted.trans placed).thenModCtx rfl

theorem dropSwitched_meanwhile (s : State) (c : Fin 8) (q : Scroll) (l : Fin 2) (t : Target) (entry b : Nat) (pre : Bool) :
    Meanwhile c s (s.dropSwitched c q l t entry b pre) := by
  unfold State.dropSwitched
  extract_lets r up gone s1
  have dropped : Meanwhile c s s1 :=
    .foldl (fun s k => (settled_meanwhile s c q t l entry up k).trans (.setReg _ _ (by decide))) _ _
  exact dropped.trans (modRed_meanwhile ..)

theorem incoming_meanwhile (s : State) (c : Fin 8) (q : Scroll) (l : Fin 2) (t : Target) (entry b : Nat) (pre upFirst : Bool) :
    Meanwhile c s (s.incoming c q l t entry b pre upFirst).2 := by
  unfold State.incoming
  extract_lets r up reg byp sw notice forced covers s1 s2
  have switched : Meanwhile c s s2 := by
    refine .ite ?_ (.refl c s)
    exact ((modRed_meanwhile ..).trans (recordSkip_meanwhile ..)).trans (dropSwitched_meanwhile ..)
  clear_value s2 s1 covers forced sw reg byp
  split
  · exact .refl c s
  · split
    · exact .refl c s
    · split
      · exact switched
      · split <;> exact switched

theorem sendPrepass_meanwhile (s : State) (c : Fin 8) (q : Scroll) (l : Fin 2) (t : Target) (entry sl b e : Nat) :
    Meanwhile c s (s.sendPrepass c q l t entry sl b e) := by
  unfold State.sendPrepass
  extract_lets r n first
  split
  extract_lets s1
  have sent : Meanwhile c s s1 := redFrame_meanwhile ..
  exact .ite (.refl c s) (.ite (sent.trans (modRed_meanwhile ..)) sent)

theorem prepassOne_meanwhile {q : Scroll} {l : Fin 2} {e : Target} {entry : Nat} (h : s.prepassOne c q l e entry = some u) :
    Meanwhile c s u := by
  unfold State.prepassOne at h
  extract_lets x r b n up at h
  split at h
  · cases h
  · split at h
    · obtain rfl := Option.some.inj h
      exact modRed_meanwhile ..
    · split at h
      · cases h
      · extract_lets owner place nat finish d at h
        have finished (s u : State) (a : Nat) (hu : finish s a = some u) : Meanwhile c s u := by
          simp only [finish, Option.some.injEq] at hu
          rw [← hu]
          have next := modRed_meanwhile s c l entry fun r => { r with
            preNext := b + 1, pre := r.pre.erase b, preByp := r.preByp.erase b }
          split
          · refine Meanwhile.trans ?_ (settled_meanwhile ..)
            exact next.trans (.ite (modRed_meanwhile ..) (sendPrepass_meanwhile ..))
          · exact next.trans (.ite (modRed_meanwhile ..) (sendPrepass_meanwhile ..))
        have copy : Meanwhile c s d.2 := incoming_meanwhile ..
        clear_value finish d
        split at h
        · obtain rfl := Option.some.inj h
          exact modRed_meanwhile ..
        · split at h
          · cases h
          · split at h
            · exact finished _ _ _ h
            · split at h
              · cases h
              · exact copy.trans (finished _ _ _ h)
              · obtain ⟨v, hv, rfl⟩ := Option.map_eq_some_iff.mp h
                exact (copy.trans (finished _ _ _ hv)).trans (.ite (settled_meanwhile ..) (.refl c v))

theorem prepassRun_meanwhile (c : Fin 8) (q : Scroll) (l : Fin 2) (t : Target) (entry n : Nat) (s : State) :
    Meanwhile c s (State.prepassRun c q l t entry n s) := by
  induction n generalizing s with
  | zero => exact .refl c s
  | succ n ih =>
    rw [State.prepassRun]
    split
    · next h => exact (prepassOne_meanwhile h).trans (ih _)
    · exact .refl c s

theorem prepass_meanwhile (s : State) (c : Fin 8) : Meanwhile c s (s.prepass c) := by
  unfold State.prepass
  split
  · exact .refl c s
  · refine .ite (.refl c s) (.foldl (fun s e => .ite ?_ (.foldl (fun s l => .ite (.refl c s) (prepassRun_meanwhile ..)) _ _)) _ _)
    exact .foldl (fun s p => touchRead_meanwhile ..) _ _

theorem prepass_none {q : Scroll} (hq : (s.ctx c).scroll = some q) (ht : q.targets = []) : s.prepass c = s := by
  have found : s.scroll? c = some q := hq
  simp only [State.prepass, found, ht, List.zipIdx_nil, List.foldl_nil, ite_self]

/-! #### Versions (R267 to R270) -/

theorem passEnd_meanwhile (s : State) (c : Fin 8) (side tensor : Nat) (o : Obtain) :
    Meanwhile c s (s.passEnd c side tensor o).1 := by
  unfold State.passEnd
  extract_lets late o1 first s1 s2
  have counted : Meanwhile c s s1 := .trans (t := s.cause Reg.wstCause 1) (.setReg _ _ (by decide)) (.setReg _ _ (by decide))
  have placed : Meanwhile c s1 s2 := by
    refine .ite ?_ (.refl c s1)
    refine .trans ?_ (.setReg _ _ (by decide))
    exact .setReg _ _ (by decide)
  split
  · exact counted.trans placed
  · exact .refl c s

theorem startBuild_meanwhile (s : State) (c : Fin 8) (q : Scroll) (b : Fin 2) (v : Word) (digest : List Byte) :
    Meanwhile c s (s.startBuild c q b v digest) := by
  unfold State.startBuild
  extract_lets old fresh s1
  have building : Meanwhile c s s1 := .modCtx rfl
  refine building.trans ?_
  generalize ({ version := v, tensor := manifestTensor, shard := 0 } : Obtain) = o
  unfold State.manifestTry
  extract_lets s2
  have emptied : Meanwhile c s1 s2 := .modCtx rfl
  have kept (x : Ctx) (o : Obtain) : x.Worked (x.setObtain o) := rfl
  split
  · exact (emptied.trans (passEnd_meanwhile ..)).thenSetCtx (kept ..)
  · exact (emptied.thenSetCtx (kept ..)).trans (.enqueue _ _ _ _ _ _)

theorem bankFreed_meanwhile (s : State) (c : Fin 8) : Meanwhile c s (s.bankFreed c) := by
  unfold State.bankFreed
  extract_lets s1 x
  have freed : Meanwhile c s s1 := .modCtx rfl
  split
  · split
    · exact freed
    · split
      · exact freed.trans (startBuild_meanwhile ..)
      · exact freed
  · exact freed

theorem abandonTarget_worked (x : Ctx) (v : Word) : x.Worked (x.abandonTarget v) := by
  unfold Ctx.abandonTarget
  split
  · exact .refl x
  · split
    · split
      · exact .refl x
      · exact rfl
    · exact .refl x

theorem switchTo_meanwhile (s : State) (c : Fin 8) (q : Scroll) (v : Word) (digest : List Byte) :
    Meanwhile c s (s.switchTo c q v digest).2 := by
  have targeted (y : Ctx) (p : Option Word) (d : List Byte) (n : Bool) :
      y.Worked { y with pending := p, pendDigest := d, pendUnbuilt := n } := rfl
  have abandoned (p : Option Word) (n : Bool) : Meanwhile c s (s.modCtx c fun x =>
      { x.abandonTarget v with pending := p, pendDigest := digest, pendUnbuilt := n }) :=
    .modCtx ((abandonTarget_worked ..).trans (targeted ..))
  unfold State.switchTo
  extract_lets x s1
  have waits : Meanwhile c s s1 := (abandoned (some v) true).trans (bankFreed_meanwhile ..)
  split
  · split
    · exact .snd (.setReg _ _ (by decide))
    · exact .snd ((abandoned _ false).trans (bankFreed_meanwhile ..))
  · split
    · exact .snd waits
    · split
      · exact .snd (waits.trans (startBuild_meanwhile ..))
      · exact .snd waits

theorem unpinVersion_meanwhile (s : State) (c : Fin 8) : Meanwhile c s (s.unpinVersion c) := by
  unfold State.unpinVersion
  extract_lets x v s1
  have freed : Meanwhile c s s1 := .trans (t := s.modCtx c fun x => { x with banks := x.banks.map fun b => { b with stepPin := false } })
    (.modCtx rfl) (bankFreed_meanwhile ..)
  split
  · exact .ite (freed.trans (switchTo_meanwhile ..)) freed
  · exact freed

end Sys2Proof.Machine

namespace Sys2Proof.Machine

variable {c : Fin 8} {s t u : State} {q : Scroll}

/-! #### A tile's step-end write-back (R118) -/

theorem readBytes_writeBytes_out (bs : List Byte) (m : Mem) {a b : Nat} (n : Nat) (h : a + n ≤ b ∨ b + bs.length ≤ a) :
    Memory.readBytes (Memory.writeBytes m b bs) a n = Memory.readBytes m a n := by
  induction n generalizing a with
  | zero => rfl
  | succ n ih => rw [Memory.readBytes, Memory.readBytes, Memory.read_writeBytes_out bs m (by omega), ih (by omega)]

@[simp] theorem readBytes_length (m : Mem) (a n : Nat) : (Memory.readBytes m a n).length = n := by
  induction n generalizing a with
  | zero => rfl
  | succ n ih => rw [Memory.readBytes, List.length_cons, ih]

/-- Lines of 64 bytes written one after the other: each then stands at its place. -/
theorem readBytes_writeLines {line : Nat → List Byte} (hl : ∀ l, (line l).length = 64) (w : Nat) (ls : List Nat) (m : Mem) {l : Nat}
    (h : l ∈ ls) : Memory.readBytes (ls.foldl (fun m l => Memory.writeBytes m (w + 64 * l) (line l)) m) (w + 64 * l) 64 = line l := by
  have apart (ls : List Nat) (m : Mem) (hn : l ∉ ls) :
      Memory.readBytes (ls.foldl (fun m l => Memory.writeBytes m (w + 64 * l) (line l)) m) (w + 64 * l) 64 =
        Memory.readBytes m (w + 64 * l) 64 := by
    induction ls generalizing m with
    | nil => rfl
    | cons k ls ih =>
      obtain ⟨hk, hn⟩ := not_or.mp (mt List.mem_cons.mpr hn)
      rw [List.foldl_cons, ih _ hn, readBytes_writeBytes_out _ _ _ (by rw [hl]; omega)]
  induction ls generalizing m with
  | nil => cases h
  | cons k ls ih =>
    by_cases hm : l ∈ ls
    · exact ih _ hm
    · obtain rfl : l = k := (List.mem_cons.mp h).resolve_right hm
      rw [List.foldl_cons, apart ls _ hm]
      have here := Memory.readBytes_writeBytes (line l) m (w + 64 * l)
      rwa [hl] at here

/-- The lines of a tile put into its spill window (R118). -/
def Ctx.putLines (x : Ctx) (q : Scroll) (w : Nat) (y : Tile) : Ctx :=
  y.writeLines.foldl (fun (k : Ctx) l => k.putLine q (w + 64 * l) (Memory.readBytes y.pad (64 * l) 64)) x

theorem Ctx.putLines_worked (x : Ctx) (q : Scroll) (w : Nat) (y : Tile) : x.Worked (x.putLines q w y) := by
  have stored (x : Ctx) (m : Mem) (b e : NatSet) : x.Worked { x with mem := m, badLines := b, eccLines := e } := rfl
  unfold Ctx.putLines
  generalize y.writeLines = ls
  induction ls generalizing x with
  | nil => exact .refl x
  | cons l ls ih => exact ((Ctx.modPage_worked ..).trans (stored ..)).trans (ih _)

theorem Ctx.putLines_mem (x : Ctx) (q : Scroll) (w : Nat) (y : Tile) : (x.putLines q w y).mem =
    y.writeLines.foldl (fun m l => Memory.writeBytes m (w + 64 * l) (Memory.readBytes y.pad (64 * l) 64)) x.mem := by
  unfold Ctx.putLines
  generalize y.writeLines = ls
  induction ls generalizing x with
  | nil => rfl
  | cons l ls ih => exact ih _

theorem writeBackTile_eq {t : TileId} {w : Nat} {s2 : State} (hw : q.window t = some w) (ht : s.touchWrite c q none w = (.ok, s2)) :
    ∃ s3, OutOnly s2 s3 ∧ s.writeBackTile c q t = (true, s3.modCtx c fun k => k.putLines q w (s2.tile t)) := by
  refine ⟨_, OutOnly.foldl (fun s l => backInvalidate_outOnly s c (w + 64 * l) 64) (s2.tile t).writeLines s2, ?_⟩
  unfold State.writeBackTile
  rw [hw]
  simp only [ht]
  rfl

theorem writeBackTile_meanwhile (s : State) (c : Fin 8) (q : Scroll) (t : TileId) : Meanwhile c s (s.writeBackTile c q t).2 := by
  rcases hw : q.window t with _ | w
  · rw [State.writeBackTile, hw]
    exact .refl c s
  · rcases ht : s.touchWrite c q none w with ⟨r, s2⟩
    have touched : Meanwhile c s s2 := by
      have h := touchWrite_meanwhile s c q none w
      rwa [ht] at h
    cases r with
    | ok =>
      obtain ⟨s3, out, e⟩ := writeBackTile_eq hw ht
      rw [e]
      exact .snd ((touched.trans (.outOnly out)).thenModCtx (Ctx.putLines_worked ..))
    | stop r => rw [State.writeBackTile, hw]; simp only [ht]; exact touched
    | fail n => rw [State.writeBackTile, hw]; simp only [ht]; exact touched

/-- Once its window can be written, a tile's lines stand there. -/
theorem writeBackTile_lines {t : TileId} {w : Nat} {s2 : State} (hw : q.window t = some w)
    (ht : s.touchWrite c q none w = (.ok, s2)) : (s.writeBackTile c q t).1 = true ∧ ∀ l ∈ (s.tile t).writeLines,
      Memory.readBytes ((s.writeBackTile c q t).2.ctx c).mem (w + 64 * l) 64 = Memory.readBytes (s.tile t).pad (64 * l) 64 := by
  have touched := touchWrite_meanwhile s c q none w
  rw [ht] at touched
  obtain ⟨s3, out, e⟩ := writeBackTile_eq hw ht
  refine ⟨by rw [e], fun l hl => ?_⟩
  rw [e]
  simp only [ctx_modCtx_eq, Ctx.putLines_mem, touched.tile]
  exact readBytes_writeLines (fun l => readBytes_length _ _ _) w _ _ hl

/-! #### Completions of ring commands (R328) -/

/-- Only completions have been recorded: commands that completed have left their rings. -/
structure Recorded (s u : State) : Prop where
  frame : u = { s with rings := u.rings, out := u.out, hostWait := u.hostWait, regs := u.regs }
  cmds : ∀ r : Fin 9, (u.rings[r]).cmds.Sublist (s.rings[r]).cmds
  reg : ∀ o, o ≠ Reg.cmdCause → o ≠ Reg.cmdLast → u.reg o = s.reg o

theorem Recorded.refl (s : State) : Recorded s s := ⟨rfl, fun _ => .refl _, fun _ _ _ => rfl⟩

theorem Recorded.trans (h : Recorded s t) (g : Recorded t u) : Recorded s u where
  frame := by rw [g.frame, h.frame]
  cmds r := (g.cmds r).trans (h.cmds r)
  reg o h1 h2 := (g.reg o h1 h2).trans (h.reg o h1 h2)

theorem Recorded.ctx (h : Recorded s u) (d : Fin 8) : u.ctx d = s.ctx d := by rw [h.frame]; rfl

theorem Recorded.of_modRing {r : Fin 9} {f : Ring → Ring} (h : (f s.rings[r]).cmds.Sublist (s.rings[r]).cmds) :
    Recorded s (s.modRing r f) where
  frame := rfl
  cmds k := by
    by_cases hk : k = r
    · subst hk; rwa [modRing_rings_eq]
    · rw [modRing_rings_ne _ _ hk]
  reg _ _ _ := rfl

theorem Recorded.setReg (s : State) {o : Nat} (v : Nat) (h : o = Reg.cmdCause ∨ o = Reg.cmdLast) : Recorded s (s.setReg o v) where
  frame := rfl
  cmds _ := .refl _
  reg k h1 h2 := s.reg_setReg_ne v (by rcases h with rfl | rfl <;> assumption)

theorem finish_recorded (s : State) (r : Fin 9) (k : Cmd) (status detail : Nat) : Recorded s (s.finish r k status detail) := by
  have erased : Recorded s (s.modRing r fun x => { x with cmds := x.cmds.erase k }) := .of_modRing List.erase_sublist
  unfold State.finish
  generalize s.modRing r (fun x => { x with cmds := x.cmds.erase k }) = s1 at erased
  refine erased.trans ?_
  unfold State.record
  extract_lets n s2 s3 s4
  have written : Recorded s1 s2 := by
    simp only [s2, State.hostWrite]
    split <;> exact ⟨rfl, fun _ => .refl _, fun _ _ _ => rfl⟩
  have counted : Recorded s2 s3 := .of_modRing (.refl _)
  have caused : Recorded s3 s4 := by
    simp only [s4, State.causeIf]
    split
    · exact .setReg _ _ (.inl rfl)
    · exact .refl s3
  split
  · exact (written.trans counted).trans caused
  · exact ((written.trans counted).trans caused).trans (.setReg _ _ (.inr rfl))

theorem finishAll_recorded (s : State) (r : Fin 9) (p : Cmd → Bool) (status detail : Nat) :
    Recorded s (s.finishAll r p status detail) := by
  unfold State.finishAll
  generalize (s.rings[r]).cmds.filter p = l
  induction l generalizing s with
  | nil => exact .refl s
  | cons k l ih => exact (finish_recorded ..).trans (ih _)

/-! #### The boundary (R335, R338, R446) -/

/-- A context once its STEP_START has completed (R338). -/
def Ctx.stepsEnded (x : Ctx) : Ctx :=
  { x with
    starting := false, hostHold := false, inStep := false, rerunning := false, waitVersion := false
    state := if x.state = .running ∨ x.state = .held then .loaded else x.state }

/-- Commands that completed have left their rings; of the contexts only `c` differs, and no cut comes due; tiles and the
replay ring stand. -/
structure Bounded (c : Fin 8) (s u : State) : Prop where
  tiles : u.tiles = s.tiles
  replayHead : u.replayHead = s.replayHead
  cmds : ∀ r : Fin 9, (u.rings[r]).cmds.Sublist (s.rings[r]).cmds
  ctx : u.ctx c = { s.ctx c with
    rekeyReq := (u.ctx c).rekeyReq, rekeying := (u.ctx c).rekeying, keySel := (u.ctx c).keySel
    placeKeys := (u.ctx c).placeKeys, starting := (u.ctx c).starting, hostHold := (u.ctx c).hostHold
    inStep := (u.ctx c).inStep, rerunning := (u.ctx c).rerunning, waitVersion := (u.ctx c).waitVersion
    state := (u.ctx c).state }
  others : ∀ d, d ≠ c → u.ctx d = s.ctx d
  step : (s.ctx c).inStep = false → (u.ctx c).inStep = false

theorem Bounded.trans (h : Bounded c s t) (g : Bounded c t u) : Bounded c s u where
  tiles := g.tiles.trans h.tiles
  replayHead := g.replayHead.trans h.replayHead
  cmds r := (g.cmds r).trans (h.cmds r)
  ctx := by rw [g.ctx, h.ctx]
  others d hd := (g.others d hd).trans (h.others d hd)
  step hs := g.step (h.step hs)

theorem Bounded.due (h : Bounded c s u) (d : Fin 8) : (u.ctx d).ckpt.due = (s.ctx d).ckpt.due := by
  by_cases hd : d = c
  · rw [hd, h.ctx]
  · rw [h.others d hd]

theorem Bounded.clear (h : Bounded c s u) (hc : Clear s) : Clear u := by
  obtain ⟨begun, due⟩ := hc
  refine ⟨fun r => List.all_eq_true.mpr fun k hk => ?_, fun d => (h.due d).trans (due d)⟩
  exact List.all_eq_true.mp (begun r) k ((h.cmds r).subset hk)

theorem Recorded.bounded (h : Recorded s u) (c : Fin 8) : Bounded c s u where
  tiles := by rw [h.frame]
  replayHead := by rw [h.frame]
  cmds := h.cmds
  ctx := by rw [h.ctx]
  others d _ := h.ctx d
  step := by rw [h.ctx]; exact id

/-- The end of the STEP_START in progress: its completions, and the context it leaves. -/
theorem endSteps_eq (s : State) (c : Fin 8) (status : Nat) :
    ∃ u, Recorded s u ∧ s.endSteps c status = (u.forgetDeferred c).modCtx c Ctx.stepsEnded :=
  ⟨_, (finishAll_recorded s (ringOf c) Cmd.isStep status _).trans (finishAll_recorded _ (ringOf c) Cmd.isHold Status.aborted _), rfl⟩

theorem endSteps_bounded (s : State) (c : Fin 8) (status : Nat) :
    Bounded c s (s.endSteps c status) ∧ (s.endSteps c status).ctx c = (s.ctx c).stepsEnded := by
  obtain ⟨v, recorded, e⟩ := endSteps_eq s c status
  have here : (v.forgetDeferred c).ctx c = s.ctx c := recorded.ctx c
  have result : (s.endSteps c status).ctx c = (s.ctx c).stepsEnded := by rw [e, ctx_modCtx_eq, here]
  refine ⟨⟨?_, ?_, fun r => ?_, by rw [result]; rfl, fun d hd => ?_, fun _ => by rw [result]; rfl⟩, result⟩
  · rw [e]; exact (recorded.bounded c).tiles
  · rw [e]; exact (recorded.bounded c).replayHead
  · rw [e]; exact recorded.cmds r
  · rw [e, ctx_modCtx_ne _ _ hd]; exact recorded.ctx d

theorem settleState_bounded (s : State) (c : Fin 8) : Bounded c s (s.modCtx c Ctx.settleState) where
  tiles := rfl
  replayHead := rfl
  cmds _ := .refl _
  ctx := by rw [ctx_modCtx_eq, Ctx.settleState]; split <;> rfl
  others _ hd := ctx_modCtx_ne _ _ hd
  step hs := by rw [ctx_modCtx_eq, Ctx.settleState]; split <;> exact hs

/-- A re-key that waits starts at the boundary, with no other effect there (R241). -/
structure Rekeyed (c : Fin 8) (s u : State) : Prop where
  frame : u = { s with ctxs := u.ctxs, actions := u.actions, actionCount := u.actionCount, freeCtr := u.freeCtr }
  ctx : u.ctx c = { s.ctx c with
    rekeyReq := (u.ctx c).rekeyReq, rekeying := (u.ctx c).rekeying, keySel := (u.ctx c).keySel, placeKeys := (u.ctx c).placeKeys }
  others : ∀ d, d ≠ c → u.ctx d = s.ctx d

theorem startRekey_rekeyed (s : State) (c : Fin 8) : Rekeyed c s (s.startRekey c) := by
  unfold State.startRekey
  split
  · exact ⟨rfl, rfl, fun _ _ => rfl⟩
  · exact ⟨rfl, by rw [ctx_modCtx_eq]; rfl, fun d hd => ctx_modCtx_ne _ _ hd⟩

theorem Rekeyed.bounded (h : Rekeyed c s u) : Bounded c s u where
  tiles := by rw [h.frame]
  replayHead := by rw [h.frame]
  cmds r := by rw [h.frame]
  ctx := by rw [h.ctx]
  others := h.others
  step hs := by rw [h.ctx]; exact hs

theorem Rekeyed.degraded (h : Rekeyed c s u) : u.degraded = s.degraded := by
  have stale (d : Fin 8) : (u.ctx d).stale = (s.ctx d).stale := by
    by_cases hd : d = c
    · rw [hd, h.ctx]
    · rw [h.others d hd]
  have fret : u.fret = s.fret := by rw [h.frame]
  simp only [State.degraded, stale, fret]

theorem capoAt_none (h : (s.ctx c).ckpt.due = none) : s.capoAt c = s := by
  unfold State.capoAt
  rw [h]
  split
  · next hd => cases hd
  · rfl

/-- The boundary where no cut is due. -/
theorem boundary_eq (h : (s.ctx c).ckpt.due = none) : s.boundary c =
    let s := s.startRekey c
    if !(s.ctx c).starting then s
    else if s.degraded then s.endSteps c Status.aborted
    else
      let waits := s.rings[ringOf c].cmds.filter Cmd.isHold
      let s := s.finishAll (ringOf c) Cmd.isHold Status.ok
      let s := if waits.isEmpty then s else s.modCtx c fun x => { x with hostHold := true }
      if (waits.any fun k => bitAt (k.entry.par 0 1) 0) || (s.ctx c).stepsLeft == some 0 then s.endSteps c Status.ok
      else s.modCtx c Ctx.settleState := by
  have due : ((s.startRekey c).ctx c).ckpt.due = none := by rw [(startRekey_rekeyed s c).ctx]; exact h
  rw [State.boundary, capoAt_none due]

theorem boundary_bounded (h : (s.ctx c).ckpt.due = none) : Bounded c s (s.boundary c) := by
  rw [boundary_eq h]
  extract_lets s1 waits s2 s3
  have key : Bounded c s s1 := (startRekey_rekeyed s c).bounded
  have finished : Bounded c s1 s2 := (finishAll_recorded ..).bounded c
  have held : Bounded c s2 s3 := by
    simp only [s3]
    split
    · exact (Recorded.refl s2).bounded c
    · exact ⟨rfl, rfl, fun _ => .refl _, by rw [ctx_modCtx_eq], fun d hd => ctx_modCtx_ne _ _ hd,
        fun hs => by rw [ctx_modCtx_eq]; exact hs⟩
  split
  · exact key
  · split
    · exact key.trans (endSteps_bounded ..).1
    · split
      · exact ((key.trans finished).trans held).trans (endSteps_bounded ..).1
      · exact ((key.trans finished).trans held).trans (settleState_bounded ..)

/-- The boundary of a RUNNING context without a cut due and without a HOLD that waits: LOADED after the last step, and
otherwise HELD or RUNNING by its holds. -/
theorem boundary_state (h : (s.ctx c).ckpt.due = none) (hs : (s.ctx c).starting = true) (hg : s.degraded = false)
    (hh : (s.rings[ringOf c]).cmds.filter Cmd.isHold = []) (hr : (s.ctx c).state = .running) :
    ((s.boundary c).ctx c).state = if (s.ctx c).stepsLeft = some 0 then .loaded
      else if (s.ctx c).hostHold || (s.ctx c).capoHold || (s.ctx c).faultHold then .held else .running := by
  have key := startRekey_rekeyed s c
  have degraded := key.degraded
  have same := key.ctx
  have rings : (s.startRekey c).rings = s.rings := by rw [key.frame]
  rw [boundary_eq h]
  generalize s.startRekey c = s1 at same degraded rings
  have starting : (s1.ctx c).starting = true := by rw [same]; exact hs
  have waits : (s1.rings[ringOf c]).cmds.filter Cmd.isHold = [] := by rw [rings]; exact hh
  have finished : s1.finishAll (ringOf c) Cmd.isHold Status.ok = s1 := by rw [State.finishAll, waits]; rfl
  have left : (s1.ctx c).stepsLeft = (s.ctx c).stepsLeft := by rw [same]
  simp only [starting, degraded, hg, waits, finished, left, Bool.not_true, Bool.false_eq_true, if_false, List.isEmpty_nil, if_true,
    List.any_nil, Bool.false_or, beq_iff_eq]
  split
  · rw [(endSteps_bounded ..).2, Ctx.stepsEnded, same]
    exact if_pos (.inl hr)
  · rw [ctx_modCtx_eq, Ctx.settleState, same]
    exact congrArg Ctx.state (if_pos (.inl hr))

end Sys2Proof.Machine

namespace Sys2Proof.Machine

variable {c : Fin 8} {s t u : State} {q : Scroll}

/-! #### The end of a step (R118, R424) -/

/-- Only the replay ring differs, with the registers and the contexts' own records of what it lost. -/
structure Logged (s u : State) : Prop where
  frame : u = { s with
    ctxs := u.ctxs, out := u.out, regs := u.regs, replayRing := u.replayRing, replayLog := u.replayLog
    replayPos := u.replayPos, replayHead := u.replayHead }
  ctx : ∀ d, u.ctx d = { s.ctx d with ckpt := (u.ctx d).ckpt }
  due : ∀ d, (u.ctx d).ckpt.due = (s.ctx d).ckpt.due

theorem Logged.trans (h : Logged s t) (g : Logged t u) : Logged s u where
  frame := by rw [g.frame, h.frame]
  ctx d := by rw [g.ctx, h.ctx]
  due d := (g.due d).trans (h.due d)

theorem Logged.of_ctxs (hf : u = { s with
    out := u.out, regs := u.regs, replayRing := u.replayRing, replayLog := u.replayLog, replayPos := u.replayPos
    replayHead := u.replayHead }) : Logged s u where
  frame := by rw [hf]
  ctx _ := by rw [hf]; rfl
  due _ := by rw [hf]; rfl

theorem Logged.modCkpt (s : State) (c : Fin 8) (f : Ctx → Ckpt) (hf : ∀ x, (f x).due = x.ckpt.due) :
    Logged s (s.modCtx c fun x => { x with ckpt := f x }) where
  frame := rfl
  ctx d := by
    by_cases hd : d = c
    · rw [hd, ctx_modCtx_eq]
    · rw [ctx_modCtx_ne _ _ hd]
  due d := by
    by_cases hd : d = c
    · rw [hd, ctx_modCtx_eq]; exact hf _
    · rw [ctx_modCtx_ne _ _ hd]

theorem Logged.foldl {α : Type} {f : State → α → State} (hf : ∀ s a, Logged s (f s a)) (l : List α) (s : State) :
    Logged s (l.foldl f s) := by
  induction l generalizing s with
  | nil => exact .of_ctxs rfl
  | cons a l ih => exact (hf s a).trans (ih _)

theorem causeIf_logged (s : State) (b : Bool) (o i : Nat) : Logged s (s.causeIf b o i) := by
  unfold State.causeIf
  split <;> exact .of_ctxs rfl

theorem invalidate_outOnly (s : State) (kind : Fin 4) (c : Fin 8) (a n : Nat) : OutOnly s (s.invalidate kind c a n) := by
  unfold State.invalidate
  refine OutOnly.foldl (fun s w => OutOnly.foldl (fun s b => ?_) _ _) _ _
  split <;> exact rfl

theorem appendRecord_logged (s : State) (c : Fin 8) (q : Scroll) : Logged s (s.appendRecord c q) := by
  unfold State.appendRecord
  split
  next bs cut _ =>
  extract_lets len pos hit lost s1 s2 s3 s4
  have invalid : OutOnly s s1 := invalidate_outOnly ..
  have written : Logged s s2 := .of_ctxs (by simp only [s2]; rw [invalid])
  have missed : Logged s2 s3 :=
    Logged.foldl (fun s (r : RecPlace) => .modCkpt s r.ctx (fun x => { x.ckpt with replayLost := true }) fun _ => rfl) _ _
  have caused : Logged s3 s4 := causeIf_logged ..
  refine (((written.trans missed).trans caused).trans (causeIf_logged s4 cut Reg.rplCause 1)).trans ?_
  exact .modCkpt _ c (fun x => { x.ckpt with area := { x.ckpt.area with update := 0 } }) fun _ => rfl

/-- The replay ring's head moves on by the record (R424). -/
theorem appendRecord_head (s : State) (c : Fin 8) (q : Scroll) :
    (s.appendRecord c q).replayHead = s.replayHead + (s.replayRecord c q).1.length := by
  unfold State.appendRecord
  split
  next bs cut hr =>
  extract_lets len pos hit lost s1 s2 s3 s4
  have lost_ (l : List RecPlace) (s : State) : (l.foldl (fun (s : State) r => s.modCtx r.ctx fun x =>
      { x with ckpt := { x.ckpt with replayLost := true } }) s).replayHead = s.replayHead := by
    induction l generalizing s with
    | nil => rfl
    | cons r l ih => exact ih _
  have causes (s : State) (b : Bool) (o i : Nat) : (s.causeIf b o i).replayHead = s.replayHead := by
    unfold State.causeIf; split <;> rfl
  calc (s4.causeIf cut Reg.rplCause 1).replayHead
    _ = s2.replayHead := (causes ..).trans ((causes ..).trans (lost_ lost s2))
    _ = s.replayHead + (s.replayRecord c q).1.length := by
      rw [hr]
      show s1.replayHead + bs.length = _
      rw [show s1 = _ from invalidate_outOnly ..]

/-- A context once its step has ended, before the boundary. -/
def Ctx.stepEnded (x : Ctx) : Ctx :=
  { x with
    inStep := false
    lastDigests := x.reds.mapVals fun _ r => r.digests
    lastStep := x.curStep
    stepNo := x.curStep + 1
    series := x.series.map fun z => { z with index := z.index + 1 }
    stepsRun := x.stepsRun + 1
    stepsDone := x.stepsDone + 1
    stepsLeft := x.stepsLeft.map (· - 1)
    units := [], released := [], replay := none, restored := false, advanced := true }

/-- The record appended, the context's counts on, and its tiles stopped. -/
def State.stepClosed (s : State) (c : Fin 8) (q : Scroll) : State :=
  ((s.appendRecord c q).modCtx c Ctx.stepEnded).modListed c fun t => { t with stopped := true }

/-- The state in which the boundary of a step that has ended is met. -/
def State.stepOver (s : State) (c : Fin 8) (q : Scroll) : State :=
  let s := if (q.sec? 0xD).isSome then (s.stepClosed c q).unpinVersion c else s.stepClosed c q
  { s with hng := { s.hng with stepSince := true, repeats := 0 } }

theorem stepEnd_eq (s : State) (c : Fin 8) (q : Scroll) : s.stepEnd c q = (s.stepOver c q).boundary c := by
  unfold State.stepEnd State.stepOver State.stepClosed Ctx.stepEnded
  rfl

theorem modListed_ctx (s : State) (c : Fin 8) (f : Tile → Tile) (d : Fin 8) : (s.modListed c f).ctx d = s.ctx d := rfl

/-- Stopping the tiles of a context leaves what each has counted. -/
theorem modListed_steps (s : State) (c : Fin 8) (v : TileId) :
    ((s.modListed c fun t => { t with stopped := true }).tile v).steps = (s.tile v).steps := by
  rcases getD_mapVals_cases s.tiles (fun k t => if (s.ctx c).holds (regionOf (finOf 786432 k)) then { t with stopped := true } else t)
    v.1 {} with h | h
  · exact congrArg Tile.steps h
  · refine (congrArg Tile.steps h).trans ?_
    split <;> rfl

/-- A context at the end of its step, but for what a checkpoint keeps besides the cut that is due. -/
structure Ctx.Ended (x y : Ctx) : Prop where
  rest : Ctx.Worked x.stepEnded { y with ckpt := x.ckpt }
  due : y.ckpt.due = x.ckpt.due

theorem stepClosed_spec (s : State) (c : Fin 8) (q : Scroll) :
    (s.stepClosed c q).ctx c = { (s.ctx c).stepEnded with ckpt := ((s.stepClosed c q).ctx c).ckpt } ∧
      (∀ d, ((s.stepClosed c q).ctx d).ckpt.due = (s.ctx d).ckpt.due) ∧
      (∀ d, ((s.stepClosed c q).ctx d).stale = (s.ctx d).stale) ∧ (s.stepClosed c q).rings = s.rings ∧
      (s.stepClosed c q).fret = s.fret ∧ (s.stepClosed c q).replayHead = s.replayHead + (s.replayRecord c q).1.length ∧
      ∀ v, ((s.stepClosed c q).tile v).steps = (s.tile v).steps := by
  have logged := appendRecord_logged s c q
  have head := appendRecord_head s c q
  unfold State.stepClosed
  generalize s.appendRecord c q = s0 at logged head
  have here : (s0.modCtx c Ctx.stepEnded).ctx c = (s0.ctx c).stepEnded := ctx_modCtx_eq ..
  have others (d : Fin 8) (hd : d ≠ c) : (s0.modCtx c Ctx.stepEnded).ctx d = s0.ctx d := ctx_modCtx_ne _ _ hd
  refine ⟨?_, fun d => ?_, fun d => ?_, ?_, ?_, head, fun v => ?_⟩
  · rw [modListed_ctx, here, logged.ctx c]
    rfl
  · rw [modListed_ctx, ← logged.due d]
    by_cases hd : d = c
    · rw [hd, here]; rfl
    · rw [others d hd]
  · rw [modListed_ctx, ← congrArg Ctx.stale (logged.ctx d)]
    by_cases hd : d = c
    · rw [hd, here]; rfl
    · rw [others d hd]
  · show s0.rings = _
    rw [logged.frame]
  · show s0.fret = _
    rw [logged.frame]
  · rw [modListed_steps]
    show (s0.tile v).steps = _
    rw [logged.frame]
    rfl

/-- What the end of a step leaves for the boundary. -/
theorem stepOver_spec (s : State) (c : Fin 8) (q : Scroll) :
    Ctx.Ended (s.ctx c) ((s.stepOver c q).ctx c) ∧ (∀ d, ((s.stepOver c q).ctx d).ckpt.due = (s.ctx d).ckpt.due) ∧
      (s.stepOver c q).rings = s.rings ∧ (s.stepOver c q).degraded = s.degraded ∧
      (s.stepOver c q).replayHead = s.replayHead + (s.replayRecord c q).1.length ∧
      ∀ v, ((s.stepOver c q).tile v).steps = (s.tile v).steps := by
  obtain ⟨ctx, due, stale, rings, fret, head, steps⟩ := stepClosed_spec s c q
  unfold State.stepOver
  generalize s.stepClosed c q = s1 at ctx due stale rings fret head steps
  have unpinned : Meanwhile c s1 (if (q.sec? 0xD).isSome then s1.unpinVersion c else s1) :=
    .ite (unpinVersion_meanwhile ..) (.refl c s1)
  generalize (if (q.sec? 0xD).isSome then s1.unpinVersion c else s1) = s2 at unpinned
  have dues (d : Fin 8) : (s2.ctx d).ckpt.due = (s.ctx d).ckpt.due := (unpinned.due d).trans (due d)
  refine ⟨⟨?_, dues c⟩, dues, unpinned.rings.trans rings, ?_, unpinned.replayHead.trans head, fun v => ?_⟩
  · show Ctx.Worked _ { s2.ctx c with ckpt := _ }
    rw [unpinned.ctx, ctx]
    rfl
  · show s2.degraded = _
    rw [unpinned.degraded]
    simp only [State.degraded, stale, fret]
  · show (s2.tile v).steps = _
    rw [unpinned.tile, steps]

end Sys2Proof.Machine

namespace Sys2Proof.Machine

variable {c : Fin 8} {s u : State} {q : Scroll}

/-- What the end of a step leaves, its boundary included. -/
theorem stepEnd_leaves (hc : Clear s) (c : Fin 8) (q : Scroll) :
    Clear (s.stepEnd c q) ∧ (s.stepEnd c q).replayHead = s.replayHead + (s.replayRecord c q).1.length ∧
      (∀ v, ((s.stepEnd c q).tile v).steps = (s.tile v).steps) ∧
      ((s.stepEnd c q).ctx c).inStep = false ∧ ((s.stepEnd c q).ctx c).stepNo = (s.ctx c).curStep + 1 ∧
      ((s.stepEnd c q).ctx c).stepsRun = (s.ctx c).stepsRun + 1 ∧ ((s.stepEnd c q).ctx c).stepsDone = (s.ctx c).stepsDone + 1 ∧
      ((s.stepEnd c q).ctx c).lastStep = (s.ctx c).curStep ∧ ((s.stepEnd c q).ctx c).units = [] := by
  obtain ⟨begun, nodue⟩ := hc
  obtain ⟨ended, due, rings, -, head, steps⟩ := stepOver_spec s c q
  have bounded := boundary_bounded (s := s.stepOver c q) (c := c) ((due c).trans (nodue c))
  rw [stepEnd_eq]
  have cleared : Clear (s.stepOver c q) := ⟨by rwa [rings], fun d => (due d).trans (nodue d)⟩
  generalize s.stepOver c q = s1 at *
  refine ⟨bounded.clear cleared, bounded.replayHead.trans head, fun v => ?_, bounded.step (congrArg Ctx.inStep ended.rest :), ?_, ?_,
    ?_, ?_, ?_⟩
  · rw [← steps v, State.tile, State.tile, bounded.tiles]
  · exact (congrArg Ctx.stepNo bounded.ctx :).trans (congrArg Ctx.stepNo ended.rest :)
  · exact (congrArg Ctx.stepsRun bounded.ctx :).trans (congrArg Ctx.stepsRun ended.rest :)
  · exact (congrArg Ctx.stepsDone bounded.ctx :).trans (congrArg Ctx.stepsDone ended.rest :)
  · exact (congrArg Ctx.lastStep bounded.ctx :).trans (congrArg Ctx.lastStep ended.rest :)
  · exact (congrArg Ctx.units bounded.ctx :).trans (congrArg Ctx.units ended.rest :)

/-- The context at the end of a step of a STEP_START, without a cut due, a HOLD that waits, or DEGRADED. -/
theorem stepEnd_state (hc : Clear s) (hs : (s.ctx c).starting = true) (hr : (s.ctx c).state = .running) (hg : s.degraded = false)
    (hh : (s.rings[ringOf c]).cmds.filter Cmd.isHold = []) : ((s.stepEnd c q).ctx c).state =
      if (s.ctx c).stepsLeft = some 1 ∨ (s.ctx c).stepsLeft = some 0 then .loaded
      else if (s.ctx c).faultHold || (s.ctx c).hostHold || (s.ctx c).capoHold then .held else .running := by
  obtain ⟨-, nodue⟩ := hc
  obtain ⟨ended, due, rings, degraded, -⟩ := stepOver_spec s c q
  rw [stepEnd_eq]
  generalize s.stepOver c q = s1 at *
  have starting : (s1.ctx c).starting = (s.ctx c).starting := (congrArg Ctx.starting ended.rest :)
  have state : (s1.ctx c).state = (s.ctx c).state := (congrArg Ctx.state ended.rest :)
  have left : (s1.ctx c).stepsLeft = (s.ctx c).stepsLeft.map (· - 1) := (congrArg Ctx.stepsLeft ended.rest :)
  have host : (s1.ctx c).hostHold = (s.ctx c).hostHold := (congrArg Ctx.hostHold ended.rest :)
  have capo : (s1.ctx c).capoHold = (s.ctx c).capoHold := (congrArg Ctx.capoHold ended.rest :)
  have fault : (s1.ctx c).faultHold = (s.ctx c).faultHold := (congrArg Ctx.faultHold ended.rest :)
  have last : (s.ctx c).stepsLeft.map (· - 1) = some 0 ↔ (s.ctx c).stepsLeft = some 1 ∨ (s.ctx c).stepsLeft = some 0 := by
    rcases (s.ctx c).stepsLeft with _ | n
    · simp
    · simp only [Option.map_some, Option.some.injEq]; omega
  rw [boundary_state ((due c).trans (nodue c)) (starting.trans hs) (degraded.trans hg) (by rwa [rings]) (state.trans hr),
    left, host, capo, fault]
  simp only [last, Bool.or_comm, Bool.or_left_comm]

/-! #### A tile that has finished (R118) -/

/-- The tile once it has finished its step. -/
def Tile.finishes (x : Tile) : Tile := { x with finished := true, steps := x.steps + 1, advanced := true }

section

variable {t : TileId} (hc : s.ctxOf t = some c) (hq : (s.ctx c).scroll = some q)
include hc hq

theorem tileFinish_waits (h : (s.ctx c).inStep = false ∨ (s.ctx c).state ≠ .running) : s.tileFinish t = s := by
  have found : s.scroll? c = some q := hq
  simp only [State.tileFinish, hc, found]
  exact if_pos (by simpa using h)

variable (hi : (s.ctx c).inStep = true) (hr : (s.ctx c).state = .running) (hf : (s.tile t).finished = false)
include hi hr hf

theorem tileFinish_stays (h : s.tileRuns t = false ∨ (s.tile t).stepDone = false) : s.tileFinish t = s := by
  have found : s.scroll? c = some q := hq
  simp only [State.tileFinish, hc, found, hi, hr, hf]
  simp [h]

/-- A tile that has issued its last command, with no word of bad parity to write back, finishes once its lines are written. -/
theorem tileFinish_eq {s1 : State} (ht : s.tileRuns t = true) (hd : (s.tile t).stepDone = true)
    (hb : q.window t = none ∨ (s.tile t).badIn ((s.tile t).writeLines.map fun l => ⟨64 * l, 1⟩) = none)
    (hw : s.writeBackTile c q t = (true, s1)) : s.tileFinish t = (s1.modTile t Tile.finishes).tryStepEnd c q := by
  have found : s.scroll? c = some q := hq
  have good : (if (q.window t).isNone then none else (s.tile t).badIn ((s.tile t).writeLines.map fun l => ⟨64 * l, 1⟩)) = none := by
    rcases hb with hb | hb
    · rw [hb]; rfl
    · rw [hb]; exact ite_self none
  simp only [State.tileFinish, hc, found, hi, hr, hf, ht, hd, good, hw]
  rfl

end

/-- Every tile of the context has finished its step, counting tile `t`. -/
def State.allFinished (s : State) (c : Fin 8) (t : TileId) : Bool :=
  (s.ctx c).tileList.all fun v => v == t || s.tileGone v || (s.tile v).finished

section

variable {t : TileId} {s1 : State} (h : Meanwhile c s s1)
include h

theorem Meanwhile.allFinished : ((s1.modTile t Tile.finishes).ctx c).tileList.all
    (fun v => (s1.modTile t Tile.finishes).tileGone v || ((s1.modTile t Tile.finishes).tile v).finished) = s.allFinished c t := by
  have tileList : ((s1.modTile t Tile.finishes).ctx c).tileList = (s.ctx c).tileList := by
    show (s1.ctx c).tileList = _
    rw [h.ctx]; rfl
  rw [tileList, State.allFinished]
  refine congrArg _ (funext fun v => ?_)
  have gone : (s1.modTile t Tile.finishes).tileGone v = s.tileGone v := by
    show s1.tileGone v = _
    simp only [State.tileGone, h.fret]
  rw [gone]
  by_cases hv : v = t
  · subst hv
    rw [State.tile_modTile_eq]
    simp [Tile.finishes]
  · rw [State.tile_modTile_ne _ _ hv, h.tile, beq_false_of_ne hv, Bool.false_or]

/-- A tile that is not the last waits for the others. -/
theorem tryStepEnd_waits (ha : s.allFinished c t = false) :
    (s1.modTile t Tile.finishes).tryStepEnd c q = s1.modTile t Tile.finishes := by
  rw [State.tryStepEnd]
  simp only [h.allFinished, ha]
  exact if_neg (by simp)

/-- The last tile ends the step of a scroll without reduction. -/
theorem tryStepEnd_ends (ha : s.allFinished c t = true) (hi : (s.ctx c).inStep = true) (hr : (s.ctx c).rerunning = false)
    (ht : q.targets = []) : (s1.modTile t Tile.finishes).tryStepEnd c q = (s1.modTile t Tile.finishes).stepEnd c q := by
  have inStep : ((s1.modTile t Tile.finishes).ctx c).inStep = true := (congrArg Ctx.inStep h.ctx :).trans hi
  have rerunning : ((s1.modTile t Tile.finishes).ctx c).rerunning = false := (congrArg Ctx.rerunning h.ctx :).trans hr
  rw [State.tryStepEnd]
  simp only [h.allFinished, ha, inStep, rerunning]
  exact if_pos (by simp [State.reduced, State.slicesDone, ht])

theorem Meanwhile.clear_finishes (hc : Clear s) : Clear (s1.modTile t Tile.finishes) := h.clear hc

end

end Sys2Proof.Machine

/-! ### The tiles of a step that begins (R62, R117) -/

namespace Sys2Proof.Machine

variable {c : Fin 8} {s u v : State} {q : Scroll}

/-! #### The tiles of a rectangle (R348) -/

theorem finOf_of_lt {n i : Nat} {h : 0 < n} (hi : i < n) : finOf n i h = ⟨i, hi⟩ := dif_pos hi

/-- A rectangle stays inside the grid of 1,024 columns and 768 rows. -/
theorem Rect.place_bounds (r : Rect) {i : Nat} (h : i < r.tiles) :
    128 * r.fy0.1 + i / r.width < 768 ∧ 128 * r.fx0.1 + i % r.width < 1024 := by
  have row : i / r.width < 128 * (r.fy1.1 - r.fy0.1 + 1) := Nat.div_lt_of_lt_mul h
  have col : i % r.width < r.width := Nat.mod_lt _ (by rw [Rect.width]; omega)
  have wide : r.width = 128 * (r.fx1.1 - r.fx0.1 + 1) := rfl
  omega

theorem Rect.tile_val (r : Rect) {i : Nat} (h : i < r.tiles) :
    (r.tile i).1 = 1024 * (128 * r.fy0.1 + i / r.width) + 128 * r.fx0.1 + i % r.width := by
  obtain ⟨row, col⟩ := r.place_bounds h
  rw [Rect.tile, finOf_of_lt (by omega)]

theorem Rect.tile_injective (r : Rect) {i j : Nat} (hi : i < r.tiles) (hj : j < r.tiles) (h : r.tile i = r.tile j) : i = j := by
  have same := congrArg Fin.val h
  rw [r.tile_val hi, r.tile_val hj] at same
  obtain ⟨-, coli⟩ := r.place_bounds hi
  obtain ⟨-, colj⟩ := r.place_bounds hj
  have rows : i / r.width = j / r.width := by omega
  have cols : i % r.width = j % r.width := by omega
  rw [← Nat.div_add_mod i r.width, ← Nat.div_add_mod j r.width, rows, cols]

theorem Ctx.tileList_nodup (x : Ctx) : x.tileList.Nodup :=
  List.Nodup.map_on (fun _ hi _ hj h => x.rect.tile_injective (List.mem_range.mp hi) (List.mem_range.mp hj) h) List.nodup_range

/-! #### One tile -/

/-- Tile `y` begins a step with the counts of `x`. -/
structure Tile.Fresh (x y : Tile) : Prop where
  events : y.events = Vector.replicate 16 0
  finished : y.finished = false
  steps : y.steps = x.steps

theorem Tile.reload_steps (x : Tile) (m : Mem) (w : Nat) : (x.reload m w).steps = x.steps := by
  have wide (x : Tile) (a : Nat) (bs : List Byte) : (x.wideWrite a bs).steps = x.steps := by
    rw [x.wideWrite_retagged a bs]
  have runs (l : List Span) (x : Tile) (f : Span → List Byte) :
      (l.foldl (fun (x : Tile) sp => x.wideWrite sp.at_ (f sp)) x).steps = x.steps := by
    induction l generalizing x with
    | nil => rfl
    | cons sp l ih => rw [List.foldl_cons, ih, wide]
  rw [Tile.reload, runs, wide]

theorem Tile.clearScratch_steps (x : Tile) : x.clearScratch.steps = x.steps := by
  unfold Tile.clearScratch
  generalize (x.buffers fun h => h == 1 || h == 2) = keep
  generalize (List.range 1020).map (· + 4) = ls
  induction ls generalizing x with
  | nil => rfl
  | cons l ls ih =>
    rw [List.foldl_cons, ih]
    split <;> rfl

theorem Tile.begin_fresh (x : Tile) (window : Option (Mem × Nat)) (seed pos : DWord) : x.Fresh (x.begin window seed pos) := by
  unfold Tile.begin
  extract_lets x1 x2 x3
  have reloaded : x2.steps = x.steps := by
    simp only [x2]
    split
    · exact Tile.reload_steps ..
    · rfl
  have cleared : x3.steps = x2.steps := x2.clearScratch_steps
  clear_value x3 x2
  exact ⟨rfl, rfl, cleared.trans reloaded⟩

/-- What a tile reloads as a step starts (R117). -/
def Scroll.reloads (q : Scroll) (x : Ctx) (reload : Bool) (t : TileId) : Option (Mem × Nat) :=
  if reload then (q.window t).map fun w => (x.mem, w) else none

/-- One tile begins the step, where no word of bad parity is read: a bad line of its reload escalates. -/
def State.beginTile (x : Ctx) (q : Scroll) (reload : Bool) (s : State) (t : TileId) : State :=
  if s.tileGone t then s
  else
    let s := s.modTile t fun y => y.begin (q.reloads x reload t) x.curSeed x.curPos
    if (q.reloads x reload t).any fun w => x.badReload (s.tile t) w.2 then s.escalate [] else s

/-- Only tiles, registers and a recovery reset that is asked for differ. -/
structure Starting (s u : State) : Prop where
  frame : u = { s with tiles := u.tiles, regs := u.regs, hng := { s.hng with request := u.hng.request, suspects := u.hng.suspects } }
  raised : s.rfld Reg.scrCause 3 1 = 1 → s.hng.request.isSome = true → s.hng.running = false →
    u.rfld Reg.scrCause 3 1 = 1 ∧ u.hng.request.isSome = true

namespace Starting

theorem refl (s : State) : Starting s s := ⟨rfl, fun h g _ => ⟨h, g⟩⟩

theorem running (h : Starting s u) : u.hng.running = s.hng.running := by rw [h.frame]
theorem ctx (h : Starting s u) (d : Fin 8) : u.ctx d = s.ctx d := by rw [h.frame]; rfl
theorem gone (h : Starting s u) (t : TileId) : u.tileGone t = s.tileGone t := by rw [h.frame]; rfl
theorem ports (h : Starting s u) : u.ports = s.ports := by rw [h.frame]
theorem clear (h : Starting s u) (hc : Clear s) : Clear u := by
  obtain ⟨begun, due⟩ := hc
  exact ⟨by rwa [h.frame], fun d => (congrArg (fun x => x.ckpt.due) (h.ctx d)).trans (due d)⟩

theorem trans (h : Starting s u) (g : Starting u v) : Starting s v where
  frame := by rw [g.frame, h.frame]
  raised cause request calm := by
    obtain ⟨c1, r1⟩ := h.raised cause request calm
    exact g.raised c1 r1 (h.running.trans calm)

theorem foldl {α : Type} {f : State → α → State} (hf : ∀ s a, Starting s (f s a)) (l : List α) (s : State) :
    Starting s (l.foldl f s) := by
  induction l generalizing s with
  | nil => exact refl s
  | cons a l ih => exact (hf s a).trans (ih _)

theorem modTile (s : State) (t : TileId) (f : Tile → Tile) : Starting s (s.modTile t f) := ⟨rfl, fun h g _ => ⟨h, g⟩⟩

end Starting

/-- An escalation leaves the tiles. -/
theorem escalate_tile (s : State) (sus : List Suspect) (t : TileId) : (s.escalate sus).tile t = s.tile t := by
  unfold State.escalate State.requestReset
  extract_lets h new
  clear_value new
  split
  · split <;> rfl
  · rfl

theorem rfld_of_reg {o lo w : Nat} (h : u.reg o = s.reg o) : u.rfld o lo w = s.rfld o lo w := congrArg (fun r => fld r lo w) h

theorem requestReset_reg (s : State) (trigger : Nat) (sus : List Suspect) (o : Nat) : (s.requestReset trigger sus).reg o = s.reg o := by
  unfold State.requestReset
  extract_lets h new
  split
  · split <;> rfl
  · rfl

theorem requestReset_asks (trigger : Nat) (sus : List Suspect) (h : s.hng.running = false) :
    (s.requestReset trigger sus).hng.request.isSome = true := by
  unfold State.requestReset
  extract_lets g new
  rw [if_neg (by simp [g, h])]
  rfl

/-- An escalation stands in SCR_CAUSE (R124). -/
theorem escalate_cause (s : State) (sus : List Suspect) : (s.escalate sus).rfld Reg.scrCause 3 1 = 1 := by
  have counted : ((s.cause Reg.scrCause 3).count Reg.scrReruns 16 16 1).reg Reg.scrCause = (s.cause Reg.scrCause 3).reg Reg.scrCause :=
    State.reg_setReg_ne _ _ (by decide)
  exact (rfld_of_reg ((requestReset_reg _ 1 sus Reg.scrCause).trans counted)).trans (s.rfld_cause_eq Reg.scrCause 3 (by decide))

/-- An escalation asks for a recovery reset where none is under way (R124). -/
theorem escalate_asks (sus : List Suspect) (h : s.hng.running = false) : (s.escalate sus).hng.request.isSome = true :=
  requestReset_asks (s := (s.cause Reg.scrCause 3).count Reg.scrReruns 16 16 1) 1 sus h

theorem escalate_starting (s : State) (sus : List Suspect) : Starting s (s.escalate sus) where
  frame := by
    unfold State.escalate State.requestReset
    extract_lets h new
    clear_value new
    split
    · split <;> rfl
    · rfl
  raised _ _ calm := ⟨escalate_cause s sus, escalate_asks sus calm⟩

/-- The tile `t` once it has begun the step with counts `x`. -/
def State.begunAs (s : State) (x : Ctx) (q : Scroll) (reload : Bool) (t : TileId) : Tile :=
  (s.tile t).begin (q.reloads x reload t) x.curSeed x.curPos

section

variable {x : Ctx} {reload : Bool}

theorem beginTile_starting (x : Ctx) (q : Scroll) (reload : Bool) (s : State) (t : TileId) :
    Starting s (s.beginTile x q reload t) := by
  unfold State.beginTile
  extract_lets s1
  have begun : Starting s s1 := .modTile ..
  split
  · exact .refl s
  · split
    · exact begun.trans (escalate_starting ..)
    · exact begun

theorem beginTile_ne {t w : TileId} (h : w ≠ t) : (s.beginTile x q reload t).tile w = s.tile w := by
  have kept : (s.modTile t fun y => y.begin (q.reloads x reload t) x.curSeed x.curPos).tile w = s.tile w := State.tile_modTile_ne _ _ h
  unfold State.beginTile
  split
  · rfl
  · dsimp only
    split
    · rw [escalate_tile, kept]
    · exact kept

theorem beginTile_eq {t : TileId} (hg : s.tileGone t = false) : (s.beginTile x q reload t).tile t = s.begunAs x q reload t := by
  have here : (s.modTile t fun y => y.begin (q.reloads x reload t) x.curSeed x.curPos).tile t = s.begunAs x q reload t :=
    State.tile_modTile_eq ..
  unfold State.beginTile
  rw [if_neg (by simp [hg])]
  dsimp only
  split
  · rw [escalate_tile, here]
  · exact here

/-- A tile whose reload reads a bad line escalates. -/
theorem beginTile_raised {t : TileId} {w : Nat} (hg : s.tileGone t = false) (hh : s.hng.running = false)
    (hw : q.reloads x reload t = some (x.mem, w)) (hb : x.badReload (s.begunAs x q reload t) w = true) :
    (s.beginTile x q reload t).rfld Reg.scrCause 3 1 = 1 ∧ (s.beginTile x q reload t).hng.request.isSome = true := by
  have here : (s.modTile t fun y => y.begin (q.reloads x reload t) x.curSeed x.curPos).tile t = s.begunAs x q reload t :=
    State.tile_modTile_eq ..
  have bad : ((q.reloads x reload t).any fun w => x.badReload
      ((s.modTile t fun y => y.begin (q.reloads x reload t) x.curSeed x.curPos).tile t) w.2) = true := by
    rw [here, hw]
    exact hb
  unfold State.beginTile
  rw [if_neg (by simp [hg])]
  dsimp only
  rw [if_pos bad]
  exact ⟨escalate_cause _ [], escalate_asks [] hh⟩

/-! #### All of them -/

theorem beginTiles_starting (x : Ctx) (q : Scroll) (reload : Bool) (l : List TileId) (s : State) :
    Starting s (l.foldl (State.beginTile x q reload) s) :=
  .foldl (beginTile_starting x q reload) l s

theorem beginTiles_ne (l : List TileId) (s : State) {t : TileId} (h : t ∉ l) :
    (l.foldl (State.beginTile x q reload) s).tile t = s.tile t := by
  induction l generalizing s with
  | nil => rfl
  | cons v l ih =>
    obtain ⟨hv, hl⟩ := not_or.mp (mt List.mem_cons.mpr h)
    rw [List.foldl_cons, ih _ hl, beginTile_ne hv]

theorem beginTiles_mem {l : List TileId} (hl : l.Nodup) (s : State) {t : TileId} (h : t ∈ l) (hg : s.tileGone t = false) :
    (l.foldl (State.beginTile x q reload) s).tile t = s.begunAs x q reload t := by
  induction l generalizing s with
  | nil => cases h
  | cons v l ih =>
    obtain ⟨hv, hl⟩ := List.nodup_cons.mp hl
    rw [List.foldl_cons]
    rcases List.mem_cons.mp h with rfl | h
    · rw [beginTiles_ne l _ hv, beginTile_eq hg]
    · have apart : t ≠ v := fun e => hv (e ▸ h)
      rw [ih hl _ h (((beginTile_starting ..).gone t).trans hg), State.begunAs, beginTile_ne apart, State.begunAs]

theorem beginTiles_raised {l : List TileId} (hl : l.Nodup) (s : State) {t : TileId} {w : Nat} (h : t ∈ l)
    (hg : s.tileGone t = false) (hh : s.hng.running = false) (hw : q.reloads x reload t = some (x.mem, w))
    (hb : x.badReload (s.begunAs x q reload t) w = true) :
    (l.foldl (State.beginTile x q reload) s).rfld Reg.scrCause 3 1 = 1 ∧
      (l.foldl (State.beginTile x q reload) s).hng.request.isSome = true := by
  induction l generalizing s with
  | nil => cases h
  | cons v l ih =>
    obtain ⟨hv, hl⟩ := List.nodup_cons.mp hl
    have first := beginTile_starting x q reload s v
    rw [List.foldl_cons]
    rcases List.mem_cons.mp h with rfl | h
    · obtain ⟨cause, request⟩ := beginTile_raised hg hh hw hb
      exact (beginTiles_starting ..).raised cause request (first.running.trans hh)
    · have apart : t ≠ v := fun e => hv (e ▸ h)
      have same : (s.beginTile x q reload v).begunAs x q reload t = s.begunAs x q reload t := by
        rw [State.begunAs, beginTile_ne apart, State.begunAs]
      exact ih hl _ h ((first.gone t).trans hg) (first.running.trans hh) (by rwa [same])

/-- Steps that agree on the tiles that reload or hold no word of bad parity agree over a list of them. -/
theorem foldl_beginTile {F : State → TileId → State}
    (hF : ∀ s t, (s.tile t).badWords = [] ∨ (q.reloads x reload t).isSome = true →
      F s t = s.beginTile x q reload t) {l : List TileId} (hl : l.Nodup) (s : State)
    (h : ∀ t ∈ l, (s.tile t).badWords = [] ∨ (q.reloads x reload t).isSome = true) :
    l.foldl F s = l.foldl (State.beginTile x q reload) s := by
  induction l generalizing s with
  | nil => rfl
  | cons t l ih =>
    obtain ⟨ht, hl⟩ := List.nodup_cons.mp hl
    rw [List.foldl_cons, List.foldl_cons, hF s t (h t List.mem_cons_self)]
    refine ih hl _ fun v hv => ?_
    have apart : v ≠ t := fun e => ht (e ▸ hv)
    rw [beginTile_ne apart]
    exact h v (List.mem_cons_of_mem t hv)

/-- Where every tile either reloads or has no word of bad parity, no tile that begins meets one. -/
theorem beginTiles_quiet (h : ∀ t, (s.tile t).badWords = [] ∨ (q.reloads (s.ctx c) reload t).isSome = true) :
    s.beginTiles c q reload = (s.ctx c).tileList.foldl (State.beginTile (s.ctx c) q reload) s := by
  unfold State.beginTiles
  refine foldl_beginTile (fun s1 t ht => ?_) (s.ctx c).tileList_nodup s fun t _ => h t
  unfold State.beginTile
  split
  · rfl
  · have sound : (if (q.reloads (s.ctx c) reload t).isSome then none
        else (s1.tile t).badWords.find? fun w => decide (1 ≤ w) && decide (w < 64)) = none := by
      rcases ht with ht | ht
      · rw [ht]; exact ite_self none
      · exact if_pos ht
    unfold Scroll.reloads at sound ⊢
    generalize (if reload = true then (q.window t).map fun w => ((s.ctx c).mem, w) else none) = r at sound ⊢
    simp only [sound]
    rcases r with _ | ⟨m, w⟩ <;> rfl

end

end Sys2Proof.Machine

/-! ### A step that begins (R62, R117, R143, R270, R337) -/

namespace Sys2Proof.Machine

variable {c : Fin 8} {s u v : State} {q : Scroll}

/-- Context `y` is `x` but for what the edges of a step keep. -/
def Ctx.Edged (x y : Ctx) : Prop :=
  y = { x with
    members := y.members, pages := y.pages, cleared := [], units := [], errs := [], strDigests := [], released := []
    committed := y.committed, rerunning := false, skips := y.skips, reds := y.reds }

/-- Only context `c`, the routers, the selections and the deferred phases differ. -/
structure Edges (c : Fin 8) (s u : State) : Prop where
  frame : u = { s with ctxs := u.ctxs, routers := u.routers, selections := u.selections, budget := u.budget }
  others : ∀ d, d ≠ c → u.ctx d = s.ctx d

theorem Edges.trans (h : Edges c s u) (g : Edges c u v) : Edges c s v where
  frame := by rw [g.frame, h.frame]
  others d hd := (g.others d hd).trans (h.others d hd)

theorem beginEdges_edges (s : State) (c : Fin 8) (rerun : Bool) : Edges c s (s.beginEdges c rerun) where
  frame := rfl
  others d hd := by
    unfold State.beginEdges
    exact ctx_modCtx_ne _ _ hd

theorem beginEdges_ctx (s : State) (c : Fin 8) (rerun : Bool) : (s.ctx c).Edged ((s.beginEdges c rerun).ctx c) := by
  unfold State.beginEdges
  extract_lets mine b s1
  have here : s1.ctx c = s.ctx c := rfl
  rw [ctx_modCtx_eq, here]
  rfl

/-- What a rerun keeps of its context (R122, R123, R297). -/
theorem beginEdges_rerun (s : State) (c : Fin 8) : ((s.beginEdges c true).ctx c).skips = (s.ctx c).skips ∧
    ((s.beginEdges c true).ctx c).committed = (s.ctx c).committed ∧
    ((s.beginEdges c true).ctx c).reds = (s.ctx c).reds.mapVals fun _ r => r.again := by
  unfold State.beginEdges
  extract_lets mine b s1
  have here : s1.ctx c = s.ctx c := rfl
  rw [ctx_modCtx_eq, here]
  exact ⟨rfl, Bool.true_and _, rfl⟩

/-- The step a series of seeds and positions stands at. -/
def Ctx.seriesNow (x : Ctx) : Series := x.series.getD ⟨0, 0, 0⟩

/-- A context as its step begins: number, position, seed, and how it reduces (R62, R292, R337, R352). -/
def Ctx.stepBegun (x : Ctx) (q : Scroll) (z : Series) (ns : Nat) (mode : Bool) (headroom : Nat) (replay : Option ReplayPlan) : Ctx :=
  { x with
    inStep := true, advanced := true, curStep := x.stepNo, curIndex := z.index
    curPos := BitVec.ofNat 64 (z.pos.toNat + z.index * q.posAdvance), curSeed := stepSeed q z.seed z.index
    stepTime := ns, reruns := 0, reload := false, redMode := mode, redHeadroom := headroom, replay := replay }

/-- State `u` is `s` once the context's counts and edges have begun the step. -/
structure Opened (c : Fin 8) (q : Scroll) (s u : State) : Prop where
  edges : Edges c s u
  ctx : ∃ mode headroom replay, Ctx.Edged ((s.ctx c).stepBegun q (s.ctx c).seriesNow s.ns mode headroom replay) (u.ctx c)

theorem beginEdges_opened {f : Ctx → Ctx} {mode : Bool} {headroom : Nat} {replay : Option ReplayPlan}
    (hf : f (s.ctx c) = (s.ctx c).stepBegun q (s.ctx c).seriesNow s.ns mode headroom replay) :
    Opened c q s ((s.modCtx c f).beginEdges c false) := by
  have begun : Edges c s (s.modCtx c f) := ⟨rfl, fun d hd => ctx_modCtx_ne _ _ hd⟩
  have edged := beginEdges_ctx (s.modCtx c f) c false
  rw [ctx_modCtx_eq, hf] at edged
  exact ⟨begun.trans (beginEdges_edges _ c false), mode, headroom, replay, edged⟩

theorem forgetCredits_credited (s : State) (c : Fin 8) : Credited s (s.forgetCredits c) := rfl

/-- The parts of a step that begins: the context's counts and edges, its tiles, and what goes on beside. -/
theorem beginStep_parts (s : State) (c : Fin 8) (q : Scroll) : ∃ s1 u, Opened c q s s1 ∧
    Credited (s1.beginTiles c q (s.ctx c).reload) u ∧ s.beginStep c q = (u.releasePhases c).prepass c := by
  unfold State.beginStep
  extract_lets x z ctl plan reload s1 s2 s3 s4 s5
  have forgot : Credited s3 s4 := by
    simp only [s4]
    split
    · exact forgetCredits_credited ..
    · exact .refl s3
  have opened : Opened c q s s2 := beginEdges_opened (by unfold Ctx.stepBegun; rfl)
  exact ⟨s2, s5, opened, forgot.trans (stepCredits_credited ..), rfl⟩

namespace Opened

variable (h : Opened c q s u)
include h

theorem due (d : Fin 8) : (u.ctx d).ckpt.due = (s.ctx d).ckpt.due := by
  by_cases hd : d = c
  · obtain ⟨mode, headroom, replay, edged⟩ := h.ctx
    rw [hd, edged]
    rfl
  · rw [h.edges.others d hd]

theorem clear (hc : Clear s) : Clear u := by
  obtain ⟨begun, due⟩ := hc
  exact ⟨by rwa [h.edges.frame], fun d => (h.due d).trans (due d)⟩

theorem tile (t : TileId) : u.tile t = s.tile t := by rw [h.edges.frame]; rfl

theorem tileList : (u.ctx c).tileList = (s.ctx c).tileList := by
  obtain ⟨mode, headroom, replay, edged⟩ := h.ctx
  rw [edged]; rfl

theorem mem : (u.ctx c).mem = (s.ctx c).mem := by
  obtain ⟨mode, headroom, replay, edged⟩ := h.ctx
  exact (congrArg Ctx.mem edged :)

theorem scroll : (u.ctx c).scroll = (s.ctx c).scroll := by
  obtain ⟨mode, headroom, replay, edged⟩ := h.ctx
  exact (congrArg Ctx.scroll edged :)

theorem badReload (y : Tile) (w : Nat) : (u.ctx c).badReload y w = (s.ctx c).badReload y w := by
  obtain ⟨mode, headroom, replay, edged⟩ := h.ctx
  rw [edged]; rfl

theorem reloads (reload : Bool) (t : TileId) : q.reloads (u.ctx c) reload t = q.reloads (s.ctx c) reload t := by
  rw [Scroll.reloads, h.mem, Scroll.reloads]

/-- The counts of the step. -/
theorem counts : (u.ctx c).inStep = true ∧ (u.ctx c).curStep = (s.ctx c).stepNo ∧ (u.ctx c).curIndex = (s.ctx c).seriesNow.index ∧
    (u.ctx c).curSeed = stepSeed q (s.ctx c).seriesNow.seed (s.ctx c).seriesNow.index ∧
    (u.ctx c).curPos = BitVec.ofNat 64 ((s.ctx c).seriesNow.pos.toNat + (s.ctx c).seriesNow.index * q.posAdvance) ∧
    (u.ctx c).stepTime = s.ns ∧ (u.ctx c).reload = false ∧ (u.ctx c).cleared = [] := by
  obtain ⟨mode, headroom, replay, edged⟩ := h.ctx
  exact ⟨(congrArg Ctx.inStep edged :), (congrArg Ctx.curStep edged :), (congrArg Ctx.curIndex edged :),
    (congrArg Ctx.curSeed edged :), (congrArg Ctx.curPos edged :), (congrArg Ctx.stepTime edged :),
    (congrArg Ctx.reload edged :), (congrArg Ctx.cleared edged :)⟩

end Opened

/-- What the counts of a step become stays beside it. -/
theorem Ctx.Worked.counts {x y : Ctx} (h : x.Worked y) : y.inStep = x.inStep ∧ y.curStep = x.curStep ∧ y.curIndex = x.curIndex ∧
    y.curSeed = x.curSeed ∧ y.curPos = x.curPos ∧ y.stepTime = x.stepTime ∧ y.reload = x.reload ∧ y.cleared = x.cleared :=
  ⟨(congrArg Ctx.inStep h :), (congrArg Ctx.curStep h :), (congrArg Ctx.curIndex h :), (congrArg Ctx.curSeed h :),
    (congrArg Ctx.curPos h :), (congrArg Ctx.stepTime h :), (congrArg Ctx.reload h :), (congrArg Ctx.cleared h :)⟩

/-- The seed of the step that begins (R352). -/
def Ctx.nextSeed (x : Ctx) (q : Scroll) : DWord := stepSeed q x.seriesNow.seed x.seriesNow.index

/-- The position of the step that begins (R352). -/
def Ctx.nextPos (x : Ctx) (q : Scroll) : DWord := BitVec.ofNat 64 (x.seriesNow.pos.toNat + x.seriesNow.index * q.posAdvance)

/-- What a step that begins leaves, where no tile reads a word of bad parity. -/
theorem beginStep_spec (s : State) (c : Fin 8) (q : Scroll)
    (hp : ∀ t, (s.tile t).badWords = [] ∨ (q.reloads (s.ctx c) (s.ctx c).reload t).isSome = true) :
    ∃ s1 s2, Opened c q s s1 ∧ s2 = (s.ctx c).tileList.foldl (State.beginTile (s1.ctx c) q (s.ctx c).reload) s1 ∧
      Meanwhile c s2 (s.beginStep c q) ∧
      ((s.ctx c).scroll = some q → q.targets = [] → ((s.beginStep c q).ctx c).mem = (s.ctx c).mem) := by
  obtain ⟨s1, v, opened, credited, he⟩ := beginStep_parts s c q
  have quiet := beginTiles_quiet (s := s1) (c := c) (q := q) (reload := (s.ctx c).reload)
    fun t => by rw [opened.tile, opened.reloads]; exact hp t
  rw [opened.tileList] at quiet
  have started := beginTiles_starting (s1.ctx c) q (s.ctx c).reload (s.ctx c).tileList s1
  rw [← quiet] at started
  have phased := releasePhases_phased v c
  refine ⟨s1, _, opened, quiet, ?_, fun hq ht => ?_⟩
  · rw [he]
    exact ((credited.meanwhile c).trans phased.meanwhile).trans (prepass_meanwhile ..)
  · have before : v.ctx c = s1.ctx c := (congrArg (·[c]) credited.ctxs).trans (started.ctx c)
    have scroll : ((v.releasePhases c).ctx c).scroll = some q := by
      rw [phased.ctx, before]; exact opened.scroll.trans hq
    rw [he, prepass_none scroll ht, phased.ctx, before]
    exact opened.mem

section

variable {s1 : State} (h : Opened c q s s1)
include h

theorem Opened.begunAs (reload : Bool) (t : TileId) : s1.begunAs (s1.ctx c) q reload t =
    (s.tile t).begin (q.reloads (s.ctx c) reload t) ((s.ctx c).nextSeed q) ((s.ctx c).nextPos q) := by
  obtain ⟨-, -, -, seed, pos, -⟩ := h.counts
  rw [State.begunAs, h.tile, h.reloads, seed, pos]
  rfl

theorem Opened.gone (t : TileId) : s1.tileGone t = s.tileGone t := by rw [h.edges.frame]; rfl

theorem Opened.running : s1.hng.running = s.hng.running := by rw [h.edges.frame]

end

/-- The tiles of a step that begins stand at its start. -/
theorem beginStep_tile {t : TileId} (hp : ∀ t, (s.tile t).badWords = [] ∨ (q.reloads (s.ctx c) (s.ctx c).reload t).isSome = true)
    (ht : t ∈ (s.ctx c).tileList) (hg : s.tileGone t = false) : (s.beginStep c q).tile t =
      (s.tile t).begin (q.reloads (s.ctx c) (s.ctx c).reload t) ((s.ctx c).nextSeed q) ((s.ctx c).nextPos q) := by
  obtain ⟨s1, s2, opened, rfl, beside, -⟩ := beginStep_spec s c q hp
  rw [beside.tile, beginTiles_mem (s.ctx c).tileList_nodup s1 ht ((opened.gone t).trans hg), opened.begunAs]

/-- A bad line of a reload stands in SCR_CAUSE, and asks for a recovery reset (R124). -/
theorem beginStep_raised {t : TileId} {w : Nat}
    (hp : ∀ t, (s.tile t).badWords = [] ∨ (q.reloads (s.ctx c) (s.ctx c).reload t).isSome = true)
    (ht : t ∈ (s.ctx c).tileList) (hg : s.tileGone t = false) (hh : s.hng.running = false)
    (hw : q.reloads (s.ctx c) (s.ctx c).reload t = some ((s.ctx c).mem, w))
    (hb : (s.ctx c).badReload ((s.tile t).begin (q.reloads (s.ctx c) (s.ctx c).reload t) ((s.ctx c).nextSeed q)
      ((s.ctx c).nextPos q)) w = true) :
    (s.beginStep c q).rfld Reg.scrCause 3 1 = 1 ∧ (s.beginStep c q).hng.request.isSome = true := by
  obtain ⟨s1, s2, opened, rfl, beside, -⟩ := beginStep_spec s c q hp
  rw [rfld_of_reg beside.cause, beside.hng]
  refine beginTiles_raised (s.ctx c).tileList_nodup s1 ht ((opened.gone t).trans hg) (opened.running.trans hh) (w := w) ?_ ?_
  · rw [opened.reloads, opened.mem, hw]
  · rw [opened.begunAs, opened.badReload, hb]

/-- What a step that begins leaves of its context, and of the others. -/
theorem beginStep_ctx (hc : Clear s) (hp : ∀ t, (s.tile t).badWords = [] ∨ (q.reloads (s.ctx c) (s.ctx c).reload t).isSome = true) :
    Clear (s.beginStep c q) ∧ (∀ d, d ≠ c → (s.beginStep c q).ctx d = s.ctx d) ∧
      ((s.beginStep c q).ctx c).inStep = true ∧ ((s.beginStep c q).ctx c).curStep = (s.ctx c).stepNo ∧
      ((s.beginStep c q).ctx c).curIndex = (s.ctx c).seriesNow.index ∧ ((s.beginStep c q).ctx c).curSeed = (s.ctx c).nextSeed q ∧
      ((s.beginStep c q).ctx c).curPos = (s.ctx c).nextPos q ∧ ((s.beginStep c q).ctx c).stepTime = s.ns ∧
      ((s.beginStep c q).ctx c).reload = false ∧ ((s.beginStep c q).ctx c).cleared = [] ∧
      ((s.ctx c).scroll = some q → q.targets = [] → ((s.beginStep c q).ctx c).mem = (s.ctx c).mem) := by
  obtain ⟨s1, s2, opened, rfl, beside, mem⟩ := beginStep_spec s c q hp
  have started := beginTiles_starting (s1.ctx c) q (s.ctx c).reload (s.ctx c).tileList s1
  generalize (s.ctx c).tileList.foldl (State.beginTile (s1.ctx c) q (s.ctx c).reload) s1 = s2 at started beside
  have worked := beside.ctx
  rw [started.ctx c] at worked
  obtain ⟨i1, i2, i3, i4, i5, i6, i7, i8⟩ := opened.counts
  obtain ⟨w1, w2, w3, w4, w5, w6, w7, w8⟩ := worked.counts
  refine ⟨beside.clear (started.clear (opened.clear hc)), fun d hd => ?_, w1.trans i1, w2.trans i2, w3.trans i3, w4.trans i4,
    w5.trans i5, w6.trans i6, w7.trans i7, w8.trans i8, mem⟩
  rw [beside.others d hd, started.ctx d, opened.edges.others d hd]

/-! #### When a step may begin -/

/-- A step that may begin is not in progress, and no recovery reset is under way. -/
theorem mayBegin_running (h : s.mayBegin c = true) :
    (s.ctx c).inStep = false ∧ (s.ctx c).state = .running ∧ s.hng.running = false := by
  simp only [State.mayBegin, Bool.and_eq_true, Bool.not_eq_true', beq_iff_eq] at h
  obtain ⟨⟨⟨⟨⟨⟨⟨⟨-, inStep⟩, state⟩, -⟩, -⟩, running⟩, -⟩, -⟩, -⟩ := h
  exact ⟨inStep, state, running⟩

theorem stepBegin_stays (h : s.mayBegin c = false ∨ (s.ctx c).scroll = none) : s.stepBegin c = s := by
  rcases hq : (s.ctx c).scroll with _ | q
  · have found : s.scroll? c = none := hq
    simp only [State.stepBegin, found]
  · have found : s.scroll? c = some q := hq
    have not := h.resolve_right (by simp [hq])
    simp only [State.stepBegin, found, not]
    rfl

section

variable (hm : s.mayBegin c = true) (hq : (s.ctx c).scroll = some q)
include hm hq

theorem stepBegin_waits (hr : (s.ctx c).reload = true) (hw : s.windowsServed c q = false) : s.stepBegin c = s := by
  have found : s.scroll? c = some q := hq
  simp only [State.stepBegin, found, hm, hr, hw]
  rfl

variable (hr : (s.ctx c).reload = false ∨ s.windowsServed c q = true)
include hr

theorem stepBegin_eq : s.stepBegin c =
    if s.replays c ∧ (s.recordOf (s.ctx c).stepNo).isNone then (s.cause Reg.rplCause 3).endSteps c Status.ok
    else if (q.sec? 0xD).isNone then s.beginStep c q
    else if (s.pinVersion c).1 then (s.pinVersion c).2.beginStep c q else (s.pinVersion c).2 := by
  have found : s.scroll? c = some q := hq
  have served : ((s.ctx c).reload && !s.windowsServed c q) = false := by rcases hr with h | h <;> simp [h]
  unfold State.stepBegin
  rw [found]
  simp only [hm, served, Bool.not_true, Bool.false_eq_true, if_false]
  refine if_congr Iff.rfl rfl (if_congr Iff.rfl rfl ?_)
  generalize s.pinVersion c = pinned
  rcases pinned with ⟨_ | _, v⟩
  · exact (if_neg Bool.false_ne_true).symm
  · exact (if_pos rfl).symm

/-- A replay that has run out of records ends its STEP_START (R426). -/
theorem stepBegin_exhausted (hp : s.replays c = true) (hn : s.recordOf (s.ctx c).stepNo = none) :
    s.stepBegin c = (s.cause Reg.rplCause 3).endSteps c Status.ok := by
  rw [stepBegin_eq hm hq hr, if_pos ⟨hp, by rw [hn]; rfl⟩]

theorem stepBegin_unpinned (hp : s.replays c = false) (hn : (q.sec? 0xD).isNone = true) : s.stepBegin c = s.beginStep c q := by
  rw [stepBegin_eq hm hq hr, if_neg (by simp [hp]), if_pos hn]

/-- Without a version that is current or wanted, the step waits for one (R270). -/
theorem stepBegin_versionless (hp : s.replays c = false) (hw : (q.sec? 0xD).isSome = true) (hc : (s.ctx c).current = none)
    (hn : (s.ctx c).pending = none) : s.stepBegin c = s.setCtx c { s.ctx c with waitVersion := true } := by
  have pinned : s.pinVersion c = (false, s.setCtx c { s.ctx c with waitVersion := true }) := by
    unfold State.pinVersion
    extract_lets x y bad
    have still : y = x := by simp only [y, x, hn]; rfl
    have unbuilt : bad = true := by simp only [bad, still]; rw [hc]
    rw [unbuilt, Bool.true_or, if_pos rfl, still]
  have section13 : (q.sec? 0xD).isNone = false := by rw [Option.isNone_eq_false_iff]; exact hw
  rw [stepBegin_eq hm hq hr, if_neg (by simp [hp]), section13, pinned]
  rfl

/-- A step that waits for a version has not begun, and nothing else differs. -/
theorem stepBegin_versionless_leaves (hcl : Clear s) (hp : s.replays c = false) (hw : (q.sec? 0xD).isSome = true)
    (hc : (s.ctx c).current = none) (hn : (s.ctx c).pending = none) : Clear (s.stepBegin c) ∧
      (s.stepBegin c).ctx c = { s.ctx c with waitVersion := true } ∧ (s.stepBegin c).tiles = s.tiles ∧
      ∀ d, d ≠ c → (s.stepBegin c).ctx d = s.ctx d := by
  rw [stepBegin_versionless hm hq hr hp hw hc hn]
  obtain ⟨begun, due⟩ := hcl
  have here : (s.setCtx c { s.ctx c with waitVersion := true }).ctx c = { s.ctx c with waitVersion := true } := vget_vset_eq ..
  have there (d : Fin 8) (hd : d ≠ c) : (s.setCtx c { s.ctx c with waitVersion := true }).ctx d = s.ctx d := vget_vset_ne _ _ hd
  refine ⟨⟨begun, fun d => ?_⟩, here, rfl, there⟩
  by_cases hd : d = c
  · rw [hd, here]
    exact due c
  · rw [there d hd]
    exact due d

end

end Sys2Proof.Machine

/-! ### A STEP_START that ends early, and a rerun (R121, R123, R426) -/

namespace Sys2Proof.Machine

variable {c : Fin 8} {s u v : State} {q : Scroll}

/-- What the end of the STEP_START of a RUNNING context leaves, with a cause of RPL_CAUSE. -/
theorem endSteps_caused (hc : Clear s) (hs : (s.ctx c).state = .running) (status : Nat) :
    let u := (s.cause Reg.rplCause 3).endSteps c status
    Clear u ∧ u.rfld Reg.rplCause 3 1 = 1 ∧ (u.ctx c).state = .loaded ∧ (u.ctx c).starting = false ∧
      (u.ctx c).mem = (s.ctx c).mem ∧ ∀ d, d ≠ c → u.ctx d = s.ctx d := by
  obtain ⟨v, recorded, he⟩ := endSteps_eq (s.cause Reg.rplCause 3) c status
  obtain ⟨bounded, here⟩ := endSteps_bounded (s.cause Reg.rplCause 3) c status
  have cause : ((s.cause Reg.rplCause 3).endSteps c status).reg Reg.rplCause = (s.cause Reg.rplCause 3).reg Reg.rplCause := by
    rw [he]
    exact recorded.reg Reg.rplCause (by decide) (by decide)
  refine ⟨bounded.clear hc, ?_, ?_, (congrArg Ctx.starting here :), (congrArg Ctx.mem here :), fun d hd => bounded.others d hd⟩
  · exact (rfld_of_reg cause).trans (s.rfld_cause_eq Reg.rplCause 3 (by decide))
  · exact (congrArg Ctx.state here).trans (if_pos (.inl hs))

/-! #### What a rerun throws away -/

theorem dropFrames_queue (s : State) (c : Fin 8) (drop : QFrame → Bool) (p : Fin 64) {f : QFrame}
    (hf : f ∈ ((s.dropFrames c drop).ports[p]).queue) (hc : f.ctx = some c) : drop f = false := by
  have kept : f ∈ (s.ports[p]).queue.filter fun f => !(f.ctx == some c && drop f) := by
    simpa [State.dropFrames] using hf
  simpa [hc] using (List.mem_filter.mp kept).2

/-- Tiles differ in their instruction store alone. -/
structure Refetched (s u : State) : Prop where
  frame : u = { s with tiles := u.tiles }
  tile : ∀ t, u.tile t = { s.tile t with badInstr := (u.tile t).badInstr, imem := (u.tile t).imem }

theorem Refetched.ctx (h : Refetched s u) (d : Fin 8) : u.ctx d = s.ctx d := by rw [h.frame]; rfl

theorem Refetched.ports (h : Refetched s u) : u.ports = s.ports := by rw [h.frame]

theorem Refetched.refl (s : State) : Refetched s s := ⟨rfl, fun _ => rfl⟩

theorem Refetched.trans (h : Refetched s u) (g : Refetched u v) : Refetched s v where
  frame := by rw [g.frame, h.frame]
  tile t := by rw [g.tile, h.tile]

theorem Refetched.foldl {α : Type} {f : State → α → State} (hf : ∀ s a, Refetched s (f s a)) (l : List α) (s : State) :
    Refetched s (l.foldl f s) := by
  induction l generalizing s with
  | nil => exact .refl s
  | cons a l ih => exact (hf s a).trans (ih _)

theorem Refetched.modTile (s : State) (t : TileId) (bad : NatSet) (words : Tab DWord) :
    Refetched s (s.modTile t fun y => { y with badInstr := bad, imem := words }) where
  frame := rfl
  tile v := by
    by_cases hv : v = t
    · rw [hv, State.tile_modTile_eq]
    · rw [State.tile_modTile_ne _ _ hv]

/-- State `u` is `s` where a rerun has thrown away what the step must make again, but for its edges and tiles. -/
structure Cleared (c : Fin 8) (s u : State) : Prop where
  frame : u = { s with ctxs := u.ctxs, ports := u.ports, tiles := u.tiles }
  ctx : u.ctx c = { s.ctx c with members := (u.ctx c).members, refetchTiles := [] }
  others : ∀ d, d ≠ c → u.ctx d = s.ctx d
  tile : ∀ t, u.tile t = { s.tile t with badInstr := (u.tile t).badInstr, imem := (u.tile t).imem }
  queue : ∀ p : Fin 64, ∀ f ∈ (u.ports[p]).queue, f.ctx = some c → f.frame.type ≠ 0x01

/-- May the rerun of a context start again? -/
def State.mayRestart (s : State) (c : Fin 8) (q : Scroll) : Prop :=
  (s.ctx c).rerunning = true ∧ (s.ctx c).inStep = true ∧ (s.ctx c).state = .running ∧ s.hng.running = false ∧
    s.windowsServed c q = true

theorem rerunRestart_none (h : (s.ctx c).scroll = none) : s.rerunRestart c = s := by
  have found : s.scroll? c = none := h
  simp only [State.rerunRestart, found]

theorem rerunRestart_stays (hq : (s.ctx c).scroll = some q) (h : ¬s.mayRestart c q) : s.rerunRestart c = s := by
  have found : s.scroll? c = some q := hq
  unfold State.rerunRestart
  rw [found]
  refine if_pos ?_
  by_contra go
  simp only [not_or, Bool.not_eq_true', Bool.not_eq_false, ne_eq, not_not, Bool.not_eq_true] at go
  exact h go

/-- Each thing a rerun waits for. -/
theorem rerunRestart_waits (h : (s.ctx c).scroll = none ∨ (s.ctx c).rerunning = false ∨ (s.ctx c).inStep = false ∨
    (s.ctx c).state ≠ .running ∨ s.hng.running = true ∨ ((s.ctx c).scroll = some q ∧ s.windowsServed c q = false)) :
    s.rerunRestart c = s := by
  rcases hq : (s.ctx c).scroll with _ | r
  · exact rerunRestart_none hq
  · refine rerunRestart_stays hq fun ⟨rerunning, inStep, state, calm, served⟩ => ?_
    rcases h with h | h | h | h | h | ⟨h, hw⟩
    · cases hq.symm.trans h
    · cases rerunning.symm.trans h
    · cases inStep.symm.trans h
    · exact h state
    · cases calm.symm.trans h
    · obtain rfl : r = q := Option.some.inj (hq.symm.trans h)
      cases served.symm.trans hw

/-- A context whose members are sent again from where they stand. -/
def Ctx.resent (f : Tab (Tab Member) → Tab (Tab Member)) (x : Ctx) : Ctx := { x with members := f x.members }

/-- Where its members, its frames at the ports, and its instruction stores have been made ready, a rerun may begin its tiles. -/
theorem resent_cleared {f : Tab (Tab Member) → Tab (Tab Member)}
    (h : Refetched ((s.modCtx c (Ctx.resent f)).dropFrames c fun f => f.frame.type == 0x01) u) :
    Cleared c s (u.modCtx c fun x => { x with refetchTiles := [] }) := by
  have here : u.ctx c = (s.ctx c).resent f := (h.ctx c).trans (ctx_modCtx_eq s c _)
  have there (d : Fin 8) (hd : d ≠ c) : u.ctx d = s.ctx d := (h.ctx d).trans (ctx_modCtx_ne s _ hd)
  refine ⟨?_, ?_, fun d hd => (ctx_modCtx_ne _ _ hd).trans (there d hd), h.tile, fun p g hg hc => ?_⟩
  · rw [h.frame]
    rfl
  · rw [ctx_modCtx_eq, here]
    rfl
  · have queued : g ∈ (u.ports[p]).queue := hg
    rw [h.ports] at queued
    exact beq_eq_false_iff_ne.mp (dropFrames_queue _ c (fun f => f.frame.type == 0x01) p queued hc)

/-- The parts of a rerun: what it throws away, its edges and its tiles. -/
theorem rerunRestart_parts (hq : (s.ctx c).scroll = some q) (h : s.mayRestart c q) : ∃ s1, Cleared c s s1 ∧
    s.rerunRestart c = (((s1.beginEdges c true).beginTiles c q true).releasePhases c) := by
  obtain ⟨rerunning, inStep, state, calm, served⟩ := h
  generalize hu : s.rerunRestart c = u
  unfold State.rerunRestart at hu
  split at hu
  · next none => cases none.symm.trans hq
  · next r found =>
    obtain rfl : r = q := Option.some.inj (found.symm.trans hq)
    extract_lets x s' handed s1 s2 s3 s4 s5 s6 at hu
    rw [if_neg (by simp [x, rerunning, inStep, state, calm, served])] at hu
    have refetched : Refetched s2 s3 := .foldl (fun s k => .modTile ..) x.refetchTiles s2
    refine ⟨s4, ?_, hu.symm⟩
    clear_value handed s3
    exact resent_cleared refetched

/-- The tiles of a rerun, where none reads a word of bad parity. -/
theorem Cleared.begins {s1 : State} (h : Cleared c s s1) (hp : ∀ t, (s.tile t).badWords = [] ∨ (q.window t).isSome = true) :
    (s1.beginEdges c true).beginTiles c q true = (s.ctx c).tileList.foldl
      (State.beginTile ((s1.beginEdges c true).ctx c) q true) (s1.beginEdges c true) := by
  have edged := beginEdges_ctx s1 c true
  rw [h.ctx] at edged
  rw [beginTiles_quiet fun t => ?_, edged]
  · rfl
  · have same : (s1.beginEdges c true).tile t = s1.tile t := rfl
    rw [same, h.tile t]
    exact (hp t).imp id fun hw => by rw [Scroll.reloads, if_pos rfl, Option.isSome_map, hw]

/-- What a rerun leaves of its context, of the others, and at the ports. -/
theorem rerunRestart_ctx (hq : (s.ctx c).scroll = some q) (h : s.mayRestart c q)
    (hp : ∀ t, (s.tile t).badWords = [] ∨ (q.window t).isSome = true) :
    (∀ d, d ≠ c → (s.rerunRestart c).ctx d = s.ctx d) ∧ ((s.rerunRestart c).ctx c).rerunning = false ∧
      ((s.rerunRestart c).ctx c).refetchTiles = [] ∧ ((s.rerunRestart c).ctx c).curStep = (s.ctx c).curStep ∧
      ((s.rerunRestart c).ctx c).skips = (s.ctx c).skips ∧ ((s.rerunRestart c).ctx c).committed = (s.ctx c).committed ∧
      ((s.rerunRestart c).ctx c).reds = ((s.ctx c).reds.mapVals fun _ r => r.again) ∧
      ((s.rerunRestart c).ctx c).mem = (s.ctx c).mem ∧
      ∀ p : Fin 64, ∀ f ∈ ((s.rerunRestart c).ports[p]).queue, f.ctx = some c → f.frame.type ≠ 0x01 := by
  obtain ⟨s1, cleared, he⟩ := rerunRestart_parts hq h
  have edges := beginEdges_edges s1 c true
  have edged := beginEdges_ctx s1 c true
  obtain ⟨skips, committed, reds⟩ := beginEdges_rerun s1 c
  have started := beginTiles_starting ((s1.beginEdges c true).ctx c) q true (s.ctx c).tileList (s1.beginEdges c true)
  rw [← cleared.begins hp] at started
  have phased := releasePhases_phased ((s1.beginEdges c true).beginTiles c q true) c
  rw [← he] at phased
  have ports : (s.rerunRestart c).ports = s1.ports := by rw [phased.frame, started.ports, edges.frame]
  have here := phased.ctx
  rw [started.ctx c] at here
  rw [cleared.ctx] at edged skips committed reds
  generalize s1.beginEdges c true = s2 at *
  refine ⟨fun d hd => ?_, ?_, ?_, ?_, ?_, ?_, ?_, ?_, fun p f hf => ?_⟩
  · rw [phased.others d hd, started.ctx d, edges.others d hd, cleared.others d hd]
  · exact (congrArg Ctx.rerunning here :).trans (congrArg Ctx.rerunning edged :)
  · exact (congrArg Ctx.refetchTiles here :).trans (congrArg Ctx.refetchTiles edged :)
  · exact (congrArg Ctx.curStep here :).trans (congrArg Ctx.curStep edged :)
  · exact (congrArg Ctx.skips here :).trans skips
  · exact (congrArg Ctx.committed here :).trans committed
  · exact (congrArg Ctx.reds here :).trans reds
  · exact (congrArg Ctx.mem here :).trans (congrArg Ctx.mem edged :)
  · rw [ports] at hf
    exact cleared.queue p f hf

/-- The tiles of a rerun stand at the start of their step, with their counts of steps. -/
theorem rerunRestart_tile {t : TileId} (hq : (s.ctx c).scroll = some q) (h : s.mayRestart c q)
    (hp : ∀ t, (s.tile t).badWords = [] ∨ (q.window t).isSome = true) (ht : t ∈ (s.ctx c).tileList) (hg : s.tileGone t = false) :
    (s.tile t).Fresh ((s.rerunRestart c).tile t) := by
  obtain ⟨s1, cleared, he⟩ := rerunRestart_parts hq h
  have phased := releasePhases_phased ((s1.beginEdges c true).beginTiles c q true) c
  rw [← he, cleared.begins hp] at phased
  have gone : (s1.beginEdges c true).tileGone t = false := by
    rw [(beginEdges_edges s1 c true).frame, cleared.frame]
    exact hg
  have begun := beginTiles_mem (x := (s1.beginEdges c true).ctx c) (q := q) (reload := true) (s.ctx c).tileList_nodup
    (s1.beginEdges c true) ht gone
  have steps : ((s1.beginEdges c true).tile t).steps = (s.tile t).steps := by
    have same : (s1.beginEdges c true).tile t = s1.tile t := rfl
    rw [same, cleared.tile t]
  have tile : (s.rerunRestart c).tile t = (s1.beginEdges c true).begunAs ((s1.beginEdges c true).ctx c) q true t := by
    rw [← begun, phased.frame]
    rfl
  rw [tile]
  obtain ⟨events, finished, counted⟩ := ((s1.beginEdges c true).tile t).begin_fresh
    (q.reloads ((s1.beginEdges c true).ctx c) true t) ((s1.beginEdges c true).ctx c).curSeed ((s1.beginEdges c true).ctx c).curPos
  exact ⟨events, finished, counted.trans steps⟩

end Sys2Proof.Machine

/-! ### Steps (R62, R117, R118, R121) -/

namespace Sys2Proof.Machine

variable {c : Fin 8} {s s1 : State} {q : Scroll} {t : TileId}

theorem replayRecord_modTile (s : State) (t : TileId) (f : Tile → Tile) (c : Fin 8) (q : Scroll) :
    (s.modTile t f).replayRecord c q = s.replayRecord c q := rfl

/-- The last tile of a step has finished: the step has ended. -/
theorem tileFinish_ends (hc : Clear s) (h : Meanwhile c s s1) (hr : (s.ctx c).state = .running) :
    let u := (s1.modTile t Tile.finishes).stepEnd c q
    let x := s.ctx c
    Clear u ∧ (u.ctx c).inStep = false ∧ (u.ctx c).stepNo = x.curStep + 1 ∧ (u.ctx c).stepsRun = x.stepsRun + 1 ∧
      (u.ctx c).stepsDone = x.stepsDone + 1 ∧ (u.ctx c).lastStep = x.curStep ∧ (u.ctx c).units = [] ∧
      u.replayHead = s.replayHead + (s1.replayRecord c q).1.length ∧ (u.tile t).steps = (s.tile t).steps + 1 ∧
      (x.starting = true → s.degraded = false → (s.rings[ringOf c]).cmds.filter Cmd.isHold = [] →
        (u.ctx c).state = if x.stepsLeft = some 1 ∨ x.stepsLeft = some 0 then .loaded
          else if x.faultHold || x.hostHold || x.capoHold then .held else .running) := by
  have cleared : Clear (s1.modTile t Tile.finishes) := h.clear_finishes hc
  have field {α : Type} (f : Ctx → α) (hf : f (s1.ctx c) = f (s.ctx c)) :
      f ((s1.modTile t Tile.finishes).ctx c) = f (s.ctx c) := hf
  have curStep := field Ctx.curStep (congrArg Ctx.curStep h.ctx :)
  have left := field Ctx.stepsLeft (congrArg Ctx.stepsLeft h.ctx :)
  have fault := field Ctx.faultHold (congrArg Ctx.faultHold h.ctx :)
  have host := field Ctx.hostHold (congrArg Ctx.hostHold h.ctx :)
  have capo := field Ctx.capoHold (congrArg Ctx.capoHold h.ctx :)
  obtain ⟨clear, head, steps, inStep, stepNo, stepsRun, stepsDone, lastStep, units⟩ := stepEnd_leaves cleared c q
  refine ⟨clear, inStep, by rw [stepNo, curStep],
    stepsRun.trans (congrArg (· + 1) (field Ctx.stepsRun (congrArg Ctx.stepsRun h.ctx :))),
    stepsDone.trans (congrArg (· + 1) (field Ctx.stepsDone (congrArg Ctx.stepsDone h.ctx :))), lastStep.trans curStep, units, ?_, ?_,
    fun hs hg hh => ?_⟩
  · rw [head, replayRecord_modTile, State.modTile_replayHead, h.replayHead]
  · rw [steps, State.tile_modTile_eq, h.tile]
    rfl
  · rw [stepEnd_state cleared (field Ctx.starting (congrArg Ctx.starting h.ctx :) ▸ hs)
      ((field Ctx.state (congrArg Ctx.state h.ctx :)).trans hr) (h.degraded.trans hg) (by rw [State.modTile_rings, h.rings]; exact hh),
      left, fault, host, capo]

end Sys2Proof.Machine

section
open Sys2Proof Sys2Proof.Machine

/-- Settles O45: what a tile that finishes, the last tile of a step, a step that begins and a rerun leave, case by case. -/
theorem stepsRun : Obligations.StepsRun := by
  intro s c q ha hc x others
  have finishes {t : TileId} {P : State → Prop} (hu : Clear (s.tileFinish t)) (hp : P (s.tileFinish t)) :
      Completes s (.tileStepFinish t) P :=
    act_completes (f := fun s => (s.tileFinish t).serve) rfl ha (by rwa [serve_clear hu])
  have begins {P : State → Prop} (hu : Clear (s.stepBegin c)) (hp : P (s.stepBegin c)) : Completes s (.contextStepBegin c) P :=
    act_completes (f := fun s => (s.stepBegin c).serve) rfl ha (by rwa [serve_clear hu])
  have restarts {P : State → Prop} (hp : P (s.rerunRestart c)) : Completes s (.rerunRestart c) P :=
    act_completes (f := fun s => s.rerunRestart c) rfl ha hp
  refine ⟨fun t ht => ?_, fun t ht hq => ?_, fun h => ?_, fun hm hq hr hw => ?_, ⟨?_, ?_, ?_⟩, fun h => ?_, ?_⟩
  · have still : s.tileFinish t = s := by simp only [State.tileFinish, ht]
    exact finishes (by rwa [still]) still
  · have stays (still : s.tileFinish t = s) : Completes s (.tileStepFinish t) fun u => u = s := finishes (by rwa [still]) still
    refine ⟨fun h => stays (tileFinish_waits ht hq h), fun hi hr hf h => stays (tileFinish_stays ht hq hi hr hf h),
      fun s1 hi hr hf hgo hd hb hw => ?_, fun w s2 hw hs => writeBackTile_lines hw hs⟩
    have beside : Meanwhile c s s1 := by
      have h := writeBackTile_meanwhile s c q t
      rwa [hw] at h
    have closes := tileFinish_eq ht hq hi hr hf hgo hd hb hw
    refine ⟨fun hrest => ?_, fun hrest htargets hrerun => ?_⟩
    · have waits := closes.trans (tryStepEnd_waits beside hrest)
      refine finishes (by rw [waits]; exact beside.clear_finishes hc) ?_
      rw [waits]
      refine ⟨rfl, ?_, fun v hv => ?_⟩
      · rw [State.tile_modTile_eq, beside.tile]
        rfl
      · rw [State.tile_modTile_ne _ _ hv, beside.tile]
    · have ends := closes.trans (tryStepEnd_ends beside hrest hi hrerun htargets)
      obtain ⟨clear, kept⟩ := tileFinish_ends (q := q) (t := t) hc beside hr
      exact finishes (by rwa [ends]) (by rwa [ends])
  · have still := stepBegin_stays h
    exact begins (by rwa [still]) still
  · have still := stepBegin_waits hm hq hr hw
    exact begins (by rwa [still]) still
  · rintro ⟨hm, hq, hr⟩ hp hn
    obtain ⟨-, state, -⟩ := mayBegin_running hm
    obtain ⟨clear, kept⟩ := endSteps_caused hc state Status.ok
    have ends := stepBegin_exhausted hm hq hr hp hn
    exact begins (by rwa [ends]) (by rwa [ends])
  · rintro ⟨hm, hq, hr⟩ hp hw hcur hpend
    obtain ⟨inStep, -, -⟩ := mayBegin_running hm
    obtain ⟨clear, here, tiles, there⟩ := stepBegin_versionless_leaves hm hq hr hc hp hw hcur hpend
    exact begins clear ⟨by rw [here], by rw [here]; exact inStep, by rw [here], tiles, there⟩
  · rintro ⟨hm, hq, hr⟩ hp hn hb
    obtain ⟨-, -, calm⟩ := mayBegin_running hm
    have starts := stepBegin_unpinned hm hq hr hp hn
    have quiet (t : TileId) : (s.tile t).badWords = [] ∨ (q.reloads (s.ctx c) (s.ctx c).reload t).isSome = true :=
      (hb t).imp id fun ⟨h, hw⟩ => by rw [Scroll.reloads, if_pos h, Option.isSome_map, hw]
    obtain ⟨clear, there, inStep, curStep, curIndex, curSeed, curPos, stepTime, reload, cleared, mem⟩ :=
      beginStep_ctx (q := q) hc quiet
    refine begins (by rwa [starts]) ?_
    rw [starts]
    refine ⟨inStep, curStep, curIndex, curSeed, curPos, stepTime, reload, cleared,
      fun ht => ⟨mem hq ht, there, fun t ht hg => beginStep_tile quiet ht hg⟩, fun t ht w hx hg hw hbad => ?_⟩
    have reloads : q.reloads (s.ctx c) (s.ctx c).reload t = some ((s.ctx c).mem, w) := by
      rw [Scroll.reloads, if_pos hx, hw]
      rfl
    exact beginStep_raised quiet ht hg calm reloads (by rw [reloads]; exact hbad)
  · exact restarts (rerunRestart_waits h)
  · intro hq hr hi hs hh hw hb
    have may : s.mayRestart c q := ⟨hr, hi, hs, hh, hw⟩
    obtain ⟨there, rerunning, refetchTiles, curStep, skips, committed, reds, mem, queue⟩ := rerunRestart_ctx hq may hb
    refine restarts ⟨there, rerunning, refetchTiles, curStep, skips, committed, reds, mem, queue, fun t ht hg => ?_⟩
    obtain ⟨events, finished, steps⟩ := rerunRestart_tile hq may hb ht hg
    exact ⟨events, finished, steps⟩

end

/-! ### Integer arithmetic (R92) -/

namespace Sys2Proof.Machine

/-! #### Two's complement -/

/-- `signed` and `unsigned` are the model's spelling of `BitVec.toInt` and `BitVec.ofInt`. -/
theorem signed_eq_toInt {w : Nat} (hw : 0 < w) (v : Nat) : signed w v = (BitVec.ofNat w v).toInt := by
  have half : 2 ^ w = 2 * 2 ^ (w - 1) := Nat.two_pow_pred_mul_two hw ▸ Nat.mul_comm ..
  simp only [signed, BitVec.toInt_eq_toNat_cond, BitVec.toNat_ofNat]
  exact if_congr (by omega) rfl rfl

theorem signed_toNat {w : Nat} (hw : 0 < w) (x : BitVec w) : signed w x.toNat = x.toInt := by
  rw [signed_eq_toInt hw, BitVec.ofNat_toNat, BitVec.setWidth_eq]

theorem toNat_signed_toNat {w : Nat} (hw : 0 < w) {x : BitVec w} (hx : 0 ≤ x.toInt) : (signed w x.toNat).toNat = x.toNat := by
  have low : 2 * x.toNat < 2 ^ w := not_le.mp (mt BitVec.toInt_neg_iff.mpr hx.not_gt)
  rw [signed_toNat hw, BitVec.toInt_eq_toNat_of_lt low, Int.toNat_natCast]

theorem le_signed {w : Nat} (hw : 0 < w) (v : Nat) : -2 ^ (w - 1) ≤ signed w v :=
  signed_eq_toInt hw v ▸ BitVec.le_toInt _

theorem signed_lt {w : Nat} (hw : 0 < w) (v : Nat) : signed w v < 2 ^ (w - 1) :=
  signed_eq_toInt hw v ▸ BitVec.toInt_lt

theorem signed_natAbs_le {w : Nat} (hw : 0 < w) (v : Nat) : (signed w v).natAbs ≤ 2 ^ (w - 1) := by
  zify
  exact abs_le.mpr ⟨le_signed hw v, (signed_lt hw v).le⟩

/-- The pattern of an integer in range stands for that integer. -/
theorem signed_unsigned {w : Nat} (hw : 0 < w) {x : Int} (lo : -2 ^ (w - 1) ≤ x) (hi : x < 2 ^ (w - 1)) :
    signed w (unsigned w x) = x := by
  rw [unsigned, ← BitVec.toNat_ofInt, signed_toNat hw]
  exact BitVec.toInt_ofInt_eq_self hw lo hi

/-! #### Saturation -/

/-- The nearest integer of the INT32 range (R92). -/
def clamp32 (x : Int) : Int := max (-(2 ^ 31)) (min x (2 ^ 31 - 1))

theorem signed_sat32 (x : Int) : signed 32 (unsigned 32 (sat32 x)) = clamp32 x := by
  rw [signed_unsigned (by decide)] <;> simp only [sat32, clamp32] <;> omega

/-- The lanes of `vadd`, `vsub` and `vmul` (R52). -/
theorem signed_arith (i : Int → Int → Int) (g : Nat → Nat → Nat) (a b : Nat) :
    signed 32 (arith true i g a b) = clamp32 (i (signed 32 a) (signed 32 b)) := signed_sat32 _

theorem signed_min (a b : Nat) : signed 32 (minMax true false a b) = min (signed 32 a) (signed 32 b) :=
  signed_unsigned (by decide) (le_min (le_signed (by decide) a) (le_signed (by decide) b))
    (min_lt_of_left_lt (signed_lt (by decide) a))

theorem signed_max (a b : Nat) : signed 32 (minMax true true a b) = max (signed 32 a) (signed 32 b) :=
  signed_unsigned (by decide) (le_max_of_le_left (le_signed (by decide) a))
    (max_lt (signed_lt (by decide) a) (signed_lt (by decide) b))

/-- A left shift has nothing to round (R79). -/
theorem rneShift_of_nonneg {k : Int} (hk : 0 ≤ k) (m : Nat) : rneShift m k = m * 2 ^ k.toNat := if_pos hk

/-- A product with 2^32 or more leaves the INT32 range. -/
theorem clamp32_mul_of_le {x p : Int} (hx : x ≠ 0) (hp : 2 ^ 32 ≤ p) :
    clamp32 (x * p) = if x < 0 then -(2 ^ 31) else 2 ^ 31 - 1 := by
  unfold clamp32
  split
  case isTrue neg =>
    have : x * p ≤ -1 * p := Int.mul_le_mul_of_nonneg_right (by omega) (by omega)
    omega
  case isFalse nonneg =>
    have : 1 * p ≤ x * p := Int.mul_le_mul_of_nonneg_right (by omega) (by omega)
    omega

/-- `vscl` by a power of two that is not negative (R51, R92). -/
theorem signed_scaleLane {k : Int} (hk : 0 ≤ k) (a : Nat) :
    signed 32 (scaleLane true a k) = clamp32 (signed 32 a * 2 ^ k.toNat) := by
  have grows (big : 32 ≤ k) : (2 : Int) ^ 32 ≤ 2 ^ k.toNat := pow_le_pow_right₀ (by decide) (by omega)
  simp only [scaleLane, if_true, rneShift_of_nonneg hk]
  split_ifs with zero big neg neg
  · rw [zero, Int.zero_mul]; rfl
  · rw [clamp32_mul_of_le zero (grows big), if_pos neg]; rfl
  · rw [clamp32_mul_of_le zero (grows big), if_neg neg]; rfl
  · rw [signed_sat32, Nat.cast_mul, Int.ofNat_natAbs_of_nonpos (by omega), Int.neg_mul, Int.neg_neg, Nat.cast_pow]; rfl
  · rw [signed_sat32, Nat.cast_mul, Int.natAbs_of_nonneg (by omega), Nat.cast_pow]; rfl

/-! #### The accumulator -/

/-- The sign of a product is the exclusive or of the signs, so the product of two integers is exact (R93). -/
theorem units_ofInt_mul (x y : Int) : ((Val.ofInt x).mul (.ofInt y)).units 0 = x * y := by
  simp only [Val.ofInt, Val.mul, Val.units]
  rcases lt_or_ge x 0 with hx | hx <;> rcases lt_or_ge y 0 with hy | hy <;>
    simp [hx, hy, hx.not_gt, hy.not_gt, abs_of_neg, abs_of_nonneg]

theorem signed_accumulate (acc : Nat) (ps : List Val) :
    signed 32 (accumulate true acc ps) = clamp32 (signed 32 acc + (ps.map fun v => v.units 0).sum) := by
  rw [List.sum_eq_foldl]
  exact signed_sat32 _

/-- A group sum of `w`-bit integers grows by at most 4^(w - 1) per product. -/
theorem groupSum_natAbs_le {f : Fmt} {w : Nat} (hw : 0 < w) (hf : ∀ p, elemVal f p = .ofInt (signed w p))
    (ps : List (Nat × Nat)) :
    Int.natAbs ((ps.map fun e => (elemVal f e.1).mul (elemVal f e.2)).map fun v => v.units 0).sum ≤
      ps.length * (2 ^ (w - 1) * 2 ^ (w - 1)) := by
  induction ps with
  | nil => simp
  | cons e ps ih =>
    have product : (signed w e.1 * signed w e.2).natAbs ≤ 2 ^ (w - 1) * 2 ^ (w - 1) := by
      rw [Int.natAbs_mul]
      exact Nat.mul_le_mul (signed_natAbs_le hw _) (signed_natAbs_le hw _)
    simp only [List.map_cons, List.sum_cons, List.length_cons, hf, units_ofInt_mul, Nat.succ_mul] at ih ⊢
    omega

/-! #### The scalar sequencer -/

variable {s : State} {t : TileId} {k : Fin 8} {f : Fields} {c : Instr} {op : Nat}

theorem Slot.second_toInt (z : Slot) (f : Fields) :
    (z.second f).toInt = if f.getLsbD 41 then (f.extractLsb' 0 32).toInt else (z.value (f.extractLsb' 42 4)).toInt :=
  apply_ite _ _ _ _

/-- A scalar operation that computes an integer operation modulo 2^32. -/
theorem scalar_wraps {g : Word → Word → Word} {i : Int → Int → Int} (h : Issues s t k) (ho : op < 64)
    (he : ∀ s, exec c s = act (fun s => s.issueAs t (word 1 op f) (doScalar g) false) s) (hr : f.extractLsb' 32 6 = 0)
    (hg : ∀ a b : Word, g a b = BitVec.ofInt 32 (i a.toInt b.toInt)) :
    Completes s c fun u => (u.slotOf t k).regs = ((s.slotOf t k).written (f.extractLsb' 50 4)
      (BitVec.ofInt 32 (i ((s.slotOf t k).value (f.extractLsb' 46 4)).toInt ((s.slotOf t k).second f).toInt))).regs := by
  obtain ⟨v, u, hx, settled, -, -, slot, -⟩ := scalar_writes h ho he (fun _ _ => rfl) hr
  exact ⟨v, u, hx, settled, hg _ _ ▸ (congrArg Slot.regs slot :)⟩

end Sys2Proof.Machine

section
open Sys2Proof Sys2Proof.Machine

/-- Settles O7: the lanes by `signed_sat32` and `signed_scaleLane`, the accumulator by `signed_accumulate`, the group sums
by `groupSum_natAbs_le`, the scalar operations by `scalar_wraps`. -/
theorem integerLanesSaturate : Obligations.IntegerLanesSaturate := by
  refine ⟨fun c sc a b d => ?_, fun acc f ps => ?_, fun s t k f h hr => ?_⟩
  · refine ⟨signed_arith (· + ·) add32 a b, signed_arith (· - ·) sub32 a b, signed_arith (· * ·) mul32 a b, signed_sat32 _,
      signed_sat32 _, signed_sat32 _, fun hsc => ?_, signed_min a b, signed_max a b⟩
    exact toNat_signed_toNat (by decide) hsc ▸ signed_scaleLane (signed_toNat (by decide) sc ▸ hsc) a
  · refine ⟨signed_accumulate _ _, ?_, ?_⟩
    · rintro rfl hl
      exact (groupSum_natAbs_le (w := 4) (by decide) (fun _ => rfl) ps).trans (by omega)
    · rintro rfl hl
      exact (groupSum_natAbs_le (w := 8) (by decide) (fun _ => rfl) ps).trans (by omega)
  · simp only [← Slot.second_toInt]
    exact ⟨scalar_wraps (op := 1) (i := (· + ·)) h (by decide) (fun _ => rfl) hr fun a b => by simp [BitVec.ofInt_add],
      scalar_wraps (op := 2) (i := (· - ·)) h (by decide) (fun _ => rfl) hr fun a b =>
        BitVec.eq_of_toInt_eq (by rw [BitVec.toInt_sub, BitVec.toInt_ofInt]),
      scalar_wraps (op := 3) (i := (· * ·)) h (by decide) (fun _ => rfl) hr fun a b => by simp [BitVec.ofInt_mul]⟩

end

namespace Sys2Proof.Machine

/-! ### The handle table (R108 to R110) -/

theorem fld_mod {n lo w : Nat} (v : Nat) (h : lo + w ≤ n) : fld (v % 2 ^ n) lo w = fld v lo w := by
  rw [fld_eq_mod_div, fld_eq_mod_div, Nat.mod_mod_of_dvd _ (Nat.pow_dvd_pow 2 h)]

/-- The word of an entry as the scratchpad holds it. -/
def Tile.entryWord (x : Tile) (h : Nat) : Word := BitVec.ofNat 32 (Memory.readLE x.pad (4 * h) 4)

/-- A field below the access bits: of entry 0 the constant of R109, of any other what its word holds. -/
theorem Tile.fld_entry (x : Tile) (h : Nat) {lo w : Nat} (k : BitVec w) (hw : lo + w ≤ 24) (hk : fld 0xB00C00 lo w = k.toNat) :
    fld (x.entry h) lo w = (if h = 0 then k else (x.entryWord h).extractLsb' lo w).toNat := by
  unfold Tile.entry
  split
  · rw [← hk, ← fld_mod (0xB00C00 + _) hw, Nat.add_mul_mod_self_right, fld_mod _ hw]
  · exact (fld_mod (n := 32) _ (by omega)).symm

/-- The access bits of every entry are those of its word. -/
theorem Tile.bitAt_entry (x : Tile) (h : Nat) (k : Fin 8) : bitAt (x.entry h) (24 + k.1) = (x.entryWord h).getLsbD (24 + k.1) := by
  have upper : x.entry h / 2 ^ 24 = Memory.readLE x.pad (4 * h) 4 / 2 ^ 24 := by
    unfold Tile.entry
    split
    · rw [Nat.add_mul_div_right _ _ (by decide)]; simp
    · rfl
  rw [← bitAt_getLsbD]
  calc bitAt (x.entry h) (24 + k.1) = bitAt (Memory.readLE x.pad (4 * h) 4) (24 + k.1) := by
        simp only [bitAt, Nat.shiftRight_add, Nat.shiftRight_eq_div_pow _ 24, upper]
    _ = bitAt (x.entryWord h).toNat (24 + k.1) := congrArg (· == 1) (fld_mod (n := 32) (w := 1) _ (by omega)).symm

theorem ite_handle_eq_ok {p : Prop} [Decidable p] {r : Resolve} {a : Nat} :
    (if p then .handle else r) = Resolve.ok a ↔ ¬p ∧ r = .ok a := by
  split <;> simp [*]

theorem ite_parity_eq_ok {p : Prop} [Decidable p] {w : Nat} {r : Resolve} {a : Nat} :
    (if p then .parity w else r) = Resolve.ok a ↔ ¬p ∧ r = .ok a := by
  split <;> simp [*]

theorem Tile.bitAt_entry_below (x : Tile) (h : Nat) {i : Nat} (k : BitVec 1) (hi : i + 1 ≤ 24) (hk : fld 0xB00C00 i 1 = k.toNat) :
    bitAt (x.entry h) i = ((if h = 0 then k else (x.entryWord h).extractLsb' i 1) == 1#1) := by
  have one : ∀ b : BitVec 1, (b.toNat == 1) = (b == 1#1) := by decide
  exact (congrArg (· == 1) (x.fld_entry h k hi hk)).trans (one _)

end Sys2Proof.Machine

section
open Sys2Proof Sys2Proof.Machine

/-- Settles O10: each test of `Tile.resolve` is one of the conditions, its fields read by `Tile.fld_entry`. -/
theorem handleResolution : Obligations.HandleResolution := by
  intro x quota addr wide extent a acc h off e base size view hint valid
  have base' : (if h = 0 then 0 else fld (x.entry h) 0 10) = base := by
    rw [x.fld_entry h (k := 0) (by decide) rfl]
    exact ite_congr rfl (fun _ => rfl) fun h0 => congrArg BitVec.toNat (if_neg h0)
  have size' : fld (x.entry h) 10 10 = size := (x.fld_entry h 3 (by decide) rfl).trans (apply_ite BitVec.toNat _ _ _)
  have view' : bitAt (x.entry h) 20 = (view == 1#1) := x.bitAt_entry_below h 1 (by decide) rfl
  have hint' : fld (x.entry h) 21 2 = hint.toNat := x.fld_entry h 1 (by decide) rfl
  have valid' : bitAt (x.entry h) 23 = (valid == 1#1) := x.bitAt_entry_below h 1 (by decide) rfl
  have reserved' : fld addr.toNat 16 10 = (addr.extractLsb' 16 10).toNat := rfl
  have h' : addr.toNat / 2 ^ 26 = h := by
    simp only [h, BitVec.extractLsb'_toNat, Nat.shiftRight_eq_div_pow]
    omega
  have off' : addr.toNat % 2 ^ 16 = off := rfl
  have bits (k : Fin 8) : bitAt (x.entry h) (24 + k.1) = e.getLsbD (24 + k.1) := x.bitAt_entry h k
  unfold Tile.resolve
  simp only [h', off', base', size', view', hint', valid', reserved', bits, ite_handle_eq_ok, ite_parity_eq_ok]
  clear_value h off e base size view hint valid
  have hint2 : hint.toNat = 2 ↔ hint = 2#2 := BitVec.toNat_inj (y := 2)
  refine and_congr ?parity <| and_congr ?valid <| and_congr ?reserved <| and_congr ?quota <| and_congr ?range <|
    and_congr ?hint <| and_congr ?view <| and_congr ?aligned <| and_congr ?extent <| and_congr ?access ?byte
  case parity | valid | quota | aligned => simp
  case range | extent => omega
  case reserved => exact not_not.trans (BitVec.toNat_inj (y := 0))
  case hint => exact not_congr (BitVec.toNat_inj (y := 3))
  case view =>
    clear base' size' view' hint' valid' bits
    revert view wide
    decide
  case access =>
    cases acc with
    | read => simp
    | write k => simp [hint2]
    | result => simp [hint2]
  case byte => rw [Resolve.ok.injEq, eq_comm]
end

namespace Sys2Proof.Machine

variable {s u : State} {c : Fin 8} {q : Scroll} {l : Fin 2} {t : Target} {entry b sl : Nat} {vals : List Nat}

/-! ### Reduction -/

/-! #### The level's record -/

theorem modCtx_modCtx (s : State) (c : Fin 8) (f g : Ctx → Ctx) : (s.modCtx c f).modCtx c g = s.modCtx c fun x => g (f x) := by
  simp only [State.modCtx, State.setCtx, State.ctx, vget_vset_eq, vset_vset]

theorem modCtx_self {f : Ctx → Ctx} (h : f (s.ctx c) = s.ctx c) : s.modCtx c f = s := by
  rw [State.modCtx, h, State.setCtx, State.ctx, vset_self]

theorem red_set_eq (x : Ctx) (l : Fin 2) (entry : Nat) (r : RedLevel) :
    ({ x with reds := x.reds.set (redKey l entry) r } : Ctx).red l entry = r := getD_set_eq _ _ _ _

theorem red_modRed_eq (s : State) (c : Fin 8) (l : Fin 2) (entry : Nat) (f : RedLevel → RedLevel) :
    ((s.modRed c l entry f).ctx c).red l entry = f ((s.ctx c).red l entry) := by
  rw [State.modRed, ctx_modCtx_eq, red_set_eq]

theorem modRed_modRed (s : State) (c : Fin 8) (l : Fin 2) (entry : Nat) (f g : RedLevel → RedLevel) :
    (s.modRed c l entry f).modRed c l entry g = s.modRed c l entry fun r => g (f r) := by
  simp only [State.modRed, modCtx_modCtx, red_set_eq, set_set]

theorem modRed_congr {f g : RedLevel → RedLevel} (h : f ((s.ctx c).red l entry) = g ((s.ctx c).red l entry)) :
    s.modRed c l entry f = s.modRed c l entry g := by
  simp only [State.modRed, State.modCtx, h]

@[simp] theorem redFrame_ctx (s : State) (c : Fin 8) (t : Target) (l : Fin 2) (entry ty : Nat) (dest : Half) (sl b : Nat)
    (pay : List Byte) (d : Fin 8) : (s.redFrame c t l entry ty dest sl b pay).ctx d = s.ctx d := by
  unfold State.redFrame
  split
  · rfl
  · rw [enqueue_ctx]

/-- In strict mode no copy is settled (R288). -/
theorem settled_strict (h : (s.ctx c).redMode = false) (q : Scroll) (t : Target) (l : Fin 2) (entry : Nat) (dest : Half) (b : Nat) :
    s.settled c q t l entry dest b = s := by
  rw [State.settled, h]
  rfl

/-! #### A pre-pass that has ended (R283) -/

/-- No pre-pass of the context has a byte left, and every mask can be read. -/
structure Ctx.PrepassOver (x : Ctx) (q : Scroll) : Prop where
  masks : ∀ t ∈ q.targets, x.maskReady q t = true
  ended : ∀ e t l, l ≤ q.finalLevel → q.target? e = some t → x.sliceOf q t (x.red l e).preNext = none

theorem prepassRun_over (h : (s.ctx c).sliceOf q t ((s.ctx c).red l entry).preNext = none) (n : Nat) :
    State.prepassRun c q l t entry n s = s := by
  cases n with
  | zero => rfl
  | succ n =>
    have none : s.prepassOne c q l t entry = none := by
      simp only [State.prepassOne, h]
    rw [State.prepassRun, none]

theorem foldl_fixed_mem {α β : Type} {f : β → α → β} {b : β} {l : List α} (h : ∀ a ∈ l, f b a = b) : l.foldl f b = b :=
  List.foldlRecOn (motive := (· = b)) l f rfl fun _ hb a ha => hb ▸ h a ha

theorem prepass_over (hq : s.scroll? c = some q) (h : (s.ctx c).PrepassOver q) : s.prepass c = s := by
  unfold State.prepass
  simp only [hq]
  split
  · rfl
  · refine foldl_fixed_mem fun e he => ?_
    have at_ : q.targets[e.2]? = some e.1 := List.mem_zipIdx_iff_getElem?.mp he
    rw [h.masks e.1 (List.mem_of_getElem? at_)]
    refine foldl_fixed_mem fun l _ => ?_
    split
    · rfl
    · next hl => exact prepassRun_over (h.ended e.2 e.1 l (not_lt.mp hl) at_) _

/-- Context `y` is `x` in what a hop and a pre-pass that has ended look at. -/
structure Ctx.Passes (x y : Ctx) : Prop where
  scroll : y.scroll = x.scroll
  mem : y.mem = x.mem
  pages : y.pages = x.pages
  redMode : y.redMode = x.redMode
  preNext : ∀ l e, (y.red l e).preNext = (x.red l e).preNext

theorem Ctx.Passes.trans {x y z : Ctx} (h : x.Passes y) (g : y.Passes z) : x.Passes z :=
  ⟨g.scroll.trans h.scroll, g.mem.trans h.mem, g.pages.trans h.pages, g.redMode.trans h.redMode,
    fun l e => (g.preNext l e).trans (h.preNext l e)⟩

theorem sliceOf_congr {x y : Ctx} (h : y.mem = x.mem) (q : Scroll) (t : Target) (b : Nat) : y.sliceOf q t b = x.sliceOf q t b := by
  show ({ x with mem := y.mem } : Ctx).sliceOf q t b = x.sliceOf q t b
  rw [h]

theorem maskReady_congr {x y : Ctx} (h : y.pages = x.pages) (q : Scroll) (t : Target) : y.maskReady q t = x.maskReady q t := by
  simp only [Ctx.maskReady, page_congr h]

theorem Ctx.PrepassOver.passes {x y : Ctx} (h : x.PrepassOver q) (g : x.Passes y) : y.PrepassOver q where
  masks t ht := (maskReady_congr g.pages q t).trans (h.masks t ht)
  ended e t l hl he := by rw [sliceOf_congr g.mem, g.preNext, h.ended e t l hl he]

theorem red_set (x : Ctx) (l m : Fin 2) (e o : Nat) (r : RedLevel) :
    ({ x with reds := x.reds.set (redKey l e) r } : Ctx).red m o = if redKey m o = redKey l e then r else x.red m o := by
  unfold Ctx.red
  split
  · next h => rw [h, getD_set_eq]
  · next h => exact getD_set_ne _ _ _ h

theorem red_congr (x : Ctx) {l m : Fin 2} {e o : Nat} (h : redKey m o = redKey l e) : x.red m o = x.red l e := by
  rw [Ctx.red, h, Ctx.red]

theorem modRed_passes (s : State) (c : Fin 8) (l : Fin 2) (entry : Nat) {f : RedLevel → RedLevel}
    (hf : ∀ r, (f r).preNext = r.preNext) : (s.ctx c).Passes ((s.modRed c l entry f).ctx c) := by
  rw [State.modRed, ctx_modCtx_eq]
  refine ⟨rfl, rfl, rfl, rfl, fun m e => ?_⟩
  rw [red_set]
  split
  · next h => rw [hf, red_congr _ h]
  · rfl

/-! #### A hop in strict mode (R284) -/

/-- The record of an entry once a block has been processed. -/
def RedLevel.passed (r : RedLevel) (b : Nat) (vals : List Nat) : RedLevel :=
  { r with
    next := b + 1, inReg := r.inReg.erase b, inByp := r.inByp.erase b, agreed := r.agreed.erase b
    ownDigest := r.ownDigest ^^^ crc64 (leBytes 8 b ++ vals.flatMap (leBytes 4)) }

/-- The state once a block has been processed in strict mode. -/
def State.blockOver (s : State) (c : Fin 8) (l : Fin 2) (entry b : Nat) (vals : List Nat) : State :=
  (s.modRed c l entry fun r => r.passed b vals).modCtx c ({ · with advanced := true })

theorem blockOver_ctx (s : State) (c : Fin 8) (l : Fin 2) (entry b : Nat) (vals : List Nat) :
    (s.blockOver c l entry b vals).ctx c = { s.ctx c with
      reds := (s.ctx c).reds.set (redKey l entry) (((s.ctx c).red l entry).passed b vals), advanced := true } := by
  rw [State.blockOver, ctx_modCtx_eq, State.modRed, ctx_modCtx_eq]

theorem blockOver_red_eq (s : State) (c : Fin 8) (l : Fin 2) (entry b : Nat) (vals : List Nat) :
    ((s.blockOver c l entry b vals).ctx c).red l entry = ((s.ctx c).red l entry).passed b vals := by
  rw [blockOver_ctx]
  exact red_set_eq _ _ _ _

theorem blockOver_red_ne (s : State) (c : Fin 8) {l m : Fin 2} {entry o : Nat} (b : Nat) (vals : List Nat)
    (h : redKey m o ≠ redKey l entry) : ((s.blockOver c l entry b vals).ctx c).red m o = (s.ctx c).red m o := by
  rw [blockOver_ctx]
  exact getD_set_ne _ _ _ h

theorem blockOver_rfld (s : State) (c : Fin 8) (l : Fin 2) (entry b : Nat) (vals : List Nat) (o lo w : Nat) :
    (s.blockOver c l entry b vals).rfld o lo w = s.rfld o lo w := rfl

/-- Nothing but contexts differs. -/
def CtxsOnly (s u : State) : Prop := u = { s with ctxs := u.ctxs }

theorem CtxsOnly.trans {s t u : State} (h : CtxsOnly s t) (g : CtxsOnly t u) : CtxsOnly s u := by
  unfold CtxsOnly at h g ⊢
  rw [g, h]

theorem modRed_ctxsOnly (s : State) (c : Fin 8) (l : Fin 2) (entry : Nat) (f : RedLevel → RedLevel) :
    CtxsOnly s (s.modRed c l entry f) := rfl

theorem blockOver_ctxsOnly (s : State) (c : Fin 8) (l : Fin 2) (entry b : Nat) (vals : List Nat) :
    CtxsOnly s (s.blockOver c l entry b vals) := rfl

theorem modRed_blockOver (s : State) (c : Fin 8) (l : Fin 2) (entry b : Nat) (vals : List Nat) (f : RedLevel → RedLevel) :
    (s.modRed c l entry f).blockOver c l entry b vals =
      (s.modRed c l entry fun r => (f r).passed b vals).modCtx c ({ · with advanced := true }) := by
  rw [State.blockOver, modRed_modRed]

theorem blockOver_passes (s : State) : (s.ctx c).Passes ((s.blockOver c l entry b vals).ctx c) := by
  have same := modRed_passes s c l entry (f := fun r => r.passed b vals) fun _ => rfl
  rw [State.modRed, ctx_modCtx_eq] at same
  rw [blockOver_ctx]
  exact same.trans ⟨rfl, rfl, rfl, rfl, fun _ _ => rfl⟩

theorem hopDone_strict (h : (s.ctx c).redMode = false) (from_ : Option Half) :
    s.hopDone c q l t entry b vals from_ = s.blockOver c l entry b vals := by
  have strict : ((s.blockOver c l entry b vals).ctx c).redMode = false := by
    rw [blockOver_ctx]
    exact h
  exact foldl_fixed_mem fun u _ => settled_strict strict _ _ _ _ _ _

/-- With no engine bypassed a copy goes to the next engine of the ring (R289). -/
theorem receiver_next (hn : 2 ≤ (q.ring l).length) (stay : Nat) : s.receiver q l [] stay = (s.after q l 1, false) := by
  have one : (List.range (q.ring l).length).find? (fun k => decide (1 ≤ k)) = some 1 :=
    List.find?_range_eq_some.mpr ⟨rfl, List.mem_range.mpr hn, fun j hj => by simp; omega⟩
  simp [State.receiver, one]

theorem sendBlock_passedBefore (out : Bsi) (hb : b < ((s.ctx c).red l entry).sentTo) : s.sendBlock c q l t entry sl b out = s :=
  if_pos hb

/-- The bytes of a copy for the next engine, with LAST when that engine owns the slice. -/
def State.nextWire (s : State) (q : Scroll) (l : Fin 2) (t : Target) (sl : Nat) (out : Bsi) : List Byte :=
  { out with last := q.posOf l (s.after q l 1) == s.ownerPos q t l sl : Bsi }.wire

theorem sendBlock_strict (hm : (s.ctx c).redMode = false) (hy : ((s.ctx c).red l entry).bypassed = [])
    (hn : 2 ≤ (q.ring l).length) (hb : ((s.ctx c).red l entry).sentTo ≤ b) (out : Bsi) :
    s.sendBlock c q l t entry sl b out =
      (s.redFrame c t l entry 0x30 (s.after q l 1) sl b (s.nextWire q l t sl out)).modRed c l entry fun r =>
        { r with digests := vmod r.digests 0 (· ^^^ copyHash b (s.nextWire q l t sl out)) } := by
  unfold State.sendBlock
  simp only [hy, receiver_next hn, Bool.or_false, if_neg (not_lt.mpr hb), redFrame_ctx, hm, Bool.false_eq_true, if_false]
  rfl

/-- In strict mode a hop takes the copy that came from the upstream neighbour (R284, R287). -/
theorem incoming_strict {w : List Byte} (hs : ((s.ctx c).red l entry).switched = none) (hp : (s.ctx c).replay = none)
    (hw : ((s.ctx c).red l entry).inReg.get? b = some w) (first : Bool) :
    s.incoming c q l t entry b false first = (.take w (s.after q l ((q.ring l).length - 1)), s) := by
  simp [State.incoming, State.replaySwitch, hs, hp, hw]

/-- This engine's own values added to those of a copy (R284). -/
def hopSums (w : List Byte) (vals : List Nat) : List Nat :=
  (List.range 32).map fun j => round32 (((Bsi.ofBytes w).widen j).add ((vals.map val32).getD j .zero))

/-- The next block of an entry is due in strict mode, with every pre-pass ended and this engine's own values there. -/
structure HopReady (s : State) (c : Fin 8) (q : Scroll) (l : Fin 2) (t : Target) (entry b sl : Nat) (vals : List Nat) : Prop where
  alive : Alive s
  scroll : s.scroll? c = some q
  target : q.target? entry = some t
  inStep : (s.ctx c).inStep = true
  running : (s.ctx c).state = .running
  rerunning : (s.ctx c).rerunning = false
  level : l ≤ q.finalLevel
  ended : (s.ctx c).PrepassOver q
  strict : (s.ctx c).redMode = false
  replay : (s.ctx c).replay = none
  solo : s.solo c = false
  mask : (s.ctx c).maskReady q t = true
  slice : (s.ctx c).sliceOf q t b = some sl
  next : ((s.ctx c).red l entry).next = b
  inLevel : s.inLevel q t l sl = true
  own : s.ownValues c q l t entry b = some vals
  bypassed : ((s.ctx c).red l entry).bypassed = []
  switched : ((s.ctx c).red l entry).switched = none
  ring : 2 ≤ (q.ring l).length

namespace HopReady

variable (h : HopReady s c q l t entry b sl vals)

include h

/-- The row completes in what the hop leaves, since the pre-pass has nothing to do before it and after it. -/
theorem completes {P : State → Prop} (hx : s.hop c q l t entry b = u) (hk : (s.ctx c).Passes (u.ctx c)) (hp : P u) :
    Completes s (.reductionHop c l entry b) P := by
  have scroll : u.scroll? c = some q := hk.scroll.trans h.scroll
  have row : exec (.reductionHop c l entry b) s = execReductionHop c l entry b s := rfl
  rw [execReductionHop] at row
  refine act_completes row h.alive ?_
  simp only [h.scroll, h.target, h.inStep, h.rerunning, h.running, not_lt.mpr h.level]
  simpa [prepass_over h.scroll h.ended, hx, prepass_over scroll (h.ended.passes hk)] using hp

theorem hop_first {e : Nat} (hp : pathPlace (q.ring l).length (s.ownerPos q t l sl) (s.ringPos q l) = 0)
    (he : ((s.ctx c).red l entry).agreed.get? b = some e) :
    s.hop c q l t entry b = (s.sendBlock c q l t entry sl b (bsiQuantise e 0 ((s.ctx c).ownCount l entry b) false false
      (vals.map val32) [])).hopDone c q l t entry b vals none := by
  have notOwner : ¬0 = (q.ring l).length - 1 := by have := h.ring; omega
  simp [State.hop, h.slice, h.next, h.mask, h.inLevel, h.own, h.solo, hp, he, State.rstageFull, h.strict, notOwner]

theorem hop_middle {w : List Byte} (hp : pathPlace (q.ring l).length (s.ownerPos q t l sl) (s.ringPos q l) ≠ 0)
    (hp' : pathPlace (q.ring l).length (s.ownerPos q t l sl) (s.ringPos q l) ≠ (q.ring l).length - 1)
    (hw : ((s.ctx c).red l entry).inReg.get? b = some w) :
    s.hop c q l t entry b = (s.sendBlock c q l t entry sl b (bsiQuantise (Bsi.ofBytes w).e (Bsi.ofBytes w).bump
      ((Bsi.ofBytes w).count + (s.ctx c).ownCount l entry b) (Bsi.ofBytes w).skip false ((hopSums w vals).map val32)
      ((List.range 32).map (Bsi.ofBytes w).invalidAt))).hopDone c q l t entry b vals
        (some (s.after q l ((q.ring l).length - 1))) := by
  simp only [State.hop, h.slice, h.next, h.mask, h.inLevel, h.own, h.solo, State.rstageFull, h.strict, if_neg hp, if_neg hp',
    incoming_strict h.switched h.replay hw]
  simp [hopSums]

theorem hop_owner {w : List Byte} {bad : Bool}
    (hp : pathPlace (q.ring l).length (s.ownerPos q t l sl) (s.ringPos q l) = (q.ring l).length - 1)
    (hw : ((s.ctx c).red l entry).inReg.get? b = some w)
    (hb : ((List.range 32).any (Bsi.ofBytes w).invalidAt || (hopSums w vals).any fun v => nonFinite (val32 v)) = bad) :
    s.hop c q l t entry b = (s.ownerResult c q l t entry sl b (hopSums w vals)
      ((Bsi.ofBytes w).count + (s.ctx c).ownCount l entry b) (Bsi.ofBytes w).skip bad
      ((Bsi.ofBytes w).allInvalid && ((Bsi.ofBytes w).bump == 15 || (Bsi.ofBytes w).e == 255))).hopDone c q l t entry b vals
        (some (s.after q l ((q.ring l).length - 1))) := by
  have notFirst : ¬(q.ring l).length - 1 = 0 := by have := h.ring; omega
  simp only [State.hop, h.slice, h.next, h.mask, h.inLevel, h.own, h.solo, hp, if_neg notFirst,
    incoming_strict h.switched h.replay hw]
  simp [← hb, hopSums, List.any_map, Function.comp_def]

/-- The row completes in what precedes the end of the block, and the end of it. -/
theorem completes_done {P : State → Prop} {from_ : Option Half} (hx : s.hop c q l t entry b = u.hopDone c q l t entry b vals from_)
    (hk : (s.ctx c).Passes (u.ctx c)) (hp : P (u.blockOver c l entry b vals)) : Completes s (.reductionHop c l entry b) P :=
  h.completes (hx.trans (hopDone_strict (hk.redMode.trans h.strict) from_)) (hk.trans (blockOver_passes u)) hp

/-- A hop that sends its block on: the copy leaves, unless it left before the step's rerun (R123, R284). -/
theorem sends {out : Bsi} {from_ : Option Half}
    (hx : s.hop c q l t entry b = (s.sendBlock c q l t entry sl b out).hopDone c q l t entry b vals from_) :
    (((s.ctx c).red l entry).sentTo ≤ b → Completes s (.reductionHop c l entry b) fun u =>
      u = ((s.redFrame c t l entry 0x30 (s.after q l 1) sl b (s.nextWire q l t sl out)).modRed c l entry fun r =>
        ({ r with digests := vmod r.digests 0 (· ^^^ copyHash b (s.nextWire q l t sl out)) } : RedLevel).passed b vals).modCtx c
          ({ · with advanced := true })) ∧
    (b < ((s.ctx c).red l entry).sentTo → Completes s (.reductionHop c l entry b) fun u => u = s.blockOver c l entry b vals) := by
  refine ⟨fun hb => ?_, fun hb => ?_⟩
  · rw [sendBlock_strict h.strict h.bypassed h.ring hb] at hx
    refine h.completes_done hx ?_ (modRed_blockOver ..)
    have sent := modRed_passes (s.redFrame c t l entry 0x30 (s.after q l 1) sl b (s.nextWire q l t sl out)) c l entry
      (f := fun r => { r with digests := vmod r.digests 0 (· ^^^ copyHash b (s.nextWire q l t sl out)) }) fun _ => rfl
    rwa [redFrame_ctx] at sent
  · rw [sendBlock_passedBefore out hb] at hx
    exact h.completes_done hx ⟨rfl, rfl, rfl, rfl, fun _ _ => rfl⟩ rfl

end HopReady

/-! #### The owner (R286, R293, R294) -/

variable {sums : List Nat} {count : Nat} {skip bad exhausted : Bool}

theorem ownerResult_below (hl : l ≠ q.finalLevel) : s.ownerResult c q l t entry sl b sums count skip bad exhausted =
    s.modRed c 1 entry fun r => { r with own := r.own.set b sums, cnt := r.cnt.set b count } := if_pos hl

theorem ownerResult_invalid (hl : l = q.finalLevel) : s.ownerResult c q l t entry sl b sums count skip true exhausted =
    s.invalidSlice c t sl exhausted := by
  rw [State.ownerResult, if_neg (not_not.mpr hl)]
  rfl

theorem blockBase_congr {x y : Ctx} (h : y.mem = x.mem) (q : Scroll) (t : Target) (b : Nat) : y.blockBase q t b = x.blockBase q t b := by
  show ({ x with mem := y.mem } : Ctx).blockBase q t b = x.blockBase q t b
  rw [h]

theorem ownerResult_valid (hl : l = q.finalLevel) : s.ownerResult c q l t entry sl b sums count skip false exhausted =
    let u := s.modRed c l entry fun r => { r with sums := r.sums.set b (sums, count, skip) }
    if b + 1 = (s.ctx c).blockBase q t (sl + 1) then u.deliverSlice c q l t entry sl else u := by
  have base := blockBase_congr (modRed_passes s c l entry
    (f := fun r => { r with sums := r.sums.set b (sums, count, skip) }) fun _ => rfl).mem q t (sl + 1)
  rw [State.ownerResult, if_neg (not_not.mpr hl), if_neg Bool.false_ne_true]
  simp only [base]

/-- State `s` once an invalid element is recorded, before the context is held (R286). -/
def State.invalidRecorded (s : State) (c : Fin 8) (t : Target) (sl : Nat) (exhausted : Bool) : State :=
  if s.rfld Reg.grdCause 2 1 == 0 then
    ((s.cause Reg.grdCause 2).setReg Reg.grdInvAt (c.1 + bit (!exhausted) * 2 ^ 3 + 2 ^ 4 + t.tensor * 2 ^ 5)).setReg Reg.grdInvSlice
      (t.rowOf sl % 4096 + (t.colOf sl % 4096) * 2 ^ 12)
  else s.cause Reg.grdCause 2

theorem faultHold_ctx (s : State) (c : Fin 8) : (s.faultHold c).ctx c =
    { s.ctx c with faultHold := true, state := if (s.ctx c).state = .running then .held else (s.ctx c).state } := by
  rw [State.faultHold, State.stopTiles, modListed_ctx, ctx_modCtx_eq]

theorem invalidSlice_ctx (s : State) (c : Fin 8) (t : Target) (sl : Nat) (exhausted : Bool) : (s.invalidSlice c t sl exhausted).ctx c =
    { s.ctx c with faultHold := true, state := if (s.ctx c).state = .running then .held else (s.ctx c).state } := by
  have same : (s.invalidRecorded c t sl exhausted).ctx c = s.ctx c := by
    unfold State.invalidRecorded
    split <;> rfl
  rw [← same]
  exact faultHold_ctx _ c

theorem invalidSlice_reg (s : State) (c : Fin 8) (t : Target) (sl : Nat) (exhausted : Bool) (o : Nat) :
    (s.invalidSlice c t sl exhausted).reg o = (s.invalidRecorded c t sl exhausted).reg o := rfl

theorem invalidSlice_cause (s : State) (c : Fin 8) (t : Target) (sl : Nat) (exhausted : Bool) :
    (s.invalidSlice c t sl exhausted).rfld Reg.grdCause 2 1 = 1 := by
  have kept : (s.invalidRecorded c t sl exhausted).reg Reg.grdCause = (s.cause Reg.grdCause 2).reg Reg.grdCause := by
    unfold State.invalidRecorded
    split
    · rw [State.reg_setReg_ne _ _ (by decide), State.reg_setReg_ne _ _ (by decide)]
    · rfl
  exact (rfld_of_reg kept).trans (rfld_cause_self s Reg.grdCause (by decide))

/-- The first invalid element's place: its context, whether it is no exhausted block, and VALID (R286). -/
theorem invalidSlice_at (h : s.rfld Reg.grdCause 2 1 = 0) :
    (s.invalidSlice c t sl exhausted).rfld Reg.grdInvAt 0 3 = c.1 ∧
    ((s.invalidSlice c t sl exhausted).rfld Reg.grdInvAt 3 1 = 0 ↔ exhausted = true) ∧
    (s.invalidSlice c t sl exhausted).rfld Reg.grdInvAt 4 1 = 1 := by
  have place : (s.invalidSlice c t sl exhausted).reg Reg.grdInvAt =
      (c.1 + bit (!exhausted) * 2 ^ 3 + 2 ^ 4 + t.tensor * 2 ^ 5) % 2 ^ 32 := by
    rw [invalidSlice_reg, State.invalidRecorded, h, if_pos (beq_self_eq_true _), State.reg_setReg_ne _ _ (by decide), State.reg_setReg_eq]
  have hc := c.isLt
  simp only [State.rfld, place, fld, Nat.shiftRight_eq_div_pow]
  cases exhausted with
  | false => simp [bit]; omega
  | true => simp [bit]; omega

theorem edgeOf_congr (h : (u.ctx c).scroll = (s.ctx c).scroll) (side n : Nat) : u.edgeOf c side n = s.edgeOf c side n := by
  simp only [State.edgeOf, State.scroll?, h]

theorem sliceBytes_congr {x y : Ctx} (h : y.mem = x.mem) (q : Scroll) (t : Target) (sl : Nat) (r : Tab (List Nat × Nat × Bool)) :
    y.sliceBytes q t sl r = x.sliceBytes q t sl r := by
  show ({ x with mem := y.mem } : Ctx).sliceBytes q t sl r = x.sliceBytes q t sl r
  rw [h]

theorem modRed_members (s : State) (c : Fin 8) (l : Fin 2) (entry : Nat) (f : RedLevel → RedLevel) :
    ((s.modRed c l entry f).ctx c).members = (s.ctx c).members := by
  rw [State.modRed, ctx_modCtx_eq]

/-- What the delivery of a whole slice leaves (R294). -/
theorem deliverSlice_spec (s : State) (c : Fin 8) (q : Scroll) (l : Fin 2) (t : Target) (entry sl : Nat) :
    let x := s.ctx c
    let r := x.red l entry
    let e := s.edgeOf c t.side t.ostream
    let m := r.delivered % max 1 e.members
    let u := s.deliverSlice c q l t entry sl
    CtxsOnly s u ∧ x.Passes (u.ctx c) ∧ (u.ctx c).red l entry = { r with delivered := r.delivered + 1, sums := [] } ∧
      (u.ctx c).member t.side t.ostream m = { x.member t.side t.ostream m with
        arrived := (x.member t.side t.ostream m).arrived ++ [{
          seq := r.delivered / max 1 e.members, bytes := Memory.writeBytes [] 0 (x.sliceBytes q t sl r.sums)
          piece := (e.lines + 63) / 64 }] } := by
  intro x r e m u
  let counted := s.modRed c l entry fun r => { r with delivered := r.delivered + 1, sums := [] }
  have here : u.ctx c = (counted.ctx c).modMember t.side t.ostream m fun y => { y with arrived := y.arrived ++ [{
      seq := r.delivered / max 1 e.members, bytes := Memory.writeBytes [] 0 (x.sliceBytes q t sl r.sums)
      piece := (e.lines + 63) / 64 }] } := ctx_modCtx_eq _ _ _
  have counts : (counted.ctx c).red l entry = { r with delivered := r.delivered + 1, sums := [] } := red_modRed_eq _ _ _ _ _
  have passes : x.Passes (counted.ctx c) := modRed_passes _ _ _ _ fun _ => rfl
  have members : (counted.ctx c).members = x.members := modRed_members ..
  refine ⟨rfl, ?_, ?_, ?_⟩
  · rw [here]
    exact passes.trans ⟨rfl, rfl, rfl, rfl, fun _ _ => rfl⟩
  · rw [here]
    exact counts
  · rw [here, member_modMember_eq]
    simp only [Ctx.member, members]

end Sys2Proof.Machine

section
open Sys2Proof Sys2Proof.Machine

/-- Settles O25: a hop in strict mode (`HopReady.hop_first`, `hop_middle`, `hop_owner`), with a pre-pass that has nothing to do
before and after it (`HopReady.completes`). -/
theorem reductionHops : Obligations.ReductionHops := by
  intro s c q l t entry b sl vals alive x r n owner place cnt scroll target inStep running level ended strict masks mask
    replay rerunning solo slice next inLevel own bypassed switched ring hop passed sends
  have h : HopReady s c q l t entry b sl vals :=
    { alive, scroll, target, inStep, running, rerunning, level, ended := ⟨masks, ended⟩, strict, replay, solo, mask, slice, next,
      inLevel, own, bypassed, switched, ring }
  have sent {out : Bsi} {from_ : Option Half}
      (hx : s.hop c q l t entry b = (s.sendBlock c q l t entry sl b out).hopDone c q l t entry b vals from_) : sends out :=
    h.sends hx
  refine ⟨fun e first he => sent (h.hop_first first he), fun w notFirst hw => ?_⟩
  intro inn sums invalid
  refine ⟨fun middle => sent (h.hop_middle notFirst middle hw), fun last hl => ?_, fun last hl valid hb => ?_,
    fun last hl valid hb => ?_, fun last hl hi => ?_⟩
  · have owned := h.hop_owner last hw rfl
    rw [ownerResult_below hl] at owned
    have apart : redKey 1 entry ≠ redKey l entry := by
      simp only [redKey]
      omega
    refine h.completes_done owned (modRed_passes s c 1 entry fun _ => rfl)
      ⟨(modRed_ctxsOnly ..).trans (blockOver_ctxsOnly ..), ?_, ?_, ?_⟩
    · rw [blockOver_red_ne _ _ _ _ apart, red_modRed_eq, get?_set_eq]
      rfl
    · rw [blockOver_red_ne _ _ _ _ apart, red_modRed_eq, get?_set_eq]
    · rw [blockOver_red_eq]
      rfl
  · have owned := h.hop_owner last hw valid
    rw [ownerResult_valid hl, if_neg hb] at owned
    exact h.completes_done owned (modRed_passes s c l entry fun _ => rfl) (modRed_blockOver ..)
  · intro e m y
    have owned := h.hop_owner last hw valid
    rw [ownerResult_valid hl, if_pos hb] at owned
    have summed := modRed_passes s c l entry
      (f := fun r => { r with sums := r.sums.set b (sums, inn.count + cnt, inn.skip) }) fun _ => rfl
    obtain ⟨frame, delivered, record, member⟩ := deliverSlice_spec (s.modRed c l entry fun r => { r with
      sums := r.sums.set b (sums, inn.count + cnt, inn.skip) }) c q l t entry sl
    simp only [red_modRed_eq, edgeOf_congr summed.scroll, sliceBytes_congr summed.mem, Ctx.member, modRed_members] at record member
    refine h.completes_done owned (summed.trans delivered)
      ⟨((modRed_ctxsOnly ..).trans frame).trans (blockOver_ctxsOnly ..), ?_, ?_⟩
    · rw [blockOver_red_eq]
      exact congrArg (RedLevel.passed · b vals) record
    · rw [blockOver_ctx]
      exact member
  · have owned := h.hop_owner last hw hi
    rw [ownerResult_invalid hl] at owned
    refine h.completes_done owned (by rw [invalidSlice_ctx]; exact ⟨rfl, rfl, rfl, rfl, fun _ _ => rfl⟩) ?_
    simp only [blockOver_ctx, invalidSlice_ctx, blockOver_rfld]
    refine ⟨trivial, if_pos running, rfl, invalidSlice_cause .., fun first => ?_⟩
    obtain ⟨context, exhausted, validBit⟩ := invalidSlice_at (c := c) (t := t) (sl := sl)
      (exhausted := inn.allInvalid && (inn.bump == 15 || inn.e == 255)) first
    refine ⟨context, exhausted.trans ?_, validBit⟩
    simp
end

namespace Sys2Proof.Machine

variable {s u : State} {p : Fin 64} {f : Frame} {c : Fin 8} {q : Scroll} {l : Fin 2} {t : Target} {entry b sl : Nat} {vals : List Nat}

/-! #### Reduction frames (R282) -/

/-- The frame names a block of an entry's level in a context that is in a step. -/
structure NamesBlock (s : State) (f : Frame) (c : Fin 8) (q : Scroll) (l : Fin 2) (t : Target) (entry b : Nat) : Prop where
  context : f.context.toNat = c.1
  scroll : s.scroll? c = some q
  target : q.target? entry = some t
  inStep : (s.ctx c).inStep = true
  entry : fld f.stream.toNat 0 16 = entry
  level : fld f.stream.toNat 16 1 = l.1
  block : fld f.offset.toNat 0 40 = b

/-- The frame is of the step in progress in a context (R282). -/
def State.ofStep (s : State) (f : Frame) (c : Fin 8) : Prop := fld f.offset.toNat 40 24 = (s.ctx c).curStep.toNat % 2 ^ 24

/-- A context that a frame of reduction bytes, or of blocks, has reached (R122, R431). -/
def Ctx.reached (bytes block : Bool) (x : Ctx) : Ctx :=
  { x with committed := x.committed || bytes, advanced := x.advanced || block }

namespace NamesBlock

variable {go : State → Fin 8 → Scroll → Target → Fin 2 → Nat → Nat → State} {bytes block : Bool}
variable (h : NamesBlock s f c q l t entry b)

include h

theorem accepts : NamesBlock (s.accepts p f) f c q l t entry b where
  context := h.context
  scroll := (congrArg Ctx.scroll (accepts_ctx s p f c)).trans h.scroll
  target := h.target
  inStep := (congrArg Ctx.inStep (accepts_ctx s p f c)).trans h.inStep
  entry := h.entry
  level := h.level
  block := h.block

theorem redTarget_eq : s.redTarget f bytes block go =
    if fld f.offset.toNat 40 24 ≠ (s.ctx c).curStep.toNat % 2 ^ 24 then s.cause Reg.grdCause 3
    else go (s.modCtx c (Ctx.reached bytes block)) c q t l entry b := by
  simp only [State.redTarget, h.context, h.entry, h.level, h.block, finOf_val, h.scroll, h.target, h.inStep]
  simp
  rfl

theorem redTarget_stale (ho : ¬s.ofStep f c) : s.redTarget f bytes block go = s.cause Reg.grdCause 3 :=
  h.redTarget_eq.trans (if_pos ho)

theorem redTarget_taken (ho : s.ofStep f c) :
    s.redTarget f bytes block go = go (s.modCtx c (Ctx.reached bytes block)) c q t l entry b :=
  h.redTarget_eq.trans (if_neg (not_not.mpr ho))

end NamesBlock

theorem accepts_ofStep (s : State) (p : Fin 64) (f : Frame) (c : Fin 8) : (s.accepts p f).ofStep f c ↔ s.ofStep f c := by
  simp [State.ofStep]

/-- A reduction frame of another step is dropped. -/
theorem stale_frame {cmd : Instr} {ty : Byte} {go : State → Fin 8 → Scroll → Target → Fin 2 → Nat → Nat → State}
    {bytes block : Bool}
    (he : exec cmd s = actIf f.wf (fun s => s.arrive p { f with type := ty } fun s => s.redTarget f bytes block go) s)
    (h : NamesBlock s f c q l t entry b) (ha : Arrives s p ty f) (ho : ¬s.ofStep f c) :
    Completes s cmd fun u => u = { s.accepts p f with regs := u.regs } ∧ u.rfld Reg.grdCause 3 1 = 1 := by
  refine frame_completes he ha ?_
  rw [h.accepts.redTarget_stale (mt (accepts_ofStep s p f c).mp ho)]
  exact ⟨rfl, rfld_cause_self _ _ (by decide)⟩

/-- A reduction frame of the step in progress is taken. -/
theorem taken_frame {cmd : Instr} {ty : Byte} {go : State → Fin 8 → Scroll → Target → Fin 2 → Nat → Nat → State}
    {bytes block : Bool} {P : State → Prop}
    (he : exec cmd s = actIf f.wf (fun s => s.arrive p { f with type := ty } fun s => s.redTarget f bytes block go) s)
    (h : NamesBlock s f c q l t entry b) (ha : Arrives s p ty f) (ho : s.ofStep f c)
    (hp : P (go ((s.accepts p f).modCtx c (Ctx.reached bytes block)) c q t l entry b)) : Completes s cmd P := by
  refine frame_completes he ha ?_
  rwa [h.accepts.redTarget_taken ((accepts_ofStep s p f c).mpr ho)]

/-- The regular copy of a block that is due or to come, before any switch (R290). -/
theorem blockArrived_regular {src : Half} {w : List Byte} (hu : src = s.after q l ((q.ring l).length - 1))
    (hs : ((s.ctx c).red l entry).switched = none) (hb : ((s.ctx c).red l entry).next ≤ b) :
    s.blockArrived c q t l entry b src w = s.modRed c l entry fun r =>
      { r with digests := vmod r.digests 1 (· ^^^ copyHash b w), inReg := r.inReg.set b w } := by
  simp [State.blockArrived, ← hu, hs, not_lt.mpr hb, modRed_modRed]

/-! What looks at nothing but the registers: this engine's identifier and RPL_CTRL. -/

theorem after_congr (h : u.regs = s.regs) (q : Scroll) (l : Fin 2) (k : Nat) : u.after q l k = s.after q l k := by
  show ({ s with regs := u.regs } : State).after q l k = s.after q l k
  rw [h]

theorem inLevel_congr (h : u.regs = s.regs) (q : Scroll) (t : Target) (l : Fin 2) (sl : Nat) :
    u.inLevel q t l sl = s.inLevel q t l sl := by
  show ({ s with regs := u.regs } : State).inLevel q t l sl = s.inLevel q t l sl
  rw [h]

theorem solo_congr (h : u.regs = s.regs) (c : Fin 8) : u.solo c = s.solo c := by
  show ({ s with regs := u.regs } : State).solo c = s.solo c
  rw [h]

theorem reached_red (s : State) (p : Fin 64) (f : Frame) (c : Fin 8) (bytes block : Bool) (l : Fin 2) (entry : Nat) :
    (((s.accepts p f).modCtx c (Ctx.reached bytes block)).ctx c).red l entry = (s.ctx c).red l entry := by
  rw [ctx_modCtx_eq, accepts_ctx]
  rfl

theorem reached_block : Ctx.reached true true = fun x => { x with committed := true, advanced := true } := by
  funext x
  simp [Ctx.reached]

theorem reached_byte : Ctx.reached true false = fun x => { x with committed := true } := by
  funext x
  simp [Ctx.reached]

theorem reached_notice (s : State) (c : Fin 8) : s.modCtx c (Ctx.reached false false) = s :=
  modCtx_self (by simp [Ctx.reached])

/-- The copy of a block that a frame brings from the upstream neighbour is taken (R284). -/
theorem block_completes {w : List Byte} (h : NamesBlock s f c q l t entry b) (ha : Arrives s p 0x30 f) (ho : s.ofStep f c)
    (hw : splitBlocks 4096 f.payload = [w]) (hu : f.source = s.after q l ((q.ring l).length - 1))
    (hs : ((s.ctx c).red l entry).switched = none) (hb : ((s.ctx c).red l entry).next ≤ b) :
    Completes s (.redBlock p f) fun u =>
      u = ((s.accepts p f).modCtx c fun x => { x with committed := true, advanced := true }).modRed c l entry fun r => { r with
        digests := vmod r.digests 1 (· ^^^ copyHash b w), inReg := r.inReg.set b w } := by
  refine taken_frame (by exact rfl) h ha ho ?_
  simp only [hw, List.zipIdx_cons, List.zipIdx_nil, List.foldl_cons, List.foldl_nil, Nat.add_zero]
  rw [blockArrived_regular]
  · rw [reached_block]
  · exact hu.trans (after_congr (accepts_regs s p f) q l _).symm
  · rwa [reached_red]
  · rwa [reached_red]

/-! #### A pre-pass byte in strict mode (R283) -/

/-- The record of an entry once a block's pre-pass byte has been processed. -/
def RedLevel.prePassed (r : RedLevel) (b : Nat) : RedLevel :=
  { r with preNext := b + 1, pre := r.pre.erase b, preByp := r.preByp.erase b }

theorem sendPrepass_strict (hm : (s.ctx c).redMode = false) (hy : ((s.ctx c).red l entry).preBypassed = [])
    (hn : 2 ≤ (q.ring l).length) (hb : ((s.ctx c).red l entry).preSentTo ≤ b) (e : Nat) :
    s.sendPrepass c q l t entry sl b e = s.redFrame c t l entry 0x31 (s.after q l 1) sl b [BitVec.ofNat 8 e] := by
  simp [State.sendPrepass, hy, receiver_next hn, not_lt.mpr hb, hm]

theorem incomingByte_strict {v : Nat} (hs : ((s.ctx c).red l entry).preSwitched = none) (hp : (s.ctx c).replay = none)
    (hw : ((s.ctx c).red l entry).pre.get? b = some v) (first : Bool) :
    s.incoming c q l t entry b true first = (.take [BitVec.ofNat 8 v] (s.after q l ((q.ring l).length - 1)), s) := by
  simp [State.incoming, State.replaySwitch, hs, hp, hw]

/-- A block's pre-pass byte is the next of its entry in strict mode, and this engine's own values are there. -/
structure ByteDue (s : State) (c : Fin 8) (q : Scroll) (l : Fin 2) (t : Target) (entry b sl : Nat) (vals : List Nat) : Prop where
  strict : (s.ctx c).redMode = false
  replay : (s.ctx c).replay = none
  solo : s.solo c = false
  slice : (s.ctx c).sliceOf q t b = some sl
  next : ((s.ctx c).red l entry).preNext = b
  inLevel : s.inLevel q t l sl = true
  own : s.ownValues c q l t entry b = some vals
  switched : ((s.ctx c).red l entry).preSwitched = none
  bypassed : ((s.ctx c).red l entry).preBypassed = []
  unsent : ((s.ctx c).red l entry).preSentTo ≤ b
  ring : 2 ≤ (q.ring l).length

/-- The byte that is due has come from the upstream neighbour. -/
structure ByteReady (s : State) (c : Fin 8) (q : Scroll) (l : Fin 2) (t : Target) (entry b sl : Nat) (vals : List Nat)
    (v : Byte) : Prop extends ByteDue s c q l t entry b sl vals where
  came : ((s.ctx c).red l entry).pre.get? b = some v.toNat

/-- Place of this engine along the pre-pass of a slice: N - 1 for the first contributor of the blocks (R283). -/
def State.prePlace (s : State) (q : Scroll) (t : Target) (l : Fin 2) (sl : Nat) : Nat :=
  (s.ringPos q l + 2 * (q.ring l).length - s.ownerPos q t l sl - 2) % (q.ring l).length

theorem prePlace_congr (h : u.regs = s.regs) (q : Scroll) (t : Target) (l : Fin 2) (sl : Nat) :
    u.prePlace q t l sl = s.prePlace q t l sl := by
  show ({ s with regs := u.regs } : State).prePlace q t l sl = s.prePlace q t l sl
  rw [h]

/-- This engine's own values of a block do not depend on the commit point, nor on what else the records hold. -/
theorem ownValues_congr {k : Bool} {rs : Tab RedLevel} (hc : u.ctx c = { s.ctx c with committed := k, reds := rs })
    (hl : u.clkLost = s.clkLost) (ht : u.thermal = s.thermal) (ho : ((u.ctx c).red l entry).own = ((s.ctx c).red l entry).own) :
    u.ownValues c q l t entry b = s.ownValues c q l t entry b := by
  unfold State.ownValues State.wideReady State.slotServed State.pageServed State.stackServes State.stackLost State.stackStalled
    State.edgeOf State.scroll?
  simp only [ho, hl, ht]
  rw [hc]
  rfl

/-- The state once a block's pre-pass byte `e` has been processed: fixed at the first contributor, or sent on (R283). -/
def State.byteOver (s : State) (c : Fin 8) (q : Scroll) (l : Fin 2) (t : Target) (entry sl b e : Nat) : State :=
  if s.prePlace q t l sl = (q.ring l).length - 1 then
    (s.modRed c l entry (RedLevel.prePassed · b)).modRed c l entry fun r =>
      { r with agreed := r.agreed.set b (min 255 (e + (s.ctx c).redHeadroom)) }
  else (s.modRed c l entry (RedLevel.prePassed · b)).sendPrepass c q l t entry sl b e

theorem byteOver_meanwhile (s : State) (c : Fin 8) (q : Scroll) (l : Fin 2) (t : Target) (entry sl b e : Nat) :
    Meanwhile c s (s.byteOver c q l t entry sl b e) :=
  .ite ((modRed_meanwhile ..).trans (modRed_meanwhile ..)) ((modRed_meanwhile ..).trans (sendPrepass_meanwhile ..))

theorem Ctx.Worked.redMode {x y : Ctx} (h : x.Worked y) : y.redMode = x.redMode := by rw [h]
theorem Ctx.Worked.redHeadroom {x y : Ctx} (h : x.Worked y) : y.redHeadroom = x.redHeadroom := by rw [h]

theorem ByteReady.prepassOne {v : Byte} (h : ByteReady s c q l t entry b sl vals v) (h0 : s.prePlace q t l sl ≠ 0) :
    s.prepassOne c q l t entry = some (s.byteOver c q l t entry sl b (max (naturalExp (vals.map val32)) v.toNat)) := by
  have byte : leNat [BitVec.ofNat 8 v.toNat] = v.toNat := by simp [leNat]
  have headroom := (modRed_meanwhile s c l entry (RedLevel.prePassed · b)).ctx.redHeadroom
  unfold State.prePlace at h0
  unfold State.prepassOne
  simp only [h.next, h.slice, h.inLevel, h.own, h.solo, State.rstageFull, h.strict, if_neg h0,
    incomingByte_strict h.switched h.replay h.came, byte, Bool.not_true, Bool.false_and, Bool.false_eq_true, and_false, if_false,
    if_true, Option.map_some]
  have strict := (byteOver_meanwhile s c q l t entry sl b (max (naturalExp (vals.map val32)) v.toNat)).ctx.redMode.trans h.strict
  unfold State.byteOver State.prePlace at strict ⊢
  unfold RedLevel.prePassed at strict headroom ⊢
  simp only [headroom]
  cases ((s.ctx c).red l entry).preByp.get? b with
  | none => simp only [settled_strict strict]
  | some w => simp only [settled_strict strict]

theorem byteOver_first (hp : s.prePlace q t l sl = (q.ring l).length - 1) (e : Nat) : s.byteOver c q l t entry sl b e =
    (s.modRed c l entry (RedLevel.prePassed · b)).modRed c l entry fun r =>
      { r with agreed := r.agreed.set b (min 255 (e + (s.ctx c).redHeadroom)) } := if_pos hp

theorem ByteReady.byteOver_sent {v : Byte} (h : ByteReady s c q l t entry b sl vals v)
    (hp : s.prePlace q t l sl ≠ (q.ring l).length - 1) (e : Nat) : s.byteOver c q l t entry sl b e =
    (s.modRed c l entry (RedLevel.prePassed · b)).redFrame c t l entry 0x31 (s.after q l 1) sl b [BitVec.ofNat 8 e] := by
  refine (if_neg hp).trans (sendPrepass_strict ?_ ?_ h.ring ?_ e)
  · exact (modRed_meanwhile s c l entry (RedLevel.prePassed · b)).ctx.redMode.trans h.strict
  · rw [red_modRed_eq]
    exact h.bypassed
  · rw [red_modRed_eq]
    exact h.unsent

/-- After a byte the entry's next block is due. -/
theorem ByteReady.byteOver_due {v : Byte} (h : ByteReady s c q l t entry b sl vals v) (e : Nat) :
    ((s.byteOver c q l t entry sl b e).ctx c).mem = (s.ctx c).mem ∧
      (((s.byteOver c q l t entry sl b e).ctx c).red l entry).preNext = b + 1 := by
  have mem (s : State) (f : RedLevel → RedLevel) : ((s.modRed c l entry f).ctx c).mem = (s.ctx c).mem := by
    rw [State.modRed, ctx_modCtx_eq]
  by_cases hp : s.prePlace q t l sl = (q.ring l).length - 1
  · rw [byteOver_first hp, mem, mem, red_modRed_eq, red_modRed_eq]
    exact ⟨rfl, rfl⟩
  · rw [h.byteOver_sent hp, redFrame_ctx, mem, red_modRed_eq]
    exact ⟨rfl, rfl⟩

/-- State `s` with the regular byte `v` of a block come in the frame that brings it (R283). -/
def State.byteCame (s : State) (p : Fin 64) (f : Frame) (c : Fin 8) (l : Fin 2) (entry b : Nat) (v : Byte) : State :=
  ((s.accepts p f).modCtx c (Ctx.reached true false)).modRed c l entry fun r => { r with pre := r.pre.set b v.toNat }

theorem byteCame_regs (s : State) (p : Fin 64) (f : Frame) (c : Fin 8) (l : Fin 2) (entry b : Nat) (v : Byte) :
    (s.byteCame p f c l entry b v).regs = s.regs := accepts_regs s p f

theorem byteCame_ctx (s : State) (p : Fin 64) (f : Frame) (c : Fin 8) (l : Fin 2) (entry b : Nat) (v : Byte) :
    (s.byteCame p f c l entry b v).ctx c = { s.ctx c with
      committed := true
      reds := (s.ctx c).reds.set (redKey l entry) { (s.ctx c).red l entry with pre := ((s.ctx c).red l entry).pre.set b v.toNat } } := by
  rw [State.byteCame, State.modRed, ctx_modCtx_eq, ctx_modCtx_eq, accepts_ctx, reached_byte]
  rfl

theorem byteCame_red (s : State) (p : Fin 64) (f : Frame) (c : Fin 8) (l : Fin 2) (entry b : Nat) (v : Byte) :
    ((s.byteCame p f c l entry b v).ctx c).red l entry =
      { (s.ctx c).red l entry with pre := ((s.ctx c).red l entry).pre.set b v.toNat } := by
  rw [byteCame_ctx]
  exact red_set_eq ..

theorem byteCame_own (s : State) (p : Fin 64) (f : Frame) (c : Fin 8) (q : Scroll) (l : Fin 2) (t : Target) (entry b : Nat) (v : Byte) :
    (s.byteCame p f c l entry b v).ownValues c q l t entry b = s.ownValues c q l t entry b := by
  obtain ⟨pt, o, ha⟩ := accepts_eq s p f
  obtain ⟨cs, frame⟩ : ∃ cs, s.byteCame p f c l entry b v = { s with ports := pt, out := o, ctxs := cs } :=
    ⟨_, by rw [State.byteCame, ha]; rfl⟩
  refine ownValues_congr (byteCame_ctx s p f c l entry b v) ?_ ?_ ?_
  · rw [frame]
  · rw [frame]
  · rw [byteCame_red]

theorem ByteDue.byteCame (h : ByteDue s c q l t entry b sl vals) (p : Fin 64) (f : Frame) (v : Byte) :
    ByteReady (s.byteCame p f c l entry b v) c q l t entry b sl vals v where
  strict := by rw [byteCame_ctx]; exact h.strict
  replay := by rw [byteCame_ctx]; exact h.replay
  solo := (solo_congr (byteCame_regs ..) c).trans h.solo
  slice := by rw [byteCame_ctx]; exact h.slice
  next := by rw [byteCame_red]; exact h.next
  inLevel := (inLevel_congr (byteCame_regs ..) q t l sl).trans h.inLevel
  own := (byteCame_own ..).trans h.own
  came := by rw [byteCame_red]; exact get?_set_eq ..
  switched := by rw [byteCame_red]; exact h.switched
  bypassed := by rw [byteCame_red]; exact h.bypassed
  unsent := by rw [byteCame_red]; exact h.unsent
  ring := h.ring

/-- The state once the byte has come and has been processed, but for what is fixed or sent on. -/
theorem byteCame_prePassed (s : State) (p : Fin 64) (f : Frame) (c : Fin 8) (l : Fin 2) (entry b : Nat) (v : Byte) :
    (s.byteCame p f c l entry b v).modRed c l entry (RedLevel.prePassed · b) =
      ((s.accepts p f).modCtx c fun x => { x with committed := true }).modRed c l entry fun r => { r with
        pre := (r.pre.set b v.toNat).erase b, preByp := r.preByp.erase b, preNext := b + 1 } := by
  rw [State.byteCame, modRed_modRed, reached_byte]
  rfl

/-- One byte of a single entry's pre-pass, at level 1 alone, after which none is ready. -/
theorem prepass_one (hq : s.scroll? c = some q) (hr : (s.ctx c).rerunning = false) (ht : q.targets = [t]) (hf : q.finalLevel = 0)
    (hm : (s.ctx c).maskReady q t = true) (h1 : s.prepassOne c q 0 t 0 = some u)
    (h2 : (u.ctx c).sliceOf q t ((u.ctx c).red 0 0).preNext = none) : s.prepass c = u := by
  have levels : List.finRange 2 = [0, 1] := rfl
  have run (n : Nat) : State.prepassRun c q 0 t 0 (n + 1) s = u := by
    rw [State.prepassRun, h1]
    exact prepassRun_over h2 n
  simp [State.prepass, hq, hr, ht, hm, levels, hf, run]

/-- The byte that a frame brings is taken, and the pre-pass goes on with it. -/
theorem byte_completes {v : Byte} (h : NamesBlock s f c q 0 t 0 b) (ha : Arrives s p 0x31 f) (ho : s.ofStep f c) (hv : f.payload = [v])
    (hu : f.source = s.after q 0 ((q.ring 0).length - 1)) (hd : ByteDue s c q 0 t 0 b sl vals) (ht : q.targets = [t])
    (hf : q.finalLevel = 0) (hl : (s.ctx c).sliceOf q t (b + 1) = none) (hre : (s.ctx c).rerunning = false)
    (hm : (s.ctx c).maskReady q t = true) (h0 : s.prePlace q t 0 sl ≠ 0) : Completes s (.redPrepass p f) fun u =>
      u = (s.byteCame p f c 0 0 b v).byteOver c q 0 t 0 sl b (max (naturalExp (vals.map val32)) v.toNat) := by
  refine taken_frame (by exact rfl) h ha ho ?_
  have upstream : f.source = ((s.accepts p f).modCtx c (Ctx.reached true false)).after q 0 ((q.ring 0).length - 1) :=
    hu.trans (after_congr (accepts_regs s p f) q 0 _).symm
  have hr := hd.byteCame p f v
  have came := byteCame_ctx s p f c 0 0 b v
  have pages : ((s.byteCame p f c 0 0 b v).ctx c).pages = (s.ctx c).pages := by rw [came]
  have mem' : ((s.byteCame p f c 0 0 b v).ctx c).mem = (s.ctx c).mem := by rw [came]
  obtain ⟨mem, due⟩ := hr.byteOver_due (max (naturalExp (vals.map val32)) v.toNat)
  have passes := prepass_one (s := s.byteCame p f c 0 0 b v) (c := c) ((congrArg Ctx.scroll came).trans h.scroll)
    ((congrArg Ctx.rerunning came).trans hre) ht hf ((maskReady_congr pages q t).trans hm)
    (hr.prepassOne (by rwa [prePlace_congr (byteCame_regs ..)])) (by rw [due]; exact (sliceOf_congr (mem.trans mem') q t _).trans hl)
  rw [← passes]
  simp only [hv, List.zipIdx_cons, List.zipIdx_nil, List.foldl_cons, List.foldl_nil, Nat.add_zero, reached_red, hd.switched, hd.next]
  rw [if_neg (by rintro ⟨-, e⟩; cases e), if_neg (lt_irrefl b), if_pos upstream]
  rfl

/-! #### SETTLED (R288) -/

/-- The first copy of a block that an engine holds, of a kind; a level's pre-pass copies before its blocks (log 21). -/
def State.copyOf (s : State) (c : Fin 8) (entry b : Nat) (src : Half) (l : Fin 2) (pre : Bool) : Option Retained :=
  ((s.ctx c).red l entry).retained.find? fun k => k.block == b && k.prepass == pre && k.dest == src

theorem copyOf_prepass (h : ∀ j ∈ ((s.ctx c).red l entry).retained, j.prepass = false) (b : Nat) (src : Half) :
    s.copyOf c entry b src l true = none := by
  rw [State.copyOf, List.find?_eq_none]
  intro j hj
  simp [h j hj]

theorem copyOf_block (h : ∀ j ∈ ((s.ctx c).red l entry).retained, j.prepass = false) (b : Nat) (src : Half) :
    s.copyOf c entry b src l false = ((s.ctx c).red l entry).retained.find? fun k => k.block == b && k.dest == src :=
  List.find?_congr fun j hj => by simp [h j hj]

/-- The copy of a block that the sender of a SETTLED held is freed, where no pre-pass copy is retained. -/
theorem settled_completes {k : Retained} (h : NamesBlock s f c q 0 t entry b) (ha : Arrives s p 0x03 f) (ho : s.ofStep f c)
    (hr : ∀ j ∈ ((s.ctx c).red 0 entry).retained, j.prepass = false)
    (hk : ((s.ctx c).red 0 entry).retained.find? (fun j => j.block == b && j.dest == f.source) = some k) :
    Completes s (.settled p f) fun u =>
      u = ((s.accepts p f).modRed c 0 entry fun r => { r with retained := r.retained.erase k }).prepass c := by
  refine taken_frame (by exact rfl) h ha ho ?_
  rw [reached_notice]
  rw [← accepts_ctx s p f c] at hr hk
  extract_lets find
  have noByte : find 0 true = none := copyOf_prepass hr b f.source
  have found : find 0 false = some k := (copyOf_block hr b f.source).trans hk
  have first : [((0 : Fin 2), true), (0, false), (1, true), (1, false)].findSome? (fun e =>
      (find e.1 e.2).map fun k => (e.1, k)) = some (0, k) := by
    simp [noByte, found]
  rw [first]

/-! #### The bypass (R289) -/

theorem posOf_after_lt (hn : 0 < (q.ring l).length) (k : Nat) : q.posOf l (s.after q l k) < (q.ring l).length := by
  have hk : (s.ringPos q l + k) % max 1 (q.ring l).length < (q.ring l).length := by
    rw [max_eq_right (by omega)]
    exact Nat.mod_lt _ hn
  rw [Scroll.posOf, List.idxOf_lt_length_iff, State.after, List.getD_eq_getElem _ _ hk]
  exact List.getElem_mem hk

/-- With the next engine of the ring bypassed, and the one after it another engine, a copy that no engine stays for goes to that. -/
theorem receiver_second {d : Half} (hn : 3 ≤ (q.ring l).length) (h1 : s.after q l 1 = d) (h2 : s.after q l 2 ≠ d) :
    s.receiver q l [d] (q.ring l).length = (s.after q l 2, true) := by
  have stays (k : Nat) : (q.posOf l (s.after q l k) == (q.ring l).length) = false :=
    beq_false_of_ne (posOf_after_lt (by omega) k).ne
  have two : (List.range (q.ring l).length).find? (fun k => decide (1 ≤ k) && !([d].contains (s.after q l k))) = some 2 := by
    refine List.find?_range_eq_some.mpr ⟨?_, List.mem_range.mpr hn, fun j hj => ?_⟩
    · simp [h2]
    · obtain rfl | rfl : j = 0 ∨ j = 1 := by omega
      · rfl
      · simp [h1]
  simp only [State.receiver, stays, Bool.or_false, two]
  rfl

theorem counted_ctx (s : State) (o b o' lo w n : Nat) (c : Fin 8) : ((s.cause o b).count o' lo w n).ctx c = s.ctx c := rfl

/-- State `s` with engine `d` the first bypassed for an entry: cause, count and record (R289). -/
def State.passedOver (s : State) (c : Fin 8) (l : Fin 2) (entry : Nat) (d : Half) : State :=
  ((s.cause Reg.grdCause 1).count Reg.grdCounts 16 16 1).modRed c l entry fun r => { r with bypassed := [d] }

theorem passedOver_ctx (s : State) (c : Fin 8) (l : Fin 2) (entry : Nat) (d : Half) : (s.passedOver c l entry d).ctx c =
    { s.ctx c with reds := (s.ctx c).reds.set (redKey l entry) { (s.ctx c).red l entry with bypassed := [d] } } := by
  rw [State.passedOver, State.modRed, ctx_modCtx_eq, counted_ctx]

theorem passedOver_red (s : State) (c : Fin 8) (l : Fin 2) (entry : Nat) (d : Half) :
    ((s.passedOver c l entry d).ctx c).red l entry = { (s.ctx c).red l entry with bypassed := [d] } := by
  rw [State.passedOver, red_modRed_eq, counted_ctx]

theorem passedOver_ident (s : State) (c : Fin 8) (l : Fin 2) (entry : Nat) (d : Half) : (s.passedOver c l entry d).ident = s.ident := by
  have same : ((s.cause Reg.grdCause 1).count Reg.grdCounts 16 16 1).reg Reg.engIdent = s.reg Reg.engIdent := by
    rw [State.count, State.setFld, State.reg_setReg_ne _ _ (by decide), State.reg_cause_ne _ _ (by decide)]
  have record : (s.passedOver c l entry d).reg Reg.engIdent = s.reg Reg.engIdent := by
    rw [← same, State.passedOver, State.modRed]
    simp only [State.reg, State.modCtx_regs]
  rw [State.ident, State.ident, rfld_of_reg record]

theorem passedOver_after (s : State) (c : Fin 8) (l : Fin 2) (entry : Nat) (d : Half) (k : Nat) :
    (s.passedOver c l entry d).after q l k = s.after q l k := by
  simp only [State.after, State.ringPos, passedOver_ident]

theorem passedOver_frame (s : State) (c : Fin 8) (l : Fin 2) (entry : Nat) (d : Half) :
    (s.passedOver c l entry d).frame = s.frame := by
  unfold State.frame
  rw [passedOver_ident]

theorem passedOver_redOffset (s : State) (c : Fin 8) (l : Fin 2) (entry : Nat) (d : Half) (b : Nat) :
    (s.passedOver c l entry d).redOffset c b = s.redOffset c b := by
  simp only [State.redOffset, passedOver_ctx]

/-- The notice of a bypass, to the engine after the one passed over (R290). -/
def State.sendNotice (s : State) (c : Fin 8) (q : Scroll) (l : Fin 2) (t : Target) (entry sl b : Nat) (d : Half) : State :=
  (s.passedOver c l entry d).enqueue (s.rolePort 2 t.side sl)
    (s.frame 0x32 3 (s.after q l 2) 0 0 (entry + l.1 * 2 ^ 16) (s.redOffset c b) false (leBytes 2 d.toNat ++ List.replicate 6 0))
    (some (l.1 * 2 ^ 16, 3, 0)) (some c)

/-- The bypass of the receiver of a single late copy. -/
theorem bypass_single {k : Retained} (hk : ((s.ctx c).red l entry).retained = [k]) (hp : k.prepass = false)
    (hd : k.dest = s.after q l 1) (hy : ((s.ctx c).red l entry).bypassed = []) (hn : 3 ≤ (q.ring l).length)
    (h2 : s.after q l 2 ≠ k.dest) (hs : ((s.ctx c).sliceOf q t k.block).getD 0 = sl)
    (ho : q.posOf l k.dest ≠ s.ownerPos q t l sl) {w : List Byte}
    (hw : { Bsi.ofBytes k.wire with skip := true, last := q.posOf l (s.after q l 2) == s.ownerPos q t l sl : Bsi }.wire = w) :
    s.bypass c q l t entry false = ((s.sendNotice c q l t entry sl k.block k.dest).redFrame c t l entry 0x30 (s.after q l 2) sl k.block
      w).modRed c l entry fun r => { r with
        digests := vmod r.digests 2 (· ^^^ copyHash k.block w), retained := [{ k with dest := s.after q l 2, wire := w }] } := by
  have late : (q.posOf l k.dest != s.ownerPos q t l sl) = true := bne_iff_ne.mpr ho
  have record : ((s.cause Reg.grdCause 1).count Reg.grdCounts 16 16 1).modRed c l entry
      (fun r => { r with bypassed := r.bypassed ++ [k.dest] }) = s.passedOver c l entry k.dest :=
    modRed_congr (by rw [counted_ctx, hy, List.nil_append])
  have next : ((s.passedOver c l entry k.dest).receiver q l [k.dest] (q.ring l).length).1 = s.after q l 2 := by
    have after (i : Nat) : (s.passedOver c l entry k.dest).after q l i = s.after q l i := passedOver_after s c l entry k.dest i
    rw [receiver_second hn ((after 1).trans hd.symm) (fun e => h2 ((after 2).symm.trans e)), after]
  have slice : (((s.passedOver c l entry k.dest).ctx c).sliceOf q t k.block).getD 0 = sl := by
    rw [passedOver_ctx]
    exact hs
  unfold State.bypass
  simp only [hk, hp, hs, late, record, passedOver_red, next, passedOver_frame, passedOver_redOffset, slice, hw, List.filter_cons,
    List.filter_nil, List.foldl_cons, List.foldl_nil, BEq.rfl, Bool.and_self, Bool.false_eq_true, if_false, if_true, decide_true, le_refl]
  refine modRed_congr ?_
  simp only [redFrame_ctx, enqueue_ctx, passedOver_red, hk, List.map_cons, List.map_nil, if_true]

end Sys2Proof.Machine

section
open Sys2Proof Sys2Proof.Machine

/-- Settles O26: frames by `redTarget_eq`, of another step by `stale_frame`, a block's copy by `block_completes`, a pre-pass byte by
`byte_completes`, SETTLED by `settled_completes`; the bypass by `bypass_single`. -/
theorem reductionFrames : Obligations.ReductionFrames := by
  refine ⟨fun s p f c q l t entry b => ?_, ?_⟩
  · intro x a r n up ours context scroll target inStep entry_ level block
    have h : NamesBlock s f c q l t entry b := ⟨context, scroll, target, inStep, entry_, level, block⟩
    refine ⟨fun cmd ty hc ha ho => ?_, fun w ha ho hw hu hs hb => ?_, ?_, ?_, ?_⟩
    · simp only [List.mem_cons, Prod.mk.injEq, List.not_mem_nil, or_false] at hc
      obtain ⟨rfl, rfl⟩ | ⟨rfl, rfl⟩ | ⟨rfl, rfl⟩ | ⟨rfl, rfl⟩ := hc <;> exact stale_frame rfl h ha ho
    · exact block_completes h ha ho hw hu hs hb
    · intro v sl vals ha ho hp hu hs hb hl ht he hf last slice own solo strict replay bypassed unsent rerunning mask ring place e kept
      subst hl he
      have byteDue : ByteDue s c q 0 t 0 b sl vals :=
        { strict, replay, solo, slice, next := hb, inLevel := rfl, own, switched := hs, bypassed, unsent, ring }
      have row (h0 : place ≠ 0) := byte_completes h ha ho hp hu byteDue ht hf last rerunning mask h0
      have place' : (s.byteCame p f c 0 0 b v).prePlace q t 0 sl = place := prePlace_congr (byteCame_regs ..) q t 0 sl
      have headroom : ((s.byteCame p f c 0 0 b v).ctx c).redHeadroom = x.redHeadroom := by rw [byteCame_ctx]
      refine ⟨fun first => ?_, fun h0 notFirst => ?_⟩
      · have taken := row (by omega)
        rw [byteOver_first (place'.trans first), byteCame_prePassed, headroom] at taken
        exact taken
      · have taken := row h0
        rw [(byteDue.byteCame p f v).byteOver_sent (place'.trans_ne notFirst), byteCame_prePassed,
          after_congr (byteCame_regs ..) q 0 1] at taken
        exact taken
    · intro ha ho hu
      refine taken_frame (by exact rfl) h ha ho ?_
      rw [reached_notice, if_neg (not_not.mpr (hu.trans (after_congr (accepts_regs s p f) q l _).symm)), hu]
    · intro k ha ho hl hr hk
      subst hl
      exact settled_completes h ha ho hr hk
  · intro s c q l t entry k ha x r n sl owner next scroll target strict inStep ring retained block dest apart notOwner bypassed w s1 s2
    have row : exec (.bypass c l entry false) s = execBypass c l entry false s := rfl
    rw [execBypass] at row
    refine act_completes row ha ?_
    simp only [scroll, target]
    rw [if_pos (And.intro strict inStep)]
    exact bypass_single retained block dest bypassed ring apart rfl notOwner rfl
end

/-! ### Strings, the mesh and the chain engine -/

namespace Sys2Proof.Machine

/-! #### What a wake keeps of its tile -/

section
variable {x y : Tile} (h : x.Woken y)
include h

theorem Tile.Woken.pad : y.pad = x.pad := by rw [h.1]
theorem Tile.Woken.strs : y.strs = x.strs := by rw [h.1]
theorem Tile.Woken.runs : y.runs = x.runs := by rw [h.1]
theorem Tile.Woken.queue (u : UnitSel) : y.queue u = x.queue u := by rw [h.1]; cases u <;> rfl

end

variable {s : State} {t : TileId}

/-- What a change of a tile leaves before its slots wake. -/
theorem modTile_wake (s : State) (t : TileId) (g : Tile → Tile) :
    OnlyTiles s ((s.modTile t g).wake t) [t] ∧ (g (s.tile t)).Woken (((s.modTile t g).wake t).tile t) := by
  have woken := (s.modTile t g).wake_tile t
  rw [State.tile_modTile_eq] at woken
  refine ⟨⟨rfl, fun v hv => ?_⟩, woken⟩
  rw [List.mem_singleton] at hv
  rw [State.wake_ne _ hv, State.tile_modTile_ne _ _ hv]

/-! #### Packets of a transfer (R128, R139, R140) -/

/-- String `z` once the source lines of its transfer `seq` have been read. -/
def Str.readOut (z : Str) (seq : Nat) : Str :=
  { z with sends := z.sends.map fun p => if p.seq = seq then { p with read := true } else p }

/-- The state once the packets of the source lines from byte `a` stand at the tile. -/
def State.injected (s : State) (t : TileId) (n : Fin 32) (seq a : Nat) : State :=
  let z := (s.tile t).strs[n]
  let bs := Memory.readBytes (s.tile t).pad a (64 * z.lines)
  { s with mesh := s.mesh ++ (packets (s.header t n seq) z.lines z.zskip bs).map (InFlight.mk t 6 0) }

/-- The oldest unread `send` of no chain, whose lines have good parity. -/
theorem sourceRead_eq {n : Fin 32} {q : SendOp} (hq : ((s.tile t).strs[n]).sends.find? (fun q => !q.read) = some q)
    (hc : q.chain = none) (hb : (s.tile t).badIn [⟨q.at_, ((s.tile t).strs[n]).lines⟩] = none) :
    s.sourceRead t n = ((s.injected t n q.seq q.at_).modTile t fun x =>
      { x with advanced := true, strs := vmod x.strs n (·.readOut q.seq) }).wake t := by
  simp only [State.sourceRead, hq, hb, hc]
  rfl

end Sys2Proof.Machine

section
open Sys2Proof Sys2Proof.Machine

/-- Settles O11: `sourceRead_eq`, of which the wake keeps all but slots. -/
theorem sourceLinesLeave : Obligations.SourceLinesLeave := by
  intro s t n q ha hr x z hq hc hb
  refine act_completes (f := fun s => if s.unitsRun t then s.sourceRead t n else s) rfl ha ?_
  rw [if_pos hr, sourceRead_eq hq hc hb]
  obtain ⟨⟨frame, others⟩, woken⟩ := modTile_wake (s.injected t n q.seq q.at_) t fun x =>
    { x with advanced := true, strs := vmod x.strs n (·.readOut q.seq) }
  refine ⟨by rw [frame]; rfl, fun v hv => others v (by simpa using hv), by rw [frame]; rfl, ?_, woken.pad, fun m hm => ?_⟩
  · rw [woken.strs, vget_vmod_eq]; rfl
  · rw [woken.strs, vget_vmod_ne _ _ hm]; rfl

end

namespace Sys2Proof.Machine

variable {s : State} {t : TileId}

/-! #### The end of a transfer (R140, R145) -/

/-- String `z` once its posted transfer `seq` is done. -/
def Str.over (z : Str) (seq : Nat) : Str :=
  { z with posts := z.posts.map fun r => if r.seq = seq then { r with done := true } else r }

/-- The oldest posted transfer of a tile string, whole and of no chain. -/
theorem stringComplete_eq {n : Fin 32} {p : Post} (hp : ((s.tile t).strs[n]).posts.find? (fun p => !p.done) = some p)
    (hg : p.got.length = ((s.tile t).strs[n]).lines) (hc : p.chain = none) (hk : ((s.tile t).strs[n]).kind = 0) :
    s.stringComplete t n =
      (s.modTile t fun x => { x with advanced := true, strs := vmod x.strs n (·.over p.seq) }).wake t := by
  simp only [State.stringComplete, hp, hg, hc, hk, ne_eq, not_true_eq_false, if_false, if_true]
  rfl

theorem member_modMember (s : State) (c : Fin 8) (side n m : Nat) (f : Member → Member) :
    ((s.modMember c side n m f).ctx c).member side n m = f ((s.ctx c).member side n m) := by
  rw [State.modMember, ctx_modCtx_eq, member_modMember_eq]

theorem Meanwhile.member {c : Fin 8} {u : State} (h : Meanwhile c s u) (side n m : Nat) :
    (u.ctx c).member side n m = (s.ctx c).member side n m := by
  rw [h.ctx]; rfl

/-- The state once a member's oldest written transfer is done and its tile holds the credit again. -/
def State.written (s : State) (c : Fin 8) (side : Fin 4) (stream m : Nat) (t : TileId) (n : Fin 32) : State :=
  ((s.modMember c side.1 stream m fun y => { y with done := y.done + 1, advanced := true }).modStr t n fun z =>
    { z with credits := z.credits + 1 }).wake t

theorem memberComplete_eq {c : Fin 8} {side : Fin 4} {stream m : Nat} (hc : s.edgeCtx side.1 stream = some c)
    (ho : (s.edgeOf c side.1 stream).outbound = true)
    (hd : ((s.ctx c).member side.1 stream m).done < ((s.ctx c).member side.1 stream m).next)
    (hk : (s.edgeOf c side.1 stream).kind ≠ 3) (ht : (s.edgeOf c side.1 stream).memberTile m = some t) :
    s.memberComplete side stream m =
      ((s.written c side stream m t (finOf 32 (s.edgeOf c side.1 stream).str)).releasePhases c).prepass c := by
  simp only [State.memberComplete, hc, ho, ht, hk, Nat.not_le.mpr hd, Bool.not_true, Bool.false_eq_true, false_and, or_self,
    if_false]
  rfl

end Sys2Proof.Machine

section
open Sys2Proof Sys2Proof.Machine

/-- Settles O17: `stringComplete_eq` and `memberComplete_eq`; phases that are released and a pre-pass that goes on leave tiles
and members. -/
theorem transfersComplete : Obligations.TransfersComplete := by
  refine fun s ha => ⟨fun t n p hr => ?_, fun side stream m c t hc => ?_⟩
  · intro z hp hg hch hk
    refine act_completes (f := fun s => if s.unitsRun t then s.stringComplete t n else s) rfl ha ?_
    rw [if_pos hr, stringComplete_eq hp hg hch hk]
    obtain ⟨only, woken⟩ := modTile_wake s t fun x => { x with advanced := true, strs := vmod x.strs n (·.over p.seq) }
    refine ⟨only, woken.pad, ?_⟩
    rw [woken.strs, vget_vmod_eq]; rfl
  · intro e y ho hd hk ht
    refine act_completes (f := fun s => s.memberComplete side stream.1 m) rfl ha ?_
    rw [memberComplete_eq hc ho hd hk ht]
    generalize hw : s.written c side stream.1 m t (finOf 32 (s.edgeOf c side.1 stream.1).str) = w
    have after : Meanwhile c w ((w.releasePhases c).prepass c) :=
      (releasePhases_phased w c).meanwhile.trans (prepass_meanwhile _ c)
    obtain ⟨⟨frame, others⟩, woken⟩ := modTile_wake
      (s.modMember c side.1 stream.1 m fun y => { y with done := y.done + 1, advanced := true }) t
      fun x => { x with strs := vmod x.strs (finOf 32 e.str) fun z => { z with credits := z.credits + 1 } }
    have same : _ = w := hw
    rw [State.written, State.modStr] at same
    rw [same] at frame others woken
    refine ⟨?_, ?_, ?_, fun v hv => ?_⟩
    · rw [after.member, frame]
      exact congrArg Member.done (member_modMember s c side.1 stream.1 m _)
    · rw [after.tile, woken.strs, vget_vmod_eq]; rfl
    · rw [after.tile, woken.pad]; rfl
    · rw [after.tile, others v (by simpa using hv)]; rfl

end

namespace Sys2Proof.Machine

variable {s : State} {t : TileId}

/-! #### A header at an input port (R131, R132, R153) -/

/-- A field of a word's number is that field of its bits. -/
theorem fld_toNat {w : Nat} (v : BitVec w) (lo n : Nat) : fld v.toNat lo n = (v.extractLsb' lo n).toNat :=
  (BitVec.extractLsb'_toNat ..).symm

/-- The route entry names the port and the context of the packet (R132). -/
def Admits (e : Word) (f : InFlight) : Prop :=
  e.getLsbD 16 = true ∧ (e.extractLsb' 0 3).toNat = f.port.1 ∧ (e.extractLsb' 12 3).toNat = f.pkt.ctx.1

theorem admits_iff (e : Word) (f : InFlight) : Admits e f ↔
    (bitAt e.toNat 16 && (e.extractLsb' 0 3).toNat == f.port.1 && (e.extractLsb' 12 3).toNat == f.pkt.ctx.1) = true := by
  simp only [Admits, Bool.and_eq_true, beq_iff_eq, bitAt_getLsbD, and_assoc]

/-- The entry of the packet's channel in the route table of its tile. -/
def State.entryOf (s : State) (f : InFlight) : Word := (s.tile f.tile).routes[f.pkt.ch.toFin]

theorem entryOf_routes (s : State) (f : InFlight) :
    (s.tile f.tile).routes[finOf 32 f.pkt.ch.toNat] = s.entryOf f :=
  congrArg (fun i : Fin 32 => (s.tile f.tile).routes[i]) (finOf_bits _ f.pkt.ch rfl)

section
variable {f : InFlight}

/-- A packet that its entry sends on to a neighbour (R131). -/
theorem headerArrive_forward {q : TileId} {port : Fin 7} (hf : Admits (s.entryOf f) f) (ho : (s.entryOf f).extractLsb' 3 3 ≠ 6)
    (hh : hop f.tile ((s.entryOf f).extractLsb' 3 3).toNat = some (q, port)) (hr : (s.regions[regionOf q]).state ≠ .lost) :
    s.headerArrive f = { s with mesh := s.mesh ++ [⟨q, port, ((s.entryOf f).extractLsb' 11 1).toFin,
      { f.pkt with ch := (s.entryOf f).extractLsb' 6 5 }⟩] } := by
  have out : ((s.entryOf f).extractLsb' 3 3).toNat ≠ 6 := fun e => ho (BitVec.eq_of_toNat_eq e)
  simp only [State.headerArrive, entryOf_routes, (admits_iff _ f).mp hf, fld_toNat, if_neg out, hh, if_neg hr, Bool.not_true,
    Bool.false_eq_true, if_false, BitVec.ofNat_toNat, BitVec.setWidth_eq, finOf_bits (n := 2) _ ((s.entryOf f).extractLsb' 11 1) rfl]
  rfl

/-- A packet that its entry sends to the eject port. -/
theorem headerArrive_eject (hf : Admits (s.entryOf f) f) (ho : (s.entryOf f).extractLsb' 3 3 = 6) :
    s.headerArrive f = s.eject f.tile f.pkt := by
  have out : ((s.entryOf f).extractLsb' 3 3).toNat = 6 := by rw [ho]; rfl
  simp only [State.headerArrive, entryOf_routes, (admits_iff _ f).mp hf, fld_toNat, if_pos out, Bool.not_true,
    Bool.false_eq_true, if_false]

/-- A packet without a matching entry. -/
theorem headerArrive_drop (hf : ¬Admits (s.entryOf f) f) : s.headerArrive f = s.dropPacket f.tile f.pkt true := by
  rw [admits_iff, Bool.not_eq_true] at hf
  simp only [State.headerArrive, entryOf_routes, fld_toNat, hf, Bool.not_false, if_true]

/-- The first packet that waits at a port and lane. -/
theorem header_completes {port : Fin 7} {lane : Fin 2} {i : Nat} {P : State → Prop} (ha : Alive s) (hr : s.routerRuns t = true)
    (hi : s.mesh.findIdx? (fun g => g.tile == t && g.port == port && g.lane == lane) = some i) (hf : s.mesh[i]? = some f)
    (hp : P (({ s with mesh := s.mesh.eraseIdx i } : State).headerArrive f)) : Completes s (.packetHeaderArrive t port lane) P := by
  refine act_completes (by rw [exec, execPacketHeaderArrive]) ha ?_
  simp only [hr, hi, hf, Bool.not_true, Bool.false_eq_true, if_false]
  exact hp

theorem waits_at {port : Fin 7} {lane : Fin 2} {i : Nat}
    (hi : s.mesh.findIdx? (fun g => g.tile == t && g.port == port && g.lane == lane) = some i) (hf : s.mesh[i]? = some f) :
    f.tile = t ∧ f.port = port := by
  have found := List.of_findIdx?_eq_some hi
  simp only [hf, Bool.and_eq_true, beq_iff_eq] at found
  exact found.1

end

/-! #### Delivery and drops (R129, R153) -/

/-- A packet's lines land in the post they fill. -/
theorem eject_fills {p : Packet} {z : Post} (hc : s.ctxOf t = some p.ctx) (hs : (s.ctx p.ctx).state ≠ .free)
    (hg : (s.ctx p.ctx).gen = p.gen)
    (hz : ((s.tile t).strs[p.str]).posts.find? (fun q => !q.done && BitVec.ofNat 16 q.seq == p.seq) = some z) :
    OnlyTiles s (s.eject t p) [t] ∧
      ((s.eject t p).tile t).pad = ((s.tile t).wideWrite (z.at_ + 64 * p.loff.toNat) p.payload).pad ∧
      ((s.eject t p).tile t).slots = (s.tile t).slots := by
  have current : (s.ctxOf t == some p.ctx && s.current p) = true := by simp [State.current, hc, hs, hg]
  have slots : ((s.tile t).wideWrite (z.at_ + 64 * p.loff.toNat) p.payload).slots = (s.tile t).slots := by
    rw [(s.tile t).wideWrite_retagged _ _]
  rw [State.eject, if_pos current, State.fillPost]
  simp only [hz]
  refine ⟨⟨rfl, fun v hv => State.tile_modTile_ne _ _ (by simpa using hv)⟩, ?_, ?_⟩
  · rw [State.tile_modTile_eq]
  · rw [State.tile_modTile_eq, slots]

/-- A counter that fills its register. -/
theorem reg_count_whole (s : State) (o n : Nat) : (s.count o 0 32 n).reg o = min (s.reg o + n) (2 ^ 32 - 1) := by
  have lt := State.reg_lt (s := s) o
  rw [State.count, State.setFld, State.reg_setReg_eq]
  simp only [putFld, satAdd, State.rfld, fld, Nat.shiftRight_eq_div_pow]
  omega

/-- What a drop without a matching entry records (R132, R153, R154). -/
theorem dropPacket_route (s : State) (t : TileId) (p : Packet) :
    s.dropPacket t p true = { s with regs := (s.dropPacket t p true).regs } ∧
      (s.dropPacket t p true).rfld Reg.strCause 1 1 = 1 ∧
      (s.dropPacket t p true).reg Reg.strDrops = min (s.reg Reg.strDrops + 1) (2 ^ 32 - 1) := by
  have cause : ((s.cause Reg.strCause 1).count Reg.strDrops 0 32 1).rfld Reg.strCause 1 1 = 1 := by
    rw [State.rfld, State.count, State.setFld, State.reg_setReg_ne _ _ (by decide)]
    exact s.rfld_cause_eq Reg.strCause 1 (by decide)
  have drops : ((s.cause Reg.strCause 1).count Reg.strDrops 0 32 1).reg Reg.strDrops =
      min (s.reg Reg.strDrops + 1) (2 ^ 32 - 1) := by
    rw [reg_count_whole, State.reg_cause_ne _ _ (by decide)]
  rw [State.dropPacket]
  dsimp only [bit]
  split
  · refine ⟨rfl, ?_, ?_⟩
    · rw [State.rfld, State.reg_setReg_ne _ _ (by decide)]; exact cause
    · rw [State.reg_setReg_ne _ _ (by decide)]; exact drops
  · exact ⟨rfl, cause, drops⟩

end Sys2Proof.Machine

section
open Sys2Proof Sys2Proof.Machine

/-- Settles O13: the header by `headerArrive_forward`, `headerArrive_eject` and `headerArrive_drop`, with `eject_fills` and
`dropPacket_route`. -/
theorem meshForwarding : Obligations.MeshForwarding := by
  intro s t port lane i f ha hr hi hf
  obtain ⟨rfl, rfl⟩ := waits_at hi hf
  refine ⟨fun q port' fits ho hh hl => ?_, fun z fits ho hc hs hg hz => ?_, fun fits => ?_⟩
  · exact header_completes ha hr hi hf (headerArrive_forward (s := { s with mesh := s.mesh.eraseIdx i }) fits ho hh hl)
  · refine header_completes ha hr hi hf ?_
    rw [headerArrive_eject (s := { s with mesh := s.mesh.eraseIdx i }) fits ho]
    obtain ⟨⟨frame, others⟩, pad, slots⟩ := eject_fills (s := { s with mesh := s.mesh.eraseIdx i }) hc hs hg hz
    exact ⟨by rw [frame], fun v hv => others v (by simpa using hv), pad, slots⟩
  · refine header_completes ha hr hi hf ?_
    rw [headerArrive_drop (s := { s with mesh := s.mesh.eraseIdx i }) fits]
    obtain ⟨frame, cause, drops⟩ := dropPacket_route { s with mesh := s.mesh.eraseIdx i } f.tile f.pkt
    exact ⟨by rw [frame], cause, drops⟩

end

namespace Sys2Proof.Machine

variable {s : State} {t : TileId}

/-! #### Posts and their credits (R138) -/

/-- Tile `y` differs from `x` by nothing but credits that its strings hold. -/
def Tile.Repaid (x y : Tile) : Prop :=
  y = { x with strs := y.strs } ∧ ∀ m : Fin 32, y.strs[m] = { x.strs[m] with credits := y.strs[m].credits }

theorem Tile.Repaid.refl (x : Tile) : x.Repaid x := ⟨rfl, fun _ => rfl⟩

theorem State.modStr_eq (s : State) (t : TileId) (n : Fin 32) (f : Str → Str) :
    ((s.modStr t n f).tile t).strs[n] = f ((s.tile t).strs[n]) := by
  rw [State.modStr, State.tile_modTile_eq, vget_vmod_eq]

/-- A field of strings that a change keeps is the same in every string of every tile. -/
theorem State.modStr_keeps {α : Type} (g : Str → α) {f : Str → Str} (h : ∀ z, g (f z) = g z) (s : State) (t : TileId)
    (n : Fin 32) (v : TileId) (m : Fin 32) : g ((s.modStr t n f).tile v).strs[m] = g (s.tile v).strs[m] := by
  by_cases hv : v = t
  · subst hv
    rw [State.modStr, State.tile_modTile_eq]
    by_cases hm : m = n
    · subst hm
      exact (congrArg g (vget_vmod_eq ..)).trans (h _)
    · exact congrArg g (vget_vmod_ne _ _ hm)
  · rw [State.modStr, State.tile_modTile_ne _ _ hv]

/-- Credits that a string gains. -/
theorem State.modStr_repaid (s : State) (p : TileId) (n : Fin 32) (v : TileId) :
    (s.tile v).Repaid ((s.modStr p n fun y => { y with credits := y.credits + 1 }).tile v) := by
  refine ⟨?_, fun m => ?_⟩
  · by_cases hv : v = p
    · subst hv
      rw [State.modStr, State.tile_modTile_eq]
    · rw [State.modStr, State.tile_modTile_ne _ _ hv]
  · have kept := s.modStr_keeps (f := fun y => { y with credits := y.credits + 1 })
      (fun z => ({ z with credits := 0 } : Str)) (fun _ => rfl) p n v m
    exact congrArg (fun z : Str => { z with
      credits := (((s.modStr p n fun y => { y with credits := y.credits + 1 }).tile v).strs[m]).credits }) kept

/-- Whoever gains the credit of a post, no tile changes but by credits. -/
theorem giveCredit_repaid (s : State) (t : TileId) (z : Str) (v : TileId) : (s.tile v).Repaid ((s.giveCredit t z).tile v) := by
  unfold State.giveCredit
  split
  · split
    · exact s.modStr_repaid _ _ v
    · exact .refl _
  · split
    · exact .refl _
    · dsimp only
      split <;> exact .refl _

/-- String `z` with a destination posted. -/
def Str.posting (z : Str) (k : Fin 8) (a : Nat) (ch : Option ChainTag) : Str :=
  { z with posts := z.posts ++ [⟨k, z.next, a, [], false, 0, ch⟩], next := z.next + 1 }

/-- The state with a destination posted, before its producer has the credit. -/
def State.posting (s : State) (t : TileId) (n : Fin 32) (k : Fin 8) (a : Nat) (ch : Option ChainTag) : State :=
  s.modStr t n (·.posting k a ch)

theorem post_eq (s : State) (t : TileId) (n : Fin 32) (k : Fin 8) (a : Nat) (ch : Option ChainTag) :
    s.post t n k a ch = (s.posting t n k a ch).giveCredit t (((s.tile t).strs[n]).posting k a ch) :=
  congrArg ((s.posting t n k a ch).giveCredit t) (s.modStr_eq t n (·.posting k a ch))

/-- What a post leaves of its tile. -/
theorem post_tile (s : State) (t : TileId) (n : Fin 32) (k : Fin 8) (a : Nat) (ch : Option ChainTag) :
    (s.post t n k a ch).tile t = { s.tile t with strs := ((s.post t n k a ch).tile t).strs } ∧
      (((s.post t n k a ch).tile t).strs[n]).posts =
        ((s.tile t).strs[n]).posts ++ [⟨k, ((s.tile t).strs[n]).next, a, [], false, 0, ch⟩] ∧
      (((s.post t n k a ch).tile t).strs[n]).next = ((s.tile t).strs[n]).next + 1 := by
  obtain ⟨frame, strs⟩ := giveCredit_repaid (s.posting t n k a ch) t (((s.tile t).strs[n]).posting k a ch) t
  have here : ((s.posting t n k a ch).tile t).strs[n] = ((s.tile t).strs[n]).posting k a ch := s.modStr_eq t n _
  have kept : (s.posting t n k a ch).tile t = { s.tile t with strs := ((s.posting t n k a ch).tile t).strs } := by
    rw [State.posting, State.modStr, State.tile_modTile_eq]
  rw [post_eq]
  refine ⟨by rw [frame, kept], ?_, ?_⟩
  · rw [strs n, here]; rfl
  · rw [strs n, here]; rfl

/-! #### The chain engine (R150) -/

/-- The tile once stage `i` of chain `c` has issued one more iteration. -/
def Tile.stageIssued (x : Tile) (c : Fin 4) (i : Nat) : Tile :=
  { x with
    advanced := true
    runs := vmod x.runs c fun r => r.map fun r => { r with issued := modNth r.issued i (· + 1) } }

theorem Tile.stageIssued_run {x : Tile} {c : Fin 4} {r : ChainRun} (h : x.runs[c] = some r) (i : Nat) :
    (x.stageIssued c i).runs[c] = some { r with issued := modNth r.issued i (· + 1) } := by
  rw [Tile.stageIssued, vget_vmod_eq, h]; rfl

/-- Stage `i` of chain `c`, whose run is `r`, may issue iteration `j` (R150). -/
structure StageReady (s : State) (t : TileId) (c : Fin 4) (i : Nat) (r : ChainRun) (j : Nat) : Prop where
  run : (s.tile t).runs[c] = some r
  ready : r.ready i = some j
  held : r.held (s.tile t) (s.hquotaOf t) ((s.tile t).chains[c]) c i j = false

namespace StageReady

variable {c : Fin 4} {i j : Nat} {r : ChainRun} {n : Fin 32}

/-- The ring slots that the stage reads and writes in the iteration (R149). -/
def input (r : ChainRun) (i j : Nat) : Option RingSlot := if i = 0 then none else (r.rings[i - 1]?).map fun g => g.slot j
def output (r : ChainRun) (i j : Nat) : Option RingSlot := (r.rings[i]?).map fun g => g.slot j

theorem input_at (r : ChainRun) (i j : Nat) :
    (if i = 0 then none else (r.rings[i - 1]?).map fun g => (g.slot j).at_) = (input r i j).map (·.at_) := by
  rw [input]
  split
  · rfl
  · rw [Option.map_map]; rfl

theorem output_at (r : ChainRun) (i j : Nat) : ((r.rings[i]?).map fun g => (g.slot j).at_) = (output r i j).map (·.at_) := by
  rw [output, Option.map_map]; rfl

variable (h : StageReady s t c i r j)
include h

/-- An IN stage posts. -/
theorem issue_inp (hs : chainStage ((s.tile t).chains[c]) i = some (.inp n))
    (hp : ((s.tile t).strs[n]).posts.length < ((s.tile t).strs[n]).outst) :
    s.chainIssue t c i = ((s.modTile t (·.stageIssued c i)).post t n r.slot (((output r i j).map (·.at_)).getD 0)
      (some ⟨c, i, j⟩)).wakeAll ((s.tile t).strs[n]).peerTile := by
  simp only [State.chainIssue, h.run, h.ready, hs, output_at, h.held, hp, Bool.not_false, and_self, if_true]
  rfl

/-- An OUT stage spends a credit. -/
theorem issue_out (hs : chainStage ((s.tile t).chains[c]) i = some (.out n)) (hp : 0 < ((s.tile t).strs[n]).credits) :
    s.chainIssue t c i = (s.modTile t (·.stageIssued c i)).issueSend t n r.slot r.pc (((input r i j).map (·.at_)).getD 0)
      (some ⟨c, i, j⟩) := by
  simp only [State.chainIssue, h.run, h.ready, hs, input_at, h.held, hp, Bool.not_false, and_self, if_true]
  rfl

/-- A UNIT stage enters its unit's queue. -/
theorem issue_unit {w : Nat} {plan : Planner} {cmd : UnitCmd} (hs : chainStage ((s.tile t).chains[c]) i = some (.unit w))
    (hf : (s.tile t).full (unitOf (fld w 60 4)) = false) (hw : planUnit w = some plan)
    (hp : plan (s.tile t) (r.resolver (s.hquotaOf t)) r.slot r.pc (fun n => Slot.reg { regs := r.regs } n) w (input r i j)
      (output r i j) (some ⟨c, i, j⟩) = .ok cmd)
    (hi : (s.tile t).interlocked r.slot true cmd.reads cmd.writes = false) :
    s.chainIssue t c i = (s.modTile t fun x => (x.stageIssued c i).enqueue (unitOf (fld w 60 4)) cmd).wake t := by
  have planned : r.plan (s.tile t) (s.hquotaOf t) w i j ⟨c, i, j⟩ = some (.ok cmd) := by
    rw [ChainRun.plan, hw]
    exact congrArg some hp
  refine Eq.trans ?_ (congrArg (State.wake · t) (s.modTile_modTile t (·.stageIssued c i) (·.enqueue (unitOf (fld w 60 4)) cmd)))
  simp only [State.chainIssue, h.run, h.ready, hs, hf, planned, h.held, hi, Bool.or_self, Bool.false_eq_true, if_false]
  rfl

end StageReady

end Sys2Proof.Machine

section
open Sys2Proof Sys2Proof.Machine

/-- Settles O12: each kind of stage by what its issue leaves (`StageReady.issue_inp`, `issue_out`, `issue_unit`). -/
theorem chainStagesIssue : Obligations.ChainStagesIssue := by
  intro s t c i r j ha hr x inAddr outAddr hrun hready hheld
  have h : StageReady s t c i.1 r j := ⟨hrun, hready, hheld⟩
  have issues {P : State → Prop} (hp : P (s.chainIssue t c i.1)) : Completes s (.chainStageIssue t c i) P :=
    act_completes (f := fun s => if s.tileRuns t then s.chainIssue t c i.1 else s) rfl ha (by rwa [if_pos hr])
  have marked : (s.modTile t (·.stageIssued c i.1)).tile t = x.stageIssued c i.1 := s.tile_modTile_eq t _
  refine ⟨fun n hs hn => issues ?_, fun n hs hn => issues ?_, fun w plan cmd hs hf hw hp hi hne => issues ?_⟩
  · rw [h.issue_inp hs hn]
    obtain ⟨-, -, woken⟩ := State.wakeAll_spec ((s.tile t).strs[n]).peerTile ((s.modTile t (·.stageIssued c i.1)).post t n r.slot
      ((outAddr.map (·.at_)).getD 0) (some ⟨c, i.1, j⟩))
    obtain ⟨frame, posts, -⟩ := post_tile (s.modTile t (·.stageIssued c i.1)) t n r.slot ((outAddr.map (·.at_)).getD 0)
      (some ⟨c, i.1, j⟩)
    rw [marked] at frame posts
    refine ⟨?_, ?_, ?_⟩
    · exact (congrArg (fun v : Vector Str 32 => (v[n]).posts) (woken t).strs).trans posts
    · exact (woken t).pad.trans (by rw [frame]; rfl)
    · refine (congrArg (fun v : Vector (Option ChainRun) 4 => v[c]) (woken t).runs).trans ?_
      rw [frame]
      exact Tile.stageIssued_run hrun i.1
  · rw [h.issue_out hs hn, State.issueSend, State.modStr, State.modTile_modTile]
    refine ⟨⟨rfl, fun v hv => State.tile_modTile_ne _ _ (by simpa using hv)⟩, ?_⟩
    rw [State.tile_modTile_eq]
    simp only [Tile.stageIssued, vmod]
    rw [show (s.tile t).runs[c] = some r from hrun]
    rfl
  · rw [h.issue_unit hs hf hw hp hi]
    obtain ⟨only, woken⟩ := modTile_wake s t fun x => (x.stageIssued c i.1).enqueue (unitOf (fld w 60 4)) cmd
    have queue : (x.stageIssued c i.1).queue (unitOf (fld w 60 4)) = x.queue (unitOf (fld w 60 4)) := by
      cases unitOf (fld w 60 4) <;> rfl
    rw [Tile.enqueue_of_head (by rwa [queue]), queue] at woken
    refine ⟨only, ?_, ?_, ?_⟩
    · rw [woken.queue, Tile.queue_setQueue_same]
    · rw [woken.pad, Tile.pad_setQueue]; rfl
    · rw [woken.runs, ← Tile.stageIssued_run hrun i.1]
      cases unitOf (fld w 60 4) <;> rfl

end

/-! ### Members of edge streams -/

namespace Sys2Proof.Machine

variable {s u : State} {c : Fin 8} {q : Scroll} {side : Fin 4} {stream m : Nat} {e : EdgeDesc}

/-! #### The record of a member -/

theorem modMember_modMember (s : State) (c : Fin 8) (side n m : Nat) (f g : Member → Member) :
    (s.modMember c side n m f).modMember c side n m g = s.modMember c side n m fun y => g (f y) := by
  simp only [State.modMember, modCtx_modCtx]
  refine congrArg (s.modCtx c) (funext fun x => ?_)
  have record := member_modMember_eq x side n m f
  simp only [Ctx.modMember, getD_set_eq, set_set] at record ⊢
  rw [record]

theorem modMember_ctx (s : State) (c : Fin 8) (side n m : Nat) (f : Member → Member) :
    (s.modMember c side n m f).ctx c = (s.ctx c).modMember side n m f := ctx_modCtx_eq _ _ _

theorem modMember_congr {n : Nat} {f g : Member → Member} (h : f ((s.ctx c).member side.1 n m) = g ((s.ctx c).member side.1 n m)) :
    s.modMember c side.1 n m f = s.modMember c side.1 n m g := by
  simp only [State.modMember, State.modCtx, Ctx.modMember, h]

/-! #### Marks and spans (R144, R146, R148) -/

theorem passMarks_unmarked (h : e.markCount = 0) (s : State) (c : Fin 8) (y : Member) (n : Nat) :
    s.passMarks c e y n = (y, none) := by
  rw [State.passMarks, h]; rfl

theorem passedPhase_same (s : State) (c : Fin 8) (e : EdgeDesc) (y : Member) : s.passedPhase c e y y = false := by
  rw [State.passedPhase, List.any_eq_false]
  intro k hk
  simp [NatSet.has, hk]

/-- The next transfer of a member may start: no arm waits, no transfer is being read, no mark stands before it, and there is room in
the prefetch (R146). -/
structure MayStart (y : Member) (e : EdgeDesc) : Prop where
  arm : y.arm = none
  cur : y.cur = none
  inSpan : y.atEnd e = false
  marks : e.markCount = 0
  room : y.next < y.sentDown + e.prefetch

theorem MayStart.takeArm {y : Member} (h : MayStart y e) : y.takeArm e = y := by
  rw [Member.takeArm, h.arm]

/-- The record of a member that has read a transfer with nothing staged before it. -/
theorem readDone_first {y : Member} (h : y.staged = []) (x : Xfer) :
    y.readDone x = { y with cur := none, staged := [x], next := y.next + 1, stop := .none } := by
  rw [Member.readDone, h]; rfl

/-! #### The start of a transfer (R146, R230) -/

/-- A member of the fabric stages the oldest transfer that has arrived. -/
theorem goInbound_fabric {x : Xfer} {rest : List Xfer} (h : MayStart ((s.ctx c).member side.1 stream m) e) (hk : e.kind = 3)
    (hx : ((s.ctx c).member side.1 stream m).arrived = x :: rest) :
    s.goInbound c q side stream m e =
      State.feed c side stream m 66 (s.modMember c side.1 stream m fun y => ({ y with arrived := rest }).readDone x) := by
  simp only [State.goInbound, h.takeArm, h.cur, h.inSpan, passMarks_unmarked h.marks, passedPhase_same, Nat.not_le.mpr h.room, hk, hx,
    Option.isSome_none, Bool.or_false, Bool.false_eq_true, if_false, if_true, modMember_modMember, Nat.reduceEqDiff]
  exact congrArg (State.feed c side stream m 66) (modMember_congr rfl)

/-- A member that has started its next transfer. -/
def Member.started (y : Member) : Member := { y with cur := some { seq := y.next }, stop := .none }

/-- A member of the deep range reads the lines that its pattern names. -/
theorem goInbound_memory (h : MayStart ((s.ctx c).member side.1 stream m) e) (hk : e.kind = 2) :
    s.goInbound c q side stream m e = State.feed c side stream m 66
      ((State.readPieces c q side stream m e 8 (s.modMember c side.1 stream m Member.started)).lookAhead c q side stream m e) := by
  simp only [State.goInbound, h.takeArm, h.cur, h.inSpan, passMarks_unmarked h.marks, passedPhase_same, Nat.not_le.mpr h.room, hk,
    Option.isSome_none, Bool.or_false, Bool.false_eq_true, if_false, if_true, modMember_modMember, Nat.reduceEqDiff]
  refine congrArg (fun s => State.feed c side stream m 66 ((State.readPieces c q side stream m e 8 s).lookAhead c q side stream m e)) ?_
  exact modMember_congr rfl

/-- A transfer of one piece that has been read. -/
def Xfer.ofPiece (n : Nat) (bs : List Byte) : Xfer := { seq := n, bytes := Memory.writeBytes [] 0 bs, piece := 1 }

/-- The transfer that a member of the deep range reads is whole. -/
theorem readPieces_whole {x : Xfer} {n : Nat} (hk : e.kind = 2) (hx : ((s.ctx c).member side.1 stream m).cur = some x)
    (hw : (e.lines + 63) / 64 ≤ x.piece) :
    State.readPieces c q side stream m e (n + 1) s = s.modMember c side.1 stream m (·.readDone x) := by
  simp only [State.readPieces, hx, if_pos hw, hk, Nat.reduceEqDiff, if_false]
  exact modCtx_self rfl

/-- The first piece of a member's transfer, whose lines can be read. -/
theorem readPieces_first {y : Member} {bs : List Byte} {n : Nat} (hk : e.kind = 2) (h0 : 0 < e.lines)
    (hy : (s.ctx c).member side.1 stream m = y.started) (hf : (s.ctx c).forcedCode side.1 stream m y.next 0 = none)
    (hr : State.readLines c q ((e.memberTile m).map regionOf)
      ((pieceLines e.lines 0).map fun i => e.lineAddr (y.baseOf e m) (y.next - y.spanStart) i) [] s = (.done bs, u)) :
    State.readPieces c q side stream m e (n + 1) s = State.readPieces c q side stream m e n
      (u.modMember c side.1 stream m fun z => { z with stop := .none, cur := some (Xfer.ofPiece y.next bs) }) := by
  have unread : ¬(e.lines + 63) / 64 ≤ 0 := by omega
  have lines : State.readLines c q ((e.memberTile m).map regionOf)
      ((pieceLines e.lines 0).map fun i => e.lineAddr (y.started.baseOf e m) (y.next - y.started.spanStart) i) [] s = (.done bs, u) := hr
  have cur : y.started.cur = some { seq := y.next } := rfl
  simp only [State.readPieces, hy, cur, if_neg unread, hf, hk, lines, Nat.reduceEqDiff, if_false]
  rfl

/-- A transfer of one piece whose lines can be read. -/
theorem readPieces_one {y : Member} {bs : List Byte} {n : Nat} (hk : e.kind = 2) (h0 : 0 < e.lines) (h64 : e.lines ≤ 64)
    (hy : (s.ctx c).member side.1 stream m = y.started) (hf : (s.ctx c).forcedCode side.1 stream m y.next 0 = none)
    (hr : State.readLines c q ((e.memberTile m).map regionOf)
      ((pieceLines e.lines 0).map fun i => e.lineAddr (y.baseOf e m) (y.next - y.spanStart) i) [] s = (.done bs, u))
    (hu : (u.ctx c).member side.1 stream m = y.started) :
    State.readPieces c q side stream m e (n + 2) s =
      u.modMember c side.1 stream m fun _ => y.readDone (Xfer.ofPiece y.next bs) := by
  have whole : (e.lines + 63) / 64 ≤ (Xfer.ofPiece y.next bs).piece := by simp only [Xfer.ofPiece]; omega
  rw [readPieces_first hk h0 hy hf hr, readPieces_whole hk (by rw [member_modMember]) whole, modMember_modMember]
  exact modMember_congr (by rw [hu]; rfl)

/-! #### What a member's run-ahead asks for (R231) -/

/-- Asking for pages leaves what `Meanwhile` says. -/
theorem lookAhead_meanwhile (s : State) (c : Fin 8) (q : Scroll) (side : Fin 4) (stream m : Nat) (hk : e.kind = 2) :
    Meanwhile c s (s.lookAhead c q side stream m e) := by
  simp only [State.lookAhead, hk, Nat.reduceEqDiff, if_false, if_true]
  refine .foldl (fun s p => ?_) _ _
  split
  · exact .ite (startFetch_meanwhile ..).snd (.refl c s)
  · exact .refl c s

/-- A member whose run-ahead ends at its next transfer asks for nothing. -/
theorem lookAhead_end (hk : e.kind = 2) (hc : ((s.ctx c).member side.1 stream m).cur = none)
    (hn : ((s.ctx c).member side.1 stream m).sentDown + e.prefetch = ((s.ctx c).member side.1 stream m).next) :
    s.lookAhead c q side stream m e = s := by
  simp [State.lookAhead, hk, hc, hn]

/-- A member of a stream of one line, whose run-ahead reaches one transfer further, asks for that one's page. -/
theorem lookAhead_one {g : Segment} {pg : Nat} (hk : e.kind = 2) (hm : e.markCount = 0) (hl : e.lines = 1) (hp : e.persist = false)
    (hc : ((s.ctx c).member side.1 stream m).cur = none)
    (hn : ((s.ctx c).member side.1 stream m).sentDown + e.prefetch = ((s.ctx c).member side.1 stream m).next + 1)
    (hpg : pg = pageOf (e.lineAddr (((s.ctx c).member side.1 stream m).baseOf e m)
      (((s.ctx c).member side.1 stream m).next - ((s.ctx c).member side.1 stream m).spanStart) 0))
    (hr : q.reach (pg * 2 ^ 21) ((e.memberTile m).map regionOf) = some g) (hi : g.init = 1)
    (hu : ((s.ctx c).page q pg).state = .unbacked) (hb : ((s.ctx c).page q pg).poison = false) :
    s.lookAhead c q side stream m e = (s.startFetch c q g pg).2 := by
  have inSpan (y : Member) : y.atEnd e = false := by simp [Member.atEnd, hp]
  have asked : [pg].eraseDups = [pg] := rfl
  have reached : q.reach (pg * 2097152) ((e.memberTile m).map regionOf) = some g := hr
  simp [State.lookAhead, hk, hc, hn, inSpan, passMarks_unmarked hm, hl, hpg.symm, asked, reached, hi, hu, hb]

/-- A context once a page's fetch into frame `f` has begun (R222). -/
def Ctx.fetching (x : Ctx) (q : Scroll) (p : Nat) (f : Fin 12 × Nat) : Ctx :=
  { x.modPage q p fun y => { y.inFrame x f with state := .moving, move := .fetch, fresh := 0, newer := 0 } with
    fetches := x.fetches.set p {} }

/-- The fetch of a page of class PINNED starts at once (R222). -/
theorem startFetch_pinned {g : Segment} {p : Nat} (hr : (s.ctx c).rolling = false) (hg : g.cls = 0) :
    ∃ f, (s.startFetch c q g p).2.ctx c = (s.ctx c).fetching q p f := by
  generalize hs : (if s.solo c ∧ ((s.ctx c).page q p).fresh ≠ 0 then s.cause Reg.rplCause 2 else s) = v
  have ctx : v.ctx c = s.ctx c := by rw [← hs]; split <;> rfl
  have started : (s.startFetch c q g p).2 = (v.modCtx c (·.fetching q p (v.chooseFrame c g p))).requestPage c q p 0 := by
    simp only [State.startFetch, hr, hg, Bool.false_eq_true, if_false, if_true, hs]
    rfl
  refine ⟨v.chooseFrame c g p, ?_⟩
  rw [started, requestPage_ctx, ctx_modCtx_eq, ctx]

theorem fetching_leaves (x : Ctx) (q : Scroll) (p : Nat) (f : Fin 12 × Nat) :
    (x.fetching q p f).fetches.get? p = some {} ∧ ((x.fetching q p f).page q p).state = .moving ∧ (x.fetching q p f).mem = x.mem := by
  refine ⟨get?_set_eq _ _ _, ?_, rfl⟩
  exact congrArg Page.state (page_modPage_eq x q p fun y => { y.inFrame x f with
    state := .moving, move := .fetch, fresh := 0, newer := 0 })

/-! #### What a member of the deep range leaves (R230, R231) -/

/-- A member whose next transfer can be read at once stages it, and asks for pages. -/
theorem goInbound_reads {y : Member} {bs : List Byte} (hy : (s.ctx c).member side.1 stream m = y) (h : MayStart y e) (hk : e.kind = 2)
    (h0 : 0 < e.lines) (h64 : e.lines ≤ 64) (hs : y.staged = []) (hc : y.credits = 0)
    (hf : (s.ctx c).forcedCode side.1 stream m y.next 0 = none)
    (hr : State.readLines c q ((e.memberTile m).map regionOf)
      ((pieceLines e.lines 0).map fun i => e.lineAddr (y.baseOf e m) (y.next - y.spanStart) i) []
      (s.modMember c side.1 stream m Member.started) = (.done bs, u))
    (hu : (u.ctx c).member side.1 stream m = y.started) :
    s.goInbound c q side stream m e =
      (u.modMember c side.1 stream m fun _ => y.readDone (Xfer.ofPiece y.next bs)).lookAhead c q side stream m e := by
  subst hy
  have started := member_modMember s c side.1 stream m Member.started
  have replay : ((s.modMember c side.1 stream m Member.started).ctx c).forcedCode side.1 stream m
      ((s.ctx c).member side.1 stream m).next 0 = none := by rw [modMember_ctx]; exact hf
  rw [goInbound_memory h hk, readPieces_one (n := 6) hk h0 h64 started replay hr hu]
  have member := ((lookAhead_meanwhile (u.modMember c side.1 stream m fun _ => ((s.ctx c).member side.1 stream m).readDone
    (Xfer.ofPiece ((s.ctx c).member side.1 stream m).next bs)) c q side stream m hk).member side.1 stream m).trans (member_modMember ..)
  rw [readDone_first hs] at member ⊢
  exact feed_uncredited 66 (congrArg Member.staged member) rfl ((congrArg Member.credits member).trans hc)

end Sys2Proof.Machine

section
open Sys2Proof Sys2Proof.Machine

/-- Settles O16: what a member without marks stages by `goInbound_fabric` and `goInbound_reads`; without a credit nothing enters
the mesh (`feed_uncredited`), and the run-ahead asks for pages (`lookAhead_end`, `lookAhead_one`). -/
theorem memberTransfers : Obligations.MemberTransfers := by
  intro s side stream m c q ha hc hq e y hm hr hl ho harm hcur hend hmarks hroom hstaged hcredits
  have may : MayStart y e := ⟨harm, hcur, hend, hmarks, hroom⟩
  have starts {P : State → Prop} (hp : P (s.goInbound c q side stream.1 m e)) :
      Completes s (.memberTransferStart side stream m) P := by
    have runs : ¬(e.members ≤ m ∨ (!s.edgeRuns c) = true ∨ s.clkLost.getLsbD (32 + side.1) = true) := by
      simp [hr, hl, hm]
    refine act_completes (by rw [exec, execMemberTransferStart]) ha ?_
    simp only [hc, hq]
    rw [if_neg runs, if_neg (by rw [ho]; decide)]
    exact hp
  refine ⟨fun x rest hk hx hn => starts ?_, fun bs t hk h0 h64 hf => ?_⟩
  · have member : ((s.modMember c side.1 stream.1 m fun y => ({ y with arrived := rest }).readDone x).ctx c).member side.1 stream.1 m =
        { y with arrived := rest, staged := [x], next := y.next + 1, stop := .none } := by
      rw [member_modMember, readDone_first (by exact hstaged), ← hcur]
    rw [goInbound_fabric may hk hx, feed_uncredited 66 (congrArg Member.staged member) hn ((congrArg Member.credits member).trans hcredits)]
    exact ⟨rfl, fun d hd => ctx_modCtx_ne _ _ hd, member⟩
  · intro s1 hread hmember
    refine starts ?_
    rw [goInbound_reads rfl may hk h0 h64 hstaged hcredits hf hread hmember, readDone_first hstaged]
    generalize hv : t.modMember c side.1 stream.1 m (fun _ => { y with
      cur := none, staged := [Xfer.ofPiece y.next bs], next := y.next + 1, stop := .none }) = v
    have ctx : v.ctx c = (t.ctx c).modMember side.1 stream.1 m fun _ => { y with
        cur := none, staged := [Xfer.ofPiece y.next bs], next := y.next + 1, stop := .none } := by rw [← hv, modMember_ctx]
    have member : (v.ctx c).member side.1 stream.1 m = { y with
        cur := none, staged := [Xfer.ofPiece y.next bs], next := y.next + 1, stop := .none } := by rw [ctx, member_modMember_eq]
    have asks : Meanwhile c v (v.lookAhead c q side stream.1 m e) := lookAhead_meanwhile v c q side stream.1 m hk
    have mem : (v.ctx c).mem = (t.ctx c).mem := by rw [ctx]; rfl
    rw [asks.member, member]
    refine ⟨rfl, rfl, asks.tiles.trans (by rw [← hv]; rfl), ?_, fun hn => ?_, by rw [← hv]; rfl, ?_⟩
    · rw [asks.frame, ← hv]; rfl
    · rw [lookAhead_end hk (by rw [member]) (by rw [member]; exact hn)]
      exact ⟨by rw [← hv]; rfl, mem⟩
    · intro g pg hone hn hp hroll hpg hreach hseg hcls hinit hun hpo
      have page : (v.ctx c).page q pg = (t.ctx c).page q pg := by rw [ctx]; rfl
      obtain ⟨f, fetching⟩ := startFetch_pinned (q := q) (p := pg) (s := v) (c := c) (by rw [ctx]; exact hroll) hcls
      rw [lookAhead_one hk hmarks hone hp (by rw [member]) (by rw [member]; exact hn) (by rw [member]; exact hpg) hreach hinit
        (by rw [page]; exact hun) (by rw [page]; exact hpo), fetching, ← mem]
      exact fetching_leaves _ q pg f

end

/-! ### Strings and chains of a tile -/

namespace Sys2Proof.Machine

variable {s : State} {t : TileId} {k : Fin 8} {f : Fields} {c : Instr} {op a : Nat}

/-! #### The string class (R137) -/

/-- The class fields with CHAIN as the command has it. -/
def withChain (f : Fields) : Bool → Fields
  | false => f &&& ~~~(1#54 <<< 48)
  | true => f ||| (1#54 <<< 48)

/-- CHAIN is no part of the other fields. -/
theorem extract_withChain (f : Fields) (b : Bool) {lo w : Nat} (h : lo + w ≤ 48 ∨ 48 < lo) :
    (withChain f b).extractLsb' lo w = f.extractLsb' lo w := by
  refine BitVec.eq_of_getLsbD_eq fun i hi => ?_
  have other : lo + i ≠ 48 := by omega
  have clear : (1#54 <<< 48).getLsbD (lo + i) = false := by
    rw [BitVec.getLsbD_shiftLeft, BitVec.getLsbD_one]
    have : lo + i < 48 ∨ lo + i - 48 ≠ 0 := by omega
    rcases this with h | h <;> simp [h]
  cases b
  · have inside : lo + i < 54 ∨ 54 ≤ lo + i := by omega
    simp only [withChain, BitVec.getLsbD_extractLsb', BitVec.getLsbD_and, BitVec.getLsbD_not, clear, Bool.not_false, Bool.and_true]
    rcases inside with h | h
    · simp [h]
    · simp [BitVec.getLsbD_of_ge f _ h]
  · simp only [withChain, BitVec.getLsbD_extractLsb', BitVec.getLsbD_or, clear, Bool.or_false]

/-- The string that an instruction names (R137). -/
def strNo (f : Fields) : Fin 32 := (f.extractLsb' 49 5).toFin

theorem strNo_withChain (f : Fields) (b : Bool) : strNo (withChain f b) = strNo f := by
  rw [strNo, extract_withChain f b (.inr (by decide))]; rfl

theorem strNo_word (f : Fields) (ho : op < 64) : finOf 32 (fld (word 3 op f).toNat 49 5) = strNo f :=
  finOf_word (by decide) f (by decide) ho (by decide) rfl

theorem stringReserved_word (f : Fields) (ho : op < 64) : stringReserved (word 3 op f).toNat = decide (f.extractLsb' 0 40 ≠ 0) :=
  reserved_word f (by decide) ho (by decide)

theorem string_free (f : Fields) (ho : op < 64) (hr : f.extractLsb' 0 40 = 0) : stringReserved (word 3 op f).toNat = false := by
  rw [stringReserved_word f ho]; simp [hr]

theorem string_reserved (f : Fields) (ho : op < 64) (hr : f.extractLsb' 0 40 ≠ 0) : stringReserved (word 3 op f).toNat = true := by
  rw [stringReserved_word f ho]; exact decide_eq_true hr

theorem reserved_withChain (f : Fields) (b : Bool) : (withChain f b).extractLsb' 0 40 = f.extractLsb' 0 40 :=
  extract_withChain f b (.inl (by decide))

theorem chain_free (f : Fields) (b : Bool) (ho : op < 64) (hr : f.extractLsb' 0 40 = 0) :
    stringReserved (word 3 op (withChain f b)).toNat = false := string_free _ ho (by rwa [reserved_withChain])

/-- A reserved bit faults every instruction of the string class. -/
theorem string_faults (h : Issues s t k) (hr : f.extractLsb' 0 40 ≠ 0) :
    let faults := fun (c : Instr) => Completes s c fun u => Faulted s u t k .illegal
    faults (.recv t f) ∧ faults (.send t f) ∧ faults (.arm t f) ∧ faults (.fin t f) ∧ faults (.sendChain t f) ∧
      faults (.finChain t f) := by
  have bad {c : Instr} (op : Nat) (g : Fields) (hg : g.extractLsb' 0 40 = f.extractLsb' 0 40) (ho : op < 64)
      {body : State → TileId → Fin 8 → Nat → Nat → Issue} (he : ∀ s, exec c s = act (fun s => s.issueAs t (word 3 op g) body false) s)
      (hb : ∀ r pc, stringReserved (word 3 op g).toNat = true → body r t k pc (word 3 op g).toNat = .fault .illegal 0 0) :
      Completes s c fun u => Faulted s u t k .illegal :=
    issue_fault h he (by decide) fun run => hb _ _ (string_reserved g ho (hg ▸ hr))
  exact ⟨bad 0 f rfl (by decide) (fun _ => rfl) fun _ _ hc => if_pos hc,
    bad 1 (withChain f false) (reserved_withChain ..) (by decide) (fun _ => rfl) fun _ _ hc => if_pos hc,
    bad 2 f rfl (by decide) (fun _ => rfl) fun _ _ hc => if_pos hc,
    bad 3 (withChain f false) (reserved_withChain ..) (by decide) (fun _ => rfl) fun _ _ hc => if_pos hc,
    bad 1 (withChain f true) (reserved_withChain ..) (by decide) (fun _ => rfl) fun _ _ hc => if_pos hc,
    bad 3 (withChain f true) (reserved_withChain ..) (by decide) (fun _ => rfl) fun _ _ hc => if_pos hc⟩

/-! #### Commands in the state in which they issue -/

/-- How a string command resolves the address word in RA in the wide view (R110, R137). -/
def State.wideResolve (s : State) (t : TileId) (k : Fin 8) (f : Fields) (bytes : Nat) (acc : Access) : Resolve :=
  (s.tile t).resolve (s.hquotaOf t) ((s.slotOf t k).value (f.extractLsb' 44 4)) true bytes acc

theorem wideResolve_withChain (s : State) (t : TileId) (k : Fin 8) (f : Fields) (b : Bool) (n : Nat) (acc : Access) :
    s.wideResolve t k (withChain f b) n acc = s.wideResolve t k f n acc := by
  rw [State.wideResolve, extract_withChain f b (.inl (by decide))]; rfl

theorem wideResolve_readied (run n : Nat) (acc : Access) (ho : op < 64) :
    (((s.tile t).readied k run).resolve ((s.readied t k run).hquotaOf t)
      (((s.tile t).readied k run).slots[k].reg (fld (word 3 op f).toNat 44 4)) true n acc) = s.wideResolve t k f n acc := by
  have value : ((s.tile t).readied k run).slots[k].reg (fld (word 3 op f).toNat 44 4) = (s.slotOf t k).value (f.extractLsb' 44 4) := by
    rw [Slot.reg_word _ f (by decide) ho (by decide)]
    exact s.value_ready t k _
  rw [value]
  rfl

/-- The string that the instruction names. -/
def State.strOf (s : State) (t : TileId) (f : Fields) : Str := (s.tile t).strs[strNo f]

theorem strOf_readied (s : State) (t : TileId) (k : Fin 8) (run : Nat) (f : Fields) :
    ((s.tile t).readied k run).strs[strNo f] = s.strOf t f := rfl

theorem chainUses_readied (x : Tile) (k : Fin 8) (run n : Nat) : (x.readied k run).chainUses n = x.chainUses n := rfl

/-- `recv` with its reserved bits zero. -/
theorem doRecv_readied (hr : f.extractLsb' 0 40 = 0) (pc run : Nat) :
    doRecv (s.readied t k run) t k pc (word 3 0 f).toNat =
      if f.getLsbD 48 || !(s.strOf t f).valid || (s.strOf t f).outbound || (s.tile t).chainUses (strNo f).1 ||
          decide ((s.strOf t f).outst < (s.strOf t f).posts.length + 1) then .fault .string 0 0
      else (s.wideResolve t k f (64 * (s.strOf t f).lines) (.write k)).issue fun a =>
        if (s.tile t).interlocked k false [] [⟨a, (s.strOf t f).lines⟩] then .block .unit 3
        else .go ((s.readied t k run).post t (strNo f) k a none) (pc + 1) (s.strOf t f).peerTile := by
  rw [doRecv]
  simp only [string_free f (by decide : 0 < 64) hr, strNo_word f (by decide : 0 < 64), bitAt_word f (by decide : 3 < 16) (by decide : 0 < 64)
    (by decide : 48 < 54), State.readied_tile, wideResolve_readied run _ _ (by decide : 0 < 64), strOf_readied, Bool.false_eq_true, if_false]
  rfl

/-- `send` with its reserved bits zero. -/
theorem doSend_readied (hr : f.extractLsb' 0 40 = 0) (pc run : Nat) :
    doSend (s.readied t k run) t k pc (word 3 1 (withChain f false)).toNat =
      if !(s.strOf t f).valid || !(s.strOf t f).outbound || (s.tile t).chainUses (strNo f).1 then .fault .string 0 0
      else if (s.strOf t f).credits = 0 then .block .out (strNo f).1
      else (s.wideResolve t k f (64 * (s.strOf t f).lines) .read).issue fun a =>
        if (s.tile t).interlocked k false [⟨a, (s.strOf t f).lines⟩] [] then .block .unit 3
        else .go ((s.readied t k run).issueSend t (strNo f) k (BitVec.ofNat 11 pc) a none) (pc + 1) [] := by
  rw [doSend]
  simp only [chain_free f false (by decide : 1 < 64) hr, strNo_word _ (by decide : 1 < 64), strNo_withChain, State.readied_tile,
    wideResolve_readied run _ _ (by decide : 1 < 64), wideResolve_withChain, strOf_readied, Bool.false_eq_true, if_false]
  rfl

/-! #### What a string does not admit (R137 to R142) -/

theorem recv_string (h : Issues s t k) (hr : f.extractLsb' 0 40 = 0)
    (hs : ((s.strOf t f).valid = false ∨ (s.tile t).chainUses (strNo f).1 = true) ∨
      (s.strOf t f).outbound = true ∨ (s.strOf t f).outst ≤ (s.strOf t f).posts.length) :
    Completes s (.recv t f) fun u => Faulted s u t k .string :=
  issue_fault (body := doRecv) h (fun _ => rfl) (by decide) fun run => by
    rw [doRecv_readied hr, if_pos]
    rcases hs with (hs | hs) | hs | hs <;> simp [hs, Nat.lt_succ_iff]

theorem send_string (h : Issues s t k) (hr : f.extractLsb' 0 40 = 0)
    (hs : ((s.strOf t f).valid = false ∨ (s.tile t).chainUses (strNo f).1 = true) ∨ (s.strOf t f).outbound = false) :
    Completes s (.send t f) fun u => Faulted s u t k .string :=
  issue_fault (body := doSend) (w := word 3 1 (withChain f false)) h (fun _ => rfl) (by decide) fun run => by
    rw [doSend_readied hr, if_pos]
    rcases hs with (hs | hs) | hs <;> simp [hs]

theorem fin_string (h : Issues s t k) (hr : f.extractLsb' 0 40 = 0)
    (hs : (s.strOf t f).valid = false ∨ (s.tile t).chainUses (strNo f).1 = true) :
    Completes s (.fin t f) fun u => Faulted s u t k .string :=
  issue_fault (body := doFin) (w := word 3 3 (withChain f false)) h (fun _ => rfl) (by decide) fun run => by
    have refused : (!(s.strOf t f).valid || (s.tile t).chainUses (strNo f).1) = true := by
      rcases hs with hs | hs <;> simp [hs]
    rw [doFin]
    simp only [chain_free f false (by decide : 3 < 64) hr, strNo_word _ (by decide : 3 < 64), strNo_withChain, State.readied_tile,
      strOf_readied, chainUses_readied, refused, Bool.false_eq_true, if_false, if_true]

theorem arm_string (h : Issues s t k) (hr : f.extractLsb' 0 40 = 0) (hs : (s.strOf t f).valid = false ∨ (s.strOf t f).kind = 0) :
    Completes s (.arm t f) fun u => Faulted s u t k .string :=
  issue_fault (body := doArm) (w := word 3 2 f) h (fun _ => rfl) (by decide) fun run => by
    have refused : bitAt (word 3 2 f).toNat 48 || !(s.strOf t f).valid || (s.strOf t f).kind = 0 := by
      rcases hs with hs | hs <;> simp [hs]
    rw [doArm]
    simp only [string_free f (by decide : 2 < 64) hr, strNo_word f (by decide : 2 < 64), State.readied_tile, strOf_readied, refused,
      Bool.false_eq_true, if_false, if_true]

/-- A chain number beyond 3 (R151). -/
theorem chain_string (h : Issues s t k) (hr : f.extractLsb' 0 40 = 0) (hs : 3 < (f.extractLsb' 49 5).toNat) :
    (Completes s (.sendChain t f) fun u => Faulted s u t k .string) ∧ Completes s (.finChain t f) fun u => Faulted s u t k .string := by
  have beyond {op : Nat} (ho : op < 64) : decide (3 < fld (word 3 op (withChain f true)).toNat 49 5) = true := by
    rw [fld_word _ (by decide) ho (by decide), extract_withChain f true (.inr (by decide))]
    exact decide_eq_true hs
  refine ⟨issue_fault (body := doSendChain) (w := word 3 1 (withChain f true)) h (fun _ => rfl) (by decide) fun run => ?_,
    issue_fault (body := doFinChain) (w := word 3 3 (withChain f true)) h (fun _ => rfl) (by decide) fun run => ?_⟩
  · rw [doSendChain]
    simp only [chain_free f true (by decide : 1 < 64) hr, beyond (by decide : 1 < 64), Bool.true_or, Bool.false_eq_true, if_false, if_true]
  · rw [doFinChain]
    simp only [chain_free f true (by decide : 3 < 64) hr, beyond (by decide : 3 < 64), Bool.true_or, Bool.false_eq_true, if_false, if_true]

/-! #### Commands that change their string alone -/

/-- The tile with a string replaced. -/
def Tile.withStr (x : Tile) (n : Fin 32) (y : Str) : Tile := { x with strs := vset x.strs n y }

/-- A command of the string class that changes its string, and of its slot what `gz` says. -/
theorem string_goes {body : State → TileId → Fin 8 → Nat → Nat → Issue} {g : Str → Str} {gs gz : Slot → Slot} {F : Fields}
    (h : Issues s t k) (he : ∀ s, exec c s = act (fun s => s.issueAs t (word 3 op F) body false) s)
    (hb : ∀ run, body (s.readied t k run) t k (s.slotOf t k).pc.toNat (word 3 op F).toNat =
      goNext (((s.readied t k run).modStr t (strNo f) g).modSlot t k gs) (s.slotOf t k).pc.toNat)
    (hgz : gs (s.tile t).settleRunning.slots[k] = gz (s.tile t).settleRunning.slots[k])
    (hz : ∀ z : Slot, (gz z).state = z.state ∧ ∀ st, { gz z with state := st } = gz { z with state := st }) :
    Completes s c fun u => OnlyTiles s u [t] ∧ ((s.tile t).withStr (strNo f) (g (s.strOf t f))).Issued (u.tile t) k
      ((gz (s.slotOf t k)).onto ((s.slotOf t k).pc + 1) .running) true := by
  obtain ⟨-, -, -, inside, -⟩ := id h
  refine issue_running (gz := gz) (x' := (s.tile t).withStr (strNo f) (g (s.strOf t f)))
    (g := fun x => { x with strs := vmod x.strs (strNo f) g, slots := vmod x.slots k gs }) h he (fun run => ?_) (fun run => ?_) rfl hz
  · rw [hb run, goNext_eq _ _ inside, State.modStr, State.modSlot, State.modTile_modTile]
  · simp only [vmod, ← hgz]
    rfl

theorem modSlot_id (s : State) (t : TileId) (k : Fin 8) (n : Fin 32) (g : Str → Str) :
    s.modStr t n g = (s.modStr t n g).modSlot t k id := by
  rw [State.modStr, State.modSlot, State.modTile_modTile]
  simp only [id, vmod, vset_self]

/-- `send` (R139). -/
theorem send_goes (h : Issues s t k) (hr : f.extractLsb' 0 40 = 0) (hv : (s.strOf t f).valid = true)
    (ho : (s.strOf t f).outbound = true) (hu : (s.tile t).chainUses (strNo f).1 = false) (hc : (s.strOf t f).credits ≠ 0)
    (ha : s.wideResolve t k f (64 * (s.strOf t f).lines) .read = .ok a)
    (hi : (s.tile t).interlocked k false [⟨a, (s.strOf t f).lines⟩] [] = false) :
    Completes s (.send t f) fun u => OnlyTiles s u [t] ∧ ((s.tile t).withStr (strNo f) { s.strOf t f with
      sends := (s.strOf t f).sends ++ [⟨k, (s.slotOf t k).pc, (s.strOf t f).next, a, false, none⟩]
      next := (s.strOf t f).next + 1, credits := (s.strOf t f).credits - 1 }).Issued (u.tile t) k
        ((s.slotOf t k).onto ((s.slotOf t k).pc + 1) .running) true := by
  refine string_goes (F := withChain f false) (op := 1) (body := doSend) (gs := id) (gz := id)
    (g := fun z => { z with
      sends := z.sends ++ [⟨k, (s.slotOf t k).pc, z.next, a, false, none⟩], next := z.next + 1, credits := z.credits - 1 })
    h (fun _ => rfl) (fun run => ?_) rfl fun _ => ⟨rfl, fun _ => rfl⟩
  rw [doSend_readied hr, if_neg (by simp [hv, ho, hu]), if_neg hc, ha, Resolve.issue, if_neg (by simp [hi]), goNext, ← modSlot_id,
    State.issueSend, BitVec.ofNat_toNat, BitVec.setWidth_eq]

/-- `fin` of the oldest `send`, whose source lines have been read (R140). -/
theorem fin_sent {q : SendOp} {qs : List SendOp} (h : Issues s t k) (hr : f.extractLsb' 0 40 = 0) (hv : (s.strOf t f).valid = true)
    (ho : (s.strOf t f).outbound = true) (hu : (s.tile t).chainUses (strNo f).1 = false) (hq : (s.strOf t f).sends = q :: qs)
    (hd : q.read = true) :
    Completes s (.fin t f) fun u => OnlyTiles s u [t] ∧ ((s.tile t).withStr (strNo f) { s.strOf t f with sends := qs }).Issued
      (u.tile t) k ((s.slotOf t k).onto ((s.slotOf t k).pc + 1) .running) true := by
  refine string_goes (F := withChain f false) (op := 3) (body := doFin) (gs := id) (gz := id) (g := fun z => { z with sends := qs })
    h (fun _ => rfl) (fun run => ?_) rfl fun _ => ⟨rfl, fun _ => rfl⟩
  rw [doFin, ← modSlot_id]
  simp only [chain_free f false (by decide : 3 < 64) hr, strNo_word _ (by decide : 3 < 64), strNo_withChain, State.readied_tile,
    strOf_readied, chainUses_readied, hv, hu, ho, hq, hd, Bool.not_true, Bool.or_self, Bool.false_eq_true, if_false, if_true]

/-- `fin` of the oldest `recv`, whose transfer is done: RN takes its status word (R140, R233). -/
theorem fin_received {p : Post} {ps : List Post} (h : Issues s t k) (hr : f.extractLsb' 0 40 = 0) (hv : (s.strOf t f).valid = true)
    (ho : (s.strOf t f).outbound = false) (hu : (s.tile t).chainUses (strNo f).1 = false) (hp : (s.strOf t f).posts = p :: ps)
    (hd : p.done = true) :
    Completes s (.fin t f) fun u => OnlyTiles s u [t] ∧ ((s.tile t).withStr (strNo f) { s.strOf t f with posts := ps }).Issued
      (u.tile t) k (((s.slotOf t k).written (f.extractLsb' 40 4) p.status).onto ((s.slotOf t k).pc + 1) .running) true := by
  refine string_goes (F := withChain f false) (op := 3) (body := doFin) (gz := (·.written (f.extractLsb' 40 4) p.status))
    (gs := fun z => z.setReg (fld (word 3 3 (withChain f false)).toNat 40 4) p.status) (g := fun z => { z with posts := ps })
    h (fun _ => rfl) (fun run => ?_) ?_ fun _ => ⟨rfl, fun _ => rfl⟩
  · rw [doFin]
    simp only [chain_free f false (by decide : 3 < 64) hr, strNo_word _ (by decide : 3 < 64), strNo_withChain, State.readied_tile,
      strOf_readied, chainUses_readied, hv, hu, ho, hp, hd, Bool.not_true, Bool.or_self, Bool.false_eq_true, if_false, if_true]
  · rw [Slot.setReg_word _ _ _ (by decide) (by decide) (by decide), extract_withChain f false (.inl (by decide))]

/-! #### Chains (R149 to R151) -/

/-- What a unit's instruction plans does not read the slots or the sequencer. -/
theorem planUnit_sequenced {w : Nat} {plan : Planner} (h : planUnit w = some plan) (x : Tile) (slots : Vector Slot 8) (last : Fin 8)
    (run : Nat) : plan (x.sequenced slots last run) = plan x := by
  unfold planUnit at h
  extract_lets o at h
  split at h
  · split at h
    · cases h; rfl
    · cases h
  · obtain ⟨v, -, rfl⟩ := Option.map_eq_some_iff.mp h
    rfl
  · split at h
    · cases h; rfl
    · split at h
      · cases h; rfl
      · split at h
        · cases h; rfl
        · cases h
  · cases h

section
variable (r : ChainRun) (x : Tile) (slots : Vector Slot 8) (last : Fin 8) (run quota : Nat) (d : BitVec 512) (n : Fin 4)

theorem ChainRun.plan_sequenced (w i j : Nat) (g : ChainTag) :
    r.plan (x.sequenced slots last run) quota w i j g = r.plan x quota w i j g := by
  rcases hp : planUnit w with _ | plan
  · simp only [ChainRun.plan, hp, Option.map_none]
  · simp only [ChainRun.plan, hp, Option.map_some, planUnit_sequenced hp]

theorem ChainRun.outside_sequenced : r.outside (x.sequenced slots last run) quota d n = r.outside x quota d n := by
  simp only [ChainRun.outside, ChainRun.spans, ChainRun.plan_sequenced]

theorem ChainRun.waits_sequenced : r.waits (x.sequenced slots last run) quota d n = r.waits x quota d n := by
  simp only [ChainRun.waits, ChainRun.plan_sequenced]

theorem Tile.resolveRings_sequenced (k : Fin 8) (i : Nat) :
    (x.sequenced slots last run).resolveRings quota k d i = x.resolveRings quota k d i := by
  induction i with
  | zero => rfl
  | succ i ih =>
    simp only [Tile.resolveRings, ih]
    rfl

end

/-- The chain that a command names (R151). -/
theorem chainNo_word {i : Nat} (f : Fields) (ho : op < 64) (hf : f.extractLsb' 49 5 = BitVec.ofNat 5 i) (hi : i < 4) :
    fld (word 3 op (withChain f true)).toNat 49 5 = i := by
  rw [fld_word _ (by decide) ho (by decide), extract_withChain f true (.inr (by decide)), hf, BitVec.toNat_ofNat]
  exact Nat.mod_eq_of_lt (by omega)

/-- A chain's run as its `send` starts it (R149, R150). -/
def State.newRun (s : State) (t : TileId) (k : Fin 8) (d : BitVec 512) (iters : Nat) (rings : List ChainRing) : ChainRun :=
  let stages := List.replicate (chainStages d) 0
  ⟨k, (s.slotOf t k).pc, (s.slotOf t k).regs, iters, rings, [], [], stages, stages, Memory.copy [] (s.tile t).pad 0 0 256,
    (s.tile t).badWords.filter fun b => decide (b < 64)⟩

theorem newRun_readied (s : State) (t : TileId) (k : Fin 8) (run : Nat) (d : BitVec 512) (iters : Nat) (rings : List ChainRing) :
    (s.readied t k run).newRun t k d iters rings = s.newRun t k d iters rings := by
  have slot : ((s.readied t k run).slotOf t k).regs = (s.slotOf t k).regs := by
    rw [State.readied_slot, Tile.settleRunning_slot]; split <;> rfl
  simp only [State.newRun, slot, State.readied_pc, State.readied_tile]
  rfl

section
variable {i : Nat} (h : Issues s t k) (hr : f.extractLsb' 0 40 = 0) (hf : f.extractLsb' 49 5 = BitVec.ofNat 5 i) (hi : i < 4)
  (hv : chainValid ((s.tile t).chains[finOf 4 i]) = true)
include h hr hf hi hv

/-- `fin` with CHAIN takes one completion of its chain (R151). -/
theorem finChain_goes (hd : (s.tile t).chainsDone[finOf 4 i] ≠ 0) :
    Completes s (.finChain t f) fun u => OnlyTiles s u [t] ∧
      ({ s.tile t with chainsDone := vset (s.tile t).chainsDone (finOf 4 i) ((s.tile t).chainsDone[finOf 4 i] - 1) } : Tile).Issued
        (u.tile t) k ((s.slotOf t k).onto ((s.slotOf t k).pc + 1) .running) true := by
  obtain ⟨-, -, -, inside, -⟩ := id h
  refine issue_running (c := .finChain t f) (cls := 3) (op := 3) (f := withChain f true) (yields := false) (body := doFinChain) (gz := id)
    (x' := { s.tile t with chainsDone := vset (s.tile t).chainsDone (finOf 4 i) ((s.tile t).chainsDone[finOf 4 i] - 1) })
    (g := fun x => { x with chainsDone := vmod x.chainsDone (finOf 4 i) (· - 1) }) h (fun _ => rfl) (fun run => ?_)
    (fun run => by simp only [id, vset_self]; rfl) rfl (fun _ => ⟨rfl, fun _ => rfl⟩)
  have chains : ((s.tile t).readied k run).chains = (s.tile t).chains := rfl
  have done : ((s.tile t).readied k run).chainsDone = (s.tile t).chainsDone := rfl
  rw [doFinChain]
  simp only [chain_free f true (by decide : 3 < 64) hr, chainNo_word f (by decide : 3 < 64) hf hi,
    State.readied_tile, chains, done, hv, decide_eq_false (show ¬3 < i by omega), if_pos hd, goNext_eq _ _ inside, Bool.not_true,
    Bool.or_self, Bool.false_eq_true, if_false]

/-- `send` with CHAIN starts its chain (R149, R150). -/
theorem sendChain_goes {rings : List ChainRing} {iters : Nat} {run : ChainRun} {other : List Span × List Span}
    (hn : iters = ((s.slotOf t k).value (f.extractLsb' 40 4)).toNat) (h0 : iters ≠ 0) (h1 : iters ≤ 65535)
    (hx : (s.tile t).runs[finOf 4 i] = none)
    (hres : (s.tile t).resolveRings (s.hquotaOf t) k ((s.tile t).chains[finOf 4 i])
      (chainStages ((s.tile t).chains[finOf 4 i]) - 1) = .inr rings)
    (hrun : run = s.newRun t k ((s.tile t).chains[finOf 4 i]) iters rings)
    (ho : other = run.outside (s.tile t) (s.hquotaOf t) ((s.tile t).chains[finOf 4 i]) (finOf 4 i))
    (hw : run.waits (s.tile t) (s.hquotaOf t) ((s.tile t).chains[finOf 4 i]) (finOf 4 i) = false)
    (hl : (s.tile t).interlocked k false ((rings.map fun g => Span.mk g.at_ (linesOf (g.size * g.slots))) ++ other.1)
      ((rings.map fun g => Span.mk g.at_ (linesOf (g.size * g.slots))) ++ other.2) = false) :
    Completes s (.sendChain t f) fun u => OnlyTiles s u [t] ∧
      ({ s.tile t with
        runs := vset (s.tile t).runs (finOf 4 i) (some { run with reads := other.1, writes := other.2 }) } : Tile).Issued
        (u.tile t) k ((s.slotOf t k).onto ((s.slotOf t k).pc + 1) .running) true := by
  obtain ⟨-, -, -, inside, -⟩ := id h
  refine issue_running (c := .sendChain t f) (cls := 3) (op := 1) (f := withChain f true) (yields := false) (body := doSendChain)
    (gz := id) (x' := { s.tile t with
      runs := vset (s.tile t).runs (finOf 4 i) (some { run with reads := other.1, writes := other.2 }) })
    (g := fun x => { x with runs := vset x.runs (finOf 4 i) (some { run with reads := other.1, writes := other.2 }) })
    h (fun _ => rfl) (fun n => ?_) (fun n => by simp only [id, vset_self]; rfl) rfl (fun _ => ⟨rfl, fun _ => rfl⟩)
  have chains : ((s.tile t).readied k n).chains = (s.tile t).chains := rfl
  have runs : ((s.tile t).readied k n).runs = (s.tile t).runs := rfl
  have quota : (s.readied t k n).hquotaOf t = s.hquotaOf t := rfl
  have count : (((s.tile t).readied k n).slots[k].reg (fld (word 3 1 (withChain f true)).toNat 40 4)).toNat = iters := by
    rw [hn, Slot.reg_word _ _ (by decide) (by decide) (by decide), extract_withChain f true (.inl (by decide))]
    exact congrArg BitVec.toNat (s.value_ready t k _)
  have started : ChainRun.mk k (BitVec.ofNat 11 (s.slotOf t k).pc.toNat) ((s.tile t).readied k n).slots[k].regs iters rings [] []
      (List.replicate (chainStages ((s.tile t).chains[finOf 4 i])) 0) (List.replicate (chainStages ((s.tile t).chains[finOf 4 i])) 0)
      (Memory.copy [] ((s.tile t).readied k n).pad 0 0 256)
      (((s.tile t).readied k n).badWords.filter fun b => decide (b < 64)) = run := by
    have regs : ((s.readied t k n).slotOf t k).regs = ((s.tile t).readied k n).slots[k].regs := by
      rw [State.slotOf, State.readied_tile]
    rw [hrun, ← newRun_readied s t k n, State.newRun, State.readied_pc, BitVec.ofNat_toNat, BitVec.setWidth_eq, regs,
      State.readied_tile]
  have free : ((s.tile t).readied k n).interlocked k false
      ((rings.map fun g => Span.mk g.at_ (linesOf (g.size * g.slots))) ++ other.1)
      ((rings.map fun g => Span.mk g.at_ (linesOf (g.size * g.slots))) ++ other.2) = false := hl
  have resolved := (Tile.resolveRings_sequenced (s.tile t) (s.tile t).settleRunning.slots k n (s.hquotaOf t) _ k _).trans hres
  have outside := (run.outside_sequenced (s.tile t) (s.tile t).settleRunning.slots k n (s.hquotaOf t) _ _).trans ho.symm
  have waits := (run.waits_sequenced (s.tile t) (s.tile t).settleRunning.slots k n (s.hquotaOf t) _ _).trans hw
  rw [← Tile.readied_sequenced] at resolved outside waits
  rw [doSendChain]
  simp only [chain_free f true (by decide : 1 < 64) hr, chainNo_word f (by decide : 1 < 64) hf hi,
    State.readied_tile, chains, runs, quota, count, hv, hx, decide_eq_false (show ¬3 < i by omega),
    decide_eq_false (Nat.not_lt.mpr h1), beq_eq_false_iff_ne.mpr h0, Option.isSome_none, Bool.not_true, Bool.or_self, Bool.false_eq_true,
    if_false, resolved, started, outside, waits, free, goNext_eq _ _ inside]
  rw [← started]

end

/-! #### Commands that reach beyond their tile -/

/-- What an instruction that issues leaves, from the state that its body leaves. -/
theorem issue_leaves {body : State → TileId → Fin 8 → Nat → Nat → Issue} {w : DWord} {yields : Bool} {next : Nat}
    {wakes : List TileId} {after : Nat → State} (h : Issues s t k)
    (hb : ∀ run, body (s.readied t k run) t k (s.slotOf t k).pc.toNat w.toNat = .go (after run) next wakes) :
    ∃ run, s.issueAs t w body yields = { after run with tiles := (s.issueAs t w body yields).tiles } ∧
      (∀ v, v ∉ t :: wakes → (s.issueAs t w body yields).tile v = (after run).tile v) ∧
      (∀ v, v ≠ t → ((after run).tile v).Woken ((s.issueAs t w body yields).tile v)) ∧
      (((after run).tile t).onward k next yields).Woken ((s.issueAs t w body yields).tile t) := by
  obtain ⟨run, hgo⟩ := issueAs_go h
  refine ⟨run, ?_⟩
  rw [hgo body w yields _ next wakes (hb run)]
  obtain ⟨frame, others, woken⟩ := State.wakeAll_spec (t :: wakes) ((after run).modTile t (Tile.onward · k next yields))
  have here := woken t
  rw [State.tile_modTile_eq] at here
  refine ⟨frame, fun v hv => ?_, fun v hv => ?_, here⟩
  · exact (others v hv).trans (State.tile_modTile_ne _ _ fun e => hv (e ▸ List.mem_cons_self))
  · have at_ := woken v
    rwa [State.tile_modTile_ne _ _ hv] at at_

/-- A tile whose slots wake after slot `k` has issued and stays RUNNING. -/
theorem Tile.Woken.issued {x' y y' : Tile} {run : Nat} {pc : BitVec 11} (h : Issues s t k)
    (hy : y = { x' with slots := (s.tile t).settleRunning.slots, last := k, runLen := run })
    (hx : x'.slots = (s.tile t).slots) (hw : (y.onward k pc.toNat false).Woken y') :
    x'.Issued y' k ((s.slotOf t k).onto pc .running) true := by
  subst hy
  obtain ⟨frame, slots⟩ := hw
  have ready := h.ready
  refine ⟨?_, ?_, fun j hj => ?_⟩
  · rw [frame]
    simp only [Tile.onward, ready]
    rfl
  · rcases slots k with e | ⟨e, -⟩
    · rw [e, ← settled_onto]
      simp only [Tile.onward, vget_vmod_eq, ready, if_true, BitVec.ofNat_toNat, BitVec.setWidth_eq, Slot.onto]
    · simp only [Tile.onward, vget_vmod_eq, ready, if_true] at e
      cases e
  · have at_ := slots j
    simp only [Tile.onward, vget_vmod_ne _ _ hj, Tile.settleRunning_slot, ← hx] at at_
    rcases at_ with e | ⟨blocked, state, e⟩
    · exact .inl e
    · have notRunning : x'.slots[j].state ≠ .running := by
        intro running
        rw [if_pos running] at blocked
        cases blocked
      rw [if_neg notRunning] at blocked e
      exact .inr ⟨blocked, state, e⟩

theorem succ_pc {pc : BitVec 11} (h : pc.toNat ≤ 1535) : pc.toNat + 1 = (pc + 1).toNat := by
  simp
  omega

/-! #### `recv` (R138) -/

/-- A `recv` that its string admits, at byte `a`. -/
structure MayPost (s : State) (t : TileId) (k : Fin 8) (f : Fields) (a : Nat) : Prop where
  reserved : f.extractLsb' 0 40 = 0
  plain : f.getLsbD 48 = false
  valid : (s.strOf t f).valid = true
  inbound : (s.strOf t f).outbound = false
  unchained : (s.tile t).chainUses (strNo f).1 = false
  room : (s.strOf t f).posts.length < (s.strOf t f).outst
  resolves : s.wideResolve t k f (64 * (s.strOf t f).lines) (.write k) = .ok a
  free : (s.tile t).interlocked k false [] [⟨a, (s.strOf t f).lines⟩] = false

theorem MayPost.doRecv (h : MayPost s t k f a) (pc run : Nat) : doRecv (s.readied t k run) t k pc (word 3 0 f).toNat =
    .go ((s.readied t k run).post t (strNo f) k a none) (pc + 1) (s.strOf t f).peerTile := by
  have admitted : ¬(f.getLsbD 48 || !(s.strOf t f).valid || (s.strOf t f).outbound || (s.tile t).chainUses (strNo f).1 ||
      decide ((s.strOf t f).outst < (s.strOf t f).posts.length + 1)) = true := by
    have room : ¬(s.strOf t f).outst < (s.strOf t f).posts.length + 1 := by have := h.room; omega
    rw [h.plain, h.valid, h.inbound, h.unchained, decide_eq_false room]
    decide
  rw [doRecv_readied h.reserved, if_neg admitted, h.resolves, Resolve.issue, if_neg (by simp [h.free])]

section
variable {n : Fin 32} {z : Str} (hz : (s.tile t).strs[n] = z)
include hz

/-- A post whose producer is string `z.pstr` of tile `p`: no other tile changes, and that string gains a credit. -/
theorem post_peer {p : TileId} (hk : z.kind = 0) (hp : tileAt z.peerX z.peerY = some p) :
    OnlyTiles s (s.post t n k a none) [t, p] ∧
      (((s.post t n k a none).tile p).strs[z.pstr]).credits = ((s.tile p).strs[z.pstr]).credits + 1 := by
  have given : s.post t n k a none =
      (s.posting t n k a none).modStr p z.pstr fun y => { y with credits := y.credits + 1 } := by
    have kind : (z.posting k a none).kind = 0 := hk
    have peer : tileAt (z.posting k a none).peerX (z.posting k a none).peerY = some p := hp
    rw [post_eq, hz, State.giveCredit, if_pos kind, peer]
    rfl
  rw [given]
  refine ⟨⟨rfl, fun v hv => ?_⟩, ?_⟩
  · simp only [List.mem_cons, List.not_mem_nil, or_false, not_or] at hv
    exact (State.tile_modTile_ne _ _ hv.2).trans (State.tile_modTile_ne _ _ hv.1)
  · rw [State.modStr_eq]
    exact congrArg (· + 1) (s.modStr_keeps Str.credits (f := (·.posting k a none)) (fun _ => rfl) t n p _)

/-- A post whose producer is a member of an edge stream: the member gains a credit. -/
theorem post_member {c : Fin 8} {m : Nat} (hk : z.kind ≠ 0) (hc : s.ctxOf t = some c)
    (hm : (s.edgeOf c z.side.1 z.stream).memberOf t = some m) :
    (((s.post t n k a none).ctx c).member z.side.1 z.stream m).credits =
      ((s.ctx c).member z.side.1 z.stream m).credits + 1 := by
  have given : s.post t n k a none =
      (s.posting t n k a none).modMember c z.side.1 z.stream m fun y => { y with credits := y.credits + 1 } := by
    have kind : (z.posting k a none).kind ≠ 0 := hk
    have ctx : (s.posting t n k a none).ctxOf t = some c := hc
    have member : ((s.posting t n k a none).edgeOf c (z.posting k a none).side.1 (z.posting k a none).stream).memberOf t =
        some m := hm
    rw [post_eq, hz, State.giveCredit, if_neg kind, ctx]
    simp only [member]
    rfl
  rw [given, member_modMember]
  rfl

end

/-- What a `recv` leaves. -/
theorem recv_posts (h : Issues s t k) (hp : MayPost s t k f a) :
    let z := s.strOf t f
    Completes s (.recv t f) fun u =>
      ((u.tile t).strs[strNo f]).posts = z.posts ++ [⟨k, z.next, a, [], false, 0, none⟩] ∧
      ((u.tile t).strs[strNo f]).next = z.next + 1 ∧ u.slotOf t k = (s.slotOf t k).onto ((s.slotOf t k).pc + 1) .running ∧
      (∀ p, z.kind = 0 → tileAt z.peerX z.peerY = some p → OnlyTiles s u [t, p] ∧
        ((u.tile p).strs[z.pstr]).credits = ((s.tile p).strs[z.pstr]).credits + 1) ∧
      ∀ c m, z.kind ≠ 0 → s.ctxOf t = some c → (s.edgeOf c z.side.1 z.stream).memberOf t = some m →
        ((u.ctx c).member z.side.1 z.stream m).credits = ((s.ctx c).member z.side.1 z.stream m).credits + 1 := by
  intro z
  obtain ⟨-, -, -, inside, -⟩ := id h
  refine act_completes (f := fun s => s.issueAs t (word 3 0 f) doRecv false) rfl h.1 ?_
  obtain ⟨run, frame, others, woken, here⟩ := issue_leaves (w := word 3 0 f) (yields := false) h fun run => hp.doRecv _ run
  generalize s.issueAs t (word 3 0 f) doRecv false = u at frame others woken here
  have string : ((s.readied t k run).tile t).strs[strNo f] = z := by rw [State.readied_tile]; rfl
  obtain ⟨kept, posts, next⟩ := post_tile (s.readied t k run) t (strNo f) k a none
  rw [string] at posts next
  have strs (v : TileId) : (u.tile v).strs = (((s.readied t k run).post t (strNo f) k a none).tile v).strs := by
    by_cases hv : v = t
    · subst hv; exact here.strs
    · exact (woken v hv).strs
  obtain ⟨-, slot, -⟩ := Tile.Woken.issued (pc := (s.slotOf t k).pc + 1) (run := run)
    (x' := { s.tile t with strs := (((s.readied t k run).post t (strNo f) k a none).tile t).strs }) h
    (by rw [kept, State.readied_tile]; rfl) rfl (succ_pc inside ▸ here)
  refine ⟨?_, ?_, slot, fun p hk hpeer => ?_, fun c m hk hc hm => ?_⟩
  · rw [strs]; exact posts
  · rw [strs]; exact next
  · obtain ⟨⟨only, apart⟩, credit⟩ := post_peer (k := k) (a := a) string hk hpeer
    have wakes : z.peerTile = [p] := by rw [Str.peerTile, if_pos hk, hpeer]; rfl
    refine ⟨⟨by rw [frame, only]; rfl, fun v hv => ?_⟩, ?_⟩
    · rw [others v (by rwa [show (s.strOf t f).peerTile = [p] from wakes]), apart v hv]
      exact s.readied_ne k run fun e => hv (e ▸ List.mem_cons_self)
    · rw [strs, credit]
      by_cases ht : p = t
      · subst ht
        rw [State.readied_tile]; rfl
      · rw [State.readied_ne _ _ _ ht]
  · have credit := post_member (k := k) (a := a) string hk (c := c) hc hm
    rw [frame]
    exact credit

/-! #### `arm` (R148) -/

/-- The record of an `arm` at byte `a` (R137). -/
def Tile.armRecord (x : Tile) (a : Nat) : Nat := Memory.readLE x.pad a 64

/-- An `arm` that its string admits, of member `m` of the string's edge stream in context `c`, with its record at byte `a`. -/
structure MayArm (s : State) (t : TileId) (k : Fin 8) (f : Fields) (c : Fin 8) (m a : Nat) : Prop where
  reserved : f.extractLsb' 0 40 = 0
  plain : f.getLsbD 48 = false
  valid : (s.strOf t f).valid = true
  edge : (s.strOf t f).kind ≠ 0
  ctx : s.ctxOf t = some c
  member : (s.edgeOf c (s.strOf t f).side.1 (s.strOf t f).stream).memberOf t = some m
  persist : (s.edgeOf c (s.strOf t f).side.1 (s.strOf t f).stream).persist = true
  unarmed : ((s.ctx c).member (s.strOf t f).side.1 (s.strOf t f).stream m).arm = none
  resolves : s.wideResolve t k f 64 .read = .ok a
  free : (s.tile t).interlocked k false [⟨a, 1⟩] [] = false
  parity : (s.tile t).badIn [⟨a, 1⟩] = none
  aligned : fld ((s.tile t).armRecord a) 0 52 % 64 = 0
  high : fld ((s.tile t).armRecord a) 52 12 = 0
  rest : fld ((s.tile t).armRecord a) 96 416 = 0

/-- The state once a member of a string's edge stream has the base and span of the record at byte `a`. -/
def State.armed (s : State) (z : Str) (x : Tile) (c : Fin 8) (m a : Nat) : State :=
  s.modMember c z.side.1 z.stream m fun y =>
    Member.takeArm { y with arm := some (fld (x.armRecord a) 0 52, fld (x.armRecord a) 64 32) } (s.edgeOf c z.side.1 z.stream)

theorem MayArm.doArm {c : Fin 8} {m : Nat} (h : MayArm s t k f c m a) (pc run : Nat) :
    doArm (s.readied t k run) t k pc (word 3 2 f).toNat =
      .go ((s.readied t k run).armed (s.strOf t f) (s.tile t) c m a) (pc + 1) [] := by
  have plain : bitAt (word 3 2 f).toNat 48 = false := (bitAt_word f (by decide) (by decide) (by decide)).trans h.plain
  have ctx : (s.readied t k run).ctxOf t = some c := h.ctx
  have member : ((s.readied t k run).edgeOf c (s.strOf t f).side.1 (s.strOf t f).stream).memberOf t = some m := h.member
  have persist : ((s.readied t k run).edgeOf c (s.strOf t f).side.1 (s.strOf t f).stream).persist = true := h.persist
  have unarmed : (((s.readied t k run).ctx c).member (s.strOf t f).side.1 (s.strOf t f).stream m).arm = none := h.unarmed
  have free : ((s.tile t).readied k run).interlocked k false [⟨a, 1⟩] [] = false := h.free
  have parity : ((s.tile t).readied k run).badIn [⟨a, 1⟩] = none := h.parity
  have record : Memory.readLE ((s.tile t).readied k run).pad a 64 = (s.tile t).armRecord a := rfl
  rw [Machine.doArm]
  simp only [string_free f (by decide : 2 < 64) h.reserved, strNo_word f (by decide : 2 < 64), State.readied_tile, strOf_readied, plain, h.valid,
    h.edge, ctx, member, persist, unarmed, wideResolve_readied run _ _ (by decide : 2 < 64), h.resolves, Resolve.issue, free, parity,
    record, h.aligned, h.high, h.rest, Bool.not_true, Bool.or_self, Bool.false_eq_true, decide_false, ne_eq, not_true_eq_false, or_self,
    Option.isSome_none, if_false]
  rfl

/-- What an `arm` leaves. -/
theorem arm_takes {c : Fin 8} {m : Nat} (h : Issues s t k) (ha : MayArm s t k f c m a) :
    let z := s.strOf t f
    Completes s (.arm t f) fun u => u = { s with tiles := u.tiles, ctxs := u.ctxs } ∧ (∀ v, v ≠ t → u.tile v = s.tile v) ∧
      (s.tile t).Issued (u.tile t) k ((s.slotOf t k).onto ((s.slotOf t k).pc + 1) .running) true ∧
      (u.ctx c).member z.side.1 z.stream m = Member.takeArm { (s.ctx c).member z.side.1 z.stream m with
        arm := some (fld ((s.tile t).armRecord a) 0 52, fld ((s.tile t).armRecord a) 64 32) } (s.edgeOf c z.side.1 z.stream) := by
  intro z
  obtain ⟨-, -, -, inside, -⟩ := id h
  refine act_completes (f := fun s => s.issueAs t (word 3 2 f) doArm false) rfl h.1 ?_
  obtain ⟨run, frame, others, -, here⟩ := issue_leaves (w := word 3 2 f) (yields := false) h fun run => ha.doArm _ run
  generalize s.issueAs t (word 3 2 f) doArm false = u at frame others here
  have tile (v : TileId) : ((s.readied t k run).armed (s.strOf t f) (s.tile t) c m a).tile v = (s.readied t k run).tile v := rfl
  refine ⟨by rw [frame]; rfl, fun v hv => ?_, ?_, ?_⟩
  · rw [others v (by simpa using hv), tile, State.readied_ne _ _ _ hv]
  · exact Tile.Woken.issued (run := run) h ((tile t).trans (s.readied_tile t k run)) rfl (succ_pc inside ▸ here)
  · rw [frame]
    exact member_modMember _ c _ _ m _

end Sys2Proof.Machine

section
open Sys2Proof Sys2Proof.Machine

/-- Settles O4: what a string or a chain does not admit by the lemmas of its instruction, what it admits by what the instruction
leaves (`recv_posts`, `send_goes`, `fin_sent`, `fin_received`, `arm_takes`, `sendChain_goes`, `finChain_goes`). -/
theorem stringCommands : Obligations.StringCommands := by
  intro s t k f a h x z n y reg addr goes faults
  refine ⟨fun hr => string_faults h hr, fun hr => ⟨fun hs => ?_, fun hs => recv_string h hr (.inr hs), fun hs => send_string h hr (.inr hs),
    fun hs => arm_string h hr hs, fun hs => chain_string h hr hs, ?_, ?_, ?_, ?_, ?_, ?_, ?_⟩⟩
  · exact ⟨recv_string h hr (.inl hs), send_string h hr (.inl hs), fin_string h hr hs⟩
  · intro plain valid inbound unchained room resolves free
    exact recv_posts h ⟨hr, plain, valid, inbound, unchained, room, resolves, free⟩
  · intro valid outbound unchained credits resolves free
    exact send_goes h hr valid outbound unchained credits resolves free
  · intro q qs valid outbound unchained sends read
    exact fin_sent h hr valid outbound unchained sends read
  · intro p ps valid inbound unchained posts done
    exact fin_received h hr valid inbound unchained posts done
  · intro c m plain valid edge ctx member persist unarmed resolves free parity record aligned high rest
    exact arm_takes h ⟨hr, plain, valid, edge, ctx, member, persist, unarmed, resolves, free, parity, aligned, high, rest⟩
  · intro i rings hf hi valid h0 h1 idle resolves none_ run other sp waits free
    exact sendChain_goes h hr hf hi valid rfl (fun e => h0 (BitVec.eq_of_toNat_eq e)) h1 idle resolves rfl rfl waits free
  · intro i hf hi valid done
    exact finChain_goes h hr hf hi valid done

end

/-! ### Service units -/

namespace Sys2Proof.Machine

variable {s : State} {t : TileId} {k : Fin 8} {f : Fields} {op a : Nat}

/-! #### The service class (R167) -/

/-- The table that a submission names (R167). -/
def tableNo (f : Fields) : Fin 16 := (f.extractLsb' 50 4).toFin

theorem tableNo_word (f : Fields) (ho : op < 64) : finOf 16 (fld (word 7 op f).toNat 50 4) = tableNo f :=
  finOf_word (by decide) f (by decide) ho (by decide) rfl

theorem serviceReserved_word (f : Fields) (ho : op < 64) : serviceReserved (word 7 op f).toNat = decide (f.extractLsb' 0 34 ≠ 0) :=
  reserved_word f (by decide) ho (by decide)

theorem service_free (f : Fields) (ho : op < 64) (hr : f.extractLsb' 0 34 = 0) : serviceReserved (word 7 op f).toNat = false := by
  rw [serviceReserved_word f ho]; simp [hr]

/-- A reserved bit faults `xsub` and `asub`. -/
theorem service_faults (h : Issues s t k) (hr : f.extractLsb' 0 34 ≠ 0) :
    (Completes s (.xsub t f) fun u => Faulted s u t k .illegal) ∧ Completes s (.asub t f) fun u => Faulted s u t k .illegal := by
  have bad {op : Nat} (ho : op < 64) : serviceReserved (word 7 op f).toNat = true := by
    rw [serviceReserved_word f ho]; exact decide_eq_true hr
  exact ⟨issue_fault (body := doXsub) h (fun _ => rfl) (by decide) fun _ => if_pos (bad (by decide)),
    issue_fault (body := doAsub) h (fun _ => rfl) (by decide) fun _ => if_pos (bad (by decide))⟩

/-- A register that a command of the service class names, as its slot holds it when it issues. -/
theorem service_value {lo : Nat} (run : Nat) (f : Fields) (ho : op < 64) (h : lo + 4 ≤ 54) :
    ((s.tile t).readied k run).slots[k].reg (fld (word 7 op f).toNat lo 4) = (s.slotOf t k).value (f.extractLsb' lo 4) := by
  rw [Slot.reg_word _ f (by decide) ho h]
  exact s.value_ready t k _

/-- The number of records of a submission (R167). -/
def State.records (s : State) (t : TileId) (k : Fin 8) (f : Fields) : Nat := ((s.slotOf t k).value (f.extractLsb' 38 4)).toNat

/-- The submission word (R171, R179). -/
def State.submission (s : State) (t : TileId) (k : Fin 8) (f : Fields) : Nat :=
  ((s.slotOf t k).value (f.extractLsb' 42 4)).toNat

/-- Where the results of a submission with HOME go (R171, R179). -/
def State.resultAddr (s : State) (t : TileId) (k : Fin 8) (f : Fields) : Word := (s.slotOf t k).value (f.extractLsb' 34 4)

section
variable (s t k) (run : Nat) (f : Fields) (ho : op < 64)
include ho

theorem records_readied :
    (((s.tile t).readied k run).slots[k].reg (fld (word 7 op f).toNat 38 4)).toNat = s.records t k f := by
  rw [service_value run f ho (by decide)]; rfl

theorem submission_readied :
    (((s.tile t).readied k run).slots[k].reg (fld (word 7 op f).toNat 42 4)).toNat = s.submission t k f := by
  rw [service_value run f ho (by decide)]; rfl

theorem resultAddr_readied :
    ((s.tile t).readied k run).slots[k].reg (fld (word 7 op f).toNat 34 4) = s.resultAddr t k f :=
  service_value run f ho (by decide)

end

/-! #### Submissions that fault (R168) -/

/-- A table that does not exist, or a count of records that `xsub` does not carry. -/
theorem xsub_format (h : Issues s t k) (hr : f.extractLsb' 0 34 = 0)
    (hf : s.routerTable (regionOf t) (tableNo f) = none ∨ s.records t k f = 0 ∨ 16 < s.records t k f) :
    Completes s (.xsub t f) fun u => Faulted s u t k .format :=
  issue_fault (body := doXsub) (w := word 7 0 f) h (fun _ => rfl) (by decide) fun run => by
    rw [doXsub]
    simp only [service_free f (by decide : 0 < 64) hr, tableNo_word f (by decide : 0 < 64), State.readied_tile,
      records_readied s t k run f (by decide : 0 < 64), Bool.false_eq_true, if_false]
    have table : (s.readied t k run).routerTable (regionOf t) (tableNo f) = s.routerTable (regionOf t) (tableNo f) := rfl
    rw [table]
    rcases ht : s.routerTable (regionOf t) (tableNo f) with _ | ⟨q, o⟩
    · rfl
    · exact if_pos (hf.resolve_left (by simp [ht]))

/-- A table that does not exist, or a count of records that `asub` does not carry. -/
theorem asub_format (h : Issues s t k) (hr : f.extractLsb' 0 34 = 0)
    (hf : s.selectTable (regionOf t) (tableNo f) = none ∨ s.records t k f = 0 ∨ 256 < s.records t k f) :
    Completes s (.asub t f) fun u => Faulted s u t k .format :=
  issue_fault (body := doAsub) (w := word 7 1 f) h (fun _ => rfl) (by decide) fun run => by
    rw [doAsub]
    simp only [service_free f (by decide : 1 < 64) hr, tableNo_word f (by decide : 1 < 64), State.readied_tile,
      records_readied s t k run f (by decide : 1 < 64), Bool.false_eq_true, if_false]
    have table : (s.readied t k run).selectTable (regionOf t) (tableNo f) = s.selectTable (regionOf t) (tableNo f) := rfl
    rw [table]
    rcases ht : s.selectTable (regionOf t) (tableNo f) with _ | sel
    · rfl
    · exact if_pos (hf.resolve_left (by simp [ht]))

/-! #### Submissions that are taken -/

/-- The records of a submission stand at byte `a`, where nothing holds them and their parity is good. -/
structure MaySubmit (s : State) (t : TileId) (k : Fin 8) (f : Fields) (a : Nat) : Prop where
  reserved : f.extractLsb' 0 34 = 0
  resolves : (s.tile t).resolve (s.hquotaOf t) ((s.slotOf t k).value (f.extractLsb' 46 4)) true (8 * s.records t k f) .read = .ok a
  free : (s.tile t).interlocked k false (spanOf a (8 * s.records t k f)) [] = false
  parity : (s.tile t).badIn (spanOf a (8 * s.records t k f)) = none

section
variable (h : MaySubmit s t k f a) (run : Nat)
include h

/-- The handshake leaves the records, and what stands in their way, as they are. -/
theorem MaySubmit.issue_readied (ho : op < 64) (g : Nat → Issue) :
    (((s.tile t).readied k run).resolve ((s.readied t k run).hquotaOf t)
      (((s.tile t).readied k run).slots[k].reg (fld (word 7 op f).toNat 46 4)) true (8 * s.records t k f) .read).issue g = g a := by
  have resolves : ((s.tile t).readied k run).resolve ((s.readied t k run).hquotaOf t) ((s.slotOf t k).value (f.extractLsb' 46 4)) true
      (8 * s.records t k f) .read = .ok a := h.resolves
  rw [service_value run f ho (by decide), resolves, Resolve.issue]

theorem MaySubmit.free_readied : ((s.tile t).readied k run).interlocked k false (spanOf a (8 * s.records t k f)) [] = false := h.free

theorem MaySubmit.parity_readied : ((s.tile t).readied k run).badIn (spanOf a (8 * s.records t k f)) = none := h.parity

end

/-- An instruction that changes no tile but its own slot: what is left of the tiles. -/
theorem issue_apart {body : State → TileId → Fin 8 → Nat → Nat → Issue} {w : DWord} {wakes : List TileId} {after : Nat → State}
    (h : Issues s t k) (hb : ∀ run, body (s.readied t k run) t k (s.slotOf t k).pc.toNat w.toNat =
      .go (after run) ((s.slotOf t k).pc.toNat + 1) wakes)
    (ha : ∀ run, (after run).tiles = (s.readied t k run).tiles) :
    let u := s.issueAs t w body false
    (∃ run, u = { after run with tiles := u.tiles }) ∧ (∀ v, v ∉ t :: wakes → u.tile v = s.tile v) ∧
      (∀ v, v ≠ t → (s.tile v).Woken (u.tile v)) ∧
      (s.tile t).Issued (u.tile t) k ((s.slotOf t k).onto ((s.slotOf t k).pc + 1) .running) true := by
  intro u
  obtain ⟨-, -, -, inside, -⟩ := id h
  obtain ⟨run, frame, others, woken, here⟩ := issue_leaves (yields := false) h hb
  have tile (v : TileId) : (after run).tile v = (s.readied t k run).tile v := by rw [State.tile, ha]; rfl
  refine ⟨⟨run, frame⟩, fun v hv => ?_, fun v hv => ?_, ?_⟩
  · have apart : v ≠ t := fun e => hv (e ▸ List.mem_cons_self)
    rw [others v hv, tile, s.readied_ne k run apart]
  · rw [← State.readied_ne s k run hv, ← tile]
    exact woken v hv
  · exact Tile.Woken.issued (run := run) h ((tile t).trans (s.readied_tile t k run)) rfl (succ_pc inside ▸ here)

/-! #### `xsub` (R171) -/

/-- The key of the table that a submission names, in its tile's region. -/
def unitKey (t : TileId) (f : Fields) : Nat := svcKey (regionOf t) (tableNo f)

/-- The current batch of the table that an `xsub` names. -/
def State.batchOf (s : State) (t : TileId) (f : Fields) : RouterTab := s.routers.getD (unitKey t f) {}

/-- The submission that an `xsub` with its records at byte `a` makes. -/
def State.routerSub (s : State) (t : TileId) (k : Fin 8) (f : Fields) (a : Nat) : RouterSub :=
  ⟨t, k, (s.slotOf t k).pc, fld (s.submission t k f) 0 14, bitAt (s.submission t k f) 15, s.resultAddr t k f,
    readRecs (s.tile t).pad a (s.records t k f)⟩

/-- An `xsub` of the current batch, which stays good. -/
structure MayReceive (s : State) (t : TileId) (k : Fin 8) (f : Fields) (a : Nat) : Prop extends MaySubmit s t k f a where
  nonempty : 0 < s.records t k f
  few : s.records t k f ≤ 16
  current : fld (s.submission t k f) 16 12 = (s.batchOf t f).batch % 4096
  unfailed : (s.batchOf t f).failed = false
  good : ∃ q o, s.routerTable (regionOf t) (tableNo f) = some (q, o) ∧
    batchBad (q.routerDesc o) (s.routerSub t k f a) ((s.batchOf t f).subs ++ [s.routerSub t k f a]) = none

/-- The state once the unit has received the submission. -/
def State.received (s : State) (t : TileId) (f : Fields) (sub : RouterSub) : State :=
  { s with routers := s.routers.set (unitKey t f) { s.batchOf t f with subs := (s.batchOf t f).subs ++ [sub], failed := false } }

theorem MayReceive.doXsub (h : MayReceive s t k f a) (run : Nat) :
    doXsub (s.readied t k run) t k (s.slotOf t k).pc.toNat (word 7 0 f).toNat =
      .go ((s.readied t k run).received t f (s.routerSub t k f a)) ((s.slotOf t k).pc.toNat + 1) [] := by
  obtain ⟨submits, nonempty, few, current, unfailed, q, o, exists_, good⟩ := h
  have table : (s.readied t k run).routerTable (regionOf t) (tableNo f) = some (q, o) := exists_
  have count : ¬(s.records t k f = 0 ∨ 16 < s.records t k f) := by omega
  have later : ¬(s.batchOf t f).batch % 4096 = ((s.batchOf t f).batch + 1) % 4096 := by omega
  have batch : (s.readied t k run).routers.getD (svcKey (regionOf t) (tableNo f)) {} = s.batchOf t f := rfl
  have sub : (⟨t, k, BitVec.ofNat 11 (s.slotOf t k).pc.toNat, fld (s.submission t k f) 0 14, bitAt (s.submission t k f) 15,
      s.resultAddr t k f, readRecs ((s.tile t).readied k run).pad a (s.records t k f)⟩ : RouterSub) = s.routerSub t k f a := by
    rw [BitVec.ofNat_toNat, BitVec.setWidth_eq]; rfl
  rw [Machine.doXsub]
  simp only [service_free f (by decide : 0 < 64) submits.reserved, tableNo_word f (by decide : 0 < 64), State.readied_tile,
    records_readied s t k run f (by decide : 0 < 64), submission_readied s t k run f (by decide : 0 < 64),
    resultAddr_readied s t k run f (by decide : 0 < 64), submits.issue_readied run (by decide : 0 < 64), table, count, batch,
    current, later, unfailed, sub, good, submits.free_readied, submits.parity_readied, Option.isSome_none, Bool.or_self, ne_eq,
    not_true_eq_false, Bool.false_eq_true, if_false]
  rfl

/-- What an `xsub` of the current batch leaves. -/
theorem xsub_receives (h : Issues s t k) (hs : MayReceive s t k f a) :
    Completes s (.xsub t f) fun u =>
      (u.batchOf t f).subs = (s.batchOf t f).subs ++ [s.routerSub t k f a] ∧
      u = { s with tiles := u.tiles, routers := u.routers } ∧ (∀ v, v ≠ t → u.tile v = s.tile v) ∧
      (s.tile t).Issued (u.tile t) k ((s.slotOf t k).onto ((s.slotOf t k).pc + 1) .running) true := by
  refine act_completes (f := fun s => s.issueAs t (word 7 0 f) doXsub false) rfl h.1 ?_
  obtain ⟨⟨run, frame⟩, others, -, issued⟩ := issue_apart (w := word 7 0 f) h hs.doXsub fun _ => rfl
  refine ⟨?_, by rw [frame]; rfl, fun v hv => others v (by simpa using hv), issued⟩
  rw [frame]
  exact congrArg RouterTab.subs (getD_set_eq _ _ _ _)

/-! #### `asub` (R179) -/

/-- The keys of a table do not depend on what is stored under them. -/
theorem keys_set {α : Type} (l : Tab α) (n : Nat) (x y : α) : (l.set n x).map Prod.fst = (l.set n y).map Prod.fst := by
  induction l with
  | nil => rfl
  | cons e l ih =>
    obtain ⟨m, z⟩ := e
    simp only [Tab.set]
    split
    · rfl
    · split
      · rfl
      · simp only [List.map_cons, ih]

/-- The tiles of a region, once a tile stands among the listed ones, whatever it holds. -/
theorem regionTiles_setTile (s : State) (t : TileId) (x y : Tile) (r : Fin 48) :
    (s.setTile t x).regionTiles r = (s.setTile t y).regionTiles r := by
  have keys := congrArg (List.map (finOf 786432 ·)) (keys_set s.tiles t.1 x y)
  rw [List.map_map, List.map_map] at keys
  exact congrArg (List.filter fun v => regionOf v == r) keys

theorem regionTiles_readied (s : State) (t : TileId) (k : Fin 8) (run : Nat) (r : Fin 48) :
    (s.readied t k run).regionTiles r = (s.readied t k 0).regionTiles r := by
  rw [State.readied, State.readied, State.modTile_modTile, State.modTile_modTile]
  exact regionTiles_setTile s t _ _ r

/-- What the `asub` with HOME of a block tells of its home (R179). -/
def State.queryHome (s : State) (t : TileId) (k : Fin 8) (f : Fields) : Option SelHome :=
  if bitAt (s.submission t k f) 15 then
    some ⟨t, k, (s.slotOf t k).pc, s.resultAddr t k f, fld (s.submission t k f) 16 12 + 1⟩ else none

/-- The records of an `asub` at byte `a`: key block and score (R179). -/
def State.queryScores (s : State) (t : TileId) (k : Fin 8) (f : Fields) (a : Nat) : List (Nat × Nat) :=
  (List.range (s.records t k f)).map fun i =>
    let v := Memory.readLE (s.tile t).pad (a + 8 * i) 8
    (fld v 0 12, fld v 32 32)

/-- The block that an `asub` with its records at byte `a` opens. -/
def State.openedQuery (s : State) (t : TileId) (k : Fin 8) (f : Fields) (a : Nat) : SelQuery :=
  ⟨fld (s.submission t k f) 0 12, s.queryHome t k f, s.queryScores t k f a, false⟩

/-- The blocks of the table that an `asub` names. -/
def State.queriesOf (s : State) (t : TileId) (f : Fields) : List SelQuery := s.selections.getD (unitKey t f) []

/-- An `asub` that opens a block, which is good, in a unit with room. -/
structure MayOpen (s : State) (t : TileId) (k : Fin 8) (f : Fields) (a : Nat) : Prop extends MaySubmit s t k f a where
  nonempty : 0 < s.records t k f
  few : s.records t k f ≤ 256
  table : ∃ sel, s.selectTable (regionOf t) (tableNo f) = some sel
  unopened : (s.queriesOf t f).find? (fun q => q.query == fld (s.submission t k f) 0 12) = none
  room : ((s.queriesOf t f).filter fun q => !q.complete).length < 64
  good : (s.openedQuery t k f a).bad (bit (s.queryHome t k f).isSome) = none

/-- The state once the unit holds the block. -/
def State.opened (s : State) (t : TileId) (f : Fields) (q : SelQuery) : State :=
  { s with selections := s.selections.set (unitKey t f) ((s.queriesOf t f).filter (fun y => y.query != q.query) ++ [q]) }

theorem MayOpen.doAsub (h : MayOpen s t k f a) (run : Nat) :
    doAsub (s.readied t k run) t k (s.slotOf t k).pc.toNat (word 7 1 f).toNat =
      .go ((s.readied t k run).opened t f (s.openedQuery t k f a)) ((s.slotOf t k).pc.toNat + 1)
        (if (s.openedQuery t k f a).complete then (s.readied t k 0).regionTiles (regionOf t) else []) := by
  obtain ⟨submits, nonempty, few, ⟨sel, exists_⟩, unopened, room, good⟩ := h
  have table : (s.readied t k run).selectTable (regionOf t) (tableNo f) = some sel := exists_
  have count : ¬(s.records t k f = 0 ∨ 256 < s.records t k f) := by omega
  have full : ¬64 ≤ ((s.queriesOf t f).filter fun q => !q.complete).length := Nat.not_le.mpr room
  have queries : (s.readied t k run).selections.getD (svcKey (regionOf t) (tableNo f)) [] = s.queriesOf t f := rfl
  have pad : ((s.tile t).readied k run).pad = (s.tile t).pad := rfl
  have home : (if bitAt (s.submission t k f) 15 = true then
      some (⟨t, k, (s.slotOf t k).pc, s.resultAddr t k f, fld (s.submission t k f) 16 12 + 1⟩ : SelHome) else none) =
        s.queryHome t k f := rfl
  have scores : ((List.range (s.records t k f)).map fun i =>
      (fld (Memory.readLE (s.tile t).pad (a + 8 * i) 8) 0 12, fld (Memory.readLE (s.tile t).pad (a + 8 * i) 8) 32 32)) =
        s.queryScores t k f a := rfl
  have first : SelQuery.bad ⟨fld (s.submission t k f) 0 12, s.queryHome t k f, s.queryScores t k f a, false⟩
      (bit false + bit (s.queryHome t k f).isSome) = none := (Nat.zero_add _).symm ▸ good
  rw [Machine.doAsub, ← regionTiles_readied s t k run]
  simp only [service_free f (by decide : 1 < 64) submits.reserved, tableNo_word f (by decide : 1 < 64), State.readied_tile,
    records_readied s t k run f (by decide : 1 < 64), submission_readied s t k run f (by decide : 1 < 64),
    resultAddr_readied s t k run f (by decide : 1 < 64), submits.issue_readied run (by decide : 1 < 64), table, count, queries, pad,
    unopened, full, submits.free_readied, submits.parity_readied, and_false, Bool.false_eq_true, if_false, Option.getD_none,
    Option.none_or, List.nil_append, BitVec.ofNat_toNat, BitVec.setWidth_eq, home, scores, Option.isSome_none, first, Bool.or_self]
  rfl

/-- What an `asub` that opens a block leaves. -/
theorem asub_opens (h : Issues s t k) (hs : MayOpen s t k f a) :
    Completes s (.asub t f) fun u => (u.queriesOf t f).getLast? = some (s.openedQuery t k f a) ∧
      u = { s with tiles := u.tiles, selections := u.selections } ∧ (∀ v, v ≠ t → (s.tile v).Woken (u.tile v)) ∧
      ((s.openedQuery t k f a).complete = false → ∀ v, v ≠ t → u.tile v = s.tile v) ∧
      (s.tile t).Issued (u.tile t) k ((s.slotOf t k).onto ((s.slotOf t k).pc + 1) .running) true := by
  refine act_completes (f := fun s => s.issueAs t (word 7 1 f) doAsub false) rfl h.1 ?_
  obtain ⟨⟨run, frame⟩, others, woken, issued⟩ := issue_apart (w := word 7 1 f) h hs.doAsub fun _ => rfl
  refine ⟨?_, by rw [frame]; rfl, woken, fun hc v hv => others v (by simpa [hc] using hv), issued⟩
  rw [frame]
  exact (congrArg List.getLast? (getD_set_eq _ _ _ _)).trans List.getLast?_concat

end Sys2Proof.Machine

section
open Sys2Proof Sys2Proof.Machine

/-- Settles O8: what a unit does not take by `service_faults`, `xsub_format` and `asub_format`, what it takes by
`xsub_receives` and `asub_opens`. -/
theorem serviceSubmissions : Obligations.ServiceSubmissions := by
  intro s t k f a h x z tab r n sw dest faults
  refine ⟨service_faults h, fun hr => ⟨xsub_format h hr, asub_format h hr⟩, fun hr resolves free parity => ⟨?_, ?_⟩⟩
  · intro q o table nonempty few rt sub current unfailed good
    exact xsub_receives h ⟨⟨hr, resolves, free, parity⟩, nonempty, few, current, unfailed, q, o, table, good⟩
  · intro sel table nonempty few qs num unopened room q good
    exact asub_opens h ⟨⟨hr, resolves, free, parity⟩, nonempty, few, ⟨sel, table⟩, unopened, room, good⟩

end

namespace Sys2Proof.Machine

/-! #### Results of a service unit (R169, R175) -/

/-- Steps that change nothing but tiles change, one after the other, nothing but tiles. -/
theorem foldl_tiles {α : Type} {g : State → α → State} (hg : ∀ s a, g s a = { s with tiles := (g s a).tiles }) (l : List α)
    (s : State) : l.foldl g s = { s with tiles := (l.foldl g s).tiles } := by
  induction l generalizing s with
  | nil => rfl
  | cons a l ih =>
    rw [List.foldl_cons, ih (g s a)]
    exact congrArg (fun u : State => { u with tiles := (l.foldl g (g s a)).tiles }) (hg s a)

/-- What a service unit writes and signals reaches tiles alone. -/
theorem deliver_tiles (s : State) (ws : List ServiceWrite) (sg : List (TileId × Fin 16)) :
    s.deliver ws sg = { s with tiles := (s.deliver ws sg).tiles } := by
  unfold State.deliver
  extract_lets s1
  have written : s1 = { s with tiles := s1.tiles } := foldl_tiles (fun _ _ => by split <;> rfl) ws s
  rw [foldl_tiles (fun _ _ => rfl) sg s1, written]

/-- A unit that advances marks its context, and changes nothing else (R431). -/
theorem serviced_ctxs (s : State) (r : Fin 48) : s.serviced r = { s with ctxs := (s.serviced r).ctxs } := by
  unfold State.serviced
  split <;> rfl

section
variable {s : State} {r : Fin 48} {tab : Fin 16}

/-! #### Router batches (R172, R175) -/

/-- The table of a closed batch, once it is decided. -/
def RouterTab.decide (rt : RouterTab) (q : Scroll) (o : Nat) (r : Fin 48) : RouterTab :=
  let res := batchResults q o r rt.subs (batchAssign (q.routerDesc o) rt.subs)
  { rt with decided := true, writes := res.1, signals := res.2 }

/-- A closed batch whose results can be delivered: its table is decided, and what it drops is counted. -/
theorem batchDecide_eq {rt : RouterTab} {q : Scroll} {o : Nat} (hrt : s.routers.getD (svcKey r tab) {} = rt)
    (ht : s.routerTable r tab = some (q, o)) (hd : rt.decided = false) (hf : rt.failed = false)
    (hc : batchClosed (q.routerDesc o) rt.subs = true)
    (hb : s.deliverBad (rt.decide q o r).writes (rt.decide q o r).signals = none) :
    ∃ dropped nans, s.batchDecide r tab = ((({ s with routers := s.routers.set (svcKey r tab) (rt.decide q o r) }).count
      Reg.rtrDrops 0 32 dropped).count Reg.rtrNan 0 32 nans).serviced r := by
  have results : s.deliverBad (batchResults q o r rt.subs (batchAssign (q.routerDesc o) rt.subs)).1
    (batchResults q o r rt.subs (batchAssign (q.routerDesc o) rt.subs)).2 = none := hb
  have runs : (rt.decided || rt.failed || !batchClosed (q.routerDesc o) rt.subs) = false := by rw [hd, hf, hc]; rfl
  unfold State.batchDecide
  simp only [ht, hrt, runs, results, Bool.false_eq_true, if_false]
  exact ⟨_, _, rfl⟩

/-- The results of a decided batch that can be delivered, and the next batch. -/
theorem resultsWritten_eq {rt : RouterTab} (hrt : s.routers.getD (svcKey r tab) {} = rt) (hd : rt.decided = true)
    (hf : rt.failed = false) (hp : s.deliverParity rt.writes = none) (hb : s.deliverBad rt.writes rt.signals = none) :
    ∃ wakes, s.resultsWritten r tab = State.wakeAll { s.deliver rt.writes rt.signals with
      routers := s.routers.set (svcKey r tab) { batch := rt.batch + 1 } } wakes := by
  have routers : (s.deliver rt.writes rt.signals).routers = s.routers := by rw [deliver_tiles]
  unfold State.resultsWritten
  simp only [hrt, hd, hf, hp, hb, routers, Bool.not_true, Bool.or_self, Bool.false_eq_true, if_false]
  exact ⟨_, rfl⟩

end

end Sys2Proof.Machine

section
open Sys2Proof Sys2Proof.Machine

/-- Settles O14: the decision by `batchDecide_eq`, whose counts and mark leave the tables, the results by `resultsWritten_eq`. -/
theorem routerBatches : Obligations.RouterBatches := by
  intro s r tab ha hr rt
  refine ⟨?_, ?_⟩
  · intro q o table undecided opened closed res good
    refine act_completes (f := fun s => if s.regions[r].state = .active then s.batchDecide r tab else s) rfl ha ?_
    obtain ⟨dropped, nans, he⟩ := batchDecide_eq rfl table undecided opened closed good
    rw [if_pos hr, he, serviced_ctxs]
    exact ⟨rfl, getD_set_eq _ _ _ _⟩
  · intro decided opened parity good
    refine act_completes (f := fun s => if s.regions[r].state = .active then s.resultsWritten r tab else s) rfl ha ?_
    obtain ⟨wakes, he⟩ := resultsWritten_eq rfl decided opened parity good
    rw [if_pos hr, he]
    obtain ⟨frame, -, woken⟩ := State.wakeAll_spec wakes { s.deliver rt.writes rt.signals with
      routers := s.routers.set (svcKey r tab) { batch := rt.batch + 1 } }
    refine ⟨?_, ?_, woken⟩
    · rw [frame, deliver_tiles]
    · rw [frame]
      exact getD_set_eq _ _ _ _

end

namespace Sys2Proof.Machine

/-! #### Selection queries (R180) -/

theorem Tile.Woken.events {x y : Tile} (h : x.Woken y) : y.events = x.events := by rw [h.1]

theorem Tile.wideWrite_events (x : Tile) (a : Nat) (bs : List Byte) : (x.wideWrite a bs).events = x.events := by
  rw [x.wideWrite_retagged a bs]

section
variable (s : State) (w : ServiceWrite) (e : Fin 16)

/-- One result with its signal leaves every other tile. -/
theorem deliver_one_ne {v : TileId} (h : v ≠ w.tile) : (s.deliver [w] [(w.tile, e)]).tile v = s.tile v := by
  simp only [State.deliver, List.foldl_cons, List.foldl_nil, State.tile_modTile_ne _ _ h]
  split
  · exact State.tile_modTile_ne _ _ h
  · rfl

/-- The signal that goes with one result counts one event of its tile. -/
theorem deliver_one_event :
    ((s.deliver [w] [(w.tile, e)]).tile w.tile).events[e] = (s.tile w.tile).events[e] + 1 := by
  simp only [State.deliver, List.foldl_cons, List.foldl_nil, State.tile_modTile_eq, vget_vmod_eq]
  split
  · rw [State.tile_modTile_eq, Tile.wideWrite_events]
  · rfl

/-- One result lands where its address resolves. -/
theorem deliver_one_pad {a : Nat}
    (h : (s.tile w.tile).resolve (s.hquotaOf w.tile) w.dest true w.extent .result = .ok a) :
    ((s.deliver [w] [(w.tile, e)]).tile w.tile).pad = ((s.tile w.tile).wideWrite a w.bytes).pad := by
  simp only [State.deliver, List.foldl_cons, List.foldl_nil, State.tile_modTile_eq, h]

end

/-- The list that is written at the home of a decided block (R180). -/
def queryWrite (sel sink loc : Nat) (h : SelHome) (q : SelQuery) : ServiceWrite :=
  let keys := chooseKeys sel sink loc h.v q.scores
  ⟨h.tile, some (h.slot, h.pc), h.dest, 136, leBytes 8 keys.length ++ keys.flatMap (leBytes 2)⟩

/-- A complete block whose list can be delivered: it is written, and the block leaves the unit. -/
theorem queryDecide_eq {s : State} {r : Fin 48} {tab : Fin 16} {num sel sink loc ev : Nat} {qs : List SelQuery} {q : SelQuery}
    {h : SelHome} (ht : s.selectTable r tab = some (sel, sink, loc, ev)) (hs : s.selections.getD (svcKey r tab) [] = qs)
    (hq : qs.find? (fun q => q.query == num && q.complete && !q.failed) = some q) (hh : q.home = some h)
    (hp : s.deliverParity [queryWrite sel sink loc h q] = none)
    (hb : s.deliverBad [queryWrite sel sink loc h q] [(h.tile, finOf 16 ev)] = none) :
    ∃ wakes, s.queryDecide r tab num = (State.wakeAll { s.deliver [queryWrite sel sink loc h q] [(h.tile, finOf 16 ev)] with
      selections := s.selections.set (svcKey r tab) (qs.filter fun y => y.query != num) } wakes).serviced r := by
  have selections : (s.deliver [queryWrite sel sink loc h q] [(h.tile, finOf 16 ev)]).selections = s.selections := by
    rw [deliver_tiles]
  unfold queryWrite at hp hb selections ⊢
  unfold State.queryDecide
  simp only [ht, hs, hq, hh, hp, hb, selections]
  exact ⟨_, rfl⟩

end Sys2Proof.Machine

section
open Sys2Proof Sys2Proof.Machine

/-- Settles O15: `queryDecide_eq`, with what the delivery of one result leaves of its home (`deliver_one_event`,
`deliver_one_pad`) and of the other tiles (`deliver_one_ne`). -/
theorem selectionQueries : Obligations.SelectionQueries := by
  intro s r tab num q h sel sink loc ev ha hr table qs t keys w found home parity good
  refine act_completes (f := fun s => if s.regions[r].state = .active then s.queryDecide r tab num.1 else s) rfl ha ?_
  obtain ⟨wakes, he⟩ := queryDecide_eq table rfl found home parity good
  have list : queryWrite sel sink loc h q = w := rfl
  rw [if_pos hr, he, serviced_ctxs, list]
  obtain ⟨frame, -, woken⟩ := State.wakeAll_spec wakes { s.deliver [w] [(t, finOf 16 ev)] with
    selections := s.selections.set (svcKey r tab) (qs.filter fun y => y.query != num.1) }
  refine ⟨?_, ?_, ?_, fun v hv => ?_, fun a resolves => ?_⟩
  · rw [frame, deliver_tiles]
  · rw [frame]
    exact getD_set_eq _ _ _ _
  · exact (congrArg (·[finOf 16 ev]) (woken t).events).trans (deliver_one_event s w _)
  · exact deliver_one_ne s w (finOf 16 ev) hv ▸ woken v
  · exact (woken t).pad.trans (deliver_one_pad s w _ resolves)

end

/-! ### The window (R205, R226, R322, R477) -/

namespace Sys2Proof.Machine

variable {s t : State} {line : Fin 1073741824} {bytes : List Byte} {P : State → Prop}

theorem Completes.mono {c : Instr} {P Q : State → Prop} (h : Completes s c P) (hpq : ∀ u, P u → Q u) : Completes s c Q := by
  obtain ⟨t, u, hx, hs, hp⟩ := h
  exact ⟨t, u, hx, hs, hpq t hp⟩

theorem Completes.of_eq {c : Instr} (h : Completes s c (· = t)) (hp : P t) : Completes s c P := h.mono fun _ e => e ▸ hp

theorem Memory.readBytes_writeBytes_length {n : Nat} (hn : bytes.length = n) (m : Mem) (a : Nat) :
    Memory.readBytes (Memory.writeBytes m a bytes) a n = bytes := hn ▸ Memory.readBytes_writeBytes bytes m a

/-! #### Lines of the deep range -/

section
variable {c : Fin 8} {q : Scroll} {r : Option (Fin 48)} {a : Nat}

/-- What starts a fetch is not served by it. -/
theorem startFetch_ne_ok (s : State) (c : Fin 8) (q : Scroll) (g : Segment) (p : Nat) : (s.startFetch c q g p).1 ≠ .ok := by
  unfold State.startFetch
  extract_lets grant
  split <;> exact nofun

/-- A read that is served leaves the memory as it is. -/
theorem touchRead_ok_mem (h : s.touchRead c q r a = (.ok, t)) : (t.ctx c).mem = (s.ctx c).mem := by
  have fetch (s : State) (g : Segment) (p : Nat) (h : s.startFetch c q g p = (.ok, t)) : False :=
    startFetch_ne_ok s c q g p (congrArg Prod.fst h)
  unfold State.touchRead at h
  extract_lets p x y used at h
  split at h
  · cases h
  split at h
  · cases h
  split at h
  · split at h
    · exact (fetch _ _ _ h).elim
    · cases h; rfl
  · exact (fetch _ _ _ h).elim
  · split at h <;> cases h
  split at h
  · cases h
  split at h
  · cases h
  split at h
  · cases h
  split at h
  · split at h
    · exact (fetch _ _ _ h).elim
    · cases h
  · obtain rfl := congrArg Prod.snd h
    simp only [used, State.accessed, ctx_modCtx_eq, Ctx.modPage, Ctx.setPage]

theorem Ctx.putLine_mem (x : Ctx) (q : Scroll) (a : Nat) (bs : List Byte) :
    (x.putLine q a bs).mem = Memory.writeBytes x.mem a bs := rfl

/-- A line written is dirty. -/
theorem Ctx.putLine_dirty (x : Ctx) (q : Scroll) (a : Nat) (bs : List Byte) :
    ((x.putLine q a bs).page q (pageOf a)).dirty.getLsbD (granuleOf a) = true := by
  have granule : granuleOf a < 32 := Nat.mod_lt _ (by decide)
  let g := BitVec.ofNat 32 (2 ^ granuleOf a)
  have pages : (x.putLine q a bs).pages = (x.modPage q (pageOf a) fun y => { y with
    dirty := y.dirty ||| g, fresh := y.fresh ||| g, newer := y.newer ||| g }).pages := rfl
  rw [page_congr pages, page_modPage_eq, getLsbD_or_bit _ _ _ granule]
  simp

/-- Code STACK sets MEM_CAUSE.STACK. -/
theorem memError_stack (s : State) (c : Fin 8) (a stack : Nat) : (s.memError c 4 a stack).rfld Reg.memCause 2 1 = 1 := by
  have cause : (s.memError c 4 a stack).reg Reg.memCause = (s.cause Reg.memCause 2).reg Reg.memCause := by
    unfold State.memError State.memCause State.count State.setFld
    dsimp only
    rw [State.reg_setReg_ne _ _ (by decide)]
    split
    · rw [State.reg_setReg_ne _ _ (by decide), State.reg_setReg_ne _ _ (by decide)]
      rfl
    · rfl
  rw [State.rfld, cause]
  exact rfld_cause_self s Reg.memCause (by decide)

end

/-! #### Reads and writes by the kind of their slot -/

/-- The window is closed just where IDE is required and not active (R477). -/
theorem windowClosed_iff (s : State) :
    s.windowClosed = true ↔ s.ownerFlag 1 = true ∧ ¬(s.sec.ideIo = true ∧ s.sec.ideCm = true) := by
  simp only [State.windowClosed, Bool.and_eq_true, Bool.not_eq_true', Bool.eq_false_iff, ne_eq]

section
variable (ha : Alive s) (hl : s.pins.linkUp = true)
include ha hl

theorem hdmRead_closed (hc : s.windowClosed = true) :
    Completes s (.hdmRead line) (· = s.emit (.hdmData line.1 (List.replicate 64 0) true)) := by
  refine act_completes (by rw [exec, execHdmRead]) ha ?_
  simp [hl, hc]

theorem hdmWrite_closed (hb : bytes.length = 64) (hc : s.windowClosed = true) : Completes s (.hdmWrite line bytes) (· = s) := by
  refine actIf_completes (ok := (Instr.hdmWrite line bytes).wf) (by rw [exec, execHdmWrite]) (beq_iff_eq.mpr hb) ha ?_
  simp [hl, hc]

variable {i : Fin 32} {off : Nat} {w : Window} (ho : s.windowClosed = false) (hs : slotOf line = (i, off)) (hw : s.windows[i] = w)
include ho hs hw

theorem hdmRead_unmapped (hk : w.kind = 0) :
    Completes s (.hdmRead line) (· = s.emit (.hdmData line.1 (List.replicate 64 0) true)) := by
  refine act_completes (by rw [exec, execHdmRead]) ha ?_
  simp only [hl, ho, hs, hw, hk]
  rfl

theorem hdmRead_staging (hk : w.kind = 1) :
    Completes s (.hdmRead line) (· = s.emit (.hdmData line.1 (Memory.readBytes w.staging off 64) false)) := by
  refine act_completes (by rw [exec, execHdmRead]) ha ?_
  simp only [hl, ho, hs, hw, hk]
  rfl

theorem hdmRead_replay (hk : w.kind = 3) :
    Completes s (.hdmRead line) (· = s.emit (.hdmData line.1 (Memory.readBytes s.replayRing (w.base + off) 64) false)) := by
  refine act_completes (by rw [exec, execHdmRead]) ha ?_
  simp only [hl, ho, hs, hw, hk]
  rfl

variable {q : Scroll}

/-- A line of the deep range that is served. -/
theorem hdmRead_served (hk : w.kind = 2) (hq : s.scroll? w.ctx = some q)
    (ht : s.touchRead w.ctx q none (w.base + off) = (.ok, t)) : Completes s (.hdmRead line)
      (· = t.emit (.hdmData line.1 (Memory.readBytes (t.ctx w.ctx).mem (w.base + off) 64) false)) := by
  refine act_completes (by rw [exec, execHdmRead]) ha ?_
  simp only [hl, ho, hs, hw, hk, hq, ht]
  rfl

/-- A line of the deep range whose read ends with a code; the one of a stack's error is recorded (R242). -/
theorem hdmRead_failed {n : Nat} (hk : w.kind = 2) (hq : s.scroll? w.ctx = some q)
    (ht : s.touchRead w.ctx q none (w.base + off) = (.fail n, t)) : Completes s (.hdmRead line)
      (· = (if n = 4 then t.memError w.ctx 4 (w.base + off) ((t.ctx w.ctx).page q (pageOf (w.base + off))).stack.1 else t).emit
        (.hdmData line.1 (List.replicate 64 0) true)) := by
  refine act_completes (by rw [exec, execHdmRead]) ha ?_
  simp only [hl, ho, hs, hw, hk, hq, ht]
  rfl

variable (hb : bytes.length = 64)
include hb

/-- UNMAPPED and REPLAY slots take no write. -/
theorem hdmWrite_discarded (hk : w.kind = 0 ∨ w.kind = 3) :
    Completes s (.hdmWrite line bytes) (· = s.cause Reg.cmdCause 4) := by
  refine actIf_completes (ok := (Instr.hdmWrite line bytes).wf) (by rw [exec, execHdmWrite]) (beq_iff_eq.mpr hb) ha ?_
  rcases hk with hk | hk
  · simp only [hl, ho, hs, hw, hk]; rfl
  · simp only [hl, ho, hs, hw, hk]; rfl

theorem hdmWrite_staging (hk : w.kind = 1) : Completes s (.hdmWrite line bytes)
    (· = { s with windows := vset s.windows i { w with staging := Memory.writeBytes w.staging off bytes } }) := by
  refine actIf_completes (ok := (Instr.hdmWrite line bytes).wf) (by rw [exec, execHdmWrite]) (beq_iff_eq.mpr hb) ha ?_
  simp only [hl, ho, hs, hw, hk]
  rfl

theorem hdmWrite_wide (hk : w.kind = 2) (hq : s.scroll? w.ctx = some q) (hn : (q.wideOf (w.base + off)).isSome = true) :
    Completes s (.hdmWrite line bytes) (· = s.cause Reg.bwdCause 1) := by
  refine actIf_completes (ok := (Instr.hdmWrite line bytes).wf) (by rw [exec, execHdmWrite]) (beq_iff_eq.mpr hb) ha ?_
  simp only [hl, ho, hs, hw, hk, hq, hn]
  rfl

/-- A line of the deep range whose page is ready for it. -/
theorem hdmWrite_line (hk : w.kind = 2) (hq : s.scroll? w.ctx = some q) (hn : q.wideOf (w.base + off) = none)
    (ht : s.touchWrite w.ctx q none (w.base + off) = (.ok, t)) :
    Completes s (.hdmWrite line bytes) (· = t.modCtx w.ctx fun x => x.putLine q (w.base + off) bytes) := by
  refine actIf_completes (ok := (Instr.hdmWrite line bytes).wf) (by rw [exec, execHdmWrite]) (beq_iff_eq.mpr hb) ha ?_
  simp only [hl, ho, hs, hw, hk, hq, hn, ht]
  rfl

end

end Sys2Proof.Machine

section
open Sys2Proof Sys2Proof.Machine

/-- Settles O38: each access by the kind of its slot, a line of the deep range by what the touch of its page answers. -/
theorem windowAccess : Obligations.WindowAccess := by
  intro s line bytes ha hl hb i off w reads writes closed
  refine ⟨fun shut => ?_, fun up => ?_⟩
  · have hc := (windowClosed_iff s).mpr shut
    exact ⟨hdmRead_closed ha hl hc, hdmWrite_closed ha hl hb hc⟩
  have ho : s.windowClosed = false := Bool.eq_false_iff.mpr (mt (windowClosed_iff s).mp up)
  have hs : slotOf line = (i, off) := rfl
  refine ⟨fun hk => ⟨hdmRead_unmapped ha hl ho hs rfl hk, hdmWrite_discarded ha hl ho hs rfl hb (.inl hk)⟩,
    fun hk => ⟨hdmRead_replay ha hl ho hs rfl hk, hdmWrite_discarded ha hl ho hs rfl hb (.inr hk)⟩,
    fun hk => ⟨hdmRead_staging ha hl ho hs rfl hk, (hdmWrite_staging ha hl ho hs rfl hb hk).of_eq ?_⟩, ?_⟩
  · rw [vget_vset_eq]
    exact ⟨rfl, fun k other => vget_vset_ne _ _ other, Memory.readBytes_writeBytes_length hb _ off,
      fun b out => Memory.read_writeBytes_out bytes _ (by rwa [hb])⟩
  · intro q hk hq a x
    refine ⟨fun t ht => ?_, fun t n ht other => ?_, fun t ht => ?_, fun hn => hdmWrite_wide ha hl ho hs rfl hb hk hq hn,
      fun t hn ht => (hdmWrite_line ha hl ho hs rfl hb hk hq hn ht).of_eq ?_⟩
    · have kept : (t.ctx w.ctx).mem = x.mem := touchRead_ok_mem ht
      have read := hdmRead_served ha hl ho hs rfl hk hq ht
      exact ⟨kept ▸ read, kept⟩
    · have read := hdmRead_failed ha hl ho hs rfl hk hq ht
      rwa [if_neg other] at read
    · have read := hdmRead_failed ha hl ho hs rfl hk hq ht
      rw [if_pos rfl, memError_regs] at read
      exact read.of_eq ⟨rfl, memError_stack _ _ _ _⟩
    · rw [ctx_modCtx_eq, Ctx.putLine_mem]
      exact ⟨rfl, Memory.readBytes_writeBytes_length hb _ a, Ctx.putLine_dirty _ q a bytes,
        fun b out => Memory.read_writeBytes_out bytes _ (by rwa [hb])⟩

end

/-! ### Upkeep of memory (R206, R236, R240 to R242, R300) -/

namespace Sys2Proof.Machine

variable {s u : State} {c : Fin 8} {q : Scroll}

/-! #### Fields of registers -/

theorem fld_putFld_self (v lo w x : Nat) : fld (putFld v lo w x) lo w = x % 2 ^ w := by
  have parts : putFld v lo w x = v % 2 ^ lo + 2 ^ lo * (x % 2 ^ w + 2 ^ w * (v >>> (lo + w))) := by
    rw [putFld, Nat.pow_add]; ring
  rw [fld, Nat.shiftRight_eq_div_pow, parts, Nat.add_mul_div_left _ _ (Nat.two_pow_pos lo),
    Nat.div_eq_of_lt (Nat.mod_lt _ (Nat.two_pow_pos lo)), Nat.zero_add, Nat.add_mul_mod_self_left, Nat.mod_mod]

/-- A field below the one that is replaced. -/
theorem fld_putFld_below (v w x : Nat) {lo l n : Nat} (h : l + n ≤ lo) : fld (putFld v lo w x) l n = fld v l n := by
  have parts : putFld v lo w x = v % 2 ^ lo + 2 ^ lo * (x % 2 ^ w + 2 ^ w * (v >>> (lo + w))) := by
    rw [putFld, Nat.pow_add]; ring
  rw [← fld_mod _ h, parts, Nat.add_mul_mod_self_left, Nat.mod_mod, fld_mod _ h]

theorem rfld_setFld_self (s : State) (o v : Nat) {lo w : Nat} (h : lo + w ≤ 32) :
    (s.setFld o lo w v).rfld o lo w = v % 2 ^ w := by
  rw [State.rfld, State.setFld, State.reg_setReg_eq, fld_mod _ h, fld_putFld_self]

theorem rfld_setFld_below (s : State) (o w v : Nat) {lo l n : Nat} (h : l + n ≤ lo) (h32 : lo ≤ 32) :
    (s.setFld o lo w v).rfld o l n = s.rfld o l n := by
  rw [State.rfld, State.setFld, State.reg_setReg_eq, fld_mod _ (h.trans h32), fld_putFld_below _ _ _ h, State.rfld]

/-- A counter field holds at its largest value. -/
theorem rfld_count_self (s : State) (o n : Nat) {lo w : Nat} (h : lo + w ≤ 32) :
    (s.count o lo w n).rfld o lo w = min (s.rfld o lo w + n) (2 ^ w - 1) := by
  rw [State.count, rfld_setFld_self _ _ _ h, satAdd]
  have := Nat.two_pow_pos w
  exact Nat.mod_eq_of_lt (by omega)

theorem reg_count_ne (s : State) {o k : Nat} (lo w n : Nat) (h : k ≠ o) : (s.count o lo w n).reg k = s.reg k :=
  s.reg_setReg_ne _ h

/-! #### What a window corrected (R236, R300) -/

/-- Corrected errors are counted in the registers of the ports and in the health record. -/
theorem countCorrected_spec (s : State) (seen : WindowCounts) :
    s.countCorrected seen = { s with
      regs := (s.countCorrected seen).regs
      health := { s.health with corrected := s.health.corrected + seen.corrected } } ∧
    ∀ o, o < 0x280000 → (s.countCorrected seen).reg o = s.reg o := by
  have counted : ∀ l : List (Fin 64 × Nat × Nat), let t := l.foldl (fun (s : State) e =>
      (s.count (Reg.fabFec e.1.1) 0 32 e.2.1).count (Reg.fabErr e.1.1) 0 16 e.2.2) s
      t = { s with regs := t.regs } ∧ ∀ o, o < 0x280000 → t.reg o = s.reg o := by
    intro l
    refine List.foldlRecOn (motive := fun t : State => t = { s with regs := t.regs } ∧ ∀ o, o < 0x280000 → t.reg o = s.reg o) l _
      ⟨rfl, fun _ _ => rfl⟩ fun t ⟨frame, below⟩ e _ => ⟨?_, fun o ho => ?_⟩
    · rw [frame]; rfl
    · rw [reg_count_ne _ _ _ _ (by unfold Reg.fabErr; omega), reg_count_ne _ _ _ _ (by unfold Reg.fabFec; omega), below o ho]
  obtain ⟨frame, below⟩ := counted seen.fec
  refine ⟨?_, below⟩
  unfold State.countCorrected
  rw [frame]

theorem countCorrected_port (s : State) {seen : WindowCounts} {p : Fin 64} {a b : Nat} (h : seen.fec = [(p, a, b)]) :
    (s.countCorrected seen).rfld (Reg.fabFec p.1) 0 32 = min (s.rfld (Reg.fabFec p.1) 0 32 + a) (2 ^ 32 - 1) ∧
      (s.countCorrected seen).rfld (Reg.fabErr p.1) 0 16 = min (s.rfld (Reg.fabErr p.1) 0 16 + b) (2 ^ 16 - 1) := by
  have apart : Reg.fabFec p.1 ≠ Reg.fabErr p.1 := by unfold Reg.fabFec Reg.fabErr; omega
  let t := s.count (Reg.fabFec p.1) 0 32 a
  have regs : (s.countCorrected seen).regs = (t.count (Reg.fabErr p.1) 0 16 b).regs := by
    rw [State.countCorrected, h]; rfl
  have fields (o lo w : Nat) : (s.countCorrected seen).rfld o lo w = (t.count (Reg.fabErr p.1) 0 16 b).rfld o lo w := by
    simp only [State.rfld, State.reg, regs]
  rw [fields, fields]
  refine ⟨?_, ?_⟩
  · rw [rfld_of_reg (reg_count_ne t _ _ _ apart)]
    exact rfld_count_self s _ _ (by decide)
  · rw [rfld_count_self t _ _ (by decide), rfld_of_reg (reg_count_ne s _ _ _ apart.symm)]

/-! #### The imbalance window (R240 to R242) -/

/-- The busiest channel of a window is one of its channels, or the one that was the busiest before. -/
theorem busiest_spec (l : List (Fin 8 × Fin 384 × Nat)) {b : Nat × Nat} (hb : b.1 < 384) :
    let r := (l.map fun e => (e.2.1.1, e.2.2)).foldl (fun (b : Nat × Nat) e => if b.2 < e.2 then e else b) b
    r.1 < 384 ∧ r.2 = (l.map (·.2.2)).foldl max b.2 := by
  induction l generalizing b with
  | nil => exact ⟨hb, rfl⟩
  | cons e l ih =>
    simp only [List.map_cons, List.foldl_cons]
    split
    · next h => rw [max_eq_right h.le]; exact ih e.2.1.2
    · next h => rw [max_eq_left (not_lt.mp h)]; exact ih hb

/-- The busiest channel of a window, its bytes, and those of the channels that the mean is taken over. -/
theorem imbalance_eq (q : Scroll) (bytes : List (Fin 8 × Fin 384 × Nat)) : ∃ chan < 384,
    imbalance q (bytes.map fun e => (e.2.1.1, e.2.2)) = (chan, (bytes.map (·.2.2)).foldl max 0,
      ((bytes.filter fun e => q.stacks.contains (finOf 12 (e.2.1.1 / 32))).map (·.2.2)).sum) := by
  obtain ⟨chan, most⟩ := busiest_spec bytes (b := (0, 0)) (by decide)
  refine ⟨_, chan, ?_⟩
  simp only [imbalance, most, List.filter_map, List.map_map, Function.comp_def]

/-- A fold over distinct elements of which one alone has an effect. -/
theorem foldl_only {α β : Type} {f : β → α → β} {a : α} (h : ∀ x d, d ≠ a → f x d = x) {l : List α} (hn : l.Nodup)
    (hm : a ∈ l) (x : β) : l.foldl f x = f x a :=
  foldl_visits (P := (· = x)) (Q := (· = f x a)) (fun y d hd hy => (h y d hd).trans hy) (fun y d hd hy => (h y d hd).trans hy)
    (fun _ hy => by rw [hy]) hn hm rfl

/-- RATIO of a window (R242), from the share of the busiest channel and the bytes that the mean is taken over. -/
def windowRatio (share sum : Nat) : Nat := if sum = 0 then 255 else min 255 (share / sum)

theorem windowRatio_le (share sum : Nat) : windowRatio share sum ≤ 255 := by
  unfold windowRatio
  split
  · exact le_rfl
  · exact min_le_left _ _

/-- The ratio of a window of context `c` recorded, and its run of imbalance. -/
def State.windowCounted (s : State) (c : Fin 8) (ratio run : Nat) : State :=
  (s.setFld Reg.memImb 12 8 ratio).modCtx c fun x => { x with imbRun := run }

/-- A run of imbalance has come to its end (R241). -/
def State.imbalanced (s : State) (c : Fin 8) (chan ratio : Nat) : State :=
  let t := (s.cause Reg.memCause 6).setReg Reg.memImb (c.1 + chan * 2 ^ 3 + ratio * 2 ^ 12 + 2 ^ 20)
  t.modCtx c fun x => { x with imbRun := 0, rekeyReq := x.rekeyReq || (t.ownerFlag 0 && t.rfld Reg.memCtrl 29 1 == 1) }

/-- What a counted window of context `c` leaves. -/
def State.windowEnds (s : State) (c : Fin 8) (chan share sum : Nat) : State :=
  let ratio := windowRatio share sum
  let high := decide (s.rfld Reg.memCtrl 14 7 * sum < share)
  let run := if high then (s.ctx c).imbRun + 1 else 0
  let t := s.windowCounted c ratio run
  if high ∧ t.rfld Reg.memCtrl 21 8 ≤ run then t.imbalanced c chan ratio else t

theorem imbalanceWindow_completes {seen : WindowCounts} (ha : Alive s) (hq : s.scroll? c = some q)
    (mine : ∀ e ∈ seen.bytes, e.1 = c) (hr : (s.ctx c).rekeying = false)
    (enough : 10000000000 ≤ (seen.bytes.map (·.2.2)).sum) : ∃ chan < 384, Completes s (.imbalanceWindow seen)
      (· = (s.countCorrected seen).windowEnds c chan ((seen.bytes.map (·.2.2)).foldl max 0 * 16 * (32 * q.stacks.length))
        ((seen.bytes.filter fun e => q.stacks.contains (finOf 12 (e.2.1.1 / 32))).map (·.2.2)).sum) := by
  obtain ⟨chan, small, parts⟩ := imbalance_eq q seen.bytes
  refine ⟨chan, small, act_completes (by rw [exec, execImbalanceWindow]) ha ?_⟩
  dsimp only
  have all : (seen.bytes.filter fun e => e.1 == c) = seen.bytes := List.filter_eq_self.mpr fun e he => beq_iff_eq.mpr (mine e he)
  have none (d : Fin 8) (hd : d ≠ c) : (seen.bytes.filter fun e => e.1 == d) = [] :=
    List.filter_eq_nil_iff.mpr fun e he h => hd ((beq_iff_eq.mp h).symm.trans (mine e he))
  obtain ⟨frame, -⟩ := countCorrected_spec s seen
  generalize s.countCorrected seen = v at frame ⊢
  have here : v.ctx c = s.ctx c := by rw [frame]; rfl
  have scroll : v.scroll? c = some q := by rw [State.scroll?, here]; exact hq
  rw [foldl_only (a := c) (fun x d hd => ?_) (show (fins 8).Nodup from List.nodup_finRange 8) (List.mem_finRange c)]
  · have total : ((seen.bytes.map fun e => (e.2.1.1, e.2.2)).map (·.2)).sum = (seen.bytes.map (·.2.2)).sum := by
      rw [List.map_map]; rfl
    have counted : ¬((seen.bytes.map (·.2.2)).sum < 10000000000 ∨ (v.ctx c).rekeying = true) := by
      rw [here, hr]; simpa using enough
    simp only [all, scroll, total, if_neg counted, parts]
    rfl
  · simp only [none d hd, List.map_nil, List.sum_nil]
    split
    · rfl
    · rfl

section
variable {chan share sum ratio : Nat}

theorem windowCounted_spec (s : State) (c : Fin 8) (hr : ratio ≤ 255) (run : Nat) :
    let u := s.windowCounted c ratio run
    u = { s with regs := u.regs, ctxs := vset s.ctxs c { s.ctx c with imbRun := run } } ∧ u.rfld Reg.memImb 12 8 = ratio ∧
      u.rfld Reg.memImb 0 12 = s.rfld Reg.memImb 0 12 ∧ ∀ o, o ≠ Reg.memImb → u.reg o = s.reg o := by
  refine ⟨rfl, ?_, rfld_setFld_below s _ _ _ (by decide) (by decide), fun o ho => s.reg_setReg_ne _ ho⟩
  exact (rfld_setFld_self s _ _ (by decide)).trans (Nat.mod_eq_of_lt (by omega))

theorem imbalanced_spec (s : State) (c : Fin 8) (hc : chan < 384) (hr : ratio ≤ 255) :
    let u := s.imbalanced c chan ratio
    u = { s with ctxs := u.ctxs, regs := u.regs } ∧ u.rfld Reg.memCause 6 1 = 1 ∧ u.rfld Reg.memImb 0 3 = c.1 ∧
      u.rfld Reg.memImb 12 8 = ratio ∧ u.rfld Reg.memImb 20 1 = 1 ∧ u.ctx c = { s.ctx c with
        imbRun := 0, rekeyReq := (s.ctx c).rekeyReq || (s.ownerFlag 0 && s.rfld Reg.memCtrl 29 1 == 1) } := by
  intro u
  let word := c.1 + chan * 2 ^ 3 + ratio * 2 ^ 12 + 2 ^ 20
  have imb (lo w : Nat) (h : lo + w ≤ 32) : u.rfld Reg.memImb lo w = fld word lo w := by
    rw [State.rfld, show u.reg Reg.memImb = word % 2 ^ 32 from State.reg_setReg_eq _ _ _, fld_mod _ h]
  have cause : u.rfld Reg.memCause 6 1 = (s.cause Reg.memCause 6).rfld Reg.memCause 6 1 :=
    rfld_of_reg (State.reg_setReg_ne _ _ (by decide))
  have ctrl : ((s.cause Reg.memCause 6).setReg Reg.memImb word).rfld Reg.memCtrl 29 1 = s.rfld Reg.memCtrl 29 1 :=
    rfld_of_reg ((State.reg_setReg_ne _ _ (by decide)).trans (s.reg_cause_ne _ (by decide)))
  have fields : fld word 0 3 = c.1 ∧ fld word 12 8 = ratio ∧ fld word 20 1 = 1 := by
    simp only [word, fld, Nat.shiftRight_eq_div_pow]
    omega
  obtain ⟨context, counted, valid⟩ := fields
  refine ⟨rfl, cause.trans (rfld_cause_self s Reg.memCause (by decide)), (imb 0 3 (by decide)).trans context,
    (imb 12 8 (by decide)).trans counted, (imb 20 1 (by decide)).trans valid, (ctx_modCtx_eq _ _ _).trans ?_⟩
  rw [ctrl]
  rfl

/-- A window below the threshold ends a run. -/
theorem windowEnds_even (h : ¬s.rfld Reg.memCtrl 14 7 * sum < share) :
    s.windowEnds c chan share sum = s.windowCounted c (windowRatio share sum) 0 := by
  simp only [State.windowEnds, decide_eq_false h, Bool.false_eq_true, if_false, false_and]

theorem windowCounted_ctrl (s : State) (c : Fin 8) (ratio run lo w : Nat) :
    (s.windowCounted c ratio run).rfld Reg.memCtrl lo w = s.rfld Reg.memCtrl lo w :=
  rfld_of_reg (s.reg_setReg_ne _ (by decide))

/-- A window above the threshold adds to a run. -/
theorem windowEnds_adds (h : s.rfld Reg.memCtrl 14 7 * sum < share) (hl : (s.ctx c).imbRun + 1 < s.rfld Reg.memCtrl 21 8) :
    s.windowEnds c chan share sum = s.windowCounted c (windowRatio share sum) ((s.ctx c).imbRun + 1) := by
  simp only [State.windowEnds, decide_eq_true h, if_true, windowCounted_ctrl, true_and, if_neg (not_le.mpr hl)]

/-- The last window of a run. -/
theorem windowEnds_last (hc : chan < 384) (h : s.rfld Reg.memCtrl 14 7 * sum < share)
    (hl : s.rfld Reg.memCtrl 21 8 ≤ (s.ctx c).imbRun + 1) :
    let u := s.windowEnds c chan share sum
    u = { s with ctxs := u.ctxs, regs := u.regs } ∧ u.rfld Reg.memCause 6 1 = 1 ∧ u.rfld Reg.memImb 0 3 = c.1 ∧
      u.rfld Reg.memImb 12 8 = windowRatio share sum ∧ u.rfld Reg.memImb 20 1 = 1 ∧ (u.ctx c).imbRun = 0 ∧
      (u.ctx c).rekeyReq = ((s.ctx c).rekeyReq || (s.ownerFlag 0 && s.rfld Reg.memCtrl 29 1 == 1)) := by
  intro u
  let t := s.windowCounted c (windowRatio share sum) ((s.ctx c).imbRun + 1)
  have last : u = t.imbalanced c chan (windowRatio share sum) := by
    simp only [u, State.windowEnds, decide_eq_true h, if_true, windowCounted_ctrl, true_and, if_pos hl, t]
  have here : t.ctx c = { s.ctx c with imbRun := (s.ctx c).imbRun + 1 } := ctx_modCtx_eq _ _ _
  have flag : t.ownerFlag 0 = s.ownerFlag 0 := rfl
  obtain ⟨rest, cause, context, ratio, valid, ctx⟩ := imbalanced_spec t c hc (windowRatio_le share sum)
  rw [windowCounted_ctrl, here, flag] at ctx
  rw [last, ctx]
  exact ⟨rest, cause, context, ratio, valid, rfl, rfl⟩

end

/-! #### Pages under a new key, and granules cleared (R206, R241) -/

/-- A page that is the next one to move takes a frame under the key in force; the last one ends the move. -/
theorem rekeyPageMove_completes {page : Nat} {y : Page} {g : Segment} {rest : List (Nat × Page)} (ha : Alive s)
    (hq : s.scroll? c = some q) (hk : (s.ctx c).rekeying = true) (hg : q.segOf page = some g)
    (hn : ((s.ctx c).pages.filter fun e => e.2.state == .resident && e.2.key != (s.ctx c).keySel) = (page, y) :: rest)
    (hs : y.snap = false) (ht : (s.ctx c).stoppedOn q page = false) (serves : ∀ k, s.stackServes k = true) :
    Completes s (.rekeyPageMove c page) fun u => u = { s with ctxs := u.ctxs, regs := u.regs } ∧ ∃ k, u.ctx c =
      { (s.ctx c).modPage q page fun y => y.inFrame (s.ctx c) (s.chooseFrame c g page) with rekeying := k } := by
  refine act_completes (by rw [exec, execRekeyPageMove]) ha ?_
  simp only [hq, hk, hn, hg, hs, ht, serves, List.head?_cons, Bool.not_true, Bool.not_false, Bool.false_eq_true, if_false,
    and_self, if_true]
  have here := ctx_modCtx_eq s c fun x => x.modPage q page fun y => y.inFrame x (s.chooseFrame c g page)
  split
  · exact ⟨rfl, _, here⟩
  · exact ⟨rfl, false, (ctx_modCtx_eq _ c fun x => { x with rekeying := false }).trans (by rw [here])⟩

theorem wideGranuleCleared_completes {w : Fin 8} {granule b len : Nat} (ha : Alive s) (hq : s.scroll? c = some q)
    (hw : q.wides[w.1]? = some (b, len)) (hl : granule * 2 ^ 16 < len) (hc : (s.ctx c).cleared.has (2 ^ 24 * w.1 + granule) = false)
    (hi : (s.ctx c).inStep = true) (hp : s.pageServed ((s.ctx c).page q (pageOf (b + granule * 2 ^ 16))) = true) :
    Completes s (.wideGranuleCleared c w granule)
      (· = (s.backInvalidate c (b + granule * 2 ^ 16) (2 ^ 16)).modCtx c fun x => { x with
        mem := Memory.clear x.mem (b + granule * 2 ^ 16) (2 ^ 16)
        badLines := x.badLines.delRange ((b + granule * 2 ^ 16) / 64) 1024
        eccLines := x.eccLines.delRange ((b + granule * 2 ^ 16) / 64) 1024
        cleared := x.cleared.add (2 ^ 24 * w.1 + granule) }) := by
  refine act_completes (by rw [exec, execWideGranuleCleared]) ha ?_
  simp only [hq, hw, hc, hi, hp, Nat.not_le.mpr hl, Bool.not_true, Bool.false_eq_true, or_self, if_false]

end Sys2Proof.Machine

section
open Sys2Proof Sys2Proof.Machine

/-- Settles O21: what was corrected by `countCorrected_port`, a window by what `State.windowEnds` leaves below the threshold,
within a run and at its end, a page by `rekeyPageMove_completes`, a granule by `wideGranuleCleared_completes`. -/
theorem memoryUpkeep : Obligations.MemoryUpkeep := by
  intro s c q ha hq x
  refine ⟨fun s seen => ?_, fun seen mine still => ?_, ?_, ?_⟩
  · obtain ⟨frame, -⟩ := countCorrected_spec s seen
    exact ⟨by rw [frame], fun p a b h => countCorrected_port s h⟩
  · intro bytes v total top sum share ratio high counted enough
    obtain ⟨chan, small, ends⟩ := imbalanceWindow_completes ha hq mine still enough
    obtain ⟨frame, regs⟩ : _ ∧ ∀ o, o < 0x280000 → v.reg o = s.reg o := countCorrected_spec s seen
    change Completes s _ (· = v.windowEnds c chan share sum) at ends
    change v = _ at frame
    have ctrl (lo w : Nat) : v.rfld Reg.memCtrl lo w = s.rfld Reg.memCtrl lo w := rfld_of_reg (regs _ (by decide))
    have ctxs : v.ctxs = s.ctxs := by rw [frame]
    have here : v.ctx c = x := by rw [State.ctx, ctxs]; rfl
    have flag : v.ownerFlag 0 = s.ownerFlag 0 := by rw [frame]; rfl
    have bound : ratio ≤ 255 := windowRatio_le share sum
    have records (run : Nat) (h : v.windowEnds c chan share sum = v.windowCounted c ratio run) : counted run := by
      rw [h] at ends
      refine ends.of_eq ?_
      obtain ⟨rest, field, low, others⟩ := windowCounted_spec v c bound run
      rw [ctxs, here] at rest
      exact ⟨rest, field, low.trans (rfld_of_reg (regs _ (by decide))), others⟩
    refine ⟨fun even => records 0 (windowEnds_even ?_), fun uneven below => records _ ?_, fun uneven limit => ?_⟩
    · rwa [ctrl]
    · rw [← here]
      exact windowEnds_adds (by rwa [ctrl]) (by rwa [ctrl, here])
    · refine ends.of_eq ?_
      obtain ⟨rest, cause, context, field, valid, run, request⟩ :=
        windowEnds_last (c := c) small (by rwa [ctrl]) (by rwa [ctrl, here])
      rw [here, flag, ctrl] at request
      exact ⟨rest, cause, context, field, valid, run, request⟩
  · intro page y g rest moving seg next snap free stands serves
    refine (rekeyPageMove_completes ha hq moving seg next snap free serves).mono ?_
    have entry : x.page q page = y := by simp only [Ctx.page, stands]
    let f := s.chooseFrame c g page
    have moved : (x.modPage q page fun y => y.inFrame x f).page q page = { y with key := x.keySel, stack := f.1, frame := f.2 } := by
      rw [page_modPage_eq, entry]; rfl
    rintro u ⟨frame, k, ctx⟩
    exact ⟨frame, (congrArg Ctx.mem ctx :), f.1, f.2, (page_congr (congrArg Ctx.pages ctx :) q page).trans moved⟩
  · intro w granule b len wide inside fresh running served
    refine (wideGranuleCleared_completes ha hq wide inside fresh running served).of_eq ?_
    have sent := backInvalidate_outOnly s c (b + granule * 2 ^ 16) (2 ^ 16)
    generalize s.backInvalidate c (b + granule * 2 ^ 16) (2 ^ 16) = v at sent
    rw [ctx_modCtx_eq, sent.ctx]
    refine ⟨?_, rfl, fun a low high => ?_, fun a out => ?_⟩
    · rw [sent]; rfl
    · rw [Memory.read_clear, if_pos ⟨low, high⟩]
    · rw [Memory.read_clear, if_neg (by omega)]

end

/-! ### Answers to write-backs -/

namespace Sys2Proof.Machine

variable {s : State} {c : Fin 8} {q : Scroll} {pg n : Nat}

/-! #### The granule of a page -/

/-- The entry of a page once the only write-back of granule `n` is acknowledged (R226, R412). -/
def Page.granuleWritten (y : Page) (n : Nat) : Page :=
  let b := BitVec.ofNat 32 (2 ^ n)
  { y with
    flying := y.flying &&& ~~~b, cutSent := y.cutSent &&& ~~~b
    cutDirty := if y.cutSent.getLsbD n then y.cutDirty &&& ~~~b else y.cutDirty
    dirty := if y.fresh.getLsbD n then y.dirty else y.dirty &&& ~~~b }

/-- The entry of a page once the write-back of granule `n` is refused (R226), where `rolling` says whether the
context's homes are being rolled back (R419). -/
def Page.granuleRefused (y : Page) (n : Nat) (rolling : Bool) : Page :=
  let b := BitVec.ofNat 32 (2 ^ n)
  { y with
    flying := y.flying &&& ~~~b, flying1 := y.flying1 &&& ~~~b, cutSent := y.cutSent &&& ~~~b
    state := if y.state = .moving ∧ y.move = .evict ∧ rolling = false then .resident else y.state }

/-- The entry as WB_NAK writes it. -/
theorem Page.granuleRefused_eq (y : Page) (n : Nat) (rolling : Bool) :
    let b := BitVec.ofNat 32 (2 ^ n)
    y.granuleRefused n rolling = { y with
      flying := y.flying &&& ~~~b, flying1 := y.flying1 &&& ~~~b, cutSent := y.cutSent &&& ~~~b
      state := if y.state = .moving ∧ y.move = .evict ∧ !rolling then .resident else y.state } := by
  simp only [Page.granuleRefused, Bool.not_eq_true']

/-- The last acknowledgement of a granule of a RESIDENT page without SNAP ends its write-back, and nothing else. -/
theorem granuleDone_last {x : Ctx} (hn : n < 32) (other : (x.page q pg).flying1.getLsbD n = false)
    (hs : (x.page q pg).snap = false) (hr : (x.page q pg).state = .resident) :
    x.granuleDone q pg n false = (x.setPage pg ((x.page q pg).granuleWritten n), true) := by
  have landed : ((x.page q pg).flying &&& ~~~(BitVec.ofNat 32 (2 ^ n))).getLsbD n = false := by
    simpa using getLsbD_clear_bit (x.page q pg).flying ⟨n, hn⟩ ⟨n, hn⟩
  simp only [Ctx.granuleDone, landed, other, hs, hr, Bool.false_eq_true, if_false, Bool.or_self, Bool.false_and, reduceCtorEq,
    false_and, Page.granuleWritten]

/-! #### The frames -/

/-- A drain of the context has made progress (R412). -/
def Ctx.progressed (x : Ctx) (now : Nat) : Ctx :=
  { x with ckpt := { x.ckpt with drain := x.ckpt.drain.map fun d => { d with progressAt := now } } }

/-- What an acknowledgement leaves of a granule whose write-back to the server that answers is under way. -/
def State.ackGranule (s : State) (c : Fin 8) (q : Scroll) (pg n : Nat) (alt : Bool) : State :=
  let r := (s.ctx c).granuleDone q pg n alt
  let s := s.setCtx c r.1
  let s := if r.2 then (s.countMod Reg.memMigOut 1).background c else s
  s.modCtx c fun x => x.progressed s.phys

/-- The last acknowledgement of a granule: its page's entry is written, and the write-back is counted. -/
theorem ackGranule_last (hn : n < 32) (other : ((s.ctx c).page q pg).flying1.getLsbD n = false)
    (hs : ((s.ctx c).page q pg).snap = false) (hr : ((s.ctx c).page q pg).state = .resident) (hb : (s.ctx c).bg = none) :
    let u := s.ackGranule c q pg n false
    u = { s with ctxs := u.ctxs, regs := u.regs } ∧ (u.ctx c).mem = (s.ctx c).mem ∧
      (u.ctx c).page q pg = ((s.ctx c).page q pg).granuleWritten n ∧
      u.reg Reg.memMigOut = (s.reg Reg.memMigOut + 1) % 2 ^ 32 := by
  intro u
  have done := granuleDone_last (q := q) hn other hs hr
  generalize written : (s.ctx c).setPage pg (((s.ctx c).page q pg).granuleWritten n) = x at done
  have counted : ((s.setCtx c x).countMod Reg.memMigOut 1).ctx c = x := vget_vset_eq _ _ _
  have quiet : ((s.setCtx c x).countMod Reg.memMigOut 1).background c = (s.setCtx c x).countMod Reg.memMigOut 1 :=
    background_none (by rw [counted, ← written]; exact hb)
  have result : u = ((s.setCtx c x).countMod Reg.memMigOut 1).modCtx c fun x => x.progressed s.phys := by
    simp only [u, State.ackGranule, done, if_true, quiet]
    rfl
  rw [result, ctx_modCtx_eq, counted, ← written]
  exact ⟨rfl, rfl, page_setPage_eq (s.ctx c) q pg _, s.reg_setReg_eq _ _⟩

section
variable {p : Fin 64} {f : Frame} (hc : finOf 8 f.context.toNat = c) (hn : f.offset.toNat / 2 ^ 16 % 32 = n)
  (hq : s.scroll? c = some q)
  (hx : (s.ctx c).pageAt q (f.offset.toNat / 2 ^ 21) (fun _ g => g.sources.contains f.source.toNat) = some pg)
include hc hn hq hx

/-- WB_ACK of the first server of a page's segment. -/
theorem wbAck_completes {g : Segment} (h : Arrives s p 0x24 { f with flags := f.flags ||| 4 }) (hg : q.segOf pg = some g)
    (first : g.src0 = f.source.toNat) (under : ((s.ctx c).page q pg).flying.getLsbD n = true) :
    Completes s (.wbAck p f) (· = (s.accepts p f).ackGranule c q pg n false) := by
  subst hc hn
  refine frame_completes (f := { f with flags := f.flags ||| 4 }) (ty := 0x24) rfl h ?_
  change _ = (s.accepts p { f with flags := f.flags ||| 4 }).ackGranule _ q pg _ false
  simp only [State.ackGranule, State.scroll?, accepts_ctx] at hq ⊢
  simp only [hq, hx, hg, first, under, bne_self_eq_false, Bool.not_true, Bool.false_eq_true, if_false]
  rfl

/-- What WB_NAK leaves. -/
theorem wbNak_completes (h : Arrives s p 0x24 { f with flags := f.flags &&& 0xFB }) :
    Completes s (.wbNak p f) (· =
      if ((s.ctx c).page q pg).flying.getLsbD n = true ∨ ((s.ctx c).page q pg).flying1.getLsbD n = true then
        (s.accepts p f).modCtx c fun x => x.setPage pg (((s.ctx c).page q pg).granuleRefused n x.rolling)
      else s.accepts p f) := by
  subst hc hn
  refine frame_completes (f := { f with flags := f.flags &&& 0xFB }) (ty := 0x24) rfl h ?_
  change _ = if _ then (s.accepts p { f with flags := f.flags &&& 0xFB }).modCtx _ _
    else s.accepts p { f with flags := f.flags &&& 0xFB }
  simp only [State.modCtx, State.scroll?, accepts_ctx] at hq ⊢
  simp only [hq, hx, Bool.or_eq_true, Page.granuleRefused_eq]

end

end Sys2Proof.Machine

section
open Sys2Proof Sys2Proof.Machine

/-- Settles O19: WB_ACK by what the last acknowledgement of a granule leaves (`ackGranule_last`), WB_NAK by the entry that
`Page.granuleRefused` leaves of a granule under write-back, and by the state as it was of any other. -/
theorem writeBackAnswers : Obligations.WriteBackAnswers := by
  intro s p f q pg c n x y hq hx
  have here : (s.accepts p f).ctx c = x := accepts_ctx s p f c
  have small : n < 32 := Nat.mod_lt _ (by decide)
  refine ⟨fun g h hg first under other snap resident still => ?_, fun h under => ?_, fun h idle idle1 => ?_⟩
  · refine (wbAck_completes rfl rfl hq hx h hg first under).of_eq ?_
    have last := ackGranule_last (s := s.accepts p f) (c := c) (q := q) (pg := pg) small (by rwa [here]) (by rwa [here])
      (by rwa [here]) (by rwa [here])
    rwa [here, accepts_reg] at last
  · refine (wbNak_completes rfl rfl hq hx h).of_eq ?_
    rw [if_pos under, ctx_modCtx_eq, here, page_setPage_eq]
    exact ⟨rfl, rfl, rfl⟩
  · have left : ¬(y.flying.getLsbD n = true ∨ y.flying1.getLsbD n = true) := by simp [idle, idle1]
    refine (wbNak_completes rfl rfl hq hx h).of_eq ?_
    rw [if_neg left]

end

/-! ### The commit and the end of a load -/

namespace Sys2Proof.Machine

variable {s t u : State} {c : Fin 8} {q : Scroll}

/-! #### What a scroll's installation writes (R366, orders 5 to 7) -/

/-- Context `y` is `x` but for what its memory, its weights and its reduction keep, and the next page of its background
fetches. -/
def Ctx.Filled (x y : Ctx) : Prop := ({ x with bg := y.bg } : Ctx).Worked y

theorem Ctx.Filled.trans {x y z : Ctx} (h : x.Filled y) (g : y.Filled z) : x.Filled z := by
  unfold Ctx.Filled Ctx.Worked at h g ⊢
  rw [g, h]

theorem Ctx.Worked.filled {x y : Ctx} (h : x.Worked y) : x.Filled y := by
  unfold Ctx.Filled Ctx.Worked at *
  rw [h]

/-- Of the contexts only `c` differs, in what its memory keeps; ports' roles, the fret map and the window's slots stand. -/
structure Installing (c : Fin 8) (s u : State) : Prop where
  plan : u.plan = s.plan
  fret : u.fret = s.fret
  windows : u.windows = s.windows
  ctx : (s.ctx c).Filled (u.ctx c)
  others : ∀ d, d ≠ c → u.ctx d = s.ctx d

namespace Installing

theorem trans (h : Installing c s t) (g : Installing c t u) : Installing c s u where
  plan := g.plan.trans h.plan
  fret := g.fret.trans h.fret
  windows := g.windows.trans h.windows
  ctx := h.ctx.trans g.ctx
  others d hd := (g.others d hd).trans (h.others d hd)

theorem of_meanwhile (h : Meanwhile c s u) : Installing c s u where
  plan := by rw [h.frame]
  fret := h.fret
  windows := by rw [h.frame]
  ctx := h.ctx.filled
  others := h.others

theorem refl (c : Fin 8) (s : State) : Installing c s s := .of_meanwhile (.refl c s)

theorem of_tiles (h : u = { s with tiles := u.tiles }) : Installing c s u := by
  rw [h]
  exact ⟨rfl, rfl, rfl, rfl, fun _ _ => rfl⟩

theorem modBg (s : State) (c : Fin 8) (b : Option Nat) : Installing c s (s.modCtx c fun x => { x with bg := b }) where
  plan := rfl
  fret := rfl
  windows := rfl
  ctx := by rw [ctx_modCtx_eq]; exact rfl
  others _ hd := ctx_modCtx_ne _ _ hd

end Installing

theorem backgroundLoop_installing (c : Fin 8) (q : Scroll) (n : Nat) (s : State) :
    Installing c s (State.backgroundLoop c q n s) := by
  induction n generalizing s with
  | zero => exact .refl c s
  | succ n ih =>
    rw [State.backgroundLoop]
    split
    · exact .refl c s
    · next b _ =>
      extract_lets pages
      split
      · exact .modBg s c none
      · next p _ =>
        extract_lets s1
        have moved : Installing c s s1 := .modBg s c (some (p + 1))
        refine moved.trans ?_
        split
        · exact .refl c s1
        · next g _ =>
          extract_lets room
          split
          · exact .of_meanwhile (startFetch_meanwhile ..)
          · split
            · exact ih s1
            · exact (Installing.modBg s1 c _).trans (ih _)

theorem background_installing (s : State) (c : Fin 8) : Installing c s (s.background c) := by
  unfold State.background
  split
  · split
    · exact .refl c s
    · exact backgroundLoop_installing ..
  · exact .refl c s

theorem fetchMaps_meanwhile (s : State) (c : Fin 8) (q : Scroll) : Meanwhile c s (s.fetchMaps c q) := by
  unfold State.fetchMaps
  refine .foldl (fun s p => ?_) _ _
  split
  · exact .ite (startFetch_meanwhile ..) (.refl c s)
  · exact .refl c s

theorem resident_meanwhile (s : State) (c : Fin 8) (q : Scroll) (p : Nat) : Meanwhile c s (s.resident c q p) := by
  unfold State.resident
  split
  · exact .refl c s
  · exact .ite (.refl c s) (.modCtx rfl)

/-- Bytes written into the deep range, whose lines leave the host. -/
theorem put_meanwhile (s : State) (c : Fin 8) (a n : Nat) (f : Ctx → Mem) :
    Meanwhile c s ((s.backInvalidate c a n).modCtx c fun x => { x with mem := f x }) :=
  (Meanwhile.outOnly (backInvalidate_outOnly s c a n)).thenModCtx rfl

theorem loadBytes_meanwhile (s : State) (c : Fin 8) (q : Scroll) (a from_ n : Nat) : Meanwhile c s (s.loadBytes c q a from_ n) := by
  unfold State.loadBytes
  exact (Meanwhile.foldl (fun s p => resident_meanwhile s c q p) _ _).trans (put_meanwhile ..)

theorem writeImages_meanwhile (s : State) (c : Fin 8) (q : Scroll) : Meanwhile c s (s.writeImages c q) := by
  unfold State.writeImages
  extract_lets o s1 s2
  have images : Meanwhile c s s1 := by
    refine .foldl (fun s e => ?_) _ _
    split
    · exact (loadBytes_meanwhile ..).trans (.foldl (fun s p => resident_meanwhile s c q p) _ _)
    · exact .refl c s
  have marks : Meanwhile c s1 s2 := by
    refine .foldl (fun s e => ?_) _ _
    split
    · exact loadBytes_meanwhile ..
    · exact .refl c s
  refine (images.trans marks).trans (.foldl (fun s i => ?_) _ _)
  extract_lets t
  split
  · exact .refl c s
  · exact (Meanwhile.foldl (fun s p => resident_meanwhile s c q p) _ _).trans (.foldl (fun s e => put_meanwhile ..) _ _)

/-- A context whose scroll has just been copied into it (R366, order 5). -/
def Ctx.copied (x : Ctx) (q : Scroll) (key : List Byte) (now head : Nat) : Ctx := { x.wipe with
  placeKeys := vset x.wipe.placeKeys 0 (slice key 0 16)
  scroll := some q, vmode := q.follow, bg := some 0
  ckpt := { ({} : Ckpt) with lastPeriodic := now, cut := { recFrom := head, recTo := head } }
  load := some { order := 7, scroll := q } }

theorem installScroll_spec (s : State) (c : Fin 8) (q : Scroll) : let u := s.installScroll c q
    u.plan = s.plan ∧ u.fret = s.fret ∧ u.windows = s.windows ∧ (∀ d, d ≠ c → u.ctx d = s.ctx d) ∧
      (u.ctx c).state = (s.ctx c).state ∧ (u.ctx c).armed = false ∧ (u.ctx c).scroll = some q ∧
      (u.ctx c).load = some ⟨7, q⟩ ∧ (u.ctx c).vmode = q.follow := by
  intro u
  let s1 : State := { s with freeCtr := s.freeCtr + 1 }
  let s2 := s1.modCtx c fun x => x.copied q s.freeBytes.1 s.ns s.replayHead
  have here : s2.ctx c = (s.ctx c).copied q s.freeBytes.1 s.ns s.replayHead := ctx_modCtx_eq s1 c _
  have routes : Installing c s2 (s2.writeRoutes c q) := .of_tiles (foldl_tiles (fun _ _ => rfl) _ _)
  have tiles (s : State) : Installing c s (s.installTiles c q true) :=
    .of_tiles (foldl_tiles (fun s i => by dsimp only; split <;> rfl) _ _)
  have memory (s : State) : Installing c s ((s.writeImages c q).fetchMaps c q) :=
    .of_meanwhile ((writeImages_meanwhile s c q).trans (fetchMaps_meanwhile ..))
  have all : Installing c s2 u :=
    ((routes.trans (tiles _)).trans (memory _)).trans (background_installing _ c)
  have ctx := all.ctx
  rw [here] at ctx
  exact ⟨all.plan, all.fret, all.windows, fun d hd => (all.others d hd).trans (ctx_modCtx_ne _ _ hd),
    (congrArg Ctx.state ctx :), (congrArg Ctx.armed ctx :), (congrArg Ctx.scroll ctx :), (congrArg Ctx.load ctx :),
    (congrArg Ctx.vmode ctx :)⟩

/-! #### The commit (R366, order 4) -/

/-- What every commit of scroll `q` for context `c` leaves: the load plan and the fret map's record settled, the context
CREATED and disarmed, its window slots UNMAPPED. -/
structure Committed (c : Fin 8) (q : Scroll) (s u : State) : Prop where
  plan : u.plan = some (s.plan.getD q.plan)
  fret : u.fret = { s.fret with openRecord := false }
  state : (u.ctx c).state = .created
  armed : (u.ctx c).armed = false
  windows : ∀ w : Fin 32, u.windows[w] = if (s.windows[w]).kind = 2 ∧ (s.windows[w]).ctx = c then {} else s.windows[w]

theorem Committed.of_same (h : Committed c q s t) (plan : u.plan = t.plan) (fret : u.fret = t.fret)
    (windows : u.windows = t.windows) (state : (u.ctx c).state = (t.ctx c).state) (armed : (u.ctx c).armed = false) :
    Committed c q s u where
  plan := plan.trans h.plan
  fret := fret.trans h.fret
  state := state.trans h.state
  armed := armed
  windows w := by simp only [windows, h.windows]

/-- A context at its commit. -/
def Ctx.committing (x : Ctx) (q : Scroll) : Ctx :=
  { x with state := .created, armed := false, stale := false, needRestore := false, load := some ⟨4, q⟩ }

theorem commitLoad_ctx (s : State) (c : Fin 8) (q : Scroll) : (s.commitLoad c q).ctx c = (s.ctx c).committing q :=
  ctx_modCtx_eq ..

theorem commitLoad_committed (s : State) (c : Fin 8) (q : Scroll) : Committed c q s (s.commitLoad c q) where
  plan := rfl
  fret := rfl
  state := by rw [commitLoad_ctx]; rfl
  armed := by rw [commitLoad_ctx]; rfl
  windows w := Vector.getElem_map _ w.2

theorem retireStart_spec (s : State) (c : Fin 8) (forLoad : Bool) : let u := s.retireStart c forLoad
    u.plan = s.plan ∧ u.fret = s.fret ∧ u.windows = s.windows ∧ (u.ctx c).state = (s.ctx c).state ∧
      (u.ctx c).armed = (s.ctx c).armed ∧ (u.ctx c).scroll = none ∧ (u.ctx c).load = (s.ctx c).load ∧
      (u.ctx c).gen = (s.ctx c).gen + 1 ∧ (u.ctx c).retire = some ⟨forLoad, 4, 0, s.phys, (s.ctx c).charged⟩ := by
  intro u
  refine ⟨rfl, rfl, rfl, ?_⟩
  rw [show u.ctx c = _ from ctx_modCtx_eq _ _ _]
  exact ⟨rfl, rfl, rfl, rfl, rfl, rfl⟩

/-- The commit over a scroll that must first be retired (R340). -/
theorem commitLoad_retires (s : State) (c : Fin 8) (q : Scroll) : let u := (s.commitLoad c q).retireStart c true
    Committed c q s u ∧ (u.ctx c).scroll = none ∧ (u.ctx c).load = some ⟨4, q⟩ ∧ (u.ctx c).gen = (s.ctx c).gen + 1 ∧
      (u.ctx c).retire = some ⟨true, 4, 0, s.phys, (s.ctx c).charged⟩ := by
  have committed := commitLoad_committed s c q
  have phys : (s.commitLoad c q).phys = s.phys := rfl
  have before := commitLoad_ctx s c q
  generalize s.commitLoad c q = v at committed phys before
  obtain ⟨plan, fret, windows, state, armed, scroll, load, gen, retire⟩ := retireStart_spec v c true
  rw [before] at load gen
  rw [before, phys] at retire
  exact ⟨committed.of_same plan fret windows state (armed.trans committed.armed), scroll, load, gen, retire⟩

/-- The commit in a context without a scroll. -/
theorem commitLoad_installs (s : State) (c : Fin 8) (q : Scroll) : let u := (s.commitLoad c q).installScroll c q
    Committed c q s u ∧ (u.ctx c).scroll = some q ∧ (u.ctx c).load = some ⟨7, q⟩ ∧ (u.ctx c).vmode = q.follow ∧
      ∀ d, d ≠ c → u.ctx d = s.ctx d := by
  obtain ⟨plan, fret, windows, others, state, armed, scroll, load, vmode⟩ := installScroll_spec (s.commitLoad c q) c q
  exact ⟨(commitLoad_committed s c q).of_same plan fret windows state armed, scroll, load, vmode,
    fun d hd => (others d hd).trans (ctx_modCtx_ne _ _ hd)⟩

section
variable {l : Load}

/-- A commit that has nothing to do: no load is to be committed, nor one whose retirement is over to be installed, or a
recovery reset is under way. -/
theorem commit_waits (ha : Alive s) (h : ∀ l, (s.ctx c).load = some l → s.hng.running = false →
    l.order ≠ 3 ∧ (l.order = 4 → (s.ctx c).retire.isSome = true)) : Completes s (.loadScrollCommit c) (· = s) := by
  refine act_completes (by rw [exec, execLoadScrollCommit]) ha ?_
  dsimp only
  split
  · rfl
  · next l hl =>
    split
    · rfl
    · next running =>
      obtain ⟨notThree, four⟩ := h l hl (by simpa using running)
      rw [if_neg notThree, if_neg]
      rintro ⟨atFour, ended⟩
      exact absurd (four atFour) (by simp [Option.isNone_iff_eq_none.mp ended])

variable (ha : Alive s) (hl : (s.ctx c).load = some l) (hr : s.hng.running = false)
include ha hl hr

theorem commit_begins (ho : l.order = 3) : Completes s (.loadScrollCommit c) (· =
    if (s.ctx c).scroll.isSome then (s.commitLoad c l.scroll).retireStart c true
    else if (s.ctx c).retire.isSome then s.commitLoad c l.scroll
    else (s.commitLoad c l.scroll).installScroll c l.scroll) := by
  have retire : ((s.commitLoad c l.scroll).ctx c).retire = (s.ctx c).retire := by rw [commitLoad_ctx]; rfl
  refine act_completes (by rw [exec, execLoadScrollCommit]) ha ?_
  simp only [hl, hr, ho, retire, Bool.false_eq_true, if_false, if_true]
  rfl

theorem commit_installs (ho : l.order = 4) (hn : (s.ctx c).retire = none) :
    Completes s (.loadScrollCommit c) (· = s.installScroll c l.scroll) := by
  refine act_completes (by rw [exec, execLoadScrollCommit]) ha ?_
  simp [hl, hr, ho, hn]

end

/-! #### Frames that are sent leave engine time as it is (R315) -/

theorem transmit_ns (s : State) (p : Fin 64) (f : QFrame) : (s.transmit p f).ns = s.ns := by
  unfold State.transmit State.stamped
  extract_lets pt f c t n
  split
  · rfl
  · split
    · rfl
    · rfl
    · rfl

theorem pumpList_ns (p : Fin 64) (l : List QFrame) (h : List (Nat × Half × Nat)) (g : List Nat) (s : State) :
    (State.pumpList p l h g s).1.ns = s.ns := by
  induction l generalizing h g s with
  | nil => rfl
  | cons f l ih =>
    unfold State.pumpList
    extract_lets f1 key keep
    split
    · exact ih ..
    · split
      · exact ih ..
      · split
        · exact (ih ..).trans (transmit_ns ..)
        · split
          · exact ih ..
          · exact (ih ..).trans (transmit_ns ..)

theorem pump_ns (s : State) (p : Fin 64) : (s.pump p).ns = s.ns := by
  have pass (s : State) : (s.pumpPass p).ns = s.ns :=
    pumpList_ns p (s.ports[p]).queue [] [] (s.modPort p fun pt => { pt with queue := [] })
  unfold State.pump
  extract_lets pt
  split
  · exact (pass _).trans (pass s)
  · rfl

theorem enqueue_ns (s : State) (p : Option (Fin 64)) (f : Frame) (k : Option (Nat × Nat × Nat)) (d : Option (Fin 8)) (w : Bool) :
    (s.enqueue p f k d w).ns = s.ns := by
  unfold State.enqueue
  split
  · rfl
  · exact pump_ns ..

/-- Frames have been queued or have left, and credits have been granted. -/
structure Sent (s u : State) : Prop where
  credited : Credited s u
  ns : u.ns = s.ns

theorem Sent.trans (h : Sent s t) (g : Sent t u) : Sent s u := ⟨h.credited.trans g.credited, g.ns.trans h.ns⟩

theorem Sent.foldl {α : Type} {f : State → α → State} (hf : ∀ s a, Sent s (f s a)) (l : List α) (s : State) :
    Sent s (l.foldl f s) :=
  List.foldlRecOn l f ⟨.refl s, rfl⟩ fun _ h a _ => h.trans (hf _ a)

theorem grant_sent (s : State) (p : Option (Fin 64)) (c : Fin 8) (peer : Half) (ks : List ((Nat × Nat × Nat) × Nat)) :
    Sent s (s.grant p c peer ks) := by
  refine ⟨grant_credited s p c peer ks, ?_⟩
  unfold State.grant
  extract_lets find s1 pay
  have accounts : s1.ns = s.ns := by
    refine List.foldlRecOn (motive := fun t : State => t.ns = s.ns) ks _ rfl fun t h a _ => ?_
    dsimp only
    split <;> exact h
  split
  · exact accounts
  · exact (enqueue_ns ..).trans accounts

/-- A context whose cut waits for the acknowledgements of its seals (R413). -/
def Ctx.sealed (x : Ctx) (q : Scroll) (number : Nat) (dests : List Half) : Ctx :=
  { x with ckpt := { x.ckpt with
      sealsOut := x.ckpt.sealsOut ++ (q.homeServers.filter dests.contains).map fun e => (e, number) } }

theorem sendSeals_sent (s : State) (c : Fin 8) (q : Scroll) (number time : Nat) (dests : List Half) :
    Sent (s.modCtx c fun x => x.sealed q number dests) (s.sendSeals c q false number time dests) :=
  .foldl (fun _ _ => ⟨enqueue_credited .., enqueue_ns ..⟩) _ _

/-! #### Completions in a ring -/

theorem record_rings (s : State) (r : Fin 9) (e : RawEntry) (status detail : Nat) : (s.record r e status detail).rings =
    vmod s.rings r fun y => { y with completions := s.rings[r].completions + 1 } := by
  simp only [State.record, State.hostWrite, State.causeIf]
  split <;> split <;> split <;> rfl

theorem finish_ring_eq (s : State) (r : Fin 9) (k : Cmd) (status detail : Nat) : (s.finish r k status detail).rings[r] =
    { s.rings[r] with cmds := (s.rings[r]).cmds.erase k, completions := (s.rings[r]).completions + 1 } := by
  simp only [State.finish, record_rings, vget_vmod_eq, modRing_rings_eq]

theorem finish_ring_ne (s : State) {r o : Fin 9} (k : Cmd) (status detail : Nat) (h : o ≠ r) :
    (s.finish r k status detail).rings[o] = s.rings[o] := by
  simp only [State.finish, record_rings, vget_vmod_ne _ _ h, modRing_rings_ne _ _ h]

theorem finishAll_ring_ne (s : State) {r o : Fin 9} (p : Cmd → Bool) (status detail : Nat) (h : o ≠ r) :
    (s.finishAll r p status detail).rings[o] = s.rings[o] :=
  List.foldlRecOn (motive := fun t : State => t.rings[o] = s.rings[o]) _ _ rfl fun t ht k _ => (finish_ring_ne t k _ _ h).trans ht

/-- A ring without a command is left as it is. -/
theorem finishAll_ring_idle (s : State) (r : Fin 9) {o : Fin 9} (p : Cmd → Bool) (status detail : Nat)
    (h : (s.rings[o]).cmds = []) : (s.finishAll r p status detail).rings[o] = s.rings[o] := by
  by_cases ho : o = r
  · rw [← ho, State.finishAll, h]
    rfl
  · exact finishAll_ring_ne s p status detail ho

/-- In `u` the LOAD_SCROLL of context `c`, if it was its ring's one command in `s`, has completed. -/
def LoadEnded (c : Fin 8) (s u : State) : Prop := ∀ k, (s.rings[ringOf c]).cmds = [k] → k.isOp 0x10 = true →
  (u.rings[ringOf c]).cmds = [] ∧ (u.rings[ringOf c]).completions = (s.rings[ringOf c]).completions + 1

theorem finishOp_loadEnded (s : State) (c : Fin 8) (status detail : Nat) : LoadEnded c s (s.finishOp c 0x10 status detail) := by
  intro k hk ho
  have one : (s.rings[ringOf c]).cmds.filter (Cmd.isOp 0x10) = [k] := by rw [hk, List.filter_cons_of_pos ho, List.filter_nil]
  rw [State.finishOp, State.finishAll, one, List.foldl_cons, List.foldl_nil, finish_ring_eq, hk]
  exact ⟨by simp, rfl⟩

/-! #### Steps that a DEGRADED engine ends (R446) -/

/-- Steps of contexts have ended. -/
structure StepsAborted (c : Fin 8) (s u : State) : Prop where
  cmds : ∀ r : Fin 9, (u.rings[r]).cmds.Sublist (s.rings[r]).cmds
  due : ∀ d, (u.ctx d).ckpt.due = (s.ctx d).ckpt.due
  /-- What ends in context `c` is its STEP_START alone. -/
  ctx : u.ctx c = s.ctx c ∨ u.ctx c = (s.ctx c).stepsEnded
  idle : ∀ r : Fin 9, (s.rings[r]).cmds = [] → u.rings[r] = s.rings[r]

theorem Ctx.stepsEnded_twice (x : Ctx) : x.stepsEnded.stepsEnded = x.stepsEnded := by
  unfold Ctx.stepsEnded
  split <;> simp_all

theorem StepsAborted.refl (c : Fin 8) (s : State) : StepsAborted c s s :=
  ⟨fun _ => .refl _, fun _ => rfl, .inl rfl, fun _ _ => rfl⟩

theorem StepsAborted.trans (h : StepsAborted c s t) (g : StepsAborted c t u) : StepsAborted c s u where
  cmds r := (g.cmds r).trans (h.cmds r)
  due d := (g.due d).trans (h.due d)
  ctx := by
    rcases g.ctx with e | e
    · rw [e]; exact h.ctx
    · rcases h.ctx with e' | e'
      · rw [e, e']; exact .inr rfl
      · rw [e, e', Ctx.stepsEnded_twice]; exact .inr rfl
  idle r hr := by
    have same := h.idle r hr
    exact (g.idle r (by rw [same, hr])).trans same

theorem StepsAborted.clear (h : StepsAborted c s u) (hc : Clear s) : Clear u := by
  obtain ⟨begun, due⟩ := hc
  refine ⟨fun r => List.all_eq_true.mpr fun k hk => ?_, fun d => (h.due d).trans (due d)⟩
  exact List.all_eq_true.mp (begun r) k ((h.cmds r).subset hk)

theorem endSteps_aborted (s : State) (c d : Fin 8) (status : Nat) : StepsAborted c s (s.endSteps d status) := by
  obtain ⟨bounded, here⟩ := endSteps_bounded s d status
  refine ⟨bounded.cmds, bounded.due, ?_, fun r hr => ?_⟩
  · by_cases h : c = d
    · rw [h]; exact .inr here
    · exact .inl (bounded.others c h)
  · let v := s.finishAll (ringOf d) Cmd.isStep status (s.ctx d).stepsRun
    have steps : v.rings[r] = s.rings[r] := finishAll_ring_idle s _ _ _ _ hr
    have holds : (v.finishAll (ringOf d) Cmd.isHold Status.aborted).rings[r] = v.rings[r] :=
      finishAll_ring_idle v _ _ _ _ (by rw [steps, hr])
    dsimp only [State.endSteps, State.modCtx, State.setCtx, State.forgetDeferred]
    exact holds.trans steps

theorem abortStanding_aborted (s : State) (c : Fin 8) : StepsAborted c s s.abortStanding := by
  unfold State.abortStanding
  split
  · exact .refl c s
  · refine List.foldlRecOn (motive := StepsAborted c s) _ _ (.refl c s) fun t h d _ => h.trans ?_
    split
    · exact endSteps_aborted ..
    · exact .refl c t

/-! #### The end of a load (R366, order 8) -/

theorem Clear.modCtx (h : Clear s) {f : Ctx → Ctx} (hf : (f (s.ctx c)).ckpt.due = none) : Clear (s.modCtx c f) := by
  obtain ⟨begun, due⟩ := h
  refine ⟨begun, fun d => ?_⟩
  by_cases hd : d = c
  · rw [hd, ctx_modCtx_eq, hf]
  · rw [ctx_modCtx_ne _ _ hd, due d]

/-- A load that fails leaves its context without a scroll (R340). -/
def State.loadFailed (s : State) (c : Fin 8) (status detail : Nat) : State :=
  ((s.modCtx c fun x => { x with load := none }.wipe).finishOp c 0x10 status detail).serve

theorem loadFailed_spec (h : Clear s) (status detail : Nat) : let u := s.loadFailed c status detail
    u.ctx c = { s.ctx c with load := none }.wipe ∧ LoadEnded c s u := by
  let t := s.modCtx c fun x => { x with load := none }.wipe
  have recorded : Recorded t (t.finishOp c 0x10 status detail) := finishAll_recorded ..
  have clear : Clear t := h.modCtx rfl
  have quiet : s.loadFailed c status detail = t.finishOp c 0x10 status detail := serve_clear ((recorded.bounded c).clear clear)
  rw [quiet]
  exact ⟨(recorded.ctx c).trans (ctx_modCtx_eq ..), finishOp_loadEnded t c status detail⟩

/-- Only regions' targets differ, and what has been commanded of them (R380). -/
def Pegged (s u : State) : Prop := u = { s with
  regions := u.regions, out := u.out, actions := u.actions, actionCount := u.actionCount }

theorem Pegged.ctx (h : Pegged s u) (d : Fin 8) : u.ctx d = s.ctx d := by
  rw [h]
  rfl

theorem setPeg_pegged (s : State) (r : Fin 48) (mv cause_ : Nat) : Pegged s (s.setPeg r mv cause_) := by
  unfold State.setPeg
  extract_lets x t
  split
  · exact rfl
  · exact rfl

/-- A context once its load is over. -/
def Ctx.loadOver (x : Ctx) (stale : Bool) (now : Nat) : Ctx :=
  { x with state := .loaded, load := none, stale := stale, ckpt := { x.ckpt with cut := { x.ckpt.cut with time := now } } }

/-- A region of a context that is loaded is commanded to the voltage of an active one (R380). -/
def State.pegLoaded (s : State) (r : Fin 48) : State :=
  if (s.regions[r]).state = .active then s.setPeg r (s.activePeg r (min (s.rfld Reg.pwrCtrl 0 10) 720)) else s

theorem pegLoaded_all (l : List (Fin 48)) (s : State) : Pegged s (l.foldl State.pegLoaded s) := by
  refine List.foldlRecOn (motive := Pegged s) l _ rfl fun t h r _ => ?_
  have one : Pegged t (t.pegLoaded r) := by
    unfold State.pegLoaded
    split
    · exact setPeg_pegged ..
    · exact rfl
  unfold Pegged at h one ⊢
  rw [one, h]

/-- The engine once the seals of a load are sent and its partners' credits granted. -/
def State.loadSent (s : State) (c : Fin 8) (q : Scroll) : State :=
  q.ckptPeers.foldl (fun (s : State) e => s.grant s.ckptPort c e [((0, 5, 0), 256)])
    (s.sendSeals c q false 0 s.ns q.homeServers)

theorem loadSent_spec (s : State) (c : Fin 8) (q : Scroll) : let u := s.loadSent c q
    (∀ d, u.ctx d = (s.modCtx c fun x => x.sealed q 0 q.homeServers).ctx d) ∧ u.fret = s.fret ∧ u.rings = s.rings ∧
      u.ns = s.ns := by
  intro u
  have sent : Sent (s.modCtx c fun x => x.sealed q 0 q.homeServers) u :=
    (sendSeals_sent ..).trans (.foldl (fun s e => grant_sent ..) _ _)
  obtain ⟨credited, ns⟩ := sent
  exact ⟨fun d => by rw [State.ctx, credited.ctxs]; rfl, by rw [credited]; rfl, by rw [credited]; rfl, ns⟩

/-- The engine with the load over and its regions commanded, before the command completes. -/
def State.loadOver (s : State) (c : Fin 8) (q : Scroll) : State :=
  let t := s.loadSent c q
  let t := t.modCtx c fun x => x.loadOver (!t.fits q) t.ns
  (t.ctx c).rect.regions.foldl State.pegLoaded t

theorem loadOver_spec (s : State) (c : Fin 8) (q : Scroll) : let u := s.loadOver c q
    u.ctx c = ((s.ctx c).sealed q 0 q.homeServers).loadOver (!s.fits q) s.ns ∧ (∀ d, d ≠ c → u.ctx d = s.ctx d) ∧
      u.rings = s.rings := by
  intro u
  obtain ⟨ctxs, fret, rings, ns⟩ := loadSent_spec s c q
  generalize hv : s.loadSent c q = v at ctxs fret rings ns
  have fits : v.fits q = s.fits q := by simp only [State.fits, fret]
  let t := v.modCtx c fun x => x.loadOver (!v.fits q) v.ns
  have pegged : Pegged t u := by
    simp only [u, State.loadOver, hv]
    exact pegLoaded_all _ _
  refine ⟨?_, fun d hd => ?_, ?_⟩
  · rw [pegged.ctx, show t.ctx c = _ from ctx_modCtx_eq .., ctxs, ctx_modCtx_eq, fits, ns]
  · rw [pegged.ctx, show t.ctx d = _ from ctx_modCtx_ne _ _ hd, ctxs, ctx_modCtx_ne _ _ hd]
  · rw [pegged]
    exact rings

/-- What a load leaves whose pages are there and good. -/
def State.loadDone (s : State) (c : Fin 8) (q : Scroll) : State :=
  ((s.loadOver c q).finishOp c 0x10 Status.ok).abortStanding.serve

theorem loadDone_spec (h : Clear s) (c : Fin 8) (q : Scroll) : let u := s.loadDone c q
    (u.ctx c).state = .loaded ∧ (u.ctx c).load = none ∧ (u.ctx c).stale = !s.fits q ∧ (u.ctx c).ckpt.cut.time = s.ns ∧
      (u.ctx c).mem = (s.ctx c).mem ∧ LoadEnded c s u := by
  intro u
  obtain ⟨here, others, rings⟩ := loadOver_spec s c q
  generalize hv : s.loadOver c q = v at here others rings
  have clear : Clear v := by
    obtain ⟨begun, due⟩ := h
    refine ⟨by rwa [rings], fun d => ?_⟩
    by_cases hd : d = c
    · rw [hd, here]; exact due c
    · rw [others d hd, due d]
  have recorded : Recorded v (v.finishOp c 0x10 Status.ok) := finishAll_recorded ..
  have ended : LoadEnded c v (v.finishOp c 0x10 Status.ok) := finishOp_loadEnded v c _ _
  have aborted := abortStanding_aborted (v.finishOp c 0x10 Status.ok) c
  have result : u = (v.finishOp c 0x10 Status.ok).abortStanding := by
    simp only [u, State.loadDone, hv]
    exact serve_clear (aborted.clear ((recorded.bounded c).clear clear))
  have ctx : u.ctx c = v.ctx c ∨ u.ctx c = (v.ctx c).stepsEnded := by
    rw [result, ← recorded.ctx c]
    exact aborted.ctx
  have completed : LoadEnded c s u := by
    intro k hk ho
    rw [← rings] at hk ⊢
    obtain ⟨empty, counted⟩ := ended k hk ho
    rw [result, aborted.idle _ empty]
    exact ⟨empty, counted⟩
  rcases ctx with e | e
  · rw [e, here]
    exact ⟨rfl, rfl, rfl, rfl, rfl, completed⟩
  · rw [e, here]
    exact ⟨rfl, rfl, rfl, rfl, rfl, completed⟩

/-! #### The command (R366, order 8) -/

theorem all_resident (hp : ∀ p ∈ q.homePages ++ q.mapPages, ((s.ctx c).page q p).state = .resident) :
    ((q.homePages ++ q.mapPages).all fun p => ((s.ctx c).page q p).state == .resident) = true :=
  List.all_eq_true.mpr fun p hm => beq_iff_eq.mpr (hp p hm)

/-- A load that is not ready to end: there is none, it has not been installed, or a recovery reset is under way. -/
theorem complete_waits (ha : Alive s) (h : ∀ l q, (s.ctx c).load = some l → (s.ctx c).scroll = some q →
    s.hng.running = false → l.order ≠ 7) : Completes s (.loadScrollComplete c) (· = s) := by
  refine act_completes (by rw [exec, execLoadScrollComplete]) ha ?_
  dsimp only
  split
  · next l q hl hq =>
    refine if_pos ?_
    by_cases running : s.hng.running = true
    · exact .inr running
    · exact .inl (h l q hl hq (by simpa using running))
  · rfl

section
variable {l : Load} (ha : Alive s) (hl : (s.ctx c).load = some l) (hr : s.hng.running = false) (hq : (s.ctx c).scroll = some q)
  (ho : l.order = 7)
include ha hl hr hq ho

/-- A page that had to be there could not be fetched (R216). -/
theorem complete_homeFails {i : Nat} (hf : s.homeFailed c q = some i) :
    Completes s (.loadScrollComplete c) (· = s.loadFailed c Status.verify (failDetail (9, 0xC, i))) := by
  refine act_completes (by rw [exec, execLoadScrollComplete]) ha ?_
  simp only [State.scroll?, hl, hq, hr, ho, hf, ne_eq, not_true_eq_false, Bool.false_eq_true, or_self, if_false]
  rfl

/-- Pages are still to come. -/
theorem complete_fetches (hf : s.homeFailed c q = none)
    (hp : ∃ p ∈ q.homePages ++ q.mapPages, ((s.ctx c).page q p).state ≠ .resident) :
    Completes s (.loadScrollComplete c) (· = s.fetchMaps c q) := by
  have missing : ((q.homePages ++ q.mapPages).all fun p => ((s.ctx c).page q p).state == .resident) = false := by
    obtain ⟨p, hm, hs⟩ := hp
    exact List.all_eq_false.mpr ⟨p, hm, by simpa using hs⟩
  refine act_completes (by rw [exec, execLoadScrollComplete]) ha ?_
  simp only [State.scroll?, hl, hq, hr, ho, hf, missing, ne_eq, not_true_eq_false, Bool.false_eq_true, or_self, if_false,
    Bool.not_false, if_true]

variable (hf : s.homeFailed c q = none) (hp : ∀ p ∈ q.homePages ++ q.mapPages, ((s.ctx c).page q p).state = .resident)
include hf hp

/-- What was fetched breaks a check (R367). -/
theorem complete_lateFails {f : Fail} (hb : leastFail (q.lateFails (s.ctx c).mem) = some f) :
    Completes s (.loadScrollComplete c) (· = s.loadFailed c (failStatus f.1) (failDetail f)) := by
  have there := all_resident hp
  refine act_completes (by rw [exec, execLoadScrollComplete]) ha ?_
  simp only [State.scroll?, hl, hq, hr, ho, hf, hb, there, ne_eq, not_true_eq_false, Bool.false_eq_true, or_self, if_false,
    Bool.not_true]
  rfl

theorem complete_loads (hb : leastFail (q.lateFails (s.ctx c).mem) = none) :
    Completes s (.loadScrollComplete c) (· = s.loadDone c q) := by
  have there := all_resident hp
  refine act_completes (by rw [exec, execLoadScrollComplete]) ha ?_
  simp only [State.scroll?, hl, hq, hr, ho, hf, hb, there, ne_eq, not_true_eq_false, Bool.false_eq_true, or_self, if_false,
    Bool.not_true]
  rfl

end

end Sys2Proof.Machine

section
open Sys2Proof Sys2Proof.Machine

/-- Settles O43: the commit by what `State.commitLoad` leaves before the scroll is installed (`installScroll_spec`) or the one
before is retired (`retireStart_spec`), the end by what a load leaves that fails (`loadFailed_spec`) and one that is loaded
(`loadDone_spec`). -/
theorem scrollLoads : Obligations.ScrollLoads := by
  intro s c ha x waits stays installed
  have loads {l : Load} (hl : x.load = some l) (hr : s.hng.running = false) : ¬(x.load = none ∨ s.hng.running = true) := by
    simp [hl, hr]
  refine ⟨fun h => ⟨?_, ?_⟩, fun l hl hr => ⟨fun three => ?_, fun four retired => ?_, fun notThree still => ?_, fun q hq =>
    ⟨fun early => ?_, fun seven clear => ⟨fun i failed => ?_, fun good missing => ?_, fun f good there broken => ?_,
      fun good there sound => ?_⟩⟩⟩⟩
  · exact commit_waits ha fun l hl hr => absurd h (loads hl hr)
  · exact complete_waits ha fun l q hl _ hr => absurd h (loads hl hr)
  · have begins := commit_begins ha hl hr three
    rcases before : (s.ctx c).scroll with _ | q
    · rcases standing : (s.ctx c).retire with _ | r
      · simp only [before, standing, Option.isSome_none, Bool.false_eq_true, if_false] at begins
        obtain ⟨⟨plan, fret, state, armed, windows⟩, new⟩ := commitLoad_installs s c l.scroll
        exact begins.of_eq ⟨plan, fret, state, armed, windows, fun _ _ => new, fun _ => nofun, nofun⟩
      · simp only [before, standing, Option.isSome_none, Option.isSome_some, Bool.false_eq_true, if_false, if_true] at begins
        obtain ⟨plan, fret, state, armed, windows⟩ := commitLoad_committed s c l.scroll
        refine begins.of_eq ⟨plan, fret, state, armed, windows, fun _ => nofun, fun _ _ => ?_, nofun⟩
        rw [commitLoad_ctx]
        exact ⟨before, rfl, standing⟩
    · simp only [before, Option.isSome_some, if_true] at begins
      obtain ⟨⟨plan, fret, state, armed, windows⟩, old⟩ := commitLoad_retires s c l.scroll
      exact begins.of_eq ⟨plan, fret, state, armed, windows, nofun, nofun, fun _ => old⟩
  · refine (commit_installs ha hl hr four retired).of_eq ?_
    obtain ⟨-, -, -, others, -, -, scroll, load, vmode⟩ := installScroll_spec s c l.scroll
    exact ⟨scroll, load, vmode, others⟩
  · refine commit_waits ha fun k hk _ => ?_
    obtain rfl : l = k := Option.some.inj (hl.symm.trans hk)
    exact ⟨notThree, fun four => still.resolve_left (absurd four)⟩
  · refine complete_waits ha fun k _ hk _ _ => ?_
    obtain rfl : l = k := Option.some.inj (hl.symm.trans hk)
    exact early
  · exact (complete_homeFails ha hl hr hq seven failed).of_eq (loadFailed_spec clear ..)
  · exact (complete_fetches ha hl hr hq seven good missing).of_eq ⟨rfl, fun none => by rw [State.fetchMaps, none]; rfl⟩
  · exact (complete_lateFails ha hl hr hq seven good there broken).of_eq (loadFailed_spec clear ..)
  · exact (complete_loads ha hl hr hq seven good there sound).of_eq (loadDone_spec clear c q)

end

/-! ### Weights: the sources of a shard (R254, R255) -/

namespace Sys2Proof.Machine

variable {s : State} {c : Fin 8} {q : Scroll} {l : Layout} {b : Fin 2} {o : Obtain} {role : Nat} {engine : Half}

/-! #### Fields of registers -/

/-- A field above the one that is replaced. -/
theorem fld_putFld_above (v x : Nat) {lo w l n : Nat} (h : lo + w ≤ l) : fld (putFld v lo w x) l n = fld v l n := by
  obtain ⟨k, rfl⟩ := Nat.exists_eq_add_of_le h
  have low : (v % 2 ^ lo + x % 2 ^ w * 2 ^ lo) / 2 ^ (lo + w) = 0 := by
    refine Nat.div_eq_of_lt ?_
    have := Nat.mod_lt v (Nat.two_pow_pos lo)
    have : (x % 2 ^ w + 1) * 2 ^ lo ≤ 2 ^ w * 2 ^ lo := Nat.mul_le_mul_right _ (Nat.mod_lt x (Nat.two_pow_pos w))
    rw [Nat.pow_add]
    linarith
  have above : putFld v lo w x >>> (lo + w) = v >>> (lo + w) := by
    rw [putFld, Nat.shiftRight_eq_div_pow, Nat.add_mul_div_right _ _ (Nat.two_pow_pos _), low, Nat.zero_add]
  rw [fld, fld, Nat.shiftRight_add, above, ← Nat.shiftRight_add]

theorem rfld_setFld_above (s : State) (o v : Nat) {lo w l n : Nat} (h : lo + w ≤ l) (h32 : l + n ≤ 32) :
    (s.setFld o lo w v).rfld o l n = s.rfld o l n := by
  rw [State.rfld, State.setFld, State.reg_setReg_eq, fld_mod _ h32, fld_putFld_above _ _ h, State.rfld]

theorem fld_bit (v b : Nat) : fld v b 1 = (v.testBit b).toNat := by
  rw [fld, pow_one, Nat.toNat_testBit, Nat.shiftRight_eq_div_pow]

/-- A cause leaves the other bits of its register. -/
theorem rfld_cause_other (s : State) (o : Nat) {b k : Nat} (h : k ≠ b) : (s.cause o b).rfld o k 1 = s.rfld o k 1 := by
  have same : ((s.reg o ||| 2 ^ b) % 2 ^ 32).testBit k = (s.reg o).testBit k := by
    rw [Nat.testBit_mod_two_pow, Nat.testBit_or, Nat.testBit_two_pow_of_ne h.symm, Bool.or_false]
    by_cases hk : k < 32
    · simp [hk]
    · have : s.reg o < 2 ^ k := lt_of_lt_of_le (s.reg_lt o) (Nat.pow_le_pow_right (by decide) (not_lt.mp hk))
      simp [Nat.testBit_lt_two_pow this]
  rw [State.rfld, State.cause, State.reg_setReg_eq, fld_bit, same, ← fld_bit, State.rfld]

/-! #### The layout entry and bank of an obtain -/

theorem obtainAt_parts (h : s.obtainAt c o = some (q, l, b)) :
    s.scroll? c = some q ∧ q.layout? o.tensor = some l ∧ (s.ctx c).bankOf o.version = some b := by
  unfold State.obtainAt at h
  split at h
  · cases h
  · next found =>
    split at h
    · next layout bank =>
      cases h
      exact ⟨found, layout, bank⟩
    · cases h

theorem obtainAt_eq (hq : s.scroll? c = some q) (hl : q.layout? o.tensor = some l) (hb : (s.ctx c).bankOf o.version = some b) :
    s.obtainAt c o = some (q, l, b) := by
  simp only [State.obtainAt, hq, hl, hb]

/-- It depends on nothing of the state but the context's scroll and banks. -/
theorem obtainAt_congr {u : State} (hq : (u.ctx c).scroll = (s.ctx c).scroll) (hb : (u.ctx c).banks = (s.ctx c).banks) :
    u.obtainAt c o = s.obtainAt c o := by
  simp only [State.obtainAt, State.scroll?, Ctx.bankOf, hq, hb]

@[simp] theorem accepts_obtainAt (s : State) (p : Fin 64) (f : Frame) : (s.accepts p f).obtainAt c o = s.obtainAt c o :=
  obtainAt_congr (by rw [accepts_ctx]) (by rw [accepts_ctx])

@[simp] theorem accepts_phys (s : State) (p : Fin 64) (f : Frame) : (s.accepts p f).phys = s.phys := by
  obtain ⟨_, _, h⟩ := accepts_eq s p f; rw [h]; rfl

/-! #### Builds that stand still -/

theorem build_still (h : (s.ctx c).banks[b].state ≠ .building) (n : Nat) : State.build c q b n s = s := by
  cases n with
  | zero => rfl
  | succ n => rw [State.build, if_pos (.inl h)]

/-- No bank is being built. -/
theorem builds_still (h : ∀ b : Fin 2, (s.ctx c).banks[b].state ≠ .building) : s.builds c q = s :=
  foldl_fixed_mem fun b _ => build_still (h b) _

/-- One bank alone is being built. -/
theorem builds_one {t : State} (built : State.build c q b (q.storeShards.length + 1) s = t)
    (hs : ∀ e : Fin 2, e ≠ b → (s.ctx c).banks[e].state ≠ .building)
    (ht : ∀ e : Fin 2, e ≠ b → (t.ctx c).banks[e].state ≠ .building) : s.builds c q = t :=
  foldl_visits (P := (· = s)) (Q := (· = t)) (fun _ e he h => by rw [h, build_still (hs e he)])
    (fun _ e he h => by rw [h, build_still (ht e he)]) (fun _ h => by rw [h, built]) (List.nodup_finRange 2) (List.mem_finRange b) rfl

/-! #### The loop over a source list (R254) -/

theorem obtainLoop_waits {t : State} {o' : Obtain} (n : Nat) (h : s.tryEntry c q l o = (t, o', none)) :
    State.obtainLoop c q l b (n + 1) o s = t.modCtx c (·.setObtain o') := by
  simp only [State.obtainLoop, h]
  rfl

/-- An engine is asked. -/
theorem obtainLoop_asks (n : Nat) (he : (q.sources l.srclist).1[o.idx]? = some (role, engine)) (hr : role ≠ 0) :
    State.obtainLoop c q l b (n + 1) o s = (s.requestShard c l o engine).modCtx c (·.setObtain o) := by
  refine obtainLoop_waits n ?_
  simp only [State.tryEntry, he, hr, if_false]

/-- The list has come to its end. -/
theorem obtainLoop_passes (n : Nat) (he : (q.sources l.srclist).1[o.idx]? = none) :
    State.obtainLoop c q l b (n + 1) o s =
      (s.passEnd c l.side l.tensor o).1.modCtx c (·.setObtain (s.passEnd c l.side l.tensor o).2) := by
  refine obtainLoop_waits n ?_
  simp only [State.tryEntry, he]

/-- A failure of a source counted. -/
def State.sourceCounted (s : State) : State := (s.cause Reg.wstCause 0).count Reg.wstFails 0 16 1

/-- The record of the loop that goes to the next entry of its list. -/
def Obtain.onward (o : Obtain) (now : Nat) : Obtain :=
  { o with idx := o.idx + 1, bytes := [], firstFail := some (o.firstFail.getD now) }

theorem obtainFail_eq (h : s.obtainAt c o = some (q, l, b)) :
    s.obtainFail c o = State.obtainLoop c q l b 8 (o.onward s.phys) s.sourceCounted := by
  simp only [State.obtainFail, h]
  rfl

/-- HOLD_LIMIT has passed since the first failure, and no hold has been reported. -/
def Obtain.Late (o : Obtain) (s : State) : Prop :=
  o.firstFail.getD s.phys + s.rfld Reg.wstCtrl 20 8 * 100000000 ≤ s.phys ∧ o.reported = false

/-- A hold reported: counted, and its place recorded with the first. -/
def State.holdReported (s : State) (c : Fin 8) (side tensor shard : Nat) : State :=
  let t := (s.cause Reg.wstCause 1).count Reg.wstFails 16 16 1
  if s.rfld Reg.wstCause 1 1 = 0 then
    (t.setReg Reg.wstHoldAt (c.1 + side * 2 ^ 3 + tensor * 2 ^ 5 + 2 ^ 21)).setReg Reg.wstHoldShard shard
  else t

theorem passEnd_late {now : Nat} (hf : o.firstFail = some now) (side tensor : Nat)
    (late : now + s.rfld Reg.wstCtrl 20 8 * 100000000 ≤ s.phys) (fresh : o.reported = false) :
    s.passEnd c side tensor o = (s.holdReported c side tensor o.shard, { o with retry := true, reported := true }) := by
  simp only [State.passEnd, hf, late, fresh, decide_true, Bool.not_false, Bool.and_true, if_true, beq_iff_eq]
  rfl

theorem passEnd_early {now : Nat} (hf : o.firstFail = some now) (side tensor : Nat)
    (early : ¬(now + s.rfld Reg.wstCtrl 20 8 * 100000000 ≤ s.phys ∧ o.reported = false)) :
    s.passEnd c side tensor o = (s, { o with retry := true }) := by
  rw [not_and, Bool.not_eq_false] at early
  unfold State.passEnd
  extract_lets late o1
  have waits : (late && !o1.reported) = false := by
    simp only [late, hf, o1, Bool.and_eq_false_iff, decide_eq_false_iff_not, Bool.not_eq_false']
    exact imp_iff_not_or.mp early
  rw [waits]
  rfl

/-- What a source that fails leaves where the list goes on. -/
theorem obtainFail_asks (h : s.obtainAt c o = some (q, l, b))
    (he : (q.sources l.srclist).1[o.idx + 1]? = some (role, engine)) (hr : role ≠ 0) :
    s.obtainFail c o = (s.sourceCounted.requestShard c l (o.onward s.phys) engine).modCtx c (·.setObtain (o.onward s.phys)) := by
  rw [obtainFail_eq h, obtainLoop_asks (o := o.onward s.phys) 7 he hr]

theorem requestShard_credited (s : State) (c : Fin 8) (l : Layout) (o : Obtain) (dest : Half) :
    Credited s (s.requestShard c l o dest) := enqueue_credited ..

theorem requestShard_ctx (s : State) (c : Fin 8) (l : Layout) (o : Obtain) (dest : Half) (d : Fin 8) :
    (s.requestShard c l o dest).ctx d = s.ctx d := enqueue_ctx ..

/-! #### What is counted and reported -/

theorem sourceCounted_ctx (s : State) (d : Fin 8) : s.sourceCounted.ctx d = s.ctx d := rfl

theorem sourceCounted_spec (s : State) : s.sourceCounted.rfld Reg.wstCause 0 1 = 1 ∧
    s.sourceCounted.rfld Reg.wstCause 1 1 = s.rfld Reg.wstCause 1 1 ∧
    s.sourceCounted.rfld Reg.wstFails 0 16 = min (s.rfld Reg.wstFails 0 16 + 1) 65535 ∧
    s.sourceCounted.rfld Reg.wstFails 16 16 = s.rfld Reg.wstFails 16 16 ∧
    s.sourceCounted.rfld Reg.wstCtrl 20 8 = s.rfld Reg.wstCtrl 20 8 := by
  let t := s.cause Reg.wstCause 0
  have fails : t.reg Reg.wstFails = s.reg Reg.wstFails := s.reg_cause_ne 0 (by decide)
  have counted : s.sourceCounted.reg Reg.wstCause = t.reg Reg.wstCause := reg_count_ne t 0 16 1 (by decide)
  have ctrl : s.sourceCounted.reg Reg.wstCtrl = s.reg Reg.wstCtrl :=
    (reg_count_ne t 0 16 1 (by decide)).trans (s.reg_cause_ne 0 (by decide))
  refine ⟨?_, ?_, ?_, ?_, rfld_of_reg ctrl⟩
  · rw [rfld_of_reg counted, rfld_cause_self s _ (by decide)]
  · rw [rfld_of_reg counted, rfld_cause_other s _ (by decide)]
  · exact (rfld_count_self t _ _ (by decide)).trans (by rw [rfld_of_reg fails]; rfl)
  · exact (rfld_setFld_above t _ _ (by decide) (by decide)).trans (rfld_of_reg fails)

theorem holdReported_frame (s : State) (c : Fin 8) (side tensor shard : Nat) :
    s.holdReported c side tensor shard = { s with regs := (s.holdReported c side tensor shard).regs } := by
  unfold State.holdReported
  extract_lets t
  split <;> rfl

theorem holdReported_spec (s : State) (c : Fin 8) {side tensor : Nat} (shard : Nat) (hs : side ≤ 3) (ht : tensor < 65536) :
    let u := s.holdReported c side tensor shard
    u.rfld Reg.wstCause 0 1 = s.rfld Reg.wstCause 0 1 ∧ u.rfld Reg.wstFails 0 16 = s.rfld Reg.wstFails 0 16 ∧
    u.rfld Reg.wstCause 1 1 = 1 ∧ u.rfld Reg.wstFails 16 16 = min (s.rfld Reg.wstFails 16 16 + 1) 65535 ∧
    (s.rfld Reg.wstCause 1 1 = 0 → u.rfld Reg.wstHoldAt 5 16 = tensor % 2 ^ 16 ∧ u.rfld Reg.wstHoldAt 21 1 = 1 ∧
      u.reg Reg.wstHoldShard = shard % 2 ^ 32) := by
  intro u
  let v := s.cause Reg.wstCause 1
  let t := v.count Reg.wstFails 16 16 1
  let place := c.1 + side * 2 ^ 3 + tensor * 2 ^ 5 + 2 ^ 21
  have hu : u = if s.rfld Reg.wstCause 1 1 = 0 then (t.setReg Reg.wstHoldAt place).setReg Reg.wstHoldShard shard else t := rfl
  have kept {o : Nat} (h1 : o ≠ Reg.wstHoldAt) (h2 : o ≠ Reg.wstHoldShard) : u.reg o = t.reg o := by
    rw [hu]
    split
    · rw [State.reg_setReg_ne _ _ h2, State.reg_setReg_ne _ _ h1]
    · rfl
  have cause : u.reg Reg.wstCause = v.reg Reg.wstCause :=
    (kept (by decide) (by decide)).trans (reg_count_ne v 16 16 1 (by decide))
  have fails : v.reg Reg.wstFails = s.reg Reg.wstFails := s.reg_cause_ne 1 (by decide)
  have counted : u.reg Reg.wstFails = t.reg Reg.wstFails := kept (by decide) (by decide)
  refine ⟨?_, ?_, ?_, ?_, fun first => ?_⟩
  · rw [rfld_of_reg cause, rfld_cause_other s _ (by decide)]
  · rw [rfld_of_reg counted]
    exact (rfld_setFld_below v _ _ _ (by decide) (by decide)).trans (rfld_of_reg fails)
  · rw [rfld_of_reg cause, rfld_cause_self s _ (by decide)]
  · rw [rfld_of_reg counted]
    exact (rfld_count_self v _ _ (by decide)).trans (by rw [rfld_of_reg fails]; rfl)
  · rw [if_pos first] at hu
    have at_ : u.reg Reg.wstHoldAt = place % 2 ^ 32 := by
      rw [hu, State.reg_setReg_ne _ _ (by decide), State.reg_setReg_eq]
    have small : place < 2 ^ 32 := by have := c.2; simp only [place]; omega
    have := c.2
    refine ⟨?_, ?_, by rw [hu, State.reg_setReg_eq]⟩ <;>
    · rw [State.rfld, at_, Nat.mod_eq_of_lt small, fld, Nat.shiftRight_eq_div_pow]
      simp only [place]
      omega

/-! #### What a source that fails leaves (R254) -/

/-- The end of the list: the loop waits its millisecond. -/
theorem obtainFail_waits (h : s.obtainAt c o = some (q, l, b)) (he : (q.sources l.srclist).1[o.idx + 1]? = none)
    (early : ¬o.Late s) :
    s.obtainFail c o = s.sourceCounted.modCtx c (·.setObtain { o.onward s.phys with retry := true }) := by
  obtain ⟨-, -, -, -, ctrl⟩ := sourceCounted_spec s
  rw [obtainFail_eq h, obtainLoop_passes (o := o.onward s.phys) 7 he, passEnd_early (now := o.firstFail.getD s.phys) rfl]
  rw [ctrl]
  exact early

/-- The end of the list once HOLD_LIMIT has passed: a hold is reported. -/
theorem obtainFail_reports (h : s.obtainAt c o = some (q, l, b)) (he : (q.sources l.srclist).1[o.idx + 1]? = none)
    (late : o.Late s) : s.obtainFail c o = (s.sourceCounted.holdReported c l.side l.tensor o.shard).modCtx c
      (·.setObtain { o.onward s.phys with retry := true, reported := true }) := by
  obtain ⟨-, -, -, -, ctrl⟩ := sourceCounted_spec s
  obtain ⟨passed, fresh⟩ := late
  rw [obtainFail_eq h, obtainLoop_passes (o := o.onward s.phys) 7 he, passEnd_late (now := o.firstFail.getD s.phys) rfl]
  · rfl
  · rw [ctrl]
    exact passed
  · exact fresh

/-! #### The commands -/

/-- The only obtain that waits for its source times out. -/
theorem sourceTimeout_completes {o' : Obtain} {t : State} (ha : Alive s) (hw : (s.ctx c).waiting o.tensor o.shard = [o])
    (hf : s.obtainFail c o = t.modCtx c (·.setObtain o')) (ht : t.ctx c = s.ctx c) (hq : s.scroll? c = some q)
    (still : ∀ b : Fin 2, (s.ctx c).banks[b].state ≠ .building) :
    Completes s (.shardSourceTimeout c o.tensor o.shard) (· = t.modCtx c (·.setObtain o')) := by
  have here : (t.modCtx c (·.setObtain o')).ctx c = (s.ctx c).setObtain o' := by rw [ctx_modCtx_eq, ht]
  have scroll : (t.modCtx c (·.setObtain o')).scroll? c = some q := by rw [State.scroll?, here]; exact hq
  refine act_completes (by rw [exec, execShardSourceTimeout]) ha ?_
  simp only [hw, List.foldl_cons, List.foldl_nil, hf, scroll]
  exact builds_still (by rw [here]; exact still)

/-- The loop starts its list again. -/
theorem shardRetry_completes (ha : Alive s) (hat : s.obtainAt c o = some (q, l, b))
    (mine : ((s.ctx c).obtains.filter fun (r : Obtain) => r.tensor == o.tensor && r.shard == o.shard && r.retry) = [o])
    (he : (q.sources l.srclist).1[0]? = some (role, engine)) (hr : role ≠ 0)
    (still : ∀ b : Fin 2, (s.ctx c).banks[b].state ≠ .building) : let again : Obtain := { o with idx := 0, retry := false }
    Completes s (.shardRetry c o.tensor o.shard) (· = (s.requestShard c l again engine).modCtx c (·.setObtain again)) := by
  intro again
  refine act_completes (by rw [exec, execShardRetry]) ha ?_
  simp only [mine, List.foldl_cons, List.foldl_nil, hat]
  rw [obtainLoop_asks (o := again) 7 he hr]
  exact builds_still (by rw [ctx_modCtx_eq, requestShard_ctx]; exact still)

/-- A frame names the obtain that waits at its sender. -/
def State.Awaits (s : State) (f : Frame) (c : Fin 8) (o : Obtain) : Prop :=
  (s.ctx c).obtains.find? (fun (r : Obtain) => r.version == (shardFields f).1 && r.tensor == f.stream.toNat &&
    r.shard == (shardFields f).2.1 && !r.retry) = some o

variable {p : Fin 64} {f : Frame}

/-- Bytes in order from the source that the loop stands at. -/
theorem shardData_completes (h : Arrives s p 0x11 f) (hc : f.context.toNat = c.1) (mine : s.Awaits f c o)
    (hat : s.obtainAt c o = some (q, l, b)) (he : (q.sources l.srclist).1[o.idx]? = some (role, f.source)) (hr : role ≠ 0)
    (inOrder : (shardFields f).2.2 = o.bytes.length) : Completes s (.shardData p f)
      (· = if f.isEnd then (s.accepts p f).copyArrived c o (o.bytes ++ f.payload.drop 8)
        else (s.accepts p f).modCtx c (·.setObtain { o with bytes := o.bytes ++ f.payload.drop 8 })) := by
  unfold State.Awaits at mine
  refine frame_completes rfl h ?_
  simp only [hc, finOf_val, accepts_ctx, accepts_obtainAt, mine, hat, he, hr, inOrder, ne_eq, not_true_eq_false, or_self, if_false,
    State.modCtx]

/-- The source that the loop stands at has not the shard. -/
theorem shardAbsent_completes (h : Arrives s p 0x12 f) (hc : f.context.toNat = c.1) (mine : s.Awaits f c o)
    (hat : s.obtainAt c o = some (q, l, b)) (he : (q.sources l.srclist).1[o.idx]? = some (role, f.source)) (hr : role ≠ 0) :
    Completes s (.shardAbsent p f) (· = ((s.accepts p f).obtainFail c o).builds c q) := by
  unfold State.Awaits at mine
  refine frame_completes rfl h ?_
  simp only [hc, finOf_val, accepts_ctx, accepts_obtainAt, mine, hat, he, hr, Option.any_some, bne_iff_ne, ne_eq,
    not_false_eq_true, BEq.rfl, Bool.and_true, if_true]

/-- A push before its demand is held (R255). -/
theorem shardPush_held {v : Word} {sh : Nat} (h : Arrives s p 0x13 f) (hc : f.context.toNat = c.1)
    (hv : (shardFields f).1 = v) (hs : (shardFields f).2.1 = sh) (start : (shardFields f).2.2 = 0)
    (undemanded : ∀ r ∈ (s.ctx c).obtains, r.same ⟨v, f.stream.toNat, sh, 0, none, false, [], false⟩ = false)
    (hb : (s.ctx c).bankOf v = some b) (unstored : ((s.ctx c).banks[b].stored.get? (shardKey f.stream.toNat sh)) = none)
    (first : ∀ r ∈ (s.ctx c).pushes, r.shard ≠ sh) (awaited : ∀ e ∈ (s.ctx c).late, e.2.2 ≠ sh) :
    Completes s (.shardPush p f) (· = (s.accepts p f).modCtx c fun x => { x with
      pushes := x.pushes ++ [⟨v, f.stream.toNat, sh, f.source, f.payload.drop 8, f.isEnd⟩] }) := by
  have unlate : (s.ctx c).late.contains (v, f.stream.toNat, sh) = false := by
    simpa using fun mem => awaited _ mem rfl
  refine frame_completes rfl h ?_
  simp only [hc, finOf_val, accepts_ctx, accepts_obtainAt, hv, hs, start]
  split
  · next r found =>
    have named := List.find?_some found
    simp only [Bool.and_eq_true] at named
    obtain ⟨⟨⟨⟨version, tensor⟩, shard⟩, -⟩, -⟩ := named
    have other := undemanded r (List.mem_of_find?_eq_some found)
    simp only [Obtain.same, version, tensor, shard, Bool.and_self, Bool.true_eq_false] at other
  · simp only [hb, unstored, Option.isSome_none, unlate, Bool.false_eq_true, if_false]
    refine congrArg (State.setCtx _ c) ?_
    simp only [accepts_ctx]
    rw [List.find?_eq_none.mpr fun r hr => by simp [first r hr], List.filter_eq_self.mpr fun r hr => by simp [first r hr]]
    rfl

end Sys2Proof.Machine

section
open Sys2Proof Sys2Proof.Machine

/-- Settles O22: a source that fails by what the loop leaves at the next entry (`obtainFail_asks`) and at the end of its list
(`obtainFail_waits`, `obtainFail_reports`), frames by the obtain that they name. -/
theorem shardSources : Obligations.ShardSources := by
  intro s c o q l b ha hat side tensor still list next late fails
  obtain ⟨hq, -, hb⟩ := obtainAt_parts hat
  refine ⟨fun waits => ⟨fun role engine he hr => ?_, fun he => ?_⟩, fun role engine mine he hr =>
    shardRetry_completes ha hat mine he hr still, fun t sh => act_completes (by rw [exec, execPushDiscard]) ha rfl,
    fun p f role hc mine hv hs he hr => ⟨fun h inOrder more => ?_, fun role' engine h he' hr' => ?_⟩,
    fun p f hc h hv start undemanded unstored first awaited => ?_⟩
  · exact sourceTimeout_completes ha waits (obtainFail_asks hat he hr) (requestShard_ctx ..) hq still
  · obtain ⟨cause, hold, count, holds, -⟩ := sourceCounted_spec s
    by_cases isLate : late
    · obtain ⟨cause', count', hold', holds', first⟩ := holdReported_spec s.sourceCounted c o.shard side tensor
      have frame := holdReported_frame s.sourceCounted c l.side l.tensor o.shard
      refine (sourceTimeout_completes ha waits (obtainFail_reports hat he isLate) (by rw [frame]; rfl) hq still).of_eq
        ⟨by rw [frame]; rfl, ?_, fun d hd => ?_, cause'.trans cause, count'.trans count,
          fun _ => ⟨hold', by rw [← holds]; exact holds', fun new => first (hold.trans new)⟩, absurd isLate⟩
      · rw [ctx_modCtx_eq, frame, decide_eq_true isLate, Bool.or_true]
        rfl
      · rw [ctx_modCtx_ne _ _ hd, frame]
        rfl
    · refine (sourceTimeout_completes ha waits (obtainFail_waits hat he isLate) rfl hq still).of_eq
        ⟨rfl, ?_, fun d hd => ctx_modCtx_ne _ _ hd, cause, count, fun h => absurd h isLate, fun _ => ⟨hold, holds⟩⟩
      rw [ctx_modCtx_eq, decide_eq_false isLate, Bool.or_false]
      rfl
  · have taken := shardData_completes h hc (by rw [State.Awaits, hv, hs]; exact mine) hat he hr inOrder
    rwa [more, if_neg Bool.false_ne_true] at taken
  · have failed := shardAbsent_completes h hc (by rw [State.Awaits, hv, hs]; exact mine) hat he hr
    rw [obtainFail_asks (by rwa [accepts_obtainAt]) he' hr', accepts_phys] at failed
    rwa [builds_still] at failed
    rw [ctx_modCtx_eq, requestShard_ctx, sourceCounted_ctx, accepts_ctx]
    exact still
  · exact shardPush_held h hc hv rfl start undemanded hb unstored first awaited

end

/-! ### Weights: banks and the services of peers (R252, R256, R268, R270) -/

namespace Sys2Proof.Machine

variable {s : State} {c : Fin 8} {q : Scroll} {l : Layout} {b : Fin 2} {x : Ctx} {v : Word} {role : Nat} {engine : Half}

/-! #### Banks -/

theorem bankOf_spec (h : x.bankOf v = some b) : x.banks[b].state ≠ .absent ∧ x.banks[b].version = v := by
  simpa using List.find?_some h

theorem modBank_bank_eq (x : Ctx) (b : Fin 2) (f : Bank → Bank) : (x.modBank b f).banks[b] = f x.banks[b] := vget_vmod_eq _ _ _

theorem modBank_bank_ne (x : Ctx) {b e : Fin 2} (f : Bank → Bank) (h : e ≠ b) : (x.modBank b f).banks[e] = x.banks[e] :=
  vget_vmod_ne _ _ h

theorem modBank_modBank (x : Ctx) (b : Fin 2) (f g : Bank → Bank) : (x.modBank b f).modBank b g = x.modBank b fun y => g (f y) := by
  simp only [Ctx.modBank, vmod, vget_vset_eq, vset_vset]

theorem modBank_congr {f g : Bank → Bank} (h : f x.banks[b] = g x.banks[b]) : x.modBank b f = x.modBank b g := by
  simp only [Ctx.modBank, vmod, h]

/-- A bank's version and whether it holds one decide where a version stands. -/
theorem bankOf_congr {y : Ctx} (h : ∀ e : Fin 2, y.banks[e].version = x.banks[e].version ∧
    (y.banks[e].state = .absent ↔ x.banks[e].state = .absent)) (v : Word) : y.bankOf v = x.bankOf v := by
  unfold Ctx.bankOf
  congr 1
  funext e
  obtain ⟨version, absent⟩ := h e
  rw [version, Bool.eq_iff_iff.mpr (show (y.banks[e].state != .absent) = true ↔ (x.banks[e].state != .absent) = true by
    rw [bne_iff_ne, bne_iff_ne, Ne, absent])]

/-- A RETIRING or BAD version without a pin. -/
def Bank.spent (y : Bank) : Bool := y.pins == 0 && (y.state == .bad || y.state == .retiring)

/-- A bank is given up: that of a spent version but the pending target's (R267, R270, R274). -/
def Ctx.gone (x : Ctx) (b : Fin 2) : Bool := x.banks[b].pins == 0 &&
  (x.banks[b].state == .bad || (x.banks[b].state == .retiring && x.pending != some x.banks[b].version))

/-- The context once its spent banks are given up. -/
def Ctx.banksFreed (x : Ctx) : Ctx := { x with
  current := x.current.filter fun b => !x.gone b
  banks := Vector.ofFn fun b : Fin 2 => if x.gone b then {} else x.banks[b] }

/-- Banks are given up, and no target waits for one. -/
theorem bankFreed_settled (h : (s.ctx c).pending = none ∨ (s.ctx c).pendUnbuilt = false) :
    s.bankFreed c = s.modCtx c Ctx.banksFreed := by
  have here : (s.modCtx c Ctx.banksFreed).ctx c = (s.ctx c).banksFreed := ctx_modCtx_eq ..
  unfold State.bankFreed
  extract_lets s1 y
  have freed : s1 = s.modCtx c Ctx.banksFreed := rfl
  have left : y = (s.ctx c).banksFreed := by rw [← here, ← freed]
  split
  · next pending =>
    have waits : y.pendUnbuilt = false := by
      rw [left] at pending ⊢
      exact h.resolve_left fun none => Option.some_ne_none _ (pending.symm.trans none)
    rw [if_pos (.inl (by simp [waits])), freed]
  · exact freed

theorem banksFreed_bank (x : Ctx) (b : Fin 2) : x.banksFreed.banks[b] = if x.gone b then {} else x.banks[b] := vget_ofFn _ _

/-- The context with another current bank. -/
def Ctx.currently (x : Ctx) (o : Option (Fin 2)) : Ctx := { x with current := o }

/-- A bank once it is given up where it is spent. -/
def Bank.freed (y : Bank) : Bank := if y.spent then {} else y

/-- One bank alone can be given up. -/
theorem banksFreed_one (hp : x.pending = none)
    (others : ∀ e : Fin 2, e ≠ b → x.banks[e].state ≠ .retiring ∧ x.banks[e].state ≠ .bad) :
    x.banksFreed = (x.modBank b Bank.freed).currently (if x.banks[b].spent ∧ x.current = some b then none else x.current) := by
  have mine : x.gone b = x.banks[b].spent := by
    have unwanted : (none != some x.banks[b].version) = true := rfl
    rw [Ctx.gone, hp, unwanted, Bool.and_true, Bank.spent]
  have kept {e : Fin 2} (he : e ≠ b) : x.gone e = false := by
    rw [Ctx.gone, beq_eq_false_iff_ne.mpr (others e he).1, beq_eq_false_iff_ne.mpr (others e he).2, Bool.false_and, Bool.or_false,
      Bool.and_false]
  have banks : (Vector.ofFn fun b : Fin 2 => if x.gone b then {} else x.banks[b]) =
      vmod x.banks b Bank.freed := by
    refine Vector.ext fun i hi => ?_
    change (Vector.ofFn _)[(⟨i, hi⟩ : Fin 2)] = (vmod x.banks b Bank.freed)[(⟨i, hi⟩ : Fin 2)]
    rw [vget_ofFn]
    by_cases he : (⟨i, hi⟩ : Fin 2) = b
    · subst he
      rw [vget_vmod_eq, mine, Bank.freed]
    · rw [vget_vmod_ne _ _ he, kept he]; rfl
  have current : (x.current.filter fun b => !x.gone b) = if x.banks[b].spent ∧ x.current = some b then none else x.current := by
    rcases x.current with _ | e
    · simp
    · by_cases he : e = b
      · rw [he, Option.filter_some, mine]
        cases x.banks[b].spent <;> simp
      · simp [Option.filter_some, kept he, he]
  rw [Ctx.banksFreed, banks, current]
  rfl

/-! #### A shard that is wanted -/

/-- The loop starts at an engine, with nothing else being obtained and no push late. -/
theorem obtain_asks (he : (q.sources l.srclist).1[0]? = some (role, engine)) (hr : role ≠ 0) (hb : (s.ctx c).banks[b].version = v)
    (idle : (s.ctx c).obtains = []) (late : (s.ctx c).late = []) (shard : Nat) :
    let o : Obtain := { version := v, tensor := l.tensor, shard := shard }
    s.obtain c q l b shard = (s.requestShard c l o engine).modCtx c (·.setObtain o) := by
  intro o
  have late' : { s.ctx c with late := (s.ctx c).late.filter (· != (o.version, o.tensor, o.shard)) } = s.ctx c := by
    rw [late, List.filter_nil, ← late]
  simp only [State.obtain, hb, idle, List.any_nil, Bool.false_eq_true, if_false]
  rw [modCtx_self late']
  exact obtainLoop_asks (o := o) 7 he hr

/-- The bank copy of a shard cannot be used (R252). -/
def Ctx.BadCopy (x : Ctx) (v : Word) (tensor shard : Nat) (q : Scroll) (b : Fin 2) : Prop :=
  x.scroll = some q ∧ x.bankOf v = some b ∧
    (x.banks[b].state = .ready ∨ x.banks[b].state = .current ∨ x.banks[b].state = .retiring) ∧
    (x.banks[b].stored.get? (shardKey tensor shard)).isSome = true ∧ x.banks[b].copy q tensor shard = none

/-- A context's copy of a shard obtained again where it cannot be used (R252). -/
def State.mendCopy (v : Word) (tensor shard : Nat) (s : State) (c : Fin 8) : State :=
  match s.scroll? c, (s.ctx c).bankOf v with
  | some q, some b =>
    let y := (s.ctx c).banks[b]
    let kept := y.state == .ready || y.state == .current || y.state == .retiring
    match q.layout? tensor with
    | some l =>
      if kept && (y.stored.get? (shardKey tensor shard)).isSome && (y.copy q tensor shard).isNone then s.obtain c q l b shard
      else s
    | none => s
  | _, _ => s

theorem mendCopies_eq (s : State) (v : Word) (tensor shard : Nat) :
    s.mendCopies v tensor shard = (fins 8).foldl (State.mendCopy v tensor shard) s := by
  unfold State.mendCopies
  refine congrArg (fun f => (fins 8).foldl f s) (funext fun s => funext fun c => ?_)
  unfold State.mendCopy
  cases s.scroll? c with
  | none => rfl
  | some q => cases (s.ctx c).bankOf v with
    | none => rfl
    | some b =>
      dsimp only <;> cases q.layout? tensor <;> with_reducible rfl

variable {tensor shard : Nat}

theorem mendCopy_good (h : ∀ q b, ¬(s.ctx c).BadCopy v tensor shard q b) : s.mendCopy v tensor shard c = s := by
  unfold State.mendCopy
  split
  · next q b hq hb =>
    dsimp only
    split
    · refine if_neg fun bad => h q b ?_
      simp only [Bool.and_eq_true, Bool.or_eq_true, beq_iff_eq, Option.isNone_iff_eq_none, or_assoc] at bad
      obtain ⟨⟨kept, stored⟩, unusable⟩ := bad
      exact ⟨hq, hb, kept, stored, unusable⟩
    · rfl
  · rfl

theorem mendCopy_bad (h : (s.ctx c).BadCopy v tensor shard q b) (hl : q.layout? tensor = some l) :
    s.mendCopy v tensor shard c = s.obtain c q l b shard := by
  obtain ⟨hq, hb, kept, stored, unusable⟩ := h
  have found : s.scroll? c = some q := hq
  simp only [State.mendCopy, found, hb, hl]
  refine if_pos ?_
  simp only [Bool.and_eq_true, Bool.or_eq_true, beq_iff_eq, Option.isNone_iff_eq_none, or_assoc]
  exact ⟨⟨kept, stored⟩, unusable⟩

theorem mendCopies_good (h : ∀ c q b, ¬(s.ctx c).BadCopy v tensor shard q b) : s.mendCopies v tensor shard = s :=
  (mendCopies_eq ..).trans (foldl_fixed_mem fun c _ => mendCopy_good (h c))

/-- One context's copy alone is obtained again. -/
theorem mendCopies_one (only : ∀ d q e, (s.ctx d).BadCopy v tensor shard q e → d = c) (bad : (s.ctx c).BadCopy v tensor shard q b)
    (hl : q.layout? tensor = some l) (idle : (s.ctx c).obtains = []) (late : (s.ctx c).late = [])
    (he : (q.sources l.srclist).1[0]? = some (role, engine)) (hr : role ≠ 0) :
    let o : Obtain := { version := v, tensor := l.tensor, shard := shard }
    s.mendCopies v tensor shard = (s.requestShard c l o engine).modCtx c (·.setObtain o) := by
  intro o
  let t := (s.requestShard c l o engine).modCtx c (·.setObtain o)
  have good {d : Fin 8} (hd : d ≠ c) (q : Scroll) (e : Fin 2) : ¬(s.ctx d).BadCopy v tensor shard q e := fun h => hd (only d q e h)
  have same {d : Fin 8} (hd : d ≠ c) : t.ctx d = s.ctx d := (ctx_modCtx_ne _ _ hd).trans (requestShard_ctx ..)
  have asked : s.mendCopy v tensor shard c = t :=
    (mendCopy_bad bad hl).trans (obtain_asks he hr (bankOf_spec bad.2.1).2 idle late shard)
  exact (mendCopies_eq ..).trans (foldl_visits (P := (· = s)) (Q := (· = t)) (fun _ d hd h => by rw [h, mendCopy_good (good hd)])
    (fun _ d hd h => by rw [h, mendCopy_good (by rw [same hd]; exact good hd)]) (fun _ h => by rw [h, asked])
    (List.nodup_finRange 8) (List.mem_finRange c) rfl)

/-! #### A peer's request (R256) -/

/-- The context holds the shard in a bank whose version serves. -/
def State.Holds (s : State) (v : Word) (tensor shard : Nat) (c : Fin 8) (b : Fin 2) (bs : List Byte) : Prop :=
  (s.ctx c).bankOf v = some b ∧ (∃ q, s.scroll? c = some q ∧ (s.ctx c).banks[b].copy q tensor shard = some bs) ∧
    ((s.ctx c).banks[b].state = .ready ∨ (s.ctx c).banks[b].state = .current ∨ (s.ctx c).banks[b].state = .retiring)

/-- What a context can serve of a shard. -/
def State.servesPeer (s : State) (v : Word) (tensor shard : Nat) (c : Fin 8) : Option (Fin 8 × Fin 2 × List Byte) :=
  ((s.ctx c).bankOf v).bind fun b =>
    let y := (s.ctx c).banks[b]
    if y.state = .ready ∨ y.state = .current ∨ y.state = .retiring then
      ((s.scroll? c).bind fun q => y.copy q tensor shard).map fun bs => (c, b, bs)
    else none

theorem serves_of_holds {bs : List Byte} (h : s.Holds v tensor shard c b bs) : s.servesPeer v tensor shard c = some (c, b, bs) := by
  obtain ⟨hb, ⟨q, hq, copy⟩, kept⟩ := h
  simp only [State.servesPeer, hb, hq, Option.bind_some, if_pos kept, copy, Option.map_some]

theorem holds_of_serves {r : Fin 8 × Fin 2 × List Byte} (h : s.servesPeer v tensor shard c = some r) :
    r.1 = c ∧ s.Holds v tensor shard c r.2.1 r.2.2 := by
  obtain ⟨b, hb, h⟩ := Option.bind_eq_some_iff.mp h
  dsimp only at h
  split at h
  · next kept =>
    obtain ⟨bs, hbs, rfl⟩ := Option.map_eq_some_iff.mp h
    obtain ⟨q, hq, copy⟩ := Option.bind_eq_some_iff.mp hbs
    exact ⟨rfl, hb, ⟨q, hq, copy⟩, kept⟩
  · cases h

/-- The lowest index at which a function answers. -/
theorem findSome?_fins {α : Type} {n : Nat} {f : Fin n → Option α} {i : Fin n} {y : α} (hi : f i = some y)
    (below : ∀ j < i, f j = none) : (fins n).findSome? f = some y := by
  obtain ⟨l₁, l₂, parts⟩ := List.append_of_mem (List.mem_finRange i)
  have sorted : (l₁ ++ i :: l₂).Pairwise (· < ·) := parts ▸ List.pairwise_lt_finRange n
  exact List.findSome?_eq_some_iff.mpr ⟨l₁, i, l₂, parts, hi, fun j hj =>
    below j ((List.pairwise_append.mp sorted).2.2 j hj i List.mem_cons_self)⟩

/-- The lowest-numbered context that holds the shard serves it. -/
theorem served_lowest {bs : List Byte} (h : s.Holds v tensor shard c b bs)
    (first : ∀ d, d < c → ∀ e cs, ¬s.Holds v tensor shard d e cs) : (fins 8).findSome? (s.servesPeer v tensor shard) =
      some (c, b, bs) :=
  findSome?_fins (serves_of_holds h) fun d hd => Option.eq_none_iff_forall_ne_some.mpr fun r hr =>
    first d hd r.2.1 r.2.2 (holds_of_serves hr).2

theorem served_none (h : ∀ c b bs, ¬s.Holds v tensor shard c b bs) : (fins 8).findSome? (s.servesPeer v tensor shard) = none :=
  List.findSome?_eq_none_iff.mpr fun c _ => Option.eq_none_iff_forall_ne_some.mpr fun r hr =>
    h c r.2.1 r.2.2 (holds_of_serves hr).2

/-- A frame that answers a peer's request, on the port it came by. -/
def State.answerPeer (p : Fin 64) (f : Frame) (s : State) (ty at_ : Nat) (fin : Bool) (bs : List Byte) : State :=
  s.enqueue (some p) (s.frame ty 1 f.source f.context f.generation f.stream.toNat at_ fin
    (leBytes 4 (shardFields f).1.toNat ++ [0, 0, 0, 0] ++ bs)) none none

/-- The stored bytes from their offset, in frames of up to 4,088 bytes, counted and pinned. -/
def State.servePeer (s : State) (p : Fin 64) (f : Frame) (c : Fin 8) (b : Fin 2) (bs : List Byte) : State :=
  let rest := bs.drop (shardFields f).2.2
  let n := max 1 ((rest.length + 4087) / 4088)
  (List.range n).foldl (fun s i => State.answerPeer p f s 0x11 ((shardFields f).2.1 * 2 ^ 40 + (shardFields f).2.2 + 4088 * i)
    (decide (i + 1 = n)) ((rest.drop (4088 * i)).take 4088))
    ((s.modCtx c fun x => x.modBank b fun y => { y with services := y.services + 1 }).countMod Reg.wstPeer 1)

/-- What a peer's request leaves. -/
def State.peerAsked (p : Fin 64) (f : Frame) (s : State) : State :=
  let t := s.mendCopies (shardFields f).1 f.stream.toNat (shardFields f).2.1
  match (fins 8).findSome? (s.servesPeer (shardFields f).1 f.stream.toNat (shardFields f).2.1) with
  | none => State.answerPeer p f t 0x12 f.offset.toNat true []
  | some (c, b, bs) => t.servePeer p f c b bs

theorem shardReq_completes {p : Fin 64} {f : Frame} (h : Arrives s p 0x10 f) :
    Completes s (.shardReq p f) (· = State.peerAsked p f (s.accepts p f)) := by
  refine frame_completes rfl h ?_
  unfold State.peerAsked
  rfl

/-! #### The end of a service (R268, R270) -/

/-- A bank whose version serves one peer less. -/
def Bank.served (y : Bank) : Bank := { y with services := y.services - 1 }

/-- A service ends on a spent version whose only pin it was. -/
theorem spent_served (y : Bank) : y.served.spent = true ↔
    (y.state = .retiring ∨ y.state = .bad) ∧ y.services ≤ 1 ∧ y.stepPin = false := by
  simp only [Bank.spent, Bank.served, Bank.pins, Bool.and_eq_true, Bool.or_eq_true, beq_iff_eq]
  cases y.stepPin
  · simp [bit, or_comm, and_comm, Nat.sub_eq_zero_iff_le]
  · simp [bit]

theorem peerServiceEnd_completes (ha : Alive s) (hb : (s.ctx c).bankOf v = some b) (hp : (s.ctx c).pending = none) :
    Completes s (.peerServiceEnd c v) (· = s.modCtx c fun x => (x.modBank b Bank.served).banksFreed) := by
  refine act_completes (by rw [exec, execPeerServiceEnd]) ha ?_
  simp only [hb]
  rw [bankFreed_settled (.inl (by rw [ctx_modCtx_eq]; exact hp)), modCtx_modCtx]
  rfl

/-- Settles O23: the copies mended by their contexts, what is held found in the lowest-numbered one, and the bank given up. -/
theorem peerServices : Obligations.PeerServices := by
  unfold Obligations.PeerServices
  refine ⟨fun s p f ha => ?_, fun s c v b ha hb hp others => ?_⟩
  · intro v answer holds mended bad
    have ctxs (c : Fin 8) : (s.accepts p f).ctx c = s.ctx c := accepts_ctx ..
    have isBad (c : Fin 8) (q : Scroll) (b : Fin 2) :
        ((s.accepts p f).ctx c).BadCopy v f.stream.toNat (shardFields f).2.1 q b ↔ bad c q b := by
      rw [ctxs]; exact Iff.rfl
    have isHeld (c : Fin 8) (b : Fin 2) (bs : List Byte) :
        (s.accepts p f).Holds v f.stream.toNat (shardFields f).2.1 c b bs ↔ holds c b bs := by
      rw [State.Holds, State.scroll?, ctxs]; exact Iff.rfl
    simp only [← isBad, ← isHeld]
    refine ⟨mendCopies_good, fun c q b l role engine only bad hl idle late he hr => ?_,
      fun none => (shardReq_completes ha).mono ?_, fun c b bs held first => (shardReq_completes ha).mono ?_⟩
    · exact mendCopies_one only bad hl (by rw [ctxs]; exact idle) (by rw [ctxs]; exact late) he hr
    · rintro _ rfl
      rw [State.peerAsked, served_none none]
      rfl
    · rintro _ rfl
      rw [State.peerAsked, served_lowest held first]
      rfl
  · intro y gone
    refine (peerServiceEnd_completes ha hb hp).mono ?_
    rintro _ rfl
    refine ⟨rfl, fun d hd => ctx_modCtx_ne _ _ hd, ?_⟩
    rw [ctx_modCtx_eq]
    have freed := banksFreed_one (x := (s.ctx c).modBank b Bank.served) (b := b) hp fun e he => by
      rw [modBank_bank_ne _ _ he]; exact (others e).resolve_right he
    rw [modBank_bank_eq, modBank_modBank] at freed
    have left : Bank.freed y.served = if gone then {} else y.served := if_congr (spent_served y) rfl rfl
    rw [freed, modBank_congr (g := fun _ => if gone then {} else y.served) left]
    exact congrArg _ (if_congr (and_congr_left' (spent_served y)) rfl rfl)

end Sys2Proof.Machine

/-! ### Weights: a version is built (R254, R264, R265, R267) -/

namespace Sys2Proof.Machine

variable {s : State} {c : Fin 8} {q : Scroll} {l : Layout} {b : Fin 2} {x : Ctx} {v : Word} {role : Nat} {engine : Half}

/-! #### Sending reads no context (R302, R305, R306) -/

/-- The state with other contexts. -/
def State.withCtxs (s : State) (xs : Vector Ctx 8) : State := { s with ctxs := xs }

variable (xs : Vector Ctx 8)

theorem stamped_withCtxs (s : State) (p : Fin 64) (f : Frame) : (s.withCtxs xs).stamped p f = (s.stamped p f).withCtxs xs := by
  unfold State.stamped
  split
  · rfl
  · dsimp only
    split <;> rfl

theorem transmit_withCtxs (s : State) (p : Fin 64) (f : QFrame) : (s.withCtxs xs).transmit p f = (s.transmit p f).withCtxs xs := by
  unfold State.transmit
  symm
  exact (stamped_withCtxs xs _ p _).symm

theorem pumpList_withCtxs (p : Fin 64) (fs : List QFrame) (held : List (Nat × Half × Nat)) (full : List Nat) (s : State) :
    State.pumpList p fs held full (s.withCtxs xs) =
      ((State.pumpList p fs held full s).1.withCtxs xs, (State.pumpList p fs held full s).2) := by
  induction fs generalizing held full s with
  | nil => rfl
  | cons f fs ih =>
    have sends : (s.withCtxs xs).maySend f.frame = s.maySend f.frame := rfl
    have carries (ty : Nat) : (s.withCtxs xs).carries p ty = s.carries p ty := rfl
    have credit : (s.withCtxs xs).creditFor f = s.creditFor f := rfl
    have ports : (s.withCtxs xs).ports = s.ports := rfl
    have spend (a : Account) : (s.withCtxs xs).spend a = (s.spend a).withCtxs xs := rfl
    simp only [State.pumpList, sends, carries, credit, ports, spend, transmit_withCtxs, ih]
    split
    · rfl
    · split
      · rfl
      · split
        · rfl
        · split
          · rfl
          · rfl

theorem pumpPass_withCtxs (s : State) (p : Fin 64) : (s.withCtxs xs).pumpPass p = (s.pumpPass p).withCtxs xs := by
  have sent := pumpList_withCtxs xs p (s.ports[p]).queue [] [] (s.modPort p fun pt => { pt with queue := [] })
  exact congrArg (fun r : State × List QFrame => r.1.modPort p fun pt => { pt with queue := r.2 ++ pt.queue }) sent

theorem pump_withCtxs (s : State) (p : Fin 64) : (s.withCtxs xs).pump p = (s.pump p).withCtxs xs := by
  have ports : (s.withCtxs xs).ports = s.ports := rfl
  simp only [State.pump, ports, pumpPass_withCtxs]
  split
  · rfl
  · rfl

theorem enqueue_withCtxs (s : State) (p : Option (Fin 64)) (f : Frame) (k : Option (Nat × Nat × Nat)) (d : Option (Fin 8))
    (w : Bool) : (s.withCtxs xs).enqueue p f k d w = (s.enqueue p f k d w).withCtxs xs := by
  cases p with
  | none => rfl
  | some p => exact pump_withCtxs xs (s.modPort p fun pt => { pt with queue := pt.queue ++ [⟨f, k, d, w⟩] }) p

/-- The request of a shard reads the context's generation alone. -/
theorem requestShard_modCtx {f : Ctx → Ctx} (hg : (f (s.ctx c)).gen = (s.ctx c).gen) (l : Layout) (o : Obtain) (dest : Half) :
    (s.modCtx c f).requestShard c l o dest = (s.requestShard c l o dest).modCtx c f := by
  have request : (s.modCtx c f).requestShard c l o dest = (s.requestShard c l o dest).withCtxs (s.modCtx c f).ctxs := by
    unfold State.requestShard
    rw [ctx_modCtx_eq, hg]
    exact enqueue_withCtxs ..
  calc (s.modCtx c f).requestShard c l o dest
    _ = (s.requestShard c l o dest).withCtxs (vset (s.requestShard c l o dest).ctxs c (f (s.ctx c))) := by
      rw [request, (requestShard_credited ..).ctxs]; rfl
    _ = (s.requestShard c l o dest).modCtx c f := by rw [State.modCtx, requestShard_ctx]; rfl

theorem cause_ctx (s : State) (o k : Nat) (d : Fin 8) : (s.cause o k).ctx d = s.ctx d := rfl

/-! #### A version becomes BAD (R265, R267, R270) -/

/-- A version became BAD with its cause, and its bank is given up where nothing pins it. -/
structure State.Spoiled (s u : State) (c : Fin 8) (b : Fin 2) (bit : Nat) : Prop where
  unpinned : (s.ctx c).banks[b].pins = 0 → (u.ctx c).banks[b] = {} ∧ (u.ctx c).current = (s.ctx c).current.filter (· != b)
  pinned : (s.ctx c).banks[b].pins ≠ 0 → (u.ctx c).banks[b].state = .bad ∧ (u.ctx c).current = (s.ctx c).current
  others : ∀ e : Fin 2, e ≠ b → (u.ctx c).banks[e] = (s.ctx c).banks[e]
  cause : u.rfld Reg.wstCause bit 1 = 1
  elsewhere : ∀ d, d ≠ c → u.ctx d = s.ctx d

/-- A bank whose version is BAD. -/
def Bank.spoiled (y : Bank) : Bank := { y with state := .bad }

theorem spent_spoiled (y : Bank) : y.spoiled.spent = (y.pins == 0) := by
  rw [Bank.spent]
  exact Bool.and_true _

/-- The context whose version in a bank is BAD, with nothing being obtained for it but as the current one. -/
def Ctx.spoiled (x : Ctx) (b : Fin 2) : Ctx := { x.modBank b Bank.spoiled with
  obtains := x.obtains.filter fun o => !(o.version == x.banks[b].version && x.current != some b) }

theorem versionBad_eq (s : State) (c : Fin 8) (b : Fin 2) (bit : Nat) :
    s.versionBad c b bit = (s.modCtx c (·.spoiled b)).cause Reg.wstCause bit := rfl

theorem filter_ne_current (o : Option (Fin 2)) (b : Fin 2) : o.filter (· != b) = if o = some b then none else o := by
  rcases o with _ | e
  · rfl
  · by_cases he : e = b
    · subst he
      simp
    · simp [Option.filter_some, he]

/-- Work on a bank that keeps what pins it, and all else of the banks. -/
structure State.Banked (s t : State) (c : Fin 8) (b : Fin 2) : Prop where
  pins : (t.ctx c).banks[b].pins = (s.ctx c).banks[b].pins
  others : ∀ e : Fin 2, e ≠ b → (t.ctx c).banks[e] = (s.ctx c).banks[e]
  current : (t.ctx c).current = (s.ctx c).current
  pending : (t.ctx c).pending = (s.ctx c).pending
  elsewhere : ∀ d, d ≠ c → t.ctx d = s.ctx d

theorem versionBad_spoils {t : State} {bit : Nat} (work : s.Banked t c b) (hp : (s.ctx c).pending = none) (hbit : bit < 32)
    (others : ∀ e : Fin 2, e ≠ b → (s.ctx c).banks[e].state ≠ .retiring ∧ (s.ctx c).banks[e].state ≠ .bad) :
    s.Spoiled ((t.versionBad c b bit).bankFreed c) c b bit := by
  have left : (t.versionBad c b bit).ctx c = (t.ctx c).spoiled b := by rw [versionBad_eq, cause_ctx, ctx_modCtx_eq]
  have settled : ((t.ctx c).spoiled b).pending = none := work.pending.trans hp
  have freed : (t.versionBad c b bit).bankFreed c = (t.versionBad c b bit).modCtx c Ctx.banksFreed :=
    bankFreed_settled (.inl (by rw [left]; exact settled))
  have mine : ((t.ctx c).spoiled b).banks[b] = (t.ctx c).banks[b].spoiled := modBank_bank_eq ..
  have other {e : Fin 2} (he : e ≠ b) : ((t.ctx c).spoiled b).banks[e] = (s.ctx c).banks[e] :=
    (modBank_bank_ne _ _ he).trans (work.others e he)
  have here : ((t.versionBad c b bit).bankFreed c).ctx c = (((t.ctx c).spoiled b).modBank b Bank.freed).currently
      (if ((s.ctx c).banks[b].pins == 0) = true ∧ (s.ctx c).current = some b then none else (s.ctx c).current) := by
    rw [freed, ctx_modCtx_eq, left, banksFreed_one (x := (t.ctx c).spoiled b) (b := b) settled
      fun e he => by rw [other he]; exact others e he, mine, spent_spoiled, ← work.pins, ← work.current]
    rfl
  have bank : (((t.versionBad c b bit).bankFreed c).ctx c).banks[b] =
      if (s.ctx c).banks[b].pins == 0 then {} else (t.ctx c).banks[b].spoiled := by
    rw [here, ← work.pins, ← spent_spoiled]; exact (modBank_bank_eq ..).trans (congrArg _ mine)
  have current : (((t.versionBad c b bit).bankFreed c).ctx c).current =
      if ((s.ctx c).banks[b].pins == 0) = true ∧ (s.ctx c).current = some b then none else (s.ctx c).current := by rw [here]; rfl
  constructor
  case unpinned =>
    intro free
    rw [bank, current, filter_ne_current, free]
    exact ⟨rfl, if_congr (and_iff_right rfl) rfl rfl⟩
  case pinned =>
    intro held
    rw [bank, current, beq_false_of_ne held]
    exact ⟨rfl, if_neg fun h => Bool.false_ne_true h.1⟩
  case others =>
    intro e he
    rw [here]
    exact (modBank_bank_ne _ _ he).trans (other he)
  case cause =>
    rw [freed]
    exact rfld_cause_self (t.modCtx c (·.spoiled b)) Reg.wstCause hbit
  case elsewhere =>
    intro d hd
    rw [freed, ctx_modCtx_ne _ _ hd, versionBad_eq, cause_ctx, ctx_modCtx_ne _ _ hd, work.elsewhere d hd]

/-! #### A version is READY, or obtains what is missing (R267) -/

/-- A STORE shard that a bank has not. -/
def Bank.missing (y : Bank) (q : Scroll) : Option (Layout × Nat) :=
  q.storeShards.find? fun e => (y.stored.get? (shardKey e.1.tensor e.2)).isNone

theorem missing_none {y : Bank} (h : ∀ e ∈ q.storeShards, (y.stored.get? (shardKey e.1.tensor e.2)).isSome = true) :
    y.missing q = none :=
  List.find?_eq_none.mpr fun e he => by rw [← Option.not_isSome, h e he]; decide

/-- A bank whose version is READY. -/
def Bank.readied (y : Bank) : Bank := { y with state := .ready }

/-- With nothing missing the version is READY. -/
theorem builds_ready (building : (s.ctx c).banks[b].state = .building) (verified : (s.ctx c).banks[b].verified = true)
    (full : (s.ctx c).banks[b].missing q = none) (others : ∀ e : Fin 2, e ≠ b → (s.ctx c).banks[e].state ≠ .building) :
    s.builds c q = (s.modCtx c (·.modBank b Bank.readied)).cause Reg.wstCause 6 := by
  unfold Bank.missing at full
  refine builds_one (b := b) ?_ others fun e he => ?_
  · simp only [State.build, building, verified, full, ne_eq, not_true_eq_false, Bool.not_true, Bool.false_eq_true, or_self, if_false]
    rfl
  · have here : ((s.modCtx c (·.modBank b Bank.readied)).cause Reg.wstCause 6).ctx c = (s.ctx c).modBank b Bank.readied := by
      rw [cause_ctx, ctx_modCtx_eq]
    rw [here, modBank_bank_ne _ _ he]
    exact others e he

/-- The first shard missing is asked for at the head of its list. -/
theorem builds_asks {shard : Nat} (building : (s.ctx c).banks[b].state = .building) (verified : (s.ctx c).banks[b].verified = true)
    (missing : (s.ctx c).banks[b].missing q = some (l, shard)) (hv : (s.ctx c).banks[b].version = v)
    (others : ∀ e : Fin 2, e ≠ b → (s.ctx c).banks[e].state ≠ .building) (idle : (s.ctx c).obtains = []) (late : (s.ctx c).late = [])
    (he : (q.sources l.srclist).1[0]? = some (role, engine)) (hr : role ≠ 0) :
    let o : Obtain := { version := v, tensor := l.tensor, shard := shard }
    s.builds c q = (s.requestShard c l o engine).modCtx c (·.setObtain o) := by
  intro o
  have here : ((s.requestShard c l o engine).modCtx c (·.setObtain o)).ctx c = (s.ctx c).setObtain o := by
    rw [ctx_modCtx_eq, requestShard_ctx]
  have unstored : ((s.ctx c).banks[b].stored.get? (shardKey l.tensor shard)).isNone = true :=
    List.find?_some (p := fun e : Layout × Nat => ((s.ctx c).banks[b].stored.get? (shardKey e.1.tensor e.2)).isNone) missing
  have still : (((s.ctx c).setObtain o).banks[b].stored.get? (shardKey l.tensor shard)).isSome = false := by
    rw [← Option.not_isNone]
    exact congrArg _ unstored
  unfold Bank.missing at missing
  refine builds_one (b := b) ?_ others fun e he => by rw [here]; exact others e he
  rw [State.build]
  simp only [building, verified, missing, ne_eq, not_true_eq_false, Bool.not_true, Bool.false_eq_true, or_self, if_false]
  rw [obtain_asks he hr hv idle late, here, still]
  rfl

/-- A READY version in a bank, and the other bank as it was. -/
structure State.Readied (s u : State) (c : Fin 8) (b : Fin 2) (y : Bank) : Prop where
  bank : (u.ctx c).banks[b] = y.readied
  others : ∀ e : Fin 2, e ≠ b → (u.ctx c).banks[e] = (s.ctx c).banks[e]
  cause : u.rfld Reg.wstCause 6 1 = 1

theorem builds_readied {t : State} {y : Bank} (mine : (t.ctx c).banks[b] = y)
    (same : ∀ e : Fin 2, e ≠ b → (t.ctx c).banks[e] = (s.ctx c).banks[e]) (building : y.state = .building)
    (verified : y.verified = true) (full : y.missing q = none)
    (others : ∀ e : Fin 2, e ≠ b → (s.ctx c).banks[e].state ≠ .building) : s.Readied (t.builds c q) c b y := by
  have here : ((t.modCtx c (·.modBank b Bank.readied)).cause Reg.wstCause 6).ctx c = (t.ctx c).modBank b Bank.readied := by
    rw [cause_ctx, ctx_modCtx_eq]
  rw [builds_ready (b := b) (by rw [mine]; exact building) (by rw [mine]; exact verified) (by rw [mine]; exact full)
    fun e he => by rw [same e he]; exact others e he]
  constructor
  case bank => rw [here, modBank_bank_eq, mine]
  case others => intro e he; rw [here, modBank_bank_ne _ _ he, same e he]
  case cause => exact rfld_cause_self _ _ (by decide)

/-! #### A copy is stored (R249, R265) -/

theorem fillUnits_none (h : (s.ctx c).units = []) : s.fillUnits c q = s := by
  rw [State.fillUnits, h, List.foldl_nil]

/-- A bank that stores its first copy of a STORE shard, which waits for its digest check. -/
def Bank.taken (k : Nat) (bs : List Byte) (y : Bank) : Bank := { y with
  stored := y.stored.set k bs, eccShards := y.eccShards.del k, toCheck := [(k, bs)] }

theorem useCopy_banks {o : Obtain} {bs : List Byte} (down : (q.sources l.srclist).2 = 0xFFFF) (units : (s.ctx c).units = [])
    (store : l.stream = false) (unchecked : (s.ctx c).banks[b].checked.has (shardKey o.tensor o.shard) = false)
    (fresh : (s.ctx c).banks[b].toCheck = []) : ((s.useCopy c q l b o bs).ctx c).banks =
      vmod (s.ctx c).banks b (·.taken (shardKey o.tensor o.shard) bs) := by
  unfold State.useCopy
  rw [fillUnits_none]
  · simp only [down, ne_eq, not_true_eq_false, if_false]
    rw [ctx_modCtx_eq]
    refine congrArg (vset (s.ctx c).banks b) ?_
    simp only [store, unchecked, fresh]
    rfl
  · rw [ctx_modCtx_eq]
    split
    · exact absurd down ‹_›
    · exact congrArg (List.map _) units

/-! #### The commands -/

variable {p : Fin 64} {f : Frame}

/-- A bank with the bytes of a manifest that have come. -/
def Bank.received (m : List Byte) (y : Bank) : Bank := { y with manifest := m }

/-- A bank whose manifest is verified. -/
def Bank.proved (y : Bank) : Bank := { y with verified := true }

/-- The context with a shard no longer being obtained. -/
def Ctx.obtained (x : Ctx) (o : Obtain) : Ctx := { x with obtains := x.obtains.filter fun r => !r.same o }

/-- A frame is a manifest's from the source that its obtain stands at. -/
def Ctx.AwaitsManifest (x : Ctx) (q : Scroll) (v : Word) (f : Frame) (o : Obtain) : Prop :=
  x.obtains.find? (fun (r : Obtain) => r.version == v && r.tensor == manifestTensor && q.manifestFrom r == some f.source) = some o

/-- The context with its manifest verified, and no longer being obtained. -/
def Ctx.manifestProved (x : Ctx) (b : Fin 2) (o : Obtain) (m : List Byte) : Ctx :=
  ((x.modBank b (·.received m)).obtained o).modBank b Bank.proved

theorem manifestProved_bank (x : Ctx) (b : Fin 2) (o : Obtain) (m : List Byte) :
    (x.manifestProved b o m).banks[b] = (x.banks[b].received m).proved :=
  (modBank_bank_eq ..).trans (congrArg Bank.proved (modBank_bank_eq ..))

theorem manifestProved_other (x : Ctx) {b e : Fin 2} (o : Obtain) (m : List Byte) (h : e ≠ b) :
    (x.manifestProved b o m).banks[e] = x.banks[e] := (modBank_bank_ne _ _ h).trans (modBank_bank_ne _ _ h)

theorem manifestProved_gen (x : Ctx) (b : Fin 2) (o : Obtain) (m : List Byte) : (x.manifestProved b o m).gen = x.gen := rfl

theorem manifestProved_late (x : Ctx) (b : Fin 2) (o : Obtain) (m : List Byte) : (x.manifestProved b o m).late = x.late := rfl

theorem manifestProved_obtains {o : Obtain} {m : List Byte} (h : x.obtains = [o]) : (x.manifestProved b o m).obtains = [] := by
  change x.obtains.filter (fun r => !r.same o) = []
  simp [h, Obtain.same]

theorem manifestProved_setObtain {o : Obtain} {m : List Byte} (h : x.obtains = [o]) (n : Obtain) :
    (x.manifestProved b o m).setObtain n =
      { x.modBank b (fun y => { y with manifest := m, verified := true }) with obtains := [n] } := by
  have twice := congrArg Ctx.banks (modBank_modBank x b (·.received m) Bank.proved)
  have banks : (x.manifestProved b o m).banks = (x.modBank b fun y => { y with manifest := m, verified := true }).banks := twice
  rw [Ctx.setObtain, manifestProved_obtains h, banks]
  rfl

/-- What a manifest in order leaves. -/
def State.manifestTaken (s : State) (c : Fin 8) (q : Scroll) (v : Word) (b : Fin 2) (o : Obtain) (m : List Byte) (last : Bool) : State :=
  let t := s.modCtx c (·.modBank b (·.received m))
  if last then
    if sha3_512 m = (s.ctx c).banks[b].digest ∧ manifestOk q v m = true then
      (s.modCtx c (·.manifestProved b o m)).builds c q
    else ((t.modCtx c (·.obtained o)).versionBad c b 2).bankFreed c
  else t

/-- Bytes of a manifest in order, not its first. -/
theorem manifestData_completes {o : Obtain} (h : Arrives s p 0x15 f) (hc : f.context.toNat = c.1)
    (hv : BitVec.ofNat 32 (leAt f.payload 0 4) = v) (hq : s.scroll? c = some q) (hb : (s.ctx c).bankOf v = some b)
    (mine : (s.ctx c).AwaitsManifest q v f o) (building : (s.ctx c).banks[b].state = .building)
    (unverified : (s.ctx c).banks[b].verified = false) (inOrder : f.offset.toNat = (s.ctx c).banks[b].manifest.length)
    (later : 0 < (s.ctx c).banks[b].manifest.length) : Completes s (.manifestData p f)
      (· = (s.accepts p f).manifestTaken c q v b o ((s.ctx c).banks[b].manifest ++ f.payload.drop 4) f.isEnd) := by
  let m := (s.ctx c).banks[b].manifest ++ f.payload.drop 4
  have notFirst : ((s.ctx c).banks[b].manifest.length == 0) = false := beq_false_of_ne (by omega)
  have scroll : (s.accepts p f).scroll? c = some q := by rw [State.scroll?, accepts_ctx]; exact hq
  have received : ((s.accepts p f).modCtx c fun x => x.modBank b fun y => { y with
      manifest := m, digest := (s.ctx c).banks[b].digest }) = (s.accepts p f).modCtx c (·.modBank b (·.received m)) := by
    rw [State.modCtx, accepts_ctx, State.modCtx, accepts_ctx]
    exact congrArg _ (modBank_congr rfl)
  unfold Ctx.AwaitsManifest at mine
  refine frame_completes rfl h ?_
  simp only [hc, finOf_val, accepts_ctx, hv, scroll, hb, mine, building, unverified, inOrder, notFirst, ne_eq, not_true_eq_false,
    Bool.false_eq_true, or_self, if_false, Bool.and_false]
  rw [received]
  unfold State.manifestTaken
  simp only [accepts_ctx, Bool.and_eq_true, beq_iff_eq]
  cases f.isEnd
  · rfl
  · simp only [Bool.not_true, Bool.false_eq_true, if_false, if_true]
    refine if_congr Iff.rfl (congrArg (State.builds · c q) ?_) rfl
    rw [modCtx_modCtx, modCtx_modCtx]
    rfl

/-- Work on a bank of the context that keeps what pins it. -/
theorem modCtx_banked {t : State} {g : Ctx → Ctx} (ctxs : ∀ d, t.ctx d = s.ctx d)
    (pins : (g (s.ctx c)).banks[b].pins = (s.ctx c).banks[b].pins)
    (others : ∀ e : Fin 2, e ≠ b → (g (s.ctx c)).banks[e] = (s.ctx c).banks[e])
    (current : (g (s.ctx c)).current = (s.ctx c).current) (pending : (g (s.ctx c)).pending = (s.ctx c).pending) :
    s.Banked (t.modCtx c g) c b where
  pins := by rw [ctx_modCtx_eq, ctxs, pins]
  others e he := by rw [ctx_modCtx_eq, ctxs, others e he]
  current := by rw [ctx_modCtx_eq, ctxs, current]
  pending := by rw [ctx_modCtx_eq, ctxs, pending]
  elsewhere d hd := by rw [ctx_modCtx_ne _ _ hd, ctxs]

section
variable {o : Obtain} {m : List Byte}

/-- The last bytes make a manifest that does not agree. -/
theorem manifestTaken_wrong {t : State} (ctxs : ∀ d, t.ctx d = s.ctx d) (hp : (s.ctx c).pending = none)
    (others : ∀ e : Fin 2, e ≠ b → (s.ctx c).banks[e].state ≠ .retiring ∧ (s.ctx c).banks[e].state ≠ .bad)
    (wrong : ¬(sha3_512 m = (s.ctx c).banks[b].digest ∧ manifestOk q v m = true)) :
    s.Spoiled (t.manifestTaken c q v b o m true) c b 2 := by
  have mine : (((s.ctx c).modBank b (·.received m)).obtained o).banks[b] = (s.ctx c).banks[b].received m := modBank_bank_eq ..
  rw [State.manifestTaken, if_pos rfl, ctxs, if_neg wrong, modCtx_modCtx]
  exact versionBad_spoils (modCtx_banked ctxs (by rw [mine]; rfl)
    (fun _ => modBank_bank_ne (s.ctx c) (·.received m)) rfl rfl) hp (by decide) others

variable (digest : sha3_512 m = (s.ctx c).banks[b].digest) (ok : manifestOk q v m = true)
  (building : (s.ctx c).banks[b].state = .building) (others : ∀ e : Fin 2, e ≠ b → (s.ctx c).banks[e].state ≠ .building)

include digest ok building others

/-- The last bytes make a manifest that agrees, and nothing is missing. -/
theorem manifestTaken_full {t : State} (ctxs : ∀ d, t.ctx d = s.ctx d) (full : (s.ctx c).banks[b].missing q = none) :
    s.Readied (t.manifestTaken c q v b o m true) c b ((s.ctx c).banks[b].received m).proved := by
  have here : (t.modCtx c (·.manifestProved b o m)).ctx c = (s.ctx c).manifestProved b o m := by rw [ctx_modCtx_eq, ctxs]
  rw [State.manifestTaken, if_pos rfl, ctxs, if_pos ⟨digest, ok⟩]
  refine builds_readied (by rw [here, manifestProved_bank]) (fun e he => ?_) building rfl full others
  rw [here, manifestProved_other _ _ _ he]

/-- The last bytes make a manifest that agrees, and a shard is missing. -/
theorem manifestTaken_asks {shard : Nat} (hv : (s.ctx c).banks[b].version = v)
    (missing : (s.ctx c).banks[b].missing q = some (l, shard)) (idle : (s.ctx c).obtains = [o]) (late : (s.ctx c).late = [])
    (he : (q.sources l.srclist).1[0]? = some (role, engine)) (hr : role ≠ 0) :
    let n : Obtain := { version := v, tensor := l.tensor, shard := shard }
    s.manifestTaken c q v b o m true = (s.requestShard c l n engine).modCtx c fun x => (x.manifestProved b o m).setObtain n := by
  intro n
  have here : (s.modCtx c (·.manifestProved b o m)).ctx c = (s.ctx c).manifestProved b o m := ctx_modCtx_eq ..
  have bank := manifestProved_bank (s.ctx c) b o m
  have asked := builds_asks (s := s.modCtx c (·.manifestProved b o m)) (c := c) (b := b) (q := q) (v := v) (l := l)
    (shard := shard) (role := role) (engine := engine) (by rw [here, bank]; exact building) (by rw [here, bank]; rfl)
    (by rw [here, bank]; exact missing) (by rw [here, bank]; exact hv)
    (fun e ne => by rw [here, manifestProved_other _ _ _ ne]; exact others e ne) (by rw [here]; exact manifestProved_obtains idle)
    (by rw [here, manifestProved_late]; exact late) he hr
  rw [State.manifestTaken, if_pos rfl, if_pos ⟨digest, ok⟩, asked,
    requestShard_modCtx (manifestProved_gen ..), modCtx_modCtx]

end

/-- A bank whose copy of a shard has had its digest check. -/
def Bank.digested (k : Nat) (y : Bank) : Bank := { y with toCheck := y.toCheck.erase k, checked := y.checked.add k }

theorem digestCheck_completes {tensor shard : Nat} {bs : List Byte} (ha : Alive s) (hq : s.scroll? c = some q)
    (hb : (s.ctx c).bankOf v = some b) (waits : (s.ctx c).banks[b].toCheck.get? (shardKey tensor shard) = some bs) :
    Completes s (.shardDigestCheck c v tensor shard)
      (· = if sha3_512 bs = manifestSha (s.ctx c).banks[b].manifest (q.manifestIndex tensor shard) then
          s.modCtx c (·.modBank b (·.digested (shardKey tensor shard)))
        else ((s.modCtx c (·.modBank b (·.digested (shardKey tensor shard)))).versionBad c b 3).bankFreed c) := by
  refine act_completes (by rw [exec, execShardDigestCheck]) ha ?_
  simp only [hq, hb, waits, beq_iff_eq]
  rfl

/-- The last bytes of the last copy that a version needs. -/
theorem shardData_readies {o : Obtain} {bs : List Byte} (h : Arrives s p 0x11 f) (hc : f.context.toNat = c.1) (mine : s.Awaits f c o)
    (hat : s.obtainAt c o = some (q, l, b)) (he : (q.sources l.srclist).1[o.idx]? = some (role, f.source)) (hr : role ≠ 0)
    (inOrder : (shardFields f).2.2 = o.bytes.length) (last : f.isEnd = true) (hbs : bs = o.bytes ++ f.payload.drop 8)
    (store : l.stream = false) (down : (q.sources l.srclist).2 = 0xFFFF) (units : (s.ctx c).units = [])
    (len : bs.length = manifestLen (s.ctx c).banks[b].manifest (q.manifestIndex o.tensor o.shard))
    (crc : (crc64 bs).toNat = manifestCrc (s.ctx c).banks[b].manifest (q.manifestIndex o.tensor o.shard))
    (building : (s.ctx c).banks[b].state = .building) (verified : (s.ctx c).banks[b].verified = true)
    (unchecked : (s.ctx c).banks[b].checked.has (shardKey o.tensor o.shard) = false) (fresh : (s.ctx c).banks[b].toCheck = [])
    (full : ((s.ctx c).banks[b].taken (shardKey o.tensor o.shard) bs).missing q = none)
    (others : ∀ e : Fin 2, e ≠ b → (s.ctx c).banks[e].state ≠ .building) : ∃ u, Completes s (.shardData p f) (· = u) ∧
      s.Readied u c b ((s.ctx c).banks[b].taken (shardKey o.tensor o.shard) bs) := by
  have ctxs : (s.accepts p f).ctx c = s.ctx c := accepts_ctx ..
  have done := shardData_completes h hc mine hat he hr inOrder
  have banks := useCopy_banks (s := s.accepts p f) (c := c) (q := q) (l := l) (b := b) (o := o) (bs := bs) down
    (by rw [ctxs]; exact units) store (by rw [ctxs]; exact unchecked) (by rw [ctxs]; exact fresh)
  rw [if_pos last, State.copyArrived, accepts_obtainAt, hat, ← hbs] at done
  dsimp only at done
  rw [ctxs, if_pos ⟨len, crc⟩] at done
  rw [ctxs] at banks
  refine ⟨_, done, builds_readied ?_ (fun e ne => ?_) building verified full others⟩
  · rw [banks, vget_vmod_eq]
  · rw [banks, vget_vmod_ne _ _ ne]

/-- Settles O24: what a manifest in order leaves (`manifestTaken_wrong`, `manifestTaken_full`, `manifestTaken_asks`), a copy that is
stored (`shardData_readies`) and a digest check. -/
theorem versionsBuild : Obligations.VersionsBuild := by
  intro s c q v b x y hq hb hp others bad ready
  have still (e : Fin 2) (he : e ≠ b) : x.banks[e].state ≠ .building := (others e he).1
  have whole (e : Fin 2) (he : e ≠ b) : x.banks[e].state ≠ .retiring ∧ x.banks[e].state ≠ .bad := (others e he).2
  have isBad {cmd : Instr} {bit : Nat} {u : State} (done : Completes s cmd (· = u)) (spoiled : s.Spoiled u c b bit) : bad cmd bit :=
    done.of_eq ⟨spoiled.unpinned, spoiled.pinned, spoiled.others, spoiled.cause, spoiled.elsewhere⟩
  have isReady {cmd : Instr} {y' : Bank} {u : State} (done : Completes s cmd (· = u)) (readied : s.Readied u c b y') : ready cmd y' :=
    done.of_eq ⟨readied.bank, readied.others, readied.cause⟩
  refine ⟨fun p f o hc ha hfv mine building unverified inOrder later => ?_, ?_, fun tensor shard bs ha waits => ?_⟩
  · intro m
    have ctxs (d : Fin 8) : (s.accepts p f).ctx d = s.ctx d := accepts_ctx ..
    have done : Completes s (.manifestData p f) (· = (s.accepts p f).manifestTaken c q v b o m f.isEnd) :=
      manifestData_completes ha hc hfv hq hb mine building unverified inOrder later
    refine ⟨fun more => ?_, fun last wrong => ?_, fun last digest ok stored => ?_,
      fun l sh role engine last digest ok missing he hr one late => ?_⟩
    · rw [more] at done
      refine done.of_eq ⟨rfl, ?_⟩
      change ((s.accepts p f).modCtx c (·.modBank b (·.received m))).ctx c = _
      rw [ctx_modCtx_eq, ctxs]
      rfl
    · rw [last] at done
      exact isBad done (manifestTaken_wrong ctxs hp whole wrong)
    · rw [last] at done
      exact isReady done (manifestTaken_full digest ok building still ctxs (missing_none stored))
    · have here := ctxs c
      have asked := manifestTaken_asks (s := s.accepts p f) (c := c) (q := q) (b := b) (v := v) (o := o) (m := m) (l := l)
        (shard := sh) (role := role) (engine := engine) (by rw [here]; exact digest) ok (by rw [here]; exact building)
        (by rw [here]; exact still) (by rw [here]; exact (bankOf_spec hb).2) (by rw [here]; exact missing)
        (by rw [here]; exact one) (by rw [here]; exact late) he hr
      rw [last, asked] at done
      refine done.of_eq ⟨rfl, fun d hd => ?_, ?_⟩
      · rw [ctx_modCtx_ne _ _ hd, requestShard_ctx, ctxs]
      · rw [ctx_modCtx_eq, requestShard_ctx, ctxs]
        exact manifestProved_setObtain one _
  · intro p f o l bs hc ha one hov wait tensor hfv shard inOrder last hl ⟨role, hr, he⟩ hbs store down units len crc building verified
      unchecked fresh stored full
    have awaits : s.Awaits f c o := by
      rw [State.Awaits, one, hfv, shard]
      simp [hov, wait, tensor]
    obtain ⟨u, done, readied⟩ := shardData_readies (s := s) (c := c) (q := q) (l := l) (b := b) (o := o) (role := role) ha hc
      awaits (obtainAt_eq hq hl (by rw [hov]; exact hb)) he hr inOrder last hbs store down
      units len crc building verified unchecked fresh (missing_none full) still
    exact isReady done readied
  · have done := digestCheck_completes ha hq hb waits
    refine ⟨fun ok => ?_, fun wrong => ?_⟩
    · rw [if_pos ok] at done
      exact done
    · rw [if_neg wrong] at done
      refine isBad done (versionBad_spoils ?_ hp (by decide) whole)
      exact modCtx_banked (fun _ => rfl) (by rw [modBank_bank_eq]; rfl) (fun _ => modBank_bank_ne _ _) rfl rfl

end Sys2Proof.Machine

/-! ### Commands of a context's ring (R327, R332, R335) -/

namespace Sys2Proof.Machine

variable {s t u : State} {c : Fin 8} {r : Fin 9} {e : RawEntry} {h : EntryHead}

/-! #### Parameters of an entry (R327) -/

/-- The parameter area of an entry stands in its bytes. -/
theorem entry_bytes (h : EntryHead) (op : Nat) (ps host : List Byte) (hp : ps.length ≤ 80) : ∃ head tail, head.length = 16 ∧
    (h.entry op ps host).bytes = head ++ ps ++ tail := by
  have padded : slice ps 0 80 = ps ++ List.replicate (80 - ps.length) 0 := by
    rw [slice, List.drop_zero, List.take_of_length_le hp]
  refine ⟨[BitVec.ofNat 8 op, h.flags, 0, 0] ++ leBytes 4 h.cookie.toNat ++ leBytes 8 h.counter.toNat,
    List.replicate (80 - ps.length) 0 ++ slice h.tag 0 32, by simp, ?_⟩
  rw [EntryHead.entry, padded]
  simp only [List.append_assoc]

/-- An integer parameter reads back. -/
theorem entry_par (h : EntryHead) (op : Nat) (host pre post : List Byte) (n v : Nat) (hp : (pre ++ leBytes n v ++ post).length ≤ 80) :
    (h.entry op (pre ++ leBytes n v ++ post) host).par pre.length n = v % 256 ^ n := by
  obtain ⟨head, tail, len, bytes⟩ := entry_bytes h op _ host hp
  have := leAt_append (head ++ pre) (post ++ tail) n v
  rw [List.length_append, len] at this
  rw [RawEntry.par, bytes, ← this]
  simp only [List.append_assoc]

/-- A byte string among the parameters reads back. -/
theorem entry_parBytes_eq (h : EntryHead) (op : Nat) (host pre m post : List Byte) (hp : (pre ++ m ++ post).length ≤ 80) :
    (h.entry op (pre ++ m ++ post) host).parBytes pre.length m.length = m := by
  obtain ⟨head, tail, len, bytes⟩ := entry_bytes h op _ host hp
  have := slice_append (head ++ pre) m (post ++ tail)
  rw [List.length_append, len] at this
  rw [RawEntry.parBytes, bytes]
  simpa only [List.append_assoc] using this

/-- A byte parameter reads back. -/
theorem entry_parByte (h : EntryHead) (op : Nat) (host pre post : List Byte) (b : Byte) (hp : (pre ++ [b] ++ post).length ≤ 80) :
    (h.entry op (pre ++ [b] ++ post) host).par pre.length 1 = b.toNat := by
  have byte : leBytes 1 b.toNat = [b] := by simp [leBytes]
  have := entry_par h op host pre post 1 b.toNat (by rwa [byte])
  rw [byte] at this
  rw [this, pow_one]
  exact Nat.mod_eq_of_lt b.isLt

/-! #### A command that starts (R332) -/

/-- Every command consumed has started. -/
def State.AllBegun (s : State) : Prop := ∀ r : Fin 9, (s.rings[r]).cmds.all Cmd.begun = true

theorem began_rings (s : State) (r : Fin 9) (e : RawEntry) : (s.began r e).rings[r] = { s.rings[r] with
    head := (s.rings[r]).head + 1
    counter := if opCritical e.opcode then BitVec.ofNat 64 e.counter else (s.rings[r]).counter
    cmds := (s.rings[r]).cmds ++ [s.startedCmd r e] } := by
  rw [State.began, State.took, modRing_modRing, modRing_rings_eq]

theorem began_allBegun (ht : Taken s r e) : (s.began r e).AllBegun := by
  intro o
  by_cases ho : o = r
  · subst ho
    rw [began_rings, List.all_append, ht.2.1.1 o]
    rfl
  · rw [State.began, State.took, modRing_modRing, modRing_rings_ne _ _ ho]
    exact ht.2.1.1 o

theorem State.AllBegun.of_sublist (ha : t.AllBegun) (hc : ∀ o : Fin 9, (u.rings[o]).cmds.Sublist (t.rings[o]).cmds) : u.AllBegun :=
  fun o => List.all_eq_true.mpr fun k hk => List.all_eq_true.mp (ha o) k ((hc o).subset hk)

theorem State.AllBegun.of_rings (ha : t.AllBegun) (hr : u.rings = t.rings) : u.AllBegun := fun o => by rw [hr]; exact ha o

theorem State.AllBegun.finish (ha : t.AllBegun) (r : Fin 9) (k : Cmd) (status detail : Nat) : (t.finish r k status detail).AllBegun :=
  ha.of_sublist (finish_recorded ..).cmds

/-- An entry that is taken leaves what its command does, where nothing more may start. -/
theorem taken_completes {i : Instr} {ok : Bool} {P : State → Prop} (hx : exec i s = actIf ok (fun s => (s.consume r e).serve) s)
    (hok : ok = true) (ht : Taken s r e) (hd : (s.began r e).dispatch r (s.startedCmd r e) = u) (ha : u.AllBegun) (hp : P u) :
    Completes s i P := by
  obtain ⟨n, served⟩ := serve_consume ht
  refine actIf_completes hx hok ht.1 ?_
  rw [served, hd, serveRings_begun n ha]
  exact hp

theorem startedCmd_fresh (ht : Taken s r e) : s.startedCmd r e ∉ (s.rings[r]).cmds := by
  obtain ⟨-, -, -, -, -, -, -, others, -⟩ := ht
  exact fun mem => others _ mem rfl

/-- The command leaves its ring as the entry found it. -/
theorem began_erase (ht : Taken s r e) :
    (s.began r e).modRing r (fun x => { x with cmds := x.cmds.erase (s.startedCmd r e) }) = s.took r e := by
  have fresh := startedCmd_fresh ht
  have left : ((s.rings[r]).cmds ++ [s.startedCmd r e]).erase (s.startedCmd r e) = (s.rings[r]).cmds := by
    rw [List.erase_append_right _ fresh, List.erase_cons_head, List.append_nil]
  rw [State.began, modRing_modRing, State.took, modRing_modRing]
  exact modRing_congr s r (by rw [left])

/-- A command that completes at once. -/
theorem finish_began (ht : Taken s r e) (hr : t.rings = (s.began r e).rings) (status detail : Nat) :
    t.finish r (s.startedCmd r e) status detail = ({ t with rings := (s.took r e).rings } : State).record r e status detail := by
  have erased := congrArg State.rings (began_erase ht)
  refine congrArg (State.record · r e status detail) ?_
  rw [State.modRing, hr]
  exact congrArg (fun rs => ({ t with rings := rs } : State)) erased

theorem ringOf_ne_8 (c : Fin 8) : ringOf c ≠ 8 := fun h => absurd (congrArg Fin.val h) (Nat.ne_of_lt c.isLt)

theorem ctxOfRing_ringOf (c : Fin 8) : ctxOfRing (ringOf c) = c := finOf_val ..

/-- A command of a context's ring that REST does not complete. -/
theorem dispatch_ctx (ht : Taken s (ringOf c) e) (hs : opInRest e.opcode = false) :
    (s.began (ringOf c) e).dispatch (ringOf c) (s.startedCmd (ringOf c) e) =
      (s.began (ringOf c) e).dispatchCtx c (s.startedCmd (ringOf c) e) := by
  obtain ⟨-, -, -, -, -, power, -⟩ := ht
  have active : (s.began (ringOf c) e).power = .active := power.resolve_right fun h => Bool.false_ne_true (hs.symm.trans h)
  have opcode : (s.startedCmd (ringOf c) e).entry.opcode = e.opcode := rfl
  have notRead : e.opcode ≠ 0x19 := fun h => by rw [h] at hs; exact absurd hs (by decide)
  have notKey : e.opcode ≠ 0x1A := fun h => by rw [h] at hs; exact absurd hs (by decide)
  simp only [State.dispatch, active, opcode, notRead, notKey, ringOf_ne_8, ctxOfRing_ringOf, ne_eq, not_true_eq_false, false_and,
    if_false]

section
variable {k : Cmd} {q : Scroll}

/-- A command that the context's state does not allow (R335). -/
theorem dispatchCtx_refused (hk : k.entry.opcode ≠ 0x18) (hs : (s.ctx c).state ∉ opStates k.entry.opcode) :
    s.dispatchCtx c k = s.finish (ringOf c) k Status.state := by
  simp [State.dispatchCtx, hk, hs]

theorem dispatchCtx_load (hk : k.entry.opcode = 0x10) (hs : (s.ctx c).state ∈ opStates 0x10) :
    s.dispatchCtx c k = s.startLoad c k := by
  simp [State.dispatchCtx, hk, hs]

variable (hs : (s.ctx c).state = .loaded ∨ (s.ctx c).state = .running ∨ (s.ctx c).state = .held) (hq : s.scroll? c = some q)
include hs hq

theorem dispatchCtx_switch (hk : k.entry.opcode = 0x15) : s.dispatchCtx c k = s.startSwitch c q k := by
  have admitted : (s.ctx c).state ∈ opStates 0x15 := by simpa [opStates] using hs
  simp [State.dispatchCtx, hk, admitted, hq]

theorem dispatchCtx_capo (hk : k.entry.opcode = 0x16) : s.dispatchCtx c k = s.startCapo c q k := by
  have admitted : (s.ctx c).state ∈ opStates 0x16 := by simpa [opStates] using hs
  simp [State.dispatchCtx, hk, admitted, hq]

theorem dispatchCtx_restore (hk : k.entry.opcode = 0x17) : s.dispatchCtx c k = s.startRestore c q k := by
  have admitted : (s.ctx c).state ∈ opStates 0x17 := by simpa [opStates] using hs
  simp [State.dispatchCtx, hk, admitted, hq]

end

/-! #### A command's end (R328) -/

/-- Of a ring's commands the entry's alone satisfies the predicate. -/
theorem finishAll_began {p : Cmd → Bool} (hr : t.rings = (s.began r e).rings) (mine : p (s.startedCmd r e) = true)
    (others : ∀ j ∈ (s.rings[r]).cmds, p j = false) (status detail : Nat) :
    t.finishAll r p status detail = t.finish r (s.startedCmd r e) status detail := by
  have found : ((s.began r e).rings[r]).cmds.filter p = [s.startedCmd r e] := by
    rw [began_rings, List.filter_append, List.filter_eq_nil_iff.mpr fun j hj => by rw [others j hj]; decide]
    simp [mine]
  rw [State.finishAll, hr, found]
  rfl

theorem finishOp_began {op : Nat} (ht : Taken s (ringOf c) e) (hr : t.rings = (s.began (ringOf c) e).rings) (hop : e.opcode = op)
    (status detail : Nat) : t.finishOp c op status detail = t.finish (ringOf c) (s.startedCmd (ringOf c) e) status detail := by
  obtain ⟨-, -, -, -, -, -, -, others, -⟩ := ht
  refine finishAll_began hr ?_ (fun j hj => ?_) status detail
  · rw [Cmd.isOp, show (s.startedCmd (ringOf c) e).entry.opcode = op from hop, beq_self_eq_true]
    rfl
  · rw [Cmd.isOp, beq_false_of_ne (hop ▸ others j hj), Bool.false_and]

section
variable {i : Instr} {ok : Bool} (hx : exec i s = actIf ok (fun s => (s.consume (ringOf c) e).serve) s) (hok : ok = true)
  (ht : Taken s (ringOf c) e) (hs : opInRest e.opcode = false)
include hx hok ht hs

theorem ctxCommand_completes {P : State → Prop}
    (hd : (s.began (ringOf c) e).dispatchCtx c (s.startedCmd (ringOf c) e) = u) (ha : u.AllBegun) (hp : P u) : Completes s i P :=
  taken_completes hx hok ht ((dispatch_ctx ht hs).trans hd) ha hp

/-- A command of a context's ring that goes on. -/
theorem ctxCommand_begins (hd : (s.began (ringOf c) e).dispatchCtx c (s.startedCmd (ringOf c) e) = u)
    (hr : u.rings = (s.began (ringOf c) e).rings) : Completes s i (· = u) :=
  ctxCommand_completes hx hok ht hs hd ((began_allBegun ht).of_rings hr) rfl

/-- A command of a context's ring that completes as it starts. -/
theorem ctxCommand_ends {t' : State} {status detail : Nat} (hd : (s.began (ringOf c) e).dispatchCtx c (s.startedCmd (ringOf c) e) =
      t.finish (ringOf c) (s.startedCmd (ringOf c) e) status detail)
    (hr : t.rings = (s.began (ringOf c) e).rings) (left : ({ t with rings := (s.took (ringOf c) e).rings } : State) = t') :
    Completes s i (· = t'.record (ringOf c) e status detail) := by
  refine ctxCommand_completes hx hok ht hs hd (((began_allBegun ht).of_rings hr).finish _ _ _ _) ?_
  rw [finish_began ht hr, left]

end

/-! ### LOAD_SCROLL (R345, R366, R367) -/

/-- What LOAD_SCROLL does in a context that is CREATED or LOADED. -/
theorem startLoad_start {k : Cmd} (h : (s.ctx c).state = .created ∨ (s.ctx c).state = .loaded) : s.startLoad c k = s.loadStart c k := by
  have idle : ¬((s.ctx c).state = .running ∨ (s.ctx c).state = .held) := by rcases h with h | h <;> simp [h]
  simp only [State.startLoad, idle, false_and, if_false]

section
variable {k : Cmd} {slot : Nat} (hslot : k.entry.par 0 1 = slot)
include hslot

theorem badSlot_iff : s.badSlot k = true ↔ 31 < slot ∨ (s.windows[finOf 32 slot]).kind ≠ 1 := by
  simp only [State.badSlot, hslot, Bool.or_eq_true, decide_eq_true_eq, bne_iff_ne]

theorem loadStart_badSlot (h : 31 < slot ∨ (s.windows[finOf 32 slot]).kind ≠ 1) :
    s.loadStart c k = s.finish (ringOf c) k Status.badParam (failDetail (10, 0, 0)) := by
  simp only [State.loadStart, (badSlot_iff hslot).mpr h, if_true]

variable {len : Nat} (hlen : k.entry.par 8 8 = len) (h1 : slot ≤ 31) (h2 : (s.windows[finOf 32 slot]).kind = 1)
include hlen h1 h2

theorem loadStart_fails {f : Nat × Nat × Nat} (hf : leastFail (s.scrollFails c (stagedScroll s.windows[finOf 32 slot] len)) = some f) :
    s.loadStart c k = s.finish (ringOf c) k (failStatus f.1) (failDetail f) := by
  have good : ¬s.badSlot k = true := by rw [badSlot_iff hslot]; omega
  simp only [State.loadStart, good, hslot, hlen, hf, Bool.false_eq_true, if_false]

theorem loadStart_begins (hf : leastFail (s.scrollFails c (stagedScroll s.windows[finOf 32 slot] len)) = none) :
    s.loadStart c k = s.modCtx c fun x => { x with load := some { order := 3, scroll := stagedScroll s.windows[finOf 32 slot] len } } := by
  have good : ¬s.badSlot k = true := by rw [badSlot_iff hslot]; omega
  simp only [State.loadStart, good, hslot, hlen, hf, Bool.false_eq_true, if_false]

end

end Sys2Proof.Machine

namespace Sys2Proof.Machine

variable {s t u : State} {c : Fin 8} {r : Fin 9} {e : RawEntry} {h : EntryHead}

/-- Bytes 0 and 8 of a LOAD_SCROLL's parameters (R345). -/
theorem loadScroll_pars (h : EntryHead) (slot : Byte) (length : DWord) :
    (h.entry 0x10 ([slot] ++ leBytes 7 0 ++ leBytes 8 length.toNat) []).par 0 1 = slot.toNat ∧
      (h.entry 0x10 ([slot] ++ leBytes 7 0 ++ leBytes 8 length.toNat) []).par 8 8 = length.toNat := by
  constructor
  · exact entry_parByte h 0x10 [] [] (leBytes 7 0 ++ leBytes 8 length.toNat) slot (by simp)
  · have := entry_par h 0x10 [] ([slot] ++ leBytes 7 0) [] 8 length.toNat (by simp)
    rw [List.append_nil] at this
    exact this.trans (Nat.mod_eq_of_lt length.isLt)

/-- The parameters of a SWITCH_VERSION (R269). -/
theorem switchVersion_pars (h : EntryHead) (version : Word) {digest : List Byte} (hd : digest.length = 64) :
    (h.entry 0x15 (leBytes 4 version.toNat ++ leBytes 4 0 ++ digest) []).par 0 4 = version.toNat ∧
      (h.entry 0x15 (leBytes 4 version.toNat ++ leBytes 4 0 ++ digest) []).parBytes 8 64 = digest := by
  constructor
  · have := entry_par h 0x15 [] [] (leBytes 4 0 ++ digest) 4 version.toNat (by simp [hd])
    exact this.trans (Nat.mod_eq_of_lt version.isLt)
  · have := entry_parBytes_eq h 0x15 [] (leBytes 4 version.toNat ++ leBytes 4 0) digest [] (by simp [hd])
    rwa [List.append_nil, hd] at this

/-- The time of a CAPO (R408). -/
theorem capo_par (h : EntryHead) (time : DWord) : (h.entry 0x16 (leBytes 8 time.toNat) []).par 0 8 = time.toNat := by
  have := entry_par h 0x16 [] [] [] 8 time.toNat (by simp)
  rw [List.nil_append, List.append_nil] at this
  exact this.trans (Nat.mod_eq_of_lt time.isLt)

/-- The parameters of a RESTORE (R420): SOURCE, SLOT and the digest. -/
theorem restore_pars (h : EntryHead) (src : Byte) {rest digest : List Byte} (hr : rest.length = 7) (hd : digest.length = 64) :
    (h.entry 0x17 ([src] ++ rest ++ digest) []).par 0 1 = src.toNat ∧
      (h.entry 0x17 ([src] ++ rest ++ digest) []).parBytes 8 64 = digest := by
  constructor
  · exact entry_parByte h 0x17 [] [] (rest ++ digest) src (by simp [hr, hd])
  · have := entry_parBytes_eq h 0x17 [] ([src] ++ rest) digest [] (by simp [hr, hd])
    rw [List.append_nil, hd] at this
    simpa [hr] using this

/-- The parameters of a KEY_CHANGE (R480). -/
theorem keyChange_par (h : EntryHead) (addr : DWord) (length : Word) (host : List Byte) :
    (h.entry 0x1A (leBytes 8 addr.toNat ++ leBytes 4 length.toNat) host).par 8 4 = length.toNat := by
  have := entry_par h 0x1A host (leBytes 8 addr.toNat) [] 4 length.toNat (by simp)
  rw [List.append_nil, leBytes_length] at this
  exact this.trans (Nat.mod_eq_of_lt length.isLt)

/-! #### What a command that starts finds -/

@[simp] theorem startedCmd_entry (s : State) (r : Fin 9) (e : RawEntry) : (s.startedCmd r e).entry = e := rfl
@[simp] theorem began_ctx (s : State) (r : Fin 9) (e : RawEntry) (d : Fin 8) : (s.began r e).ctx d = s.ctx d := rfl
@[simp] theorem began_scroll (s : State) (r : Fin 9) (e : RawEntry) (d : Fin 8) : (s.began r e).scroll? d = s.scroll? d := rfl
@[simp] theorem began_windows (s : State) (r : Fin 9) (e : RawEntry) : (s.began r e).windows = s.windows := rfl

/-- Only the rings know of the command. -/
theorem began_left (s : State) (r : Fin 9) (e : RawEntry) : ({ s.began r e with rings := (s.took r e).rings } : State) = s.took r e := rfl

/-- A command of a context's ring that completes as it starts, with no effect but its record. -/
theorem ctxCommand_answers {i : Instr} {ok : Bool} {status detail : Nat}
    (hx : exec i s = actIf ok (fun s => (s.consume (ringOf c) e).serve) s) (hok : ok = true) (ht : Taken s (ringOf c) e)
    (hs : opInRest e.opcode = false) (hd : (s.began (ringOf c) e).dispatchCtx c (s.startedCmd (ringOf c) e) =
      (s.began (ringOf c) e).finish (ringOf c) (s.startedCmd (ringOf c) e) status detail) :
    Completes s i (· = (s.took (ringOf c) e).record (ringOf c) e status detail) :=
  ctxCommand_ends hx hok ht hs hd rfl (began_left ..)

/-! #### LOAD_SCROLL -/

theorem loadScroll_starts {k : Cmd} (hop : k.entry.opcode = 0x10) (ready : (s.ctx c).state = .created ∨ (s.ctx c).state = .loaded) :
    s.dispatchCtx c k = s.loadStart c k := by
  have admitted : (s.ctx c).state ∈ opStates 0x10 := by rcases ready with h | h <;> rw [h] <;> decide
  rw [dispatchCtx_load hop admitted, startLoad_start ready]

section
variable {i : Instr} {ok : Bool} (hx : exec i s = actIf ok (fun s => (s.consume (ringOf c) e).serve) s) (hok : ok = true)
  (ht : Taken s (ringOf c) e) (hop : e.opcode = 0x10)
include hx hok ht hop

theorem loadScroll_refused (unready : (s.ctx c).state = .free ∨ (s.ctx c).state = .tearing) :
    Completes s i (· = (s.took (ringOf c) e).record (ringOf c) e 6 0) := by
  refine ctxCommand_answers hx hok ht (by rw [hop]; rfl) (dispatchCtx_refused ?_ ?_)
  · rw [startedCmd_entry, hop]; decide
  · rw [startedCmd_entry, hop, began_ctx]
    rcases unready with h | h <;> rw [h] <;> decide

variable (ready : (s.ctx c).state = .created ∨ (s.ctx c).state = .loaded) {slot : Nat} (hslot : e.par 0 1 = slot)
include ready hslot

theorem loadScroll_badSlot (bad : 31 < slot ∨ (s.windows[finOf 32 slot]).kind ≠ 1) :
    Completes s i (· = (s.took (ringOf c) e).record (ringOf c) e 2 (failDetail (10, 0, 0))) := by
  have starts := loadScroll_starts (s := s.began (ringOf c) e) (k := s.startedCmd (ringOf c) e) hop ready
  rw [loadStart_badSlot (s := s.began (ringOf c) e) (c := c) (slot := slot) hslot bad] at starts
  exact ctxCommand_answers hx hok ht (by rw [hop]; rfl) starts

variable {len : Nat} (hlen : e.par 8 8 = len) (h1 : slot ≤ 31) (h2 : (s.windows[finOf 32 slot]).kind = 1)
include hlen h1 h2

theorem loadScroll_fails {f : Nat × Nat × Nat}
    (hf : leastFail ((s.began (ringOf c) e).scrollFails c (stagedScroll s.windows[finOf 32 slot] len)) = some f) :
    Completes s i (· = (s.took (ringOf c) e).record (ringOf c) e (failStatus f.1) (failDetail f)) := by
  have starts := loadScroll_starts (s := s.began (ringOf c) e) (k := s.startedCmd (ringOf c) e) hop ready
  rw [loadStart_fails (s := s.began (ringOf c) e) (slot := slot) hslot hlen h1 h2 hf] at starts
  exact ctxCommand_answers hx hok ht (by rw [hop]; rfl) starts

theorem loadScroll_begins
    (hf : leastFail ((s.began (ringOf c) e).scrollFails c (stagedScroll s.windows[finOf 32 slot] len)) = none) :
    Completes s i (· = (s.began (ringOf c) e).modCtx c fun x => { x with
      load := some { order := 3, scroll := stagedScroll s.windows[finOf 32 slot] len } }) := by
  have starts := loadScroll_starts (s := s.began (ringOf c) e) (k := s.startedCmd (ringOf c) e) hop ready
  rw [loadStart_begins (s := s.began (ringOf c) e) (slot := slot) hslot hlen h1 h2 hf] at starts
  exact ctxCommand_begins hx hok ht (by rw [hop]; rfl) starts rfl

end

/-! #### KEY_CHANGE (R480, R481) -/

/-- The command enters a phase. -/
theorem began_setPhase (ht : Taken s r e) (ph : CmdPhase) : (s.began r e).setPhase r (s.startedCmd r e) ph =
    (s.took r e).modRing r fun y => { y with cmds := y.cmds ++ [{ s.startedCmd r e with phase := ph }] } := by
  let k := s.startedCmd r e
  have kept : (s.rings[r]).cmds.map (fun j => if j = k then { k with phase := ph } else j) = (s.rings[r]).cmds :=
    (List.map_congr_left fun j hj => if_neg fun same : j = s.startedCmd r e => startedCmd_fresh ht (same ▸ hj)).trans (List.map_id _)
  have moved : ((s.rings[r]).cmds ++ [k]).map (fun j => if j = k then { k with phase := ph } else j) =
      (s.rings[r]).cmds ++ [{ k with phase := ph }] := by
    rw [List.map_append, kept, List.map_singleton, if_pos rfl]
  rw [State.setPhase, State.began, State.took, modRing_modRing, modRing_modRing, modRing_modRing]
  exact modRing_congr s r (congrArg (fun l => ({ s.rings[r] with
    head := (s.rings[r]).head + 1, cmds := l
    counter := if opCritical e.opcode then BitVec.ofNat 64 e.counter else (s.rings[r]).counter } : Ring)) moved)

theorem dispatch_keyChange (hop : e.opcode = 0x1A) :
    (s.began r e).dispatch r (s.startedCmd r e) = (s.began r e).startKeyChange r (s.startedCmd r e) := by
  have rest : opInRest 0x1A = true := rfl
  simp [State.dispatch, hop, rest]

section
variable {i : Instr} {ok : Bool} {blob : List Byte} (hx : exec i s = actIf ok (fun s => (s.consume r e).serve) s) (hok : ok = true)
  (ht : Taken s r e) (hop : e.opcode = 0x1A) (hb : slice e.host 0 (e.par 8 4) = blob)
include hx hok ht hop hb

theorem keyChange_fails (bad : s.blobCause r blob ≠ 0) : Completes s i (· = (({ s.took r e with
    sec := { s.sec with lastCause := s.blobCause r blob } } : State).cause Reg.secCause 3).record r e 8 (s.blobCause r blob)) := by
  have same : (s.began r e).blobCause r blob = s.blobCause r blob := rfl
  have rejects : (s.began r e).startKeyChange r (s.startedCmd r e) =
      ((s.began r e).blobReject (s.blobCause r blob)).finish r (s.startedCmd r e) Status.verify (s.blobCause r blob) := by
    simp only [State.startKeyChange, startedCmd_entry, hb, same, bad, ne_eq, not_false_eq_true, if_true]
  have rings : ((s.began r e).blobReject (s.blobCause r blob)).rings = (s.began r e).rings := rfl
  refine taken_completes hx hok ht ((dispatch_keyChange hop).trans rejects)
    (((began_allBegun ht).of_rings rings).finish _ _ _ _) ?_
  rw [finish_began ht rings]
  rfl

theorem keyChange_waits (good : s.blobCause r blob = 0) : Completes s i (· = ({ s.took r e with sec := { s.sec with
      keyWait := s.sec.keyWait ++ [(r, BitVec.ofNat 64 (leAt blob 16 8), s.unwrap blob, none)] } } : State).modRing r fun y => { y with
        cmds := y.cmds ++ [{ s.startedCmd r e with phase := .keySerial }] }) := by
  have same : (s.began r e).blobCause r blob = s.blobCause r blob := rfl
  have accepts : (s.began r e).startKeyChange r (s.startedCmd r e) =
      ((s.began r e).setPhase r (s.startedCmd r e) .keySerial).blobAccept r blob none := by
    simp only [State.startKeyChange, startedCmd_entry, hb, same, good, ne_eq, not_true_eq_false, if_false]
  have waits : ((s.began r e).setPhase r (s.startedCmd r e) .keySerial).AllBegun := by
    intro o
    rw [began_setPhase ht, State.took, modRing_modRing]
    by_cases ho : o = r
    · subst ho
      rw [modRing_rings_eq, List.all_append, ht.2.1.1 o]
      rfl
    · rw [modRing_rings_ne _ _ ho]
      exact ht.2.1.1 o
  refine taken_completes hx hok ht ((dispatch_keyChange hop).trans accepts) (waits.of_rings rfl) ?_
  rw [began_setPhase ht]
  rfl

end

/-! #### RESTORE from another engine (R420) -/

section
variable {k : Cmd} {q : Scroll} {source : Fin 3} {digest : List Byte} (hop : k.entry.opcode = 0x17)
  (loaded : (s.ctx c).state = .loaded) (hq : s.scroll? c = some q) (hsrc : k.entry.par 0 1 = source.1)
include hop loaded hq hsrc

theorem restore_starts (hd : k.entry.parBytes 8 64 = digest) (slot : source = 2 → k.entry.par 1 1 ≤ 1) :
    s.dispatchCtx c k = s.restoreStart c q source digest := by
  have good : ¬(2 < source.1 ∨ (source.1 = 2 ∧ 1 < k.entry.par 1 1)) := by
    rintro (h | ⟨h2, h1⟩)
    · omega
    · exact absurd (slot (Fin.ext h2)) (Nat.not_le.mpr h1)
  rw [dispatchCtx_restore (.inl loaded) hq hop]
  simp only [State.startRestore, hsrc, hd, good, loaded, finOf_val, if_false, if_true]

theorem restore_badSlot (durable : source = 2) (slot : 1 < k.entry.par 1 1) :
    s.dispatchCtx c k = s.finish (ringOf c) k Status.badParam := by
  have two : source.1 = 2 := congrArg Fin.val durable
  rw [dispatchCtx_restore (.inl loaded) hq hop]
  simp only [State.startRestore, hsrc, two, slot, and_self, or_true, if_true]

end

/-- The context asks for the manifest that a RESTORE needs. -/
def State.asksManifest (s : State) (c : Fin 8) (source : Fin 3) (engine : Half) (digest : List Byte) : State :=
  (s.modCtx c fun x => { x with ckpt := { x.ckpt with restore := some { source := source, digest := digest } } }).ckptFetch c engine
    (2 ^ 47) digest

theorem ckptFetch_credited (s : State) (c : Fin 8) (dest : Half) (offset : Nat) (digest : List Byte) :
    Credited s (s.ckptFetch c dest offset digest) := enqueue_credited ..

theorem asksManifest_rings (s : State) (c : Fin 8) (source : Fin 3) (engine : Half) (digest : List Byte) :
    (s.asksManifest c source engine digest).rings = s.rings := by
  rw [State.asksManifest, ckptFetch_credited]
  rfl

section
variable {i : Instr} {ok : Bool} {q : Scroll} {digest : List Byte} {source : Fin 3}
  (hx : exec i s = actIf ok (fun s => (s.consume (ringOf c) e).serve) s) (hok : ok = true) (ht : Taken s (ringOf c) e)
  (hop : e.opcode = 0x17) (loaded : (s.ctx c).state = .loaded) (hq : s.scroll? c = some q) (hsrc : e.par 0 1 = source.1)
include hx hok ht hop loaded hq hsrc

theorem restore_refusesSlot (durable : source = 2) (slot : 1 < e.par 1 1) :
    Completes s i (· = (s.took (ringOf c) e).record (ringOf c) e 2 0) :=
  ctxCommand_answers hx hok ht (by rw [hop]; rfl)
    (restore_badSlot (s := s.began (ringOf c) e) (k := s.startedCmd (ringOf c) e) hop loaded hq hsrc durable slot)

variable (hd : e.parBytes 8 64 = digest) (remote : source ≠ 0) (slot : source = 2 → e.par 1 1 ≤ 1)
include hd remote slot

theorem restore_refuses (ck : (q.sec? 0x10).isNone = true) :
    Completes s i (· = (s.took (ringOf c) e).record (ringOf c) e 6 0) := by
  have starts := restore_starts (s := s.began (ringOf c) e) (k := s.startedCmd (ringOf c) e) hop loaded hq hsrc hd slot
  have refused : (s.began (ringOf c) e).restoreStart c q source digest = (s.began (ringOf c) e).finishOp c 0x17 Status.state := by
    have none : (q.sec? 0x10).isSome = false := by simpa using ck
    simp only [State.restoreStart, remote, none, if_false, Bool.not_false, if_true]
  rw [refused, finishOp_began ht rfl hop] at starts
  exact ctxCommand_answers hx hok ht (by rw [hop]; rfl) starts

theorem restore_asks (len : digest.length = 64) (ck : (q.sec? 0x10).isSome = true) (reach : source = 1 → q.buddy ≠ 0xFFFF) :
    Completes s i (· = (s.began (ringOf c) e).asksManifest c source (q.restoreFrom source) digest) := by
  have starts := restore_starts (s := s.began (ringOf c) e) (k := s.startedCmd (ringOf c) e) hop loaded hq hsrc hd slot
  have far : ¬(source = 1 ∧ q.buddy = 0xFFFF) := fun h => reach h.1 h.2
  have whole : slice digest 0 64 = digest := by rw [← len]; exact slice_whole digest
  have asks : (s.began (ringOf c) e).restoreStart c q source digest =
      (s.began (ringOf c) e).asksManifest c source (q.restoreFrom source) digest := by
    simp only [State.restoreStart, remote, far, ck, whole, if_false, Bool.not_true, Bool.false_eq_true]
    rfl
  exact ctxCommand_begins hx hok ht (by rw [hop]; rfl) (starts.trans asks) (asksManifest_rings ..)

end

end Sys2Proof.Machine


/-! ### SWITCH_VERSION (R269) -/

namespace Sys2Proof.Machine

variable {s t u : State} {c : Fin 8} {e : RawEntry} {q : Scroll} {b : Fin 2} {x y z : Ctx} {v : Word} {digest : List Byte}

/-! #### What banks are given up for -/

/-- A bank as it was, given up, or with its version in another state. -/
def Bank.Given (y z : Bank) : Prop := z.pins = y.pins ∧ (z.state ≠ .absent → z.version = y.version ∧ y.state ≠ .absent)

theorem Bank.Given.refl (y : Bank) : y.Given y := ⟨rfl, fun h => ⟨rfl, h⟩⟩

theorem Bank.Given.trans {y z w : Bank} (h : y.Given z) (g : z.Given w) : y.Given w := by
  obtain ⟨hp, hv⟩ := h
  obtain ⟨gp, gv⟩ := g
  exact ⟨gp.trans hp, fun held => ⟨(gv held).1.trans (hv (gv held).2).1, (hv (gv held).2).2⟩⟩

theorem Bank.Given.empty {y : Bank} (h : y.pins = 0) : y.Given {} := ⟨h.symm, fun held => absurd rfl held⟩

theorem bankOf_none_iff : x.bankOf v = none ↔ ∀ e : Fin 2, x.banks[e].state ≠ .absent → x.banks[e].version ≠ v := by
  simp [Ctx.bankOf, List.find?_eq_none, fins]

/-- No version comes to a bank that is given up. -/
theorem bankOf_given (h : ∀ e : Fin 2, x.banks[e].Given y.banks[e]) (absent : x.bankOf v = none) : y.bankOf v = none := by
  rw [bankOf_none_iff] at absent ⊢
  intro e held
  obtain ⟨-, same⟩ := h e
  rw [(same held).1]
  exact absent e (same held).2

/-- The bank of a target that is abandoned. -/
def Bank.abandoned (y : Bank) : Bank := if y.pins = 0 then {} else { y with state := if y.state = .bad then .bad else .retiring }

theorem abandoned_given {y : Bank} (held : y.state ≠ .absent) : y.Given y.abandoned := by
  unfold Bank.abandoned
  split
  · next free => exact .empty free
  · exact ⟨rfl, fun _ => ⟨rfl, held⟩⟩

/-- The target that a switch replaces, in a bank that is neither the current one's nor a retiring one's. -/
theorem abandonTarget_gone {w : Word} (hp : x.pending = some w) (ne : w ≠ v) (hb : x.bankOf w = some b) (hc : x.current ≠ some b)
    (hr : x.banks[b].state ≠ .retiring) : (x.abandonTarget v).banks[b] = x.banks[b].abandoned := by
  have pending : x.pending.filter (· != v) = some w := by rw [hp, Option.filter_some, if_pos (bne_iff_ne.mpr ne)]
  simp only [Ctx.abandonTarget, pending, hb, hc, hr, or_self, if_false]
  exact modBank_bank_eq ..

theorem abandonTarget_frame (x : Ctx) (v : Word) :
    x.abandonTarget v = { x with banks := (x.abandonTarget v).banks, obtains := (x.abandonTarget v).obtains } := by
  unfold Ctx.abandonTarget
  split
  · rfl
  · split
    · split <;> rfl
    · rfl

theorem abandonTarget_current (x : Ctx) (v : Word) : (x.abandonTarget v).current = x.current := by rw [abandonTarget_frame]

theorem abandonTarget_scroll (x : Ctx) (v : Word) : (x.abandonTarget v).scroll = x.scroll := by rw [abandonTarget_frame]

theorem abandonTarget_mem (x : Ctx) (v : Word) : (x.abandonTarget v).mem = x.mem := by rw [abandonTarget_frame]

/-- Of the banks at most one is touched, which is not the current one. -/
theorem abandonTarget_bank (x : Ctx) (v : Word) (e : Fin 2) : (x.abandonTarget v).banks[e] = x.banks[e] ∨
    x.current ≠ some e ∧ x.banks[e].state ≠ .absent ∧ (x.abandonTarget v).banks[e] = x.banks[e].abandoned := by
  unfold Ctx.abandonTarget
  split
  · exact .inl rfl
  · split
    · next b hb =>
      split
      · exact .inl rfl
      · next other =>
        by_cases he : e = b
        · subst he
          exact .inr ⟨fun h => other (.inl h), (bankOf_spec hb).1, modBank_bank_eq ..⟩
        · exact .inl (modBank_bank_ne _ _ he)
    · exact .inl rfl

theorem abandonTarget_given (x : Ctx) (v : Word) (e : Fin 2) : x.banks[e].Given (x.abandonTarget v).banks[e] := by
  rcases abandonTarget_bank x v e with h | ⟨-, held, h⟩
  · rw [h]; exact .refl _
  · rw [h]; exact abandoned_given held

theorem banksFreed_given (x : Ctx) (e : Fin 2) : x.banks[e].Given x.banksFreed.banks[e] := by
  rw [banksFreed_bank]
  split
  · next gone =>
    refine .empty ?_
    simp only [Ctx.gone, Bool.and_eq_true, beq_iff_eq] at gone
    exact gone.1
  · exact .refl _

/-- No bank is given up. -/
theorem banksFreed_none (h : ∀ e : Fin 2, x.gone e = false) : x.banksFreed = x := by
  have banks : (Vector.ofFn fun b : Fin 2 => if x.gone b then ({} : Bank) else x.banks[b]) = x.banks := by
    refine Vector.ext fun i hi => ?_
    change (Vector.ofFn _)[(⟨i, hi⟩ : Fin 2)] = x.banks[(⟨i, hi⟩ : Fin 2)]
    rw [vget_ofFn, h]
    rfl
  have current : x.current.filter (fun b => !x.gone b) = x.current := by
    rcases x.current with _ | e
    · rfl
    · rw [Option.filter_some, h]; rfl
  rw [Ctx.banksFreed, banks, current]

/-! #### A bank for a build -/

theorem freeBank_none_iff : x.freeBank = none ↔ ∀ e : Fin 2, x.current = some e ∨ x.banks[e].pins ≠ 0 := by
  have empty (l : List (Fin 2)) (p : Fin 2 → Bool) : (l.find? p).or l.head? = none ↔ l = [] := by
    cases l <;> simp
  rw [Ctx.freeBank, empty, List.filter_eq_nil_iff]
  simp only [fins, List.mem_finRange, true_implies, Bool.and_eq_true, bne_iff_ne, beq_iff_eq, not_and_or, not_not, ne_eq]

theorem freeBank_spec (h : x.freeBank = some b) : x.current ≠ some b ∧ x.banks[b].pins = 0 := by
  have mem : b ∈ (fins 2).filter fun b => x.current != some b && x.banks[b].pins == 0 := by
    rcases Option.or_eq_some_iff.mp h with found | ⟨-, first⟩
    · exact List.mem_of_find?_eq_some found
    · exact List.mem_of_mem_head? first
  simpa using (List.mem_filter.mp mem).2

/-- A context in which the build of a version has started. -/
structure Ctx.Building (x y : Ctx) (b : Fin 2) (v : Word) (digest : List Byte) : Prop where
  state : y.banks[b].state = .building
  version : y.banks[b].version = v
  digest : y.banks[b].digest = digest
  pending : y.pending = x.pending
  built : y.pendUnbuilt = false
  mem : y.mem = x.mem

/-- The end of a list that nothing has failed on. -/
theorem passEnd_first {o : Obtain} (hf : o.firstFail = none) (side tensor : Nat) :
    s.passEnd c side tensor o = (s, { o with retry := true }) := by
  simp only [State.passEnd, hf, Bool.false_and, Bool.false_eq_true, if_false]

/-- A bank without a manifest. -/
def Bank.unmanifested (y : Bank) : Bank := { y with manifest := [] }

theorem manifestTry_ctx {o : Obtain} (hf : o.firstFail = none) (s : State) (c : Fin 8) (q : Scroll) (b : Fin 2) :
    ∃ o', (s.manifestTry c q b o).ctx c = ((s.ctx c).modBank b Bank.unmanifested).setObtain o' := by
  have emptied : (s.modCtx c (·.modBank b Bank.unmanifested)).ctx c = (s.ctx c).modBank b Bank.unmanifested := ctx_modCtx_eq ..
  have put (t : State) (o' : Obtain) : (t.setCtx c ((t.ctx c).setObtain o')).ctx c = (t.ctx c).setObtain o' := vget_vset_eq _ _ _
  unfold State.manifestTry
  extract_lets s1 r s2
  have passed : r = (s.modCtx c (·.modBank b Bank.unmanifested), { o with retry := true }) := passEnd_first hf 0 0
  split
  · refine ⟨{ o with retry := true }, ?_⟩
    rw [passed, put, emptied]
  · refine ⟨o, ?_⟩
    exact (enqueue_ctx ..).trans ((put ..).trans (congrArg (·.setObtain o) emptied))

/-- The context as its build starts, before its manifest is asked for. -/
def Ctx.buildStarted (x : Ctx) (b : Fin 2) (v : Word) (digest : List Byte) : Ctx :=
  { x.modBank b (fun _ => { state := .building, version := v, digest := digest }) with
    pendUnbuilt := false
    obtains := x.obtains.filter fun o => x.banks[b].state == .absent || o.version != x.banks[b].version }

theorem startBuild_eq (s : State) (c : Fin 8) (q : Scroll) (b : Fin 2) (v : Word) (digest : List Byte) :
    s.startBuild c q b v digest = (s.modCtx c (·.buildStarted b v digest)).manifestTry c q b
      { version := v, tensor := manifestTensor, shard := 0 } := rfl

theorem startBuild_building (s : State) (c : Fin 8) (q : Scroll) (b : Fin 2) (v : Word) (digest : List Byte) :
    (s.ctx c).Building ((s.startBuild c q b v digest).ctx c) b v digest := by
  obtain ⟨o, here⟩ := manifestTry_ctx (o := { version := v, tensor := manifestTensor, shard := 0 }) rfl
    (s.modCtx c (·.buildStarted b v digest)) c q b
  rw [ctx_modCtx_eq] at here
  rw [startBuild_eq, here]
  generalize s.ctx c = x
  have bank : (((x.buildStarted b v digest).modBank b Bank.unmanifested).setObtain o).banks[b] =
      { state := .building, version := v, digest := digest } :=
    (modBank_bank_eq ..).trans (congrArg Bank.unmanifested (modBank_bank_eq x b _))
  constructor
  case state => rw [bank]
  case version => rw [bank]
  case digest => rw [bank]
  case pending => dsimp only [Ctx.setObtain, Ctx.modBank, Ctx.buildStarted]
  case built => dsimp only [Ctx.setObtain, Ctx.modBank, Ctx.buildStarted]
  case mem => dsimp only [Ctx.setObtain, Ctx.modBank, Ctx.buildStarted]

/-! #### A target that is named (R269) -/

/-- The context with another pending target. -/
def Ctx.targeted (x : Ctx) (pending : Option Word) (digest : List Byte) (unbuilt : Bool) : Ctx :=
  { x with pending := pending, pendDigest := digest, pendUnbuilt := unbuilt }

/-- The context whose target is replaced by one that a bank holds, or that waits for a bank. -/
def Ctx.switched (x : Ctx) (v : Word) (pending : Option Word) (digest : List Byte) (unbuilt : Bool) : Ctx :=
  ((x.abandonTarget v).targeted pending digest unbuilt).banksFreed

theorem switchTo_bad (hb : (s.ctx c).bankOf v = some b) (bad : (s.ctx c).banks[b].state = .bad) :
    s.switchTo c q v digest = (false, s.cause Reg.wstCause 7) := by
  simp only [State.switchTo, hb, bad, if_true]

theorem switchTo_held (hb : (s.ctx c).bankOf v = some b) (good : (s.ctx c).banks[b].state ≠ .bad) :
    s.switchTo c q v digest =
      (true, s.modCtx c fun x => x.switched v (if x.current = some b then none else some v) digest false) := by
  simp only [State.switchTo, hb, good, if_false]
  rw [bankFreed_settled (.inr (by rw [ctx_modCtx_eq])), modCtx_modCtx]
  rfl

theorem switched_given (x : Ctx) (v : Word) (pending : Option Word) (digest : List Byte) (unbuilt : Bool) (e : Fin 2) :
    x.banks[e].Given (x.switched v pending digest unbuilt).banks[e] :=
  (abandonTarget_given x v e).trans (banksFreed_given ((x.abandonTarget v).targeted pending digest unbuilt) e)

theorem switched_current (x : Ctx) (v : Word) (pending : Option Word) (digest : List Byte) (unbuilt : Bool) :
    (x.switched v pending digest unbuilt).current =
      x.current.filter fun b => !((x.abandonTarget v).targeted pending digest unbuilt).gone b := by
  conv_rhs => rw [← abandonTarget_current x v]
  rfl

theorem switched_mem (x : Ctx) (v : Word) (pending : Option Word) (digest : List Byte) (unbuilt : Bool) :
    (x.switched v pending digest unbuilt).mem = x.mem := abandonTarget_mem x v

/-- No bank can be taken for what waits. -/
theorem bankFreed_waits (hf : (s.ctx c).banksFreed.freeBank = none) : s.bankFreed c = s.modCtx c Ctx.banksFreed := by
  have here : (s.modCtx c Ctx.banksFreed).ctx c = (s.ctx c).banksFreed := ctx_modCtx_eq ..
  unfold State.bankFreed
  extract_lets s1 y
  have left : y.freeBank = none := by
    rw [← hf, ← here]
    rfl
  split
  · split
    · rfl
    · split
      · next b taken => exact absurd (taken.symm.trans left) (Option.some_ne_none b)
      · rfl
  · rfl

/-- A bank is taken for the target that waits. -/
theorem bankFreed_builds (hq : (s.ctx c).scroll = some q) (hp : (s.ctx c).pending = some v) (unbuilt : (s.ctx c).pendUnbuilt = true)
    (absent : (s.ctx c).banksFreed.bankOf v = none) (hf : (s.ctx c).banksFreed.freeBank = some b) :
    s.bankFreed c = (s.modCtx c Ctx.banksFreed).startBuild c q b v (s.ctx c).pendDigest := by
  have here : (s.modCtx c Ctx.banksFreed).ctx c = (s.ctx c).banksFreed := ctx_modCtx_eq ..
  have scroll : (s.ctx c).banksFreed.scroll = some q := hq
  have pending : (s.ctx c).banksFreed.pending = some v := hp
  have waits : (s.ctx c).banksFreed.pendUnbuilt = true := unbuilt
  have digest : (s.ctx c).banksFreed.pendDigest = (s.ctx c).pendDigest := rfl
  unfold State.bankFreed
  extract_lets s1 y
  have freed : s1 = s.modCtx c Ctx.banksFreed := rfl
  have left : y = (s.ctx c).banksFreed := by rw [← here, ← freed]
  rw [left, freed]
  simp only [scroll, pending, waits, absent, hf, digest, Bool.not_true, Bool.false_eq_true, Option.isSome_none, or_self, if_false]

section
variable (absent : (s.ctx c).bankOf v = none)
include absent

theorem switchTo_waits (full : ((s.ctx c).switched v (some v) digest true).freeBank = none) :
    s.switchTo c q v digest = (true, s.modCtx c (·.switched v (some v) digest true)) := by
  have here : (s.modCtx c fun x => (x.abandonTarget v).targeted (some v) digest true).ctx c =
      ((s.ctx c).abandonTarget v).targeted (some v) digest true := ctx_modCtx_eq ..
  have left : (s.modCtx c (·.switched v (some v) digest true)).ctx c = (s.ctx c).switched v (some v) digest true := ctx_modCtx_eq ..
  have freed : (s.modCtx c fun x => (x.abandonTarget v).targeted (some v) digest true).bankFreed c =
      s.modCtx c (·.switched v (some v) digest true) := by
    rw [bankFreed_waits (by rw [here]; exact full), modCtx_modCtx]
    rfl
  unfold Ctx.targeted at freed
  simp only [State.switchTo, absent, freed, left, full]
  exact ite_self _

theorem switchTo_builds (hq : (s.ctx c).scroll = some q) (free : ((s.ctx c).switched v (some v) digest true).freeBank = some b) :
    s.switchTo c q v digest = (true, (s.modCtx c (·.switched v (some v) digest true)).startBuild c q b v digest) := by
  have here : (s.modCtx c fun x => (x.abandonTarget v).targeted (some v) digest true).ctx c =
      ((s.ctx c).abandonTarget v).targeted (some v) digest true := ctx_modCtx_eq ..
  have scroll : (((s.ctx c).abandonTarget v).targeted (some v) digest true).scroll = some q := (abandonTarget_scroll ..).trans hq
  have left : (s.modCtx c (·.switched v (some v) digest true)).ctx c = (s.ctx c).switched v (some v) digest true := ctx_modCtx_eq ..
  have still : ((s.ctx c).switched v (some v) digest true).bankOf v = none := bankOf_given (switched_given _ _ _ _ _) absent
  have freed : (s.modCtx c fun x => (x.abandonTarget v).targeted (some v) digest true).bankFreed c =
      (s.modCtx c (·.switched v (some v) digest true)).startBuild c q b v digest := by
    rw [bankFreed_builds (by rw [here]; exact scroll) (by rw [here]; rfl) (by rw [here]; rfl) (by rw [here]; exact still)
      (by rw [here]; exact free), modCtx_modCtx, here]
    rfl
  have built := (startBuild_building (s.modCtx c (·.switched v (some v) digest true)) c q b v digest).built
  unfold Ctx.targeted at freed
  simp only [State.switchTo, absent, freed, built, Bool.not_false, if_true]

end

/-- A bank is free for a version that none holds. -/
theorem switched_free (h : x.freeBank.isSome = true) (digest : List Byte) : ∃ b : Fin 2,
    (x.switched v (some v) digest true).freeBank = some b ∧ x.banks[b].pins = 0 := by
  obtain ⟨a, free⟩ := Option.isSome_iff_exists.mp h
  obtain ⟨other, unpinned⟩ := freeBank_spec free
  rcases found : (x.switched v (some v) digest true).freeBank with _ | b
  · exfalso
    rcases freeBank_none_iff.mp found a with current | pinned
    · rw [switched_current] at current
      exact other (Option.filter_eq_some_iff.mp current).1
    · exact pinned ((switched_given x v (some v) digest true a).1.trans unpinned)
  · exact ⟨b, rfl, (switched_given x v (some v) digest true b).1.symm.trans (freeBank_spec found).2⟩

/-- Every bank is pinned, or the current version's. -/
theorem switched_full (h : ∀ e : Fin 2, x.banks[e].pins ≠ 0 ∨ x.current = some e ∧ x.banks[e].state = .current)
    (digest : List Byte) :
    x.switched v (some v) digest true = (x.abandonTarget v).targeted (some v) digest true ∧
      (x.switched v (some v) digest true).freeBank = none := by
  have kept : x.switched v (some v) digest true = (x.abandonTarget v).targeted (some v) digest true := by
    refine banksFreed_none fun e => ?_
    have bank : ((x.abandonTarget v).targeted (some v) digest true).banks[e] = (x.abandonTarget v).banks[e] := rfl
    rw [Ctx.gone, bank]
    rcases h e with pinned | ⟨current, state⟩
    · rw [(abandonTarget_given x v e).1, beq_false_of_ne pinned, Bool.false_and]
    · have same := (abandonTarget_bank x v e).resolve_right fun h => h.1 current
      rw [same, state]
      exact Bool.and_false _
  refine ⟨kept, ?_⟩
  rw [kept]
  refine freeBank_none_iff.mpr fun e => ?_
  have current : ((x.abandonTarget v).targeted (some v) digest true).current = x.current := abandonTarget_current ..
  rw [current]
  rcases h e with pinned | ⟨mine, -⟩
  · exact .inr fun free => pinned ((abandonTarget_given x v e).1.symm.trans free)
  · exact .inl mine

/-! #### The command -/

/-- A command that has completed has left its ring as it was, but for the count of completions. -/
theorem finish_began_ring (ht : Taken s (ringOf c) e) (hr : t.rings = (s.began (ringOf c) e).rings) (status detail : Nat) :
    ((t.finish (ringOf c) (s.startedCmd (ringOf c) e) status detail).rings[ringOf c]).cmds = (s.rings[ringOf c]).cmds ∧
      ((t.finish (ringOf c) (s.startedCmd (ringOf c) e) status detail).rings[ringOf c]).completions =
        (s.rings[ringOf c]).completions + 1 := by
  have found : t.rings[ringOf c] = (s.began (ringOf c) e).rings[ringOf c] := by rw [hr]
  rw [finish_ring_eq, found, began_rings]
  refine ⟨?_, rfl⟩
  change ((s.rings[ringOf c]).cmds ++ [s.startedCmd (ringOf c) e]).erase (s.startedCmd (ringOf c) e) = _
  rw [List.erase_append_right _ (startedCmd_fresh ht), List.erase_cons_head, List.append_nil]

/-- What the command of an entry starts. -/
theorem switch_starts (hop : e.opcode = 0x15)
    (open_ : (s.ctx c).state = .loaded ∨ (s.ctx c).state = .running ∨ (s.ctx c).state = .held) (hq : s.scroll? c = some q)
    (weights : (q.sec? 0xD).isSome = true) (hv : e.par 0 4 = v.toNat) (hd : e.parBytes 8 64 = digest) :
    (s.began (ringOf c) e).dispatchCtx c (s.startedCmd (ringOf c) e) =
    ((s.began (ringOf c) e).switchTo c q v digest).2.finish (ringOf c) (s.startedCmd (ringOf c) e)
      (if ((s.began (ringOf c) e).switchTo c q v digest).1 then Status.ok else Status.state) := by
  have starts := dispatchCtx_switch (s := s.began (ringOf c) e) (k := s.startedCmd (ringOf c) e) open_ hq hop
  have version : BitVec.ofNat 32 ((s.startedCmd (ringOf c) e).entry.par 0 4) = v := by
    rw [startedCmd_entry, hv, BitVec.ofNat_toNat, BitVec.setWidth_eq]
  have named : (s.startedCmd (ringOf c) e).entry.parBytes 8 64 = digest := hd
  have some_ : ¬(q.sec? 0xD).isNone = true := by rw [← Option.not_isSome, weights]; decide
  rw [State.startSwitch, if_neg some_, version, named] at starts
  exact starts

section
variable {i : Instr} {ok : Bool} (hx : exec i s = actIf ok (fun s => (s.consume (ringOf c) e).serve) s) (hok : ok = true)
  (ht : Taken s (ringOf c) e) (hop : e.opcode = 0x15)
  (open_ : (s.ctx c).state = .loaded ∨ (s.ctx c).state = .running ∨ (s.ctx c).state = .held) (hq : s.scroll? c = some q)
include hx hok ht hop open_ hq

theorem switch_refused (weights : (q.sec? 0xD).isNone = true) :
    Completes s i (· = (s.took (ringOf c) e).record (ringOf c) e 6 0) := by
  have starts := dispatchCtx_switch (s := s.began (ringOf c) e) (k := s.startedCmd (ringOf c) e) open_ hq hop
  rw [State.startSwitch, if_pos weights] at starts
  exact ctxCommand_answers hx hok ht (by rw [hop]; rfl) starts

variable (weights : (q.sec? 0xD).isSome = true) (hv : e.par 0 4 = v.toNat) (hd : e.parBytes 8 64 = digest)
include weights hv hd

theorem switch_bad (hb : (s.ctx c).bankOf v = some b) (bad : (s.ctx c).banks[b].state = .bad) :
    Completes s i (· = ((s.took (ringOf c) e).cause Reg.wstCause 7).record (ringOf c) e 6 0) := by
  have starts := switch_starts hop open_ hq weights hv hd
  rw [switchTo_bad (s := s.began (ringOf c) e) hb bad] at starts
  exact ctxCommand_ends hx hok ht (by rw [hop]; rfl) starts rfl rfl

/-- What a target that is named leaves. -/
theorem switch_named {P : Ctx → Prop} (switched : (s.began (ringOf c) e).switchTo c q v digest = (true, t))
    (mem : (t.ctx c).mem = (s.ctx c).mem) (hp : P (t.ctx c)) : Completes s i fun u =>
      P (u.ctx c) ∧ (u.rings[ringOf c]).cmds = (s.rings[ringOf c]).cmds ∧
        (u.rings[ringOf c]).completions = (s.rings[ringOf c]).completions + 1 ∧
        (u.ctx c).mem = (s.ctx c).mem ∧ (u.ctx c).state = (s.ctx c).state ∧ u.tiles = s.tiles ∧
        ∀ d, d ≠ c → u.ctx d = s.ctx d := by
  have starts := switch_starts hop open_ hq weights hv hd
  have beside := switchTo_meanwhile (s.began (ringOf c) e) c q v digest
  rw [switched] at starts beside
  change Meanwhile c (s.began (ringOf c) e) t at beside
  have rings : t.rings = (s.began (ringOf c) e).rings := by rw [beside.frame]
  have state : (t.ctx c).state = (s.ctx c).state := by rw [beside.ctx]; rfl
  have tiles : t.tiles = s.tiles := by rw [beside.frame]; rfl
  have finished := finish_recorded t (ringOf c) (s.startedCmd (ringOf c) e) Status.ok 0
  obtain ⟨cmds, completions⟩ := finish_began_ring ht rings Status.ok 0
  refine ctxCommand_completes hx hok ht (by rw [hop]; rfl) starts (((began_allBegun ht).of_rings rings).finish _ _ _ _)
    ⟨?_, cmds, completions, ?_, ?_, ?_, fun d hd => ?_⟩
  · rw [if_pos rfl]; exact (finished.ctx c).symm ▸ hp
  · rw [if_pos rfl]; exact (congrArg Ctx.mem (finished.ctx c)).trans mem
  · rw [if_pos rfl]; exact (congrArg Ctx.state (finished.ctx c)).trans state
  · rw [if_pos rfl]; rw [finished.frame]; exact tiles
  · rw [if_pos rfl]; exact (finished.ctx d).trans (beside.others d hd)

end

/-- A target that `switched` leaves in a bank is given up as its pins have it. -/
theorem switched_replaced {w : Word} {pending : Option Word} {unbuilt : Bool} (hp : x.pending = some w) (ne : w ≠ v)
    (hb : x.bankOf w = some b) (hc : x.current ≠ some b) (hr : x.banks[b].state ≠ .retiring) :
    (x.banks[b].pins = 0 → (x.switched v pending digest unbuilt).banks[b] = {}) ∧
      (x.banks[b].pins ≠ 0 → x.banks[b].state ≠ .bad →
        (x.switched v pending digest unbuilt).banks[b] = { x.banks[b] with state := .retiring }) := by
  have left := abandonTarget_gone hp ne hb hc hr
  have bank : (x.switched v pending digest unbuilt).banks[b] =
      if ((x.abandonTarget v).targeted pending digest unbuilt).gone b then {} else (x.abandonTarget v).banks[b] := banksFreed_bank _ _
  refine ⟨fun free => ?_, fun held good => ?_⟩
  · rw [bank, left, Bank.abandoned, if_pos free, ite_self]
  · have kept : ((x.abandonTarget v).targeted pending digest unbuilt).gone b = false := by
      have pins : ((x.abandonTarget v).targeted pending digest unbuilt).banks[b].pins = x.banks[b].pins := (abandonTarget_given x v b).1
      rw [Ctx.gone, pins, beq_false_of_ne held, Bool.false_and]
    rw [bank, kept, left, Bank.abandoned, if_neg held, if_neg good]
    rfl

end Sys2Proof.Machine

/-! ### CAPO (R408, R409) -/

namespace Sys2Proof.Machine

variable {s t u : State} {c : Fin 8} {r : Fin 9} {e : RawEntry} {q : Scroll} {x : Ctx} {time : Nat}

/-! #### The cut -/

theorem causeIf_frame (s : State) (b : Bool) (o k : Nat) : s.causeIf b o k = { s with regs := (s.causeIf b o k).regs } := by
  unfold State.causeIf
  split
  · rfl
  · rfl

/-- The context without its drain. -/
def Ctx.undrained (x : Ctx) : Ctx := { x with ckpt := { x.ckpt with drain := none } }

/-- An abandoned drain leaves the frames of other contexts, a cause and no drain. -/
theorem dropDrain_frame (s : State) (c : Fin 8) : ∃ ports regs,
    s.dropDrain c = ({ s with ports := ports, regs := regs } : State).modCtx c Ctx.undrained := by
  unfold State.dropDrain
  rw [causeIf_frame]
  exact ⟨_, _, rfl⟩

theorem dropDrain_ctx (s : State) (c : Fin 8) : (s.dropDrain c).ctx c = (s.ctx c).undrained := by
  obtain ⟨ports, regs, h⟩ := dropDrain_frame s c
  rw [h, ctx_modCtx_eq]
  rfl

theorem markSnap_frame (x : Ctx) (q : Scroll) : x.markSnap q = { x with pages := (x.markSnap q).pages } := by
  unfold Ctx.markSnap
  extract_lets homed pages
  refine List.foldlRecOn (motive := fun y : Ctx => y = { x with pages := y.pages }) _ _ rfl fun y h k _ => ?_
  rw [h]
  rfl

/-- The context at a cut (R409). -/
def Ctx.cutAt (x : Ctx) (q : Scroll) (record : CutRecord) (now phys : Nat) : Ctx := { x.markSnap q with
  sealing := !q.homeServers.isEmpty
  capoHold := false
  ckpt := { x.ckpt with
    cut := record, phase := 2, due := none, periodicDue := false, holding := false, homeCopies := []
    sealedCut := q.homeServers.isEmpty, pendingAt := x.ckpt.pendingAt.filter fun t => decide (now < t)
    slots := x.ckpt.slots.map fun a => if a = .filling then .invalid else a, drain := some { progressAt := phys } } }

theorem cutAt_state (x : Ctx) (q : Scroll) (record : CutRecord) (now phys : Nat) : (x.cutAt q record now phys).state = x.state := by
  have kept : (x.markSnap q).state = x.state := by rw [markSnap_frame]
  rw [← kept, Ctx.cutAt]

theorem cutAt_mem (x : Ctx) (q : Scroll) (record : CutRecord) (now phys : Nat) : (x.cutAt q record now phys).mem = x.mem := by
  have kept : (x.markSnap q).mem = x.mem := by rw [markSnap_frame]
  rw [← kept, Ctx.cutAt]

/-- The record of a cut that is taken. -/
def State.nextCut (s : State) (c : Fin 8) (time : Nat) : CutRecord :=
  (s.dropDrain c).cutRecord c ((s.ctx c).ckpt.cut.number + 1) time

/-- The state at a cut, before the CAPOs that it serves complete. -/
def State.cutTaken (s : State) (c : Fin 8) (q : Scroll) (time : Nat) : State :=
  ((s.dropDrain c).modCtx c fun x => x.cutAt q (s.nextCut c time) (s.dropDrain c).ns (s.dropDrain c).phys).cause Reg.ckpCause 1

theorem takeCut_eq (unheld : (s.ctx c).ckpt.holding = false) (q : Scroll) (time : Nat) : s.takeCut c q time =
    (s.cutTaken c q time).finishAll (ringOf c) (fun k => k.isCapo && decide (k.entry.par 0 8 ≤ (s.dropDrain c).ns)) Status.ok
      (((s.ctx c).ckpt.cut.number + 1) % 2 ^ 32 + (s.nextCut c time).step.toNat % 2 ^ 32 * 2 ^ 32) := by
  simp only [State.takeCut, unheld, Bool.false_and, Bool.false_eq_true, if_false]
  rfl

theorem dropDrain_step (s : State) (c : Fin 8) : (s.dropDrain c).phys = s.phys ∧ (s.dropDrain c).ns = s.ns ∧
    (s.dropDrain c).rings = s.rings := by
  obtain ⟨ports, regs, h⟩ := dropDrain_frame s c
  rw [h]
  exact ⟨rfl, rfl, rfl⟩

theorem nextCut_step (s : State) (c : Fin 8) (time : Nat) : (s.nextCut c time).step = (s.ctx c).stepNo := by
  rw [State.nextCut, State.cutRecord, dropDrain_ctx]
  rfl

theorem cutTaken_ctx (s : State) (c : Fin 8) (q : Scroll) (time : Nat) :
    (s.cutTaken c q time).ctx c = (s.ctx c).undrained.cutAt q (s.nextCut c time) s.ns s.phys := by
  obtain ⟨phys, ns, -⟩ := dropDrain_step s c
  rw [State.cutTaken, cause_ctx, ctx_modCtx_eq, dropDrain_ctx, phys, ns]

theorem cutTaken_rings (s : State) (c : Fin 8) (q : Scroll) (time : Nat) : (s.cutTaken c q time).rings = s.rings :=
  (dropDrain_step s c).2.2

/-! #### The command -/

/-- The context whose CAPO names a time. -/
def Ctx.capoNamed (x : Ctx) (time now : Nat) : Ctx :=
  { x with ckpt := { x.ckpt with pendingAt := some time, due := if time ≤ now then some time else none } }

theorem finishAll_none {p : Cmd → Bool} (h : ∀ j ∈ (s.rings[r]).cmds, p j = false) (status detail : Nat) :
    s.finishAll r p status detail = s := by
  rw [State.finishAll, List.filter_eq_nil_iff.mpr fun j hj => by rw [h j hj]; decide]
  rfl

theorem began_isOp {op : Nat} (ht : Taken s r e) (hop : e.opcode = op) :
    (s.startedCmd r e).isOp op = true ∧ ∀ j ∈ (s.rings[r]).cmds, j.isOp op = false := by
  obtain ⟨-, -, -, -, -, -, -, others, -⟩ := ht
  refine ⟨?_, fun j hj => ?_⟩
  · rw [Cmd.isOp, startedCmd_entry, hop, beq_self_eq_true]
    rfl
  · rw [Cmd.isOp, beq_false_of_ne (hop ▸ others j hj), Bool.false_and]

/-- The hold begins where nothing keeps it from its cut. -/
theorem capoAt_cuts (hq : s.scroll? c = some q) (due : (s.ctx c).ckpt.due = some time) (cool : s.stalled c = false)
    (active : s.power = .active) (unrolled : (s.ctx c).rolling = false) : s.capoAt c = s.takeCut c q time := by
  simp [State.capoAt, hq, due, cool, active, unrolled]

theorem stalled_capoNamed (s : State) (c : Fin 8) (time now : Nat) :
    (s.modCtx c (·.capoNamed time now)).stalled c = s.stalled c := by
  simp only [State.stalled, State.scroll?, ctx_modCtx_eq]
  rfl

theorem tryCapo_cuts (hq : s.scroll? c = some q) (due : (s.ctx c).ckpt.due = some time) (cool : s.stalled c = false)
    (active : s.power = .active) (unrolled : (s.ctx c).rolling = false) (still : s.hng.running = false)
    (loaded : (s.ctx c).state = .loaded) (unload : (s.ctx c).load = none) (unrestored : (s.ctx c).ckpt.restore = none) :
    s.tryCapo c = (s.takeCut c q time).modCtx c Ctx.settleState := by
  have boundary : s.atBoundary c = true := by simp [State.atBoundary, still, loaded, unload, unrestored]
  rw [State.tryCapo, due, boundary, capoAt_cuts hq due cool active unrolled]
  rfl

theorem settleState_loaded {x : Ctx} (h : x.state = .loaded) : x.settleState = x := by
  simp [Ctx.settleState, h]

theorem cutTaken_cause (s : State) (c : Fin 8) (q : Scroll) (time : Nat) : (s.cutTaken c q time).rfld Reg.ckpCause 1 1 = 1 :=
  rfld_cause_self _ _ (by decide)

section
variable (ht : Taken s (ringOf c) e) (hop : e.opcode = 0x16)
  (open_ : (s.ctx c).state = .loaded ∨ (s.ctx c).state = .running ∨ (s.ctx c).state = .held) (hq : s.scroll? c = some q)
include ht hop open_ hq

theorem capo_starts (ck : (q.sec? 0x10).isSome = true) (hp : e.par 0 8 = time) :
    (s.began (ringOf c) e).dispatchCtx c (s.startedCmd (ringOf c) e) =
      ((s.began (ringOf c) e).modCtx c (·.capoNamed time s.ns)).tryCapo c := by
  obtain ⟨-, ⟨-, due⟩, -⟩ := id ht
  obtain ⟨mine, others⟩ := began_isOp ht hop
  have starts := dispatchCtx_capo (s := s.began (ringOf c) e) (k := s.startedCmd (ringOf c) e) open_ hq hop
  have some_ : ¬(q.sec? 0x10).isNone = true := by rw [← Option.not_isSome, ck]; decide
  have alone : (s.began (ringOf c) e).finishAll (ringOf c) (fun j => j.isCapo && j != s.startedCmd (ringOf c) e) Status.aborted =
      s.began (ringOf c) e := by
    refine finishAll_none (fun j hj => ?_) _ _
    rw [began_rings] at hj
    rcases List.mem_append.mp hj with mem | mem
    · rw [Cmd.isCapo, others j mem, Bool.false_and]
    · rw [List.mem_singleton.mp mem, bne_self_eq_false, Bool.and_false]
  rw [State.startCapo, if_neg some_, alone, ite_self, startedCmd_entry, hp] at starts
  refine starts.trans (congrArg (State.tryCapo · c) (congrArg (State.setCtx _ c) ?_))
  have now : (s.began (ringOf c) e).ns = s.ns := rfl
  simp only [began_ctx, Ctx.capoNamed, due c, now, Option.bind_none, ite_self, Option.getD_none]

variable {i : Instr} {ok : Bool} (hx : exec i s = actIf ok (fun s => (s.consume (ringOf c) e).serve) s) (hok : ok = true)
include hx hok

theorem capo_refused (ck : (q.sec? 0x10).isNone = true) : Completes s i (· = (s.took (ringOf c) e).record (ringOf c) e 6 0) := by
  have starts := dispatchCtx_capo (s := s.began (ringOf c) e) (k := s.startedCmd (ringOf c) e) open_ hq hop
  rw [State.startCapo, if_pos ck] at starts
  exact ctxCommand_answers hx hok ht (by rw [hop]; rfl) starts

variable (ck : (q.sec? 0x10).isSome = true) (hp : e.par 0 8 = time)
include ck hp

/-- A CAPO whose time has not come. -/
theorem capo_waits (early : s.ns < time) : Completes s i (· = (s.began (ringOf c) e).modCtx c fun x => { x with
    ckpt := { x.ckpt with pendingAt := some time } }) := by
  obtain ⟨-, ⟨-, due⟩, -⟩ := id ht
  have starts := capo_starts ht hop open_ hq ck hp
  have named : (s.ctx c).capoNamed time s.ns = { s.ctx c with ckpt := { (s.ctx c).ckpt with pendingAt := some time } } := by
    rw [Ctx.capoNamed, if_neg (Nat.not_le.mpr early), ← due c]
  rw [State.tryCapo_none _ _ (by rw [ctx_modCtx_eq]; exact if_neg (Nat.not_le.mpr early)), State.modCtx, began_ctx, named] at starts
  exact ctxCommand_begins hx hok ht (by rw [hop]; rfl) starts rfl

/-- A CAPO whose time has come within a step. -/
theorem capo_due (late : time ≤ s.ns) (running : (s.ctx c).state = .running) (inStep : (s.ctx c).inStep = true) :
    Completes s i (· = (s.began (ringOf c) e).modCtx c fun x => { x with
      ckpt := { x.ckpt with pendingAt := some time, due := some time } }) := by
  have starts := capo_starts ht hop open_ hq ck hp
  have named : (s.ctx c).capoNamed time s.ns = { s.ctx c with
      ckpt := { (s.ctx c).ckpt with pendingAt := some time, due := some time } } := by
    rw [Ctx.capoNamed, if_pos late]
  have here : ((s.began (ringOf c) e).modCtx c (·.capoNamed time s.ns)).ctx c = (s.ctx c).capoNamed time s.ns := ctx_modCtx_eq ..
  have within : ((s.began (ringOf c) e).modCtx c (·.capoNamed time s.ns)).atBoundary c = false := by
    simp only [State.atBoundary, here, named, running, inStep]
    simp
  rw [State.tryCapo, within, Bool.and_false, if_neg Bool.false_ne_true, State.modCtx, began_ctx, named] at starts
  exact ctxCommand_begins hx hok ht (by rw [hop]; rfl) starts rfl

/-- A CAPO whose time has come in a LOADED context: the cut is taken. -/
theorem capo_cuts (late : time ≤ s.ns) (loaded : (s.ctx c).state = .loaded) (unload : (s.ctx c).load = none)
    (unrestored : (s.ctx c).ckpt.restore = none) (unheld : (s.ctx c).ckpt.holding = false) (cool : s.stalled c = false)
    (unrolled : (s.ctx c).rolling = false) : ∃ detail, Completes s i (· =
      (((s.began (ringOf c) e).modCtx c (·.capoNamed time s.ns)).cutTaken c q time).finish (ringOf c)
        (s.startedCmd (ringOf c) e) Status.ok detail) := by
  obtain ⟨t, ht'⟩ : ∃ t, t = (s.began (ringOf c) e).modCtx c (·.capoNamed time s.ns) := ⟨_, rfl⟩
  have here : t.ctx c = (s.ctx c).capoNamed time s.ns := by rw [ht']; exact ctx_modCtx_eq ..
  have starts := capo_starts ht hop open_ hq ck hp
  have rings : (t.cutTaken c q time).rings = (s.began (ringOf c) e).rings := by rw [cutTaken_rings, ht']; rfl
  have active : s.power = .active := by
    obtain ⟨-, -, -, -, -, power, -⟩ := id ht
    exact power.resolve_right fun h => absurd (hop ▸ h) (by decide)
  have still : s.hng.running = false := ht.2.2.2.2.1
  have cut := tryCapo_cuts (s := t) (c := c) (q := q) (time := time) (by rw [State.scroll?, here]; exact hq)
    (by rw [here]; exact if_pos late) (by rw [ht', stalled_capoNamed]; exact cool) (by rw [ht']; exact active)
    (by rw [here]; exact unrolled) (by rw [ht']; exact still) (by rw [here]; exact loaded) (by rw [here]; exact unload)
    (by rw [here]; exact unrestored)
  obtain ⟨mine, others⟩ := began_isOp ht hop
  have reached : (decide (e.par 0 8 ≤ (t.dropDrain c).ns)) = true := by
    rw [(dropDrain_step t c).2.1, hp, ht']
    exact decide_eq_true late
  have state : ((t.cutTaken c q time).ctx c).state = .loaded := by
    rw [cutTaken_ctx, here, cutAt_state, ← loaded]
    rfl
  rw [← ht', cut, takeCut_eq (by rw [here]; exact unheld),
    finishAll_began rings (by rw [Cmd.isCapo, mine, startedCmd_entry, reached]; rfl)
      (fun j hj => by rw [Cmd.isCapo, others j hj, Bool.false_and])] at starts
  rw [modCtx_self (settleState_loaded (by rw [(finish_recorded ..).ctx]; exact state))] at starts
  exact ⟨_, ctxCommand_completes hx hok ht (by rw [hop]; rfl) starts (((began_allBegun ht).of_rings rings).finish _ _ _ _)
    (by rw [← ht'])⟩

/-- What the cut leaves, once the command has completed. -/
theorem capo_leaves (late : time ≤ s.ns) (loaded : (s.ctx c).state = .loaded) (unload : (s.ctx c).load = none)
    (unrestored : (s.ctx c).ckpt.restore = none) (unheld : (s.ctx c).ckpt.holding = false) (cool : s.stalled c = false)
    (unrolled : (s.ctx c).rolling = false) : Completes s i fun u =>
      (u.ctx c).ckpt.cut.number = (s.ctx c).ckpt.cut.number + 1 ∧ (u.ctx c).ckpt.cut.time = time ∧
      (u.ctx c).ckpt.cut.step = (s.ctx c).stepNo ∧ (u.ctx c).ckpt.phase = 2 ∧ (u.ctx c).ckpt.drain = some { progressAt := s.phys } ∧
      (u.ctx c).ckpt.due = none ∧ (u.ctx c).mem = (s.ctx c).mem ∧ u.rfld Reg.ckpCause 1 1 = 1 ∧
      (u.rings[ringOf c]).cmds = (s.rings[ringOf c]).cmds ∧
      (u.rings[ringOf c]).completions = (s.rings[ringOf c]).completions + 1 := by
  obtain ⟨detail, t', u, next, settled, rfl⟩ :=
    capo_cuts ht hop open_ hq hx hok ck hp late loaded unload unrestored unheld cool unrolled
  obtain ⟨t, ht'⟩ : ∃ t, t = (s.began (ringOf c) e).modCtx c (·.capoNamed time s.ns) := ⟨_, rfl⟩
  have here : t.ctx c = (s.ctx c).capoNamed time s.ns := by rw [ht']; exact ctx_modCtx_eq ..
  have rings : (t.cutTaken c q time).rings = (s.began (ringOf c) e).rings := by rw [cutTaken_rings, ht']; rfl
  have finished := finish_recorded (t.cutTaken c q time) (ringOf c) (s.startedCmd (ringOf c) e) Status.ok detail
  obtain ⟨cmds, completions⟩ := finish_began_ring ht rings Status.ok detail
  have left : ((t.cutTaken c q time).finish (ringOf c) (s.startedCmd (ringOf c) e) Status.ok detail).ctx c =
      ((s.ctx c).capoNamed time s.ns).undrained.cutAt q (t.nextCut c time) s.ns s.phys := by
    rw [finished.ctx, cutTaken_ctx, here, ht']
    rfl
  have cause : ((t.cutTaken c q time).finish (ringOf c) (s.startedCmd (ringOf c) e) Status.ok detail).rfld Reg.ckpCause 1 1 = 1 :=
    (rfld_of_reg (finished.reg _ (by decide) (by decide))).trans (cutTaken_cause t c q time)
  have step : (t.nextCut c time).step = (s.ctx c).stepNo := by rw [nextCut_step, here]; rfl
  have number : (t.nextCut c time).number = (s.ctx c).ckpt.cut.number + 1 := by rw [State.nextCut, State.cutRecord, here]; rfl
  refine ⟨_, u, next, settled, ?_⟩
  rw [← ht']
  beta_reduce
  rw [left]
  exact ⟨number, rfl, step, rfl, rfl, rfl, (cutAt_mem ..).trans rfl, cause, cmds, completions⟩

end

end Sys2Proof.Machine

/-! ### RESTORE to the in-memory cut (R419, R420) -/

namespace Sys2Proof.Machine

variable {s t u : State} {c : Fin 8} {q : Scroll} {x y z : Ctx}

/-! #### What is kept of a cut -/

/-- The checkpoint is as it was, but for the copies of pages in it, and so is the hold of a fault. -/
def Ctx.CutKept (x y : Ctx) : Prop :=
  y.ckpt = { x.ckpt with snapshot := y.ckpt.snapshot, homeCopies := y.ckpt.homeCopies } ∧ y.faultHold = x.faultHold

theorem Ctx.CutKept.trans (h : x.CutKept y) (g : y.CutKept z) : x.CutKept z := by
  obtain ⟨h, h'⟩ := h
  obtain ⟨g, g'⟩ := g
  exact ⟨by rw [g, h], g'.trans h'⟩

theorem Ctx.Worked.cutKept (h : x.Worked y) : x.CutKept y := by
  rw [h]
  exact ⟨rfl, rfl⟩

theorem makeCurrent_cutKept (x : Ctx) (b : Fin 2) : x.CutKept (x.makeCurrent b) := by
  unfold Ctx.makeCurrent
  split <;> exact ⟨rfl, rfl⟩

theorem unpended_cutKept (x : Ctx) : x.CutKept { x with pending := none } := ⟨rfl, rfl⟩

theorem mustPend_cutKept (x : Ctx) (must : Bool) (after : Option Word) : x.CutKept { x with mustPend := must, thenPend := after } :=
  ⟨rfl, rfl⟩

/-- No command has moved, and the context's cut is kept. -/
structure KeepsCut (c : Fin 8) (s u : State) : Prop where
  rings : u.rings = s.rings
  ctx : (s.ctx c).CutKept (u.ctx c)

theorem KeepsCut.refl (c : Fin 8) (s : State) : KeepsCut c s s := ⟨rfl, rfl, rfl⟩

theorem KeepsCut.trans (h : KeepsCut c s t) (g : KeepsCut c t u) : KeepsCut c s u := ⟨g.rings.trans h.rings, h.ctx.trans g.ctx⟩

theorem KeepsCut.of_ctx (hr : u.rings = s.rings) (hc : u.ctx c = s.ctx c) : KeepsCut c s u := ⟨hr, by rw [hc]; exact ⟨rfl, rfl⟩⟩

theorem KeepsCut.setCtx (h : (s.ctx c).CutKept x) : KeepsCut c s (s.setCtx c x) := by
  have here : (s.setCtx c x).ctx c = x := vget_vset_eq ..
  exact ⟨rfl, by rwa [here]⟩

theorem KeepsCut.modCtx {f : Ctx → Ctx} (h : (s.ctx c).CutKept (f (s.ctx c))) : KeepsCut c s (s.modCtx c f) := .setCtx h

theorem Meanwhile.keepsCut (h : Meanwhile c s u) : KeepsCut c s u := ⟨by rw [h.frame], h.ctx.cutKept⟩

/-! #### The record applied (R422) -/

theorem applyVersions_keepsCut (s : State) (c : Fin 8) (q : Scroll) (k : CutRecord) (kept : Bool) :
    KeepsCut c s (s.applyVersions c q k kept) := by
  unfold State.applyVersions
  split
  · exact .refl c s
  next v _ =>
    extract_lets x digestOf whole s1 s2
    have current : KeepsCut c s s1 := by
      simp only [s1]
      split
      next b _ =>
        refine .setCtx (.trans ?_ (unpended_cutKept _))
        split
        · exact ⟨rfl, rfl⟩
        · exact makeCurrent_cutKept (s.ctx c) b
      next => exact .refl c s
    have cleared : KeepsCut c s s2 := current.trans (.modCtx (mustPend_cutKept _ _ _))
    have switched (w : Word) : KeepsCut c s (s2.switchTo c q w (digestOf w)).2 :=
      cleared.trans (switchTo_meanwhile s2 c q w (digestOf w)).keepsCut
    clear_value s2
    split
    · split
      · exact switched _
      · exact (switched v).trans (.modCtx (mustPend_cutKept _ _ _))
    · split
      · exact cleared
      · exact (switched v).trans (.modCtx (mustPend_cutKept _ _ _))

/-- The context once the record of a cut that was taken is applied. -/
def Ctx.returnedTo (x : Ctx) (k : CutRecord) : Ctx := { x with
  stepNo := k.step, armed := k.armed, vmode := k.vmode, series := k.series, seriesKept := k.series.isSome
  reload := true, restored := true, needRestore := false, ckpt := { x.ckpt with cut := k } }

/-- A record of a cut that was taken fixes the context's step, arming and series. -/
theorem applyRecord_cut {k : CutRecord} (hk : k.number ≠ 0) (s : State) (c : Fin 8) (q : Scroll) (kept : Bool) :
    ∃ t, KeepsCut c s t ∧ s.applyRecord c q k kept = t.modCtx c (·.returnedTo k) := by
  have taken : k.open_ = false := by rw [CutRecord.open_, beq_false_of_ne hk, Bool.false_and]
  refine ⟨_, applyVersions_keepsCut s c q k kept, ?_⟩
  simp only [State.applyRecord, taken, Bool.false_eq_true, if_false]
  rfl

/-! #### The drain of what the homes still await (R419) -/

/-- The context whose drain goes on with its homes alone, when these are `left`. -/
def Ctx.homesOnly (x : Ctx) (left : Bool) (phys : Nat) : Ctx :=
  if left then { x with
    sealing := true
    ckpt := { x.ckpt with drain := some { x.ckpt.drain.getD {} with onlyHomes := true, progressAt := phys } } }
  else x.undrained

theorem homesLeft_congr (hr : u.reg Reg.rplCtrl = s.reg Reg.rplCtrl) (hc : (u.ctx c).ckpt.sealedCut = (s.ctx c).ckpt.sealedCut) :
    u.homesLeft c = s.homesLeft c := by
  simp only [State.homesLeft, State.solo, State.replays, State.rfld, hr, hc]

theorem dropDrain_rplCtrl (s : State) (c : Fin 8) : (s.dropDrain c).reg Reg.rplCtrl = s.reg Reg.rplCtrl := by
  change (s.causeIf _ _ _).reg _ = _
  unfold State.causeIf
  split
  · exact s.reg_cause_ne _ (by decide)
  · rfl

theorem dropDrain_homesLeft (s : State) (c : Fin 8) : (s.dropDrain c).homesLeft c = s.homesLeft c :=
  homesLeft_congr (dropDrain_rplCtrl s c) (by rw [dropDrain_ctx]; rfl)

theorem homesOnly_ctx (s : State) (c : Fin 8) : (s.homesOnly c).ctx c = (s.ctx c).homesOnly (s.homesLeft c) s.phys := by
  obtain ⟨phys, -, -⟩ := dropDrain_step s c
  unfold State.homesOnly
  extract_lets d s1
  rw [show s1.homesLeft c = s.homesLeft c from dropDrain_homesLeft s c, Ctx.homesOnly]
  cases s.homesLeft c
  · exact dropDrain_ctx s c
  · simp only [Bool.not_true, Bool.false_eq_true, if_false, if_true, ctx_modCtx_eq, s1, dropDrain_ctx, phys]
    rfl

theorem homesOnly_rings (s : State) (c : Fin 8) : (s.homesOnly c).rings = s.rings := by
  unfold State.homesOnly
  extract_lets d s1
  split <;> exact (dropDrain_step s c).2.2

theorem homesOnly_homesLeft (s : State) (c : Fin 8) : (s.homesOnly c).homesLeft c = s.homesLeft c := by
  refine homesLeft_congr ?_ ?_
  · unfold State.homesOnly
    extract_lets d s1
    split <;> exact dropDrain_rplCtrl s c
  · rw [homesOnly_ctx, Ctx.homesOnly]
    split <;> rfl

/-! #### Back to the cut (R419) -/

theorem localCopy_worked (x : Ctx) (q : Scroll) (k : Nat) : x.Worked (x.localCopy q k) := by
  unfold Ctx.localCopy
  dsimp only
  split
  · exact x.modPage_worked ..
  · exact rfl

theorem copyAll_worked (x : Ctx) (q : Scroll) : x.Worked (x.copyAll q) :=
  List.foldlRecOn (motive := x.Worked) _ _ (.refl x) fun y h k _ => h.trans (localCopy_worked y q k)

theorem rewrite_worked (x : Ctx) (q : Scroll) : x.Worked (x.rewrite q) := by
  refine List.foldlRecOn (motive := x.Worked) _ _ (.refl x) fun y h k _ => h.trans ?_
  dsimp only
  split
  · exact rfl
  · exact .refl y

theorem freeRemote_worked (x : Ctx) (q : Scroll) (left : Bool) : x.Worked (x.freeRemote q left) := by
  unfold Ctx.freeRemote
  extract_lets free homed x1
  have one (y : Ctx) (e : Nat × Page) : y.Worked (free y e) := by
    simp only [free]
    split
    · exact y.dropFrame_worked ..
    · split
      · exact (y.dropFrame_worked ..).trans (Ctx.modPage_worked ..)
      · exact y.modPage_worked ..
  have unfetched : x.Worked { x with fetches := [] } := rfl
  have freed : x.Worked x1 := List.foldlRecOn (motive := x.Worked) _ _ unfetched fun y h e _ => h.trans (one y e)
  have uncopied (y : Ctx) : y.Worked { y with ckpt := { y.ckpt with homeCopies := [] } } := rfl
  split
  · exact freed
  · exact List.foldlRecOn (motive := x.Worked) _ _ (freed.trans (uncopied x1)) fun y h e _ => h.trans (y.modPage_worked ..)

/-- The pages of the cut put back, and the homes to be rolled back. -/
def Ctx.putBack (x : Ctx) (q : Scroll) (left : Bool) : Ctx :=
  { ((x.copyAll q).rewrite q).freeRemote q left with
    ckpt := { (((x.copyAll q).rewrite q).freeRemote q left).ckpt with rollDue := true } }

theorem putBack_ckpt (x : Ctx) (q : Scroll) (left : Bool) : (x.putBack q left).ckpt = { x.ckpt with
    rollDue := true, snapshot := (x.putBack q left).ckpt.snapshot, homeCopies := (x.putBack q left).ckpt.homeCopies } := by
  have h := (((copyAll_worked x q).trans (rewrite_worked _ q)).trans (freeRemote_worked _ q left)).cutKept.1
  unfold Ctx.putBack
  generalize ((x.copyAll q).rewrite q).freeRemote q left = y at h ⊢
  dsimp only
  rw [h]

/-- A roll-back sent to the homes, or waiting for their acknowledgements. -/
structure RolledBack (c : Fin 8) (s u : State) : Prop where
  rings : u.rings = s.rings
  rollDue : (u.ctx c).ckpt.rollDue = s.homesLeft c
  drain : (u.ctx c).ckpt.drain = if s.homesLeft c then (s.ctx c).ckpt.drain else (s.ctx c).ckpt.drain.filter fun d => !d.onlyHomes
  restore : (u.ctx c).ckpt.restore = (s.ctx c).ckpt.restore
  cut : (u.ctx c).ckpt.cut = (s.ctx c).ckpt.cut

theorem rollStep_rolledBack (due : (s.ctx c).ckpt.rollDue = true) (q : Scroll) : RolledBack c s (s.rollStep c q) := by
  unfold State.rollStep
  extract_lets k
  have due' : k.rollDue = true := due
  rcases left : s.homesLeft c with _ | _
  · rw [if_neg (by rw [due']; decide)]
    have sent : Credited s (s.sendSeals c q true k.cut.number k.cut.time q.homeServers) :=
      .foldl (fun _ _ => enqueue_credited ..) _ _
    generalize s.sendSeals c q true k.cut.number k.cut.time q.homeServers = t at sent ⊢
    have here : t.ctx c = s.ctx c := by rw [sent]; rfl
    constructor
    case rings => rw [sent]; rfl
    case rollDue => rw [ctx_modCtx_eq, left]
    case drain => rw [ctx_modCtx_eq, here, left]; rfl
    case restore => rw [ctx_modCtx_eq, here]
    case cut => rw [ctx_modCtx_eq, here]
  · rw [if_pos (by rw [Bool.or_true])]
    exact ⟨rfl, due.trans left.symm, by rw [left]; rfl, rfl, rfl⟩

theorem backToCut_rolledBack (hd : s.homesLeft c = (s.ctx c).ckpt.drain.isSome) (q : Scroll) : RolledBack c s (s.backToCut c q) := by
  unfold State.backToCut
  extract_lets s1 s2 left s3
  have kept : KeepsCut c s s1 ∧ s1.homesLeft c = s.homesLeft c := by
    simp only [s1]
    split
    next none =>
      have none := Option.isNone_iff_eq_none.mp none
      have unleft : s.homesLeft c = false := by rw [hd, none]; rfl
      have dropped : s.homesOnly c = s.dropDrain c := by
        simp only [State.homesOnly, dropDrain_homesLeft, unleft]
        rfl
      rw [dropped]
      have same : (s.ctx c).undrained = s.ctx c := by rw [Ctx.undrained, ← none]
      exact ⟨.of_ctx (dropDrain_step s c).2.2 (by rw [dropDrain_ctx, same]), dropDrain_homesLeft s c⟩
    next => exact ⟨.refl c s, rfl⟩
  have out : OutOnly s1 s2 := OutOnly.foldl (fun _ _ => backInvalidate_outOnly ..) _ _
  have put : s3 = s2.modCtx c (·.putBack q left) := rfl
  have outside : s2.rings = s1.rings ∧ s2.ctx c = s1.ctx c ∧ ∀ o, s2.reg o = s1.reg o := ⟨by rw [out], out.ctx c, out.reg⟩
  clear_value s1 s2 left s3
  obtain ⟨rings2, ctx2, regs2⟩ := outside
  have rings : s3.rings = s.rings := by rw [put, ← kept.1.rings, ← rings2]; rfl
  have regs : s3.reg Reg.rplCtrl = s1.reg Reg.rplCtrl := by rw [put, ← regs2]; rfl
  have here : (s3.ctx c).ckpt = { (s.ctx c).ckpt with
      rollDue := true, snapshot := (s3.ctx c).ckpt.snapshot, homeCopies := (s3.ctx c).ckpt.homeCopies } := by
    have back : s3.ctx c = (s1.ctx c).putBack q left := by rw [put, ctx_modCtx_eq, ctx2]
    have ckpt := putBack_ckpt (s1.ctx c) q left
    rw [← back, kept.1.ctx.1] at ckpt
    exact ckpt
  have left3 : s3.homesLeft c = s.homesLeft c := by
    rw [← kept.2]
    exact homesLeft_congr regs (by rw [here, kept.1.ctx.1])
  have rolled := rollStep_rolledBack (s := s3) (c := c) (by rw [here]) q
  generalize s3.rollStep c q = u at rolled ⊢
  constructor
  case rings => rw [rolled.rings, rings]
  case rollDue => rw [rolled.rollDue, left3]
  case drain => rw [rolled.drain, left3, here]
  case restore => rw [rolled.restore, here]
  case cut => rw [rolled.cut, here]

/-! #### The command (R420) -/

/-- What the engine keeps of a RESTORE to the in-memory cut. -/
def Scroll.memoryRestore (q : Scroll) (digest : List Byte) : Restore :=
  { source := 0, digest := digest, wrote := true, rollbacks := q.homeServers }

/-- The context in a RESTORE to its in-memory cut. -/
def Ctx.restoringMemory (x : Ctx) (q : Scroll) (digest : List Byte) : Ctx :=
  { x with ckpt := { x.ckpt with restore := some (q.memoryRestore digest) } }

theorem memoryRestore_rollbacks (q : Scroll) (digest : List Byte) : (q.memoryRestore digest).rollbacks = q.homeServers := by
  rw [Scroll.memoryRestore]

theorem restoreStart_memory {digest : List Byte} (ck : (q.sec? 0x10).isSome = true) (taken : (s.ctx c).ckpt.cut.number ≠ 0)
    (zero : digest = List.replicate 64 0) :
    s.restoreStart c q 0 digest = (((s.homesOnly c).modCtx c (·.restoringMemory q digest)).backToCut c q).restoreEnd c q := by
  have whole : slice digest 0 64 = digest := by rw [zero]; rfl
  have zeros : digest.all (· == 0) = true := by rw [zero]; rfl
  have kept : ¬(!(q.sec? 0x10).isSome || (s.ctx c).ckpt.cut.number == 0) = true := by simp [ck, taken]
  simp only [State.restoreStart, whole, zeros, kept, if_true, if_false, Bool.not_true, Bool.false_and, Bool.false_eq_true]
  rfl

/-- A RESTORE that ends: the record of the cut is applied. -/
structure RestoreEnded (c : Fin 8) (s u : State) : Prop where
  rings : u.rings = s.rings
  drain : (u.ctx c).ckpt.drain = (s.ctx c).ckpt.drain
  rollDue : (u.ctx c).ckpt.rollDue = (s.ctx c).ckpt.rollDue
  restore : (u.ctx c).ckpt.restore = none
  stepNo : (u.ctx c).stepNo = (s.ctx c).ckpt.cut.step
  armed : (u.ctx c).armed = (s.ctx c).ckpt.cut.armed
  series : (u.ctx c).series = (s.ctx c).ckpt.cut.series
  needRestore : (u.ctx c).needRestore = false
  faultHold : (u.ctx c).faultHold = false

/-- The context whose RESTORE to its in-memory cut ends, before the cut's record is applied. -/
def Ctx.memoryRestored (x : Ctx) : Ctx := { x with
  faultHold := false
  ckpt := { x.ckpt with restore := none, phase := if x.ckpt.phase = 2 then 0 else x.ckpt.phase } }

theorem returnedTo_ended {k : CutRecord} (rings : t.rings = s.rings) (kept : (s.ctx c).memoryRestored.CutKept (t.ctx c))
    (hk : k = (s.ctx c).ckpt.cut) : RestoreEnded c s (t.modCtx c (·.returnedTo k)) := by
  obtain ⟨ckpt, fault⟩ := kept
  have here : (t.modCtx c (·.returnedTo k)).ctx c = (t.ctx c).returnedTo k := ctx_modCtx_eq ..
  have same : (t.modCtx c (·.returnedTo k)).rings = s.rings := rings
  generalize t.modCtx c (·.returnedTo k) = u at here same
  constructor
  case rings => exact same
  case drain => rw [here, Ctx.returnedTo, ckpt]; rfl
  case rollDue => rw [here, Ctx.returnedTo, ckpt]; rfl
  case restore => rw [here, Ctx.returnedTo, ckpt]; rfl
  case faultHold => rw [here, Ctx.returnedTo]; exact fault
  case needRestore => rw [here, Ctx.returnedTo]
  case stepNo => rw [here, Ctx.returnedTo, hk]
  case armed => rw [here, Ctx.returnedTo, hk]
  case series => rw [here, Ctx.returnedTo, hk]

theorem restoreEnd_ends {digest : List Byte} (ck : (q.sec? 0x10).isSome = true) (taken : (s.ctx c).ckpt.cut.number ≠ 0)
    (hr : (s.ctx c).ckpt.restore = some (q.memoryRestore digest)) (alone : q.homeServers = []) :
    ∃ t, RestoreEnded c s t ∧ s.restoreEnd c q = t.finishOp c 0x17 Status.ok := by
  have answered : (q.memoryRestore digest).rollbacks = [] := by rw [memoryRestore_rollbacks, alone]
  have source : (q.memoryRestore digest).source = 0 := rfl
  have wrote : (q.memoryRestore digest).wrote = true := rfl
  have here : ¬((q.sec? 0x10).isNone = true ∨ (s.ctx c).ckpt.cut.number = 0) := by
    rw [← Option.not_isSome, ck]
    simpa using taken
  have ended : s.restoreEnd c q =
      ((s.modCtx c Ctx.memoryRestored).applyRecord c q (s.ctx c).ckpt.cut false).finishOp c 0x17 Status.ok := by
    generalize q.memoryRestore digest = r at hr answered source wrote
    simp only [State.restoreEnd, hr, answered, source, wrote, here, List.isEmpty_nil, Bool.not_true, Bool.or_self, Bool.false_eq_true,
      if_false, if_true, and_false]
    rfl
  obtain ⟨t, kept, applied⟩ := applyRecord_cut taken (s.modCtx c Ctx.memoryRestored) c q false
  rw [applied] at ended
  have ctx := kept.ctx
  rw [ctx_modCtx_eq] at ctx
  exact ⟨_, returnedTo_ended kept.rings ctx rfl, ended⟩

theorem restoreEnd_waits {r : Restore} (hr : (s.ctx c).ckpt.restore = some r) (asked : r.rollbacks ≠ []) : s.restoreEnd c q = s := by
  have waits : (!r.wrote || !r.rollbacks.isEmpty) = true := by simp [asked]
  simp only [State.restoreEnd, hr, waits, if_true]

/-- What a RESTORE to the in-memory cut leaves before its end, the homes' answers. -/
structure MemoryRestoring (c : Fin 8) (q : Scroll) (digest : List Byte) (s u : State) : Prop where
  rings : u.rings = s.rings
  rollDue : (u.ctx c).ckpt.rollDue = s.homesLeft c
  drain : (u.ctx c).ckpt.drain = if s.homesLeft c then
    some { (s.ctx c).ckpt.drain.getD {} with onlyHomes := true, progressAt := s.phys } else none
  restore : (u.ctx c).ckpt.restore = some (q.memoryRestore digest)
  cut : (u.ctx c).ckpt.cut = (s.ctx c).ckpt.cut

theorem memoryRestoring (s : State) (c : Fin 8) (q : Scroll) (digest : List Byte) : MemoryRestoring c q digest s
    (((s.homesOnly c).modCtx c (·.restoringMemory q digest)).backToCut c q) := by
  obtain ⟨t, ht⟩ : ∃ t, t = (s.homesOnly c).modCtx c (·.restoringMemory q digest) := ⟨_, rfl⟩
  have here : t.ctx c = ((s.ctx c).homesOnly (s.homesLeft c) s.phys).restoringMemory q digest := by
    rw [ht, ctx_modCtx_eq, homesOnly_ctx]
  have rings : t.rings = s.rings := by rw [ht, ← homesOnly_rings s c]; rfl
  have left : t.homesLeft c = s.homesLeft c := by
    rw [← homesOnly_homesLeft s c]
    exact homesLeft_congr (by rw [ht]; rfl) (by rw [ht, ctx_modCtx_eq]; rfl)
  have drain : (t.ctx c).ckpt.drain = if s.homesLeft c then
      some { (s.ctx c).ckpt.drain.getD {} with onlyHomes := true, progressAt := s.phys } else none := by
    rw [here, Ctx.restoringMemory, Ctx.homesOnly]
    split <;> rfl
  have cut : (t.ctx c).ckpt.cut = (s.ctx c).ckpt.cut := by
    rw [here, Ctx.restoringMemory, Ctx.homesOnly]
    split <;> rfl
  have back := backToCut_rolledBack (s := t) (c := c) (by rw [left, drain]; split <;> simp [*]) q
  rw [← ht]
  generalize t.backToCut c q = u at back
  constructor
  case rings => rw [back.rings, rings]
  case rollDue => rw [back.rollDue, left]
  case drain => rw [back.drain, left, drain]; split <;> rfl
  case restore => rw [back.restore, here]; rfl
  case cut => rw [back.cut, cut]

section
variable {e : RawEntry} {i : Instr} {ok : Bool} {digest : List Byte}
  (hop : e.opcode = 0x17) (loaded : (s.ctx c).state = .loaded) (hq : s.scroll? c = some q) (hsrc : e.par 0 1 = 0)
  (hd : e.parBytes 8 64 = digest) (ck : (q.sec? 0x10).isSome = true) (taken : (s.ctx c).ckpt.cut.number ≠ 0)
  (zero : digest = List.replicate 64 0)
include hop loaded hq hsrc hd ck taken zero

theorem memory_starts : ∃ t, MemoryRestoring c q digest (s.began (ringOf c) e) t ∧
    (s.began (ringOf c) e).dispatchCtx c (s.startedCmd (ringOf c) e) = t.restoreEnd c q :=
  ⟨_, memoryRestoring (s.began (ringOf c) e) c q digest,
    (restore_starts (s := s.began (ringOf c) e) (k := s.startedCmd (ringOf c) e) (source := 0) hop loaded hq hsrc hd
      fun h => absurd h (by decide)).trans (restoreStart_memory (s := s.began (ringOf c) e) ck taken zero)⟩

variable (hx : exec i s = actIf ok (fun s => (s.consume (ringOf c) e).serve) s) (hok : ok = true) (ht : Taken s (ringOf c) e)
include hx hok ht

/-- Of a context that no home serves the RESTORE ends at once. -/
theorem memory_ends (alone : q.homeServers = []) : ∃ t u, MemoryRestoring c q digest (s.began (ringOf c) e) t ∧ RestoreEnded c t u ∧
    Completes s i (· = u.finish (ringOf c) (s.startedCmd (ringOf c) e) Status.ok) := by
  obtain ⟨t, restoring, starts⟩ := memory_starts hop loaded hq hsrc hd ck taken zero
  obtain ⟨u, ended, completes⟩ := restoreEnd_ends ck (by rw [restoring.cut]; exact taken) restoring.restore alone
  have rings : u.rings = (s.began (ringOf c) e).rings := ended.rings.trans restoring.rings
  rw [completes, finishOp_began ht rings hop] at starts
  exact ⟨t, u, restoring, ended, ctxCommand_completes hx hok ht (by rw [hop]; rfl) starts
    (((began_allBegun ht).of_rings rings).finish _ _ _ _) rfl⟩

/-- The homes of a context must answer first. -/
theorem memory_waits (served : q.homeServers ≠ []) : ∃ t, MemoryRestoring c q digest (s.began (ringOf c) e) t ∧
    Completes s i (· = t) := by
  obtain ⟨t, restoring, starts⟩ := memory_starts hop loaded hq hsrc hd ck taken zero
  have asked : (q.memoryRestore digest).rollbacks ≠ [] := by rwa [memoryRestore_rollbacks]
  rw [restoreEnd_waits restoring.restore asked] at starts
  exact ⟨t, restoring, ctxCommand_begins hx hok ht (by rw [hop]; rfl) starts restoring.rings⟩

/-- What a RESTORE to the in-memory cut leaves. -/
theorem memory_restores : Completes s i fun u =>
    (s.homesLeft c = false → (u.ctx c).ckpt.drain = none ∧ (u.ctx c).ckpt.rollDue = false) ∧
    (s.homesLeft c = true → (u.ctx c).ckpt.rollDue = true ∧
      (u.ctx c).ckpt.drain = some { (s.ctx c).ckpt.drain.getD {} with onlyHomes := true, progressAt := s.phys }) ∧
    (q.homeServers = [] → (u.ctx c).ckpt.restore = none ∧ (u.ctx c).stepNo = (s.ctx c).ckpt.cut.step ∧
      (u.ctx c).armed = (s.ctx c).ckpt.cut.armed ∧ (u.ctx c).series = (s.ctx c).ckpt.cut.series ∧ (u.ctx c).needRestore = false ∧
      (u.ctx c).faultHold = false ∧ (u.rings[ringOf c]).cmds = (s.rings[ringOf c]).cmds ∧
      (u.rings[ringOf c]).completions = (s.rings[ringOf c]).completions + 1) ∧
    (q.homeServers ≠ [] → (u.rings[ringOf c]).cmds = (s.rings[ringOf c]).cmds ++ [s.startedCmd (ringOf c) e] ∧
      (u.ctx c).ckpt.restore = some (q.memoryRestore digest)) := by
  have homes {u t : State} (restoring : MemoryRestoring c q digest (s.began (ringOf c) e) t)
      (drain : (u.ctx c).ckpt.drain = (t.ctx c).ckpt.drain) (rollDue : (u.ctx c).ckpt.rollDue = (t.ctx c).ckpt.rollDue) :
      (s.homesLeft c = false → (u.ctx c).ckpt.drain = none ∧ (u.ctx c).ckpt.rollDue = false) ∧
      (s.homesLeft c = true → (u.ctx c).ckpt.rollDue = true ∧
        (u.ctx c).ckpt.drain = some { (s.ctx c).ckpt.drain.getD {} with onlyHomes := true, progressAt := s.phys }) := by
    have same : (s.began (ringOf c) e).homesLeft c = s.homesLeft c := rfl
    have left := restoring.drain
    have due := restoring.rollDue
    rw [same] at left due
    rw [drain, rollDue, due, left]
    exact ⟨fun no => by rw [no]; exact ⟨rfl, rfl⟩, fun yes => by rw [yes]; exact ⟨rfl, rfl⟩⟩
  rcases eq_or_ne q.homeServers [] with alone | served
  · obtain ⟨t, v, restoring, ended, t', u, next, settled, rfl⟩ := memory_ends hop loaded hq hsrc hd ck taken zero hx hok ht alone
    obtain ⟨cmds, completions⟩ := finish_began_ring ht (ended.rings.trans restoring.rings) Status.ok 0
    refine ⟨_, u, next, settled, ?_⟩
    beta_reduce
    rw [(finish_recorded ..).ctx]
    obtain ⟨no, yes⟩ := homes restoring ended.drain ended.rollDue
    refine ⟨no, yes, fun _ => ⟨ended.restore, ?_, ?_, ?_, ended.needRestore, ended.faultHold, cmds, completions⟩, fun h => absurd alone h⟩
    · rw [ended.stepNo, restoring.cut]; rfl
    · rw [ended.armed, restoring.cut]; rfl
    · rw [ended.series, restoring.cut]; rfl
  · obtain ⟨t, restoring, t', u, next, settled, rfl⟩ := memory_waits hop loaded hq hsrc hd ck taken zero hx hok ht served
    obtain ⟨no, yes⟩ := homes restoring rfl rfl
    refine ⟨_, u, next, settled, no, yes, fun h => absurd h served, fun _ => ⟨?_, restoring.restore⟩⟩
    rw [restoring.rings, began_rings]

end

end Sys2Proof.Machine

namespace Sys2Proof.Machine

/-- Settles O40: each command by the rules of its own section above, given what its entry's parameters read back as. -/
theorem reloadCommands : Obligations.ReloadCommands := by
  intro s c h q digest hw hd r x ends begins has open_
  refine ⟨fun slot length => ?_, ?_, ?_, ?_, ?_, fun r addr length host => ?_⟩
  · intro e w q' fails
    obtain ⟨hslot, hlen⟩ := loadScroll_pars h slot length
    have hop : e.opcode = 0x10 := entry_opcode ..
    have row : exec (.loadScroll r h slot length) s = actIf h.wf (fun s => (s.consume r e).serve) s := by
      rw [exec, execLoadScroll]
      rfl
    exact ⟨fun free ht => loadScroll_refused row hw ht hop free, fun ready =>
      ⟨fun bad ht => loadScroll_badSlot row hw ht hop ready hslot bad,
      fun h1 h2 => ⟨fun f hf ht => loadScroll_fails row hw ht hop ready hslot hlen h1 h2 hf,
        fun none ht => loadScroll_begins row hw ht hop ready hslot hlen h1 h2 none⟩⟩⟩
  · intro version e sw opened hq
    obtain ⟨hv, hdigest⟩ := switchVersion_pars h version hd
    have hop : e.opcode = 0x15 := entry_opcode ..
    have hok : (Instr.switchVersion r h version digest).wf = true := by
      change (h.wf && digest.length == 64) = true
      rw [hw, hd]
      rfl
    have row : exec (.switchVersion r h version digest) s =
        actIf (Instr.wf (.switchVersion r h version digest)) (fun s => (s.consume r e).serve) s := by
      rw [exec, execSwitchVersion]
      rfl
    have named {P : Ctx → Prop} {t : State} (switched : (s.began r e).switchTo c q version digest = (true, t))
        (weights : (q.sec? 0xD).isSome = true) (mem : (t.ctx c).mem = x.mem) (hp : P (t.ctx c)) : sw P := fun ht =>
      switch_named (P := P) row hok ht hop opened hq weights hv hdigest switched mem hp
    clear_value sw
    refine ⟨fun none ht => switch_refused row hok ht hop opened hq none, fun weights => ⟨fun b hb =>
      ⟨fun bad ht => switch_bad row hok ht hop opened hq weights hv hdigest hb bad, fun good => ?_⟩,
      fun absent => ⟨fun full => ?_, fun free => ?_⟩⟩⟩
    · refine named (switchTo_held (s := s.began r e) hb good) weights ?_ ?_
      · rw [ctx_modCtx_eq]; exact switched_mem ..
      · rw [ctx_modCtx_eq]
        exact ⟨rfl, rfl, rfl, fun w b' hp ne hb' hc hr => switched_replaced hp ne hb' hc hr⟩
    · obtain ⟨kept, none⟩ := switched_full (v := version) full digest
      refine named (switchTo_waits (s := s.began r e) absent none) weights ?_ ?_
      · rw [ctx_modCtx_eq]; exact switched_mem ..
      · rw [ctx_modCtx_eq, began_ctx, kept]
        exact ⟨rfl, rfl, rfl, rfl, abandonTarget_current ..⟩
    · obtain ⟨b, found, unpinned⟩ := switched_free (v := version) free digest
      have left : ((s.began r e).modCtx c (·.switched version (some version) digest true)).ctx c =
        x.switched version (some version) digest true := ctx_modCtx_eq ..
      have building := startBuild_building ((s.began r e).modCtx c (·.switched version (some version) digest true)) c q b version digest
      rw [left] at building
      refine named (switchTo_builds (s := s.began r e) absent hq found) weights ?_ ?_
      · exact building.mem.trans (switched_mem ..)
      · exact ⟨building.pending, building.built, b, unpinned, building.state, building.version, building.digest⟩
  · intro time e opened hq
    have hp : e.par 0 8 = time.toNat := capo_par h time
    have hop : e.opcode = 0x16 := entry_opcode ..
    have row : exec (.capo r h time) s = actIf h.wf (fun s => (s.consume r e).serve) s := by
      rw [exec, execCapo]
      rfl
    exact ⟨fun none ht => capo_refused ht hop opened hq row hw none, fun ck =>
      ⟨fun early ht => capo_waits ht hop opened hq row hw ck hp early,
        fun late running inStep ht => capo_due ht hop opened hq row hw ck hp late running inStep,
        fun late loaded unload unrestored unheld cool unrolled ht =>
          capo_leaves ht hop opened hq row hw ck hp late loaded unload unrestored unheld cool unrolled⟩⟩
  · intro e loaded hq ck taken zero ht
    obtain ⟨hsrc, hdigest⟩ := restore_pars h 0 (leBytes_length 7 0) hd
    have hop : e.opcode = 0x17 := entry_opcode ..
    have hok : (Instr.restoreMemory r h digest).wf = true := by
      change (h.wf && digest.length == 64) = true
      rw [hw, hd]
      rfl
    have row : exec (.restoreMemory r h digest) s =
        actIf (Instr.wf (.restoreMemory r h digest)) (fun s => (s.consume r e).serve) s := by
      rw [exec, execRestoreMemory]
      rfl
    exact memory_restores hop loaded hq hsrc hdigest ck taken zero row hok ht
  · intro slot asks b d loaded hq
    obtain ⟨bsrc, bdigest⟩ := restore_pars h 1 (leBytes_length 7 0) hd
    obtain ⟨dsrc, ddigest⟩ := restore_pars h 2 (rest := [slot] ++ leBytes 6 0) (by simp) hd
    have dslot : d.par 1 1 = slot.toNat := entry_parByte h 0x17 [] [2] (leBytes 6 0 ++ digest) slot (by simp [hd])
    have wf (i : Instr) (hi : i.wf = (h.wf && digest.length == 64)) : i.wf = true := by rw [hi, hw, hd]; rfl
    have brow : exec (.restoreBuddy r h digest) s =
        actIf (Instr.wf (.restoreBuddy r h digest)) (fun s => (s.consume r b).serve) s := by
      rw [exec, execRestoreBuddy]
      rfl
    have drow : exec (.restoreDurable r h slot digest) s =
        actIf (Instr.wf (.restoreDurable r h slot digest)) (fun s => (s.consume r d).serve) s := by
      rw [exec, execRestoreDurable]
      rfl
    have bop : b.opcode = 0x17 := entry_opcode ..
    have dop : d.opcode = 0x17 := entry_opcode ..
    have bok : (Instr.restoreBuddy r h digest).wf = true := wf _ rfl
    have dok : (Instr.restoreDurable r h slot digest).wf = true := wf _ rfl
    refine ⟨fun none => ⟨fun ht => ?_, fun small ht => ?_⟩, fun big ht => ?_, fun ck => ⟨fun reach ht => ?_, fun small ht => ?_⟩⟩
    · exact restore_refuses (source := 1) brow bok ht bop loaded hq bsrc bdigest (by decide) (fun h => absurd h (by decide)) none
    · exact restore_refuses (source := 2) drow dok ht dop loaded hq dsrc ddigest (by decide) (fun _ => by rw [dslot]; exact small) none
    · exact restore_refusesSlot (source := 2) drow dok ht dop loaded hq dsrc rfl (by rw [dslot]; exact big)
    · have asked := restore_asks (source := 1) brow bok ht bop loaded hq bsrc bdigest (by decide) (fun h => absurd h (by decide)) hd ck
        (fun _ => reach)
      have near : q.restoreFrom 1 = q.buddy := if_pos rfl
      rw [State.asksManifest, near] at asked
      exact asked
    · have asked := restore_asks (source := 2) drow dok ht dop loaded hq dsrc ddigest (by decide) (fun _ => by rw [dslot]; exact small)
        hd ck (fun h => absurd h (by decide))
      have far : q.restoreFrom 2 = q.dserver := if_neg (by decide)
      rw [State.asksManifest, far] at asked
      exact asked
  · intro e blob ht
    have hop : e.opcode = 0x1A := entry_opcode ..
    have hb : slice e.host 0 (e.par 8 4) = blob := by rw [keyChange_par, entry_host]
    have row : exec (.keyChange r h addr length host) s = actIf h.wf (fun s => (s.consume r e).serve) s := by
      rw [exec, execKeyChange]
      rfl
    exact ⟨keyChange_fails row hw ht hop hb, keyChange_waits row hw ht hop hb⟩

end Sys2Proof.Machine
